-- ==== Sys2Proof/Word.lean ====
section
/-! DEFINITION. The word types and the plainest arithmetic over them (R6 of spec/00, R67 of spec/04). -/

namespace Sys2Proof

/-- An S-stream register value, 64 bits (R8). -/
abbrev Word := BitVec 64
/-- One lane's 32-bit register value (R8). -/
abbrev Half := BitVec 32
/-- A byte of memory. -/
abbrev Byte := BitVec 8
/-- A mask with one bit per lane (R8). -/
abbrev Mask := BitVec 32
/-- The number of an `s` register. -/
abbrev SReg := BitVec 6
/-- The number of a `p` register. -/
abbrev PReg := BitVec 3

end Sys2Proof
end

