-- ==== Sys2Proof/Config.lean ====
section
/-! DEFINITION. What an implementation fixes and the spec leaves open: constants without a body, so that nothing can be
proved about their values (assumption log 3, 7, 8, 9, 10, 15, 16, 17, 28, 29, 39, 81, 82, 83, 84), and the capacities of the memories (R240, R244). -/

namespace Sys2Proof

/-- The n-th free choice between two allowed outcomes, such as the old or the new value of R112 (log 3). -/
opaque Config.freeBool : Nat → Bool

/-- The n-th free choice among several outcomes, such as the part of a copy that moves next (R164, log 29). -/
opaque Config.freeNat : Nat → Nat

/-- Which of several contents of a code word the n-th fetch brings (R10, log 28). -/
opaque Config.freeFetch : Nat → Nat

/-- The n-th draw of a die's random bit generator (R107, log 7). -/
opaque Config.drbg : Nat → Word

/-- The n-th free 32-bit value: elements of a tile whose word met an uncorrectable operand (R203, log 9). -/
opaque Config.freeHalf : Nat → Half

/-- A byte of a frame's ciphertext, by era and address (R314, R325, log 9). -/
opaque Config.staleByte : Nat → Nat → Byte

/-- How many bytes of the save area the n-th eviction writes (R270, log 39). -/
opaque Config.saveSize : Nat → Nat

/-- What the hardware gives for an approximated `.f32` function of an input's bits (R117, log 8): `rsqrt` 0, `ex2` 1,
`lg2` 2, `sin` 3, `cos` 4, `tanh` 5. The model uses it only where it lies within the stated bound. -/
opaque Config.approx : Nat → BitVec 32 → BitVec 32

/-- The key pair that a wrapped key unwraps to under the package key-wrapping key; none where the integrity check of the unwrap fails
(RFC 3394, R314, log 83). -/
opaque Config.keyUnwrap : Nat → Option Nat

/-- The size field of a page's n-th compressed image (R312, R313, log 15). -/
opaque Config.imageSize : Nat → BitVec 4

/-- Whether an ECC granule of the image at a place holds part of one of its four blocks (R313, R319, log 15). -/
opaque Config.imageBlock : Nat → Nat → Nat → Bool

/-- The set of the host-line directory in which a tenant's line lies: 64 Mi entries in 16 ways (R317, log 82). -/
opaque Config.dirSet : Nat → Nat → BitVec 22

/-- How many blocks of 1 MiB beyond the first the device state of a context takes in a checkpoint (R337, log 84). -/
opaque Config.stateBlocks : Nat → Nat

/-- The channel of a stack in which each 4 KiB of it lies, so that a row within one lies in one channel (R240, log 16). -/
opaque Config.channelOf : Nat → BitVec 5

/-- The bank of its channel in which a granule of a stack lies (R242, log 16). -/
opaque Config.bankOf : Nat → BitVec 10

/-- The number by which collective groups name this device (R175, R176, log 17). -/
opaque Config.deviceId : Nat

/-- The set of a die mirror in which a line lies: 4,096 sets of 16 ways (R237, log 81). -/
opaque Config.mirrorSet : Nat → BitVec 12

/-- Whether `tlpc` and `tpath` describe path slot 1 at a trap of the S-stream while both slots are live (R19, R277, log 10). -/
opaque Config.sTrapSlot : Bool

/-- Bytes of one HBM4 stack (R240): 64 GB. -/
def Config.stackBytes : Nat := 64000000000

/-- Bytes of the far tier on the module (R244): 1,536 GB. -/
def Config.farBytes : Nat := 1536000000000

/-- Bytes of a core slice (R25, R234): 3 MiB. -/
def Config.sliceBytes : Nat := 0x300000

end Sys2Proof
end

