-- ==== Sys2Proof/Machine/SMap.lean ====
section
/-! DEFINITION. Sparse maps from numbers to values as lists of pairs in one canonical form: keys strictly rising and
no entry equal to the default. Memory, register files and every table of the machine use them. -/

namespace Sys2Proof.Machine

/-- A sparse map: pairs of a key and a value. -/
abbrev SMap (α : Type) := List (Nat × α)

/-- The value listed at `k`, if any. -/
def SMap.look {α : Type} (m : SMap α) (k : Nat) : Option α :=
  match m with
  | [] => none
  | (j, v) :: t => if j = k then some v else SMap.look t k

/-- The value at `k`, where an unlisted key holds `d`. -/
def SMap.get {α : Type} (d : α) (m : SMap α) (k : Nat) : α := (SMap.look m k).getD d

/-- `m` without key `k`. -/
def SMap.del {α : Type} (m : SMap α) (k : Nat) : SMap α :=
  match m with
  | [] => []
  | (j, v) :: t => if j = k then SMap.del t k else (j, v) :: SMap.del t k

/-- `m` with `(k, v)` put before the first larger key. -/
def SMap.ins {α : Type} (m : SMap α) (k : Nat) (v : α) : SMap α :=
  match m with
  | [] => [(k, v)]
  | (j, w) :: t => if k < j then (k, v) :: (j, w) :: t else (j, w) :: SMap.ins t k v

/-- `m` with key `k` listed as `v`. -/
def SMap.put {α : Type} (m : SMap α) (k : Nat) (v : α) : SMap α := SMap.ins (SMap.del m k) k v

/-- `m` with `v` at `k`, where an unlisted key holds `d`. -/
def SMap.set {α : Type} [DecidableEq α] (d : α) (m : SMap α) (k : Nat) (v : α) : SMap α :=
  if v = d then SMap.del m k else SMap.put m k v

/-- Every key of `m` is above `b` and the keys rise strictly. -/
def SMap.rising {α : Type} (b : Option Nat) (m : SMap α) : Bool :=
  match m with
  | [] => true
  | (k, _) :: t => (match b with | none => true | some j => decide (j < k)) && SMap.rising (some k) t

/-- The canonical form: keys rise and no entry holds the default. -/
def SMap.wf {α : Type} [DecidableEq α] (d : α) (m : SMap α) : Bool :=
  SMap.rising none m && m.all (fun e => decide (e.2 ≠ d))

/-- `m` with the value at a listed key changed. -/
def SMap.upd {α : Type} (m : SMap α) (k : Nat) (f : α → α) : SMap α :=
  match m with
  | [] => []
  | (j, v) :: t => if j = k then (j, f v) :: t else (j, v) :: SMap.upd t k f

/-- A set of numbers kept as a strictly rising list: `l` with `k` added. -/
def setAdd (l : List Nat) (k : Nat) : List Nat :=
  match l with
  | [] => [k]
  | j :: t => if k < j then k :: j :: t else if k = j then j :: t else j :: setAdd t k

/-- A set of numbers kept as a rising list: `l` without `k`. -/
def setDel (l : List Nat) (k : Nat) : List Nat := l.filter (fun j => decide (j ≠ k))

end Sys2Proof.Machine
end

