-- ==== Sys2Proof/Syntax.lean ====
section
/-! DEFINITION. The instructions: every S word (R50 to R56), every L word (R57 to R63) and every event and command
of the opcode table, one constructor per row. An event's arguments name the object it is about (assumption log 2). -/

namespace Sys2Proof

/-- Conditions of `cmp` on the S-stream (R51). -/
inductive SCond where
  | eq | ne | slt | sge | ult | uge | tst | tnz
  deriving DecidableEq, Repr

/-- Types of an SM access (R51). -/
inductive MTy where
  | u8 | s8 | u16 | s16 | u32 | s32 | b64
  deriving DecidableEq, Repr

/-- Memory orders (R51, R142). -/
inductive Order where
  | rlx | acq | rel | acqrel
  deriving DecidableEq, Repr

/-- Scopes (R51, R141). -/
inductive Scope where
  | wg | cl | die | dev | sys
  deriving DecidableEq, Repr

/-- Atomic operations (R51, R146). -/
inductive AtomOp where
  | add | smin | umin | smax | umax | and | or | xor | exch | cas | fadd
  deriving DecidableEq, Repr

/-- Directions of a copy (R161). -/
inductive CopyDir where
  | d2g | g2d | g2g | d2d | d2p | p2d
  deriving DecidableEq, Repr

/-- An operand of `mma`: a tile half, or an SRAM operand named by an even register (R186). -/
inductive MOp where
  | tile (t : BitVec 2) (h : Bool)
  | sram (r : SReg)
  deriving DecidableEq, Repr

/-- Types of an L word (R60). -/
inductive LTy where
  | none | u8 | s8 | u16 | s16 | u32 | s32 | u64 | s64 | f16 | bf16 | f32 | f64 | f16x2 | bf16x2
  | e4m3 | e5m2 | e2m1 | e8m0 | mk8 | b32 | b64 | u16x2 | s16x2 | u8x4 | s8x4 | b128
  deriving DecidableEq, Repr

/-- Operand and destination selectors of an L word (R58). -/
inductive Sel where
  | v (n : BitVec 7)
  | k (n : BitVec 2)
  | q (n : BitVec 3)
  | em
  | flm
  | laneid
  | imm
  | mb (n : BitVec 2)
  | small (n : BitVec 6)
  deriving DecidableEq, Repr

/-- Rounding field of an L word (R74). -/
inductive Rnd where
  | dyn | rne | rtz | rup | rdn | rna
  deriving DecidableEq, Repr

/-- The guard of an L word: negate bit and `q` register (R57). -/
structure Guard where
  neg : Bool
  q : BitVec 3
  deriving DecidableEq, Repr

/-- The fields of an LA word (R57). `md` is the modifier. -/
structure LA where
  m : Bool
  g : Guard
  dst : Sel
  a : Sel
  b : Sel
  c : Sel
  rnd : Rnd
  sat : Bool
  ty : LTy
  md : BitVec 7
  imm : BitVec 32
  deriving DecidableEq, Repr

/-- The fields of an LM word (R57). `fn` is the function field, `ef` the store mode and `rb` the broadcast bit. -/
structure LM where
  m : Bool
  g : Guard
  dst : Sel
  a : Sel
  b : Sel
  c : Sel
  ty : LTy
  ord : Order
  sc : Scope
  ef : Bool
  rb : Bool
  fn : BitVec 8
  off : BitVec 24
  deriving DecidableEq, Repr

/-- The fields of an LC word (R57). -/
structure LC where
  m : Bool
  g : Guard
  off : BitVec 24
  deriving DecidableEq, Repr

/-- A hardware place that runs a stream: core 0 to 1023 and slot 0 to 31 for a warp; slot 32 of the first core of a
cluster is the cluster's lockmaster (log entry 1). -/
structure UnitId where
  core : Nat
  slot : Nat
  deriving DecidableEq, Repr

/-- Which stream of a unit: the S-stream or one of the two path slots (R14). -/
inductive Strm where
  | s | l0 | l1
  deriving DecidableEq, Repr

/-- Who issued a management command (R329): the owner, or one tenant. -/
inductive Issuer where
  | owner
  | tenant (t : Nat)
  deriving DecidableEq, Repr

/-- Where a packet waits: a hardware queue, or a context's child queue of one class (R253). -/
inductive QSrc where
  | hw (q : Nat)
  | child (ctx cls : Nat)
  deriving DecidableEq, Repr

/-- Where an uncorrectable error of a storage array lies (R336): a home sector, a die's mirror sector, an HBM4 burst or a
far-tier burst; a byte of an operand tile half or of scale memory, or an accumulator element, of a cluster; a unit's assay
buffer; a line of a tenant that a directory entry covers, or a page of one that a map-cache entry covers. -/
inductive ErrAt where
  | home (sector : Nat)
  | mirror (die sector : Nat)
  | hbm (granule : Nat)
  | far (granule : Nat)
  | tile (cl byte : Nat)
  | scale (cl byte : Nat)
  | acc (cl elem : Nat)
  | assay (u : UnitId)
  | line (t line : Nat)
  | mapEntry (t page : Nat)
  deriving DecidableEq, Repr

/-- A register named by REPLICA_FLIP (R361). -/
inductive FlipReg where
  | s (r : Nat)
  | v (r lane : Nat)
  | p (r : Nat)
  | q (r : Nat)
  deriving DecidableEq, Repr

/-- The path kinds between two dies (R236). -/
inductive PathKind where
  | direct | fed | ringUp | ringDown
  deriving DecidableEq, Repr

/-- The sources of `tclk` (R327). -/
inductive TimeSource where
  | fabric (port : Nat)
  | ptm (port : Nat)
  deriving DecidableEq, Repr

/-- The safe tier of a checkpoint (R337). -/
inductive SafeTier where
  | fabric (dev : Nat)
  | cxl (port : Nat)
  deriving DecidableEq, Repr

/-- The life-cycle states of R345. -/
inductive LifeState where
  | manufacturing | provisioned | deployed | returned
  deriving DecidableEq, Repr

/-- The input of command 0xC013 that creates a queue (R253). `tenant` none binds to no tenant; `ring` is a DVA or a tenant
address, as `ringDva` says; `bell` the GSA of the doorbell block of an unbound queue; `ctr` the completion counter of R321. -/
structure QueueDesc where
  ctx : Nat
  tenant : Option Nat
  ringDva : Bool
  ring : Nat
  k : Nat
  vector : Nat
  raise : Bool
  bell : Nat
  ctr : Option Nat
  deriving DecidableEq, Repr

/-- A doorbell block: of queue `idx` in the BAR of a tenant (R254). -/
structure BellAt where
  tenant : Nat
  idx : Nat
  deriving DecidableEq, Repr

/-- One of a host's HDM decoders, and its host range (R310). -/
structure HdmRange where
  dec : Nat
  base : Nat
  size : Nat
  deriving DecidableEq, Repr

/-- The input of the context-window command 0xC01C (R330). -/
structure WinSet where
  core : Nat
  idx : Nat
  ctx : Nat
  base : Nat
  limit : Nat
  rd : Bool
  wr : Bool
  at_ : Bool
  deriving DecidableEq, Repr

/-- The input of command 0xC016 that sets a supervisor handler (R275). -/
structure Handler where
  sbase : Nat
  slen : Nat
  lbase : Nat
  llen : Nat
  entry : Nat
  deriving DecidableEq, Repr

/-- The input of command 0xC023 that creates an ingress channel (R328). `ring` and `cidx` are GSAs, or DVAs of context
`ctx` where the flag says so. `src` is a fabric traffic class, or an ingress window of a tenant. -/
structure ChanDesc where
  ctx : Nat
  cls : Nat
  window : Option (Nat × Nat)
  ringDva : Bool
  ring : Nat
  k : Nat
  cDva : Bool
  cidx : Nat
  tl : Nat
  deriving DecidableEq, Repr

/-- One constructor per row of the opcode table: first the words, then the events that the machine raises by itself, then
the events and commands from outside. -/
inductive Instr where
  | add (m : Bool) (d a b : SReg)
  | sub (m : Bool) (d a b : SReg)
  | and (m : Bool) (d a b : SReg)
  | or (m : Bool) (d a b : SReg)
  | xor (m : Bool) (d a b : SReg)
  | shl (m : Bool) (d a b : SReg)
  | shr (m : Bool) (d a b : SReg)
  | sar (m : Bool) (d a b : SReg)
  | mul (m : Bool) (d a b : SReg)
  | mulhiU64 (m : Bool) (d a b : SReg)
  | mulhiS64 (m : Bool) (d a b : SReg)
  | minS64 (m : Bool) (d a b : SReg)
  | minU64 (m : Bool) (d a b : SReg)
  | maxS64 (m : Bool) (d a b : SReg)
  | maxU64 (m : Bool) (d a b : SReg)
  | divU64 (m : Bool) (d a b : SReg)
  | divS64 (m : Bool) (d a b : SReg)
  | remU64 (m : Bool) (d a b : SReg)
  | remS64 (m : Bool) (d a b : SReg)
  | andn (m : Bool) (d a b : SReg)
  | orn (m : Bool) (d a b : SReg)
  | popc (m : Bool) (d a : SReg)
  | clz (m : Bool) (d a : SReg)
  | ctz (m : Bool) (d a : SReg)
  | addImm (m : Bool) (d a : SReg) (i : BitVec 13)
  | andImm (m : Bool) (d a : SReg) (i : BitVec 13)
  | orImm (m : Bool) (d a : SReg) (i : BitVec 13)
  | xorImm (m : Bool) (d a : SReg) (i : BitVec 13)
  | shlImm (m : Bool) (d a : SReg) (n : BitVec 6)
  | shrImm (m : Bool) (d a : SReg) (n : BitVec 6)
  | sarImm (m : Bool) (d a : SReg) (n : BitVec 6)
  | mulImm (m : Bool) (d a : SReg) (i : BitVec 13)
  | shin (m : Bool) (d : SReg) (i : BitVec 19)
  | cmp (m : Bool) (p : PReg) (c : SCond) (a b : SReg)
  | cmpImm (m : Bool) (p : PReg) (c : SCond) (a : SReg) (i : BitVec 13)
  | pand (m : Bool) (p pa : PReg) (na : Bool) (pb : PReg) (nb : Bool)
  | por (m : Bool) (p pa : PReg) (na : Bool) (pb : PReg) (nb : Bool)
  | pxor (m : Bool) (p pa : PReg) (na : Bool) (pb : PReg) (nb : Bool)
  | sel (m : Bool) (d a b : SReg) (neg : Bool) (p : PReg)
  | br (m neg : Bool) (p : PReg) (off : BitVec 21)
  | call (m neg : Bool) (p : PReg) (off : BitVec 21)
  | jr (m : Bool) (a : SReg)
  | callr (m : Bool) (a : SReg)
  | ret (m : Bool)
  | loop (m : Bool) (c : SReg) (off : BitVec 19)
  | lk (m : Bool) (k : BitVec 2) (a : SReg)
  | lq (m : Bool) (mask : BitVec 4) (entry : BitVec 21)
  | lqw (m : Bool)
  | rdmb (m : Bool) (d : SReg) (n : BitVec 2)
  | rsr (m : Bool) (d n : SReg)
  | wsr (m : Bool) (n b : SReg)
  | ldp (m : Bool) (d a : SReg) (ty : MTy) (o : Order) (sc : Scope) (rb : Bool) (off : BitVec 4)
  | stp (m : Bool) (d a : SReg) (ty : MTy) (o : Order) (sc : Scope) (ef : Bool) (off : BitVec 4)
  | ldg (m : Bool) (d a : SReg) (ty : MTy) (o : Order) (sc : Scope) (rb : Bool) (off : BitVec 4)
  | stg (m : Bool) (d a : SReg) (ty : MTy) (o : Order) (sc : Scope) (ef : Bool) (off : BitVec 4)
  | ldh (m : Bool) (d a : SReg) (ty : MTy) (o : Order) (sc : Scope) (rb : Bool) (off : BitVec 4)
  | sth (m : Bool) (d a : SReg) (ty : MTy) (o : Order) (sc : Scope) (ef : Bool) (off : BitVec 4)
  | atom (m : Bool) (d a : SReg) (op : AtomOp) (w : Bool) (o : Order) (sc : Scope) (pad : Bool)
  | fence (m : Bool) (o : Order) (sc : Scope)
  | barArrive (m : Bool) (a : SReg) (o : Order) (sc : Scope)
  | barWait (m : Bool) (o : Order) (sc : Scope)
  | nbarArrive (m : Bool) (n : BitVec 4) (a : SReg) (o : Order) (sc : Scope)
  | nbarWait (m : Bool) (n : BitVec 4) (o : Order) (sc : Scope)
  | dbarArrive (m : Bool) (a : SReg) (o : Order) (sc : Scope)
  | dbarWait (m : Bool) (o : Order) (sc : Scope)
  | mon (m : Bool) (a : SReg)
  | mwait (m : Bool) (a : SReg)
  | hgive (m : Bool) (a b : SReg)
  | htake (m : Bool) (d a : SReg)
  | tlw (m : Bool) (a b : SReg)
  | tls (m : Bool) (a b : SReg)
  | tlr (m : Bool) (d a : SReg)
  | tsnOff (m : Bool)
  | tsnLog (m : Bool)
  | tsnTrap (m : Bool)
  | cp (m : Bool) (dir : CopyDir) (a b c : SReg)
  | cp2 (m : Bool) (dir : CopyDir) (a b c : SReg)
  | cp3 (m : Bool) (dir : CopyDir) (a b c : SReg)
  | cpsc (m g : Bool) (a b c : SReg)
  | cpm (m : Bool) (a b c : SReg)
  | cbat (m : Bool) (c : SReg)
  | cwait (m : Bool) (a : SReg)
  | launch (m : Bool) (a c : SReg)
  | wtake (m nb : Bool) (a c : SReg)
  | qsnc (m : Bool)
  | collAr (m : Bool) (a c : SReg)
  | collRs (m : Bool) (a c : SReg)
  | collAg (m : Bool) (a c : SReg)
  | collBc (m : Bool) (a c : SReg)
  | collAa (m : Bool) (a c : SReg)
  | mma (m : Bool) (t : BitVec 3) (a b : MOp) (c : SReg)
  | mzero (m : Bool) (t : BitVec 3)
  | mdrn (m : Bool) (t : BitVec 3) (a b c : SReg)
  | mspl (m : Bool) (t : BitVec 3) (a b c : SReg)
  | mrowMig (m : Bool) (a b : SReg)
  | mrowReg (m : Bool) (a : SReg)
  | mage (m halve : Bool) (a b : SReg)
  | mchkRd (m : Bool) (t : BitVec 3) (c : SReg)
  | mchkClr (m : Bool) (t : BitVec 3)
  | mchkInj (m : Bool) (t : BitVec 3) (a : SReg)
  | msl (m : Bool) (a b c : SReg)
  | trap (m : Bool) (code : BitVec 12)
  | rft (m : Bool)
  | brk (m : Bool) (i : BitVec 13)
  | yield (m : Bool)
  | exit (m : Bool)
  | nop (m : Bool)
  | rand (m : Bool) (d : SReg)
  | laneAddF (w : LA)
  | laneSubF (w : LA)
  | laneMulF (w : LA)
  | laneFma (w : LA)
  | laneFms (w : LA)
  | laneFnma (w : LA)
  | laneMinF (w : LA)
  | laneMaxF (w : LA)
  | laneMinp (w : LA)
  | laneMaxp (w : LA)
  | laneAbsF (w : LA)
  | laneNegF (w : LA)
  | laneCmpF (w : LA)
  | laneClamp (w : LA)
  | laneCsgn (w : LA)
  | laneDot2 (w : LA)
  | laneFcls (w : LA)
  | laneRint (w : LA)
  | laneAddF64 (w : LA)
  | laneSubF64 (w : LA)
  | laneMulF64 (w : LA)
  | laneFmaF64 (w : LA)
  | laneMinF64 (w : LA)
  | laneMaxF64 (w : LA)
  | laneCmpF64 (w : LA)
  | laneDivF64 (w : LA)
  | laneSqrtF64 (w : LA)
  | laneRcp (w : LA)
  | laneRsqrt (w : LA)
  | laneSqrt (w : LA)
  | laneEx2 (w : LA)
  | laneLg2 (w : LA)
  | laneSin (w : LA)
  | laneCos (w : LA)
  | laneTanh (w : LA)
  | laneDivF32 (w : LA)
  | laneAddI (w : LA)
  | laneSubI (w : LA)
  | laneMulI (w : LA)
  | laneMulhi (w : LA)
  | laneMad (w : LA)
  | laneMinI (w : LA)
  | laneMaxI (w : LA)
  | laneAnd (w : LA)
  | laneOr (w : LA)
  | laneXor (w : LA)
  | laneAndn (w : LA)
  | laneShl (w : LA)
  | laneShr (w : LA)
  | laneCmpI (w : LA)
  | lanePopc (w : LA)
  | laneClz (w : LA)
  | laneCtz (w : LA)
  | laneBrev (w : LA)
  | laneAbsI (w : LA)
  | laneNegI (w : LA)
  | laneBdot (w : LA)
  | laneCvt (w : LA)
  | lanePack (w : LA)
  | laneUnpk (w : LA)
  | laneScl (w : LA)
  | laneMov (w : LA)
  | laneSel (w : LA)
  | laneLsw (w : LA)
  | lanePoll (w : LA)
  | laneRed (w : LA)
  | laneBsel (w : LA)
  | laneScan (w : LA)
  | qand (w : LA)
  | qor (w : LA)
  | qxor (w : LA)
  | qandn (w : LA)
  | qmov (w : LA)
  | qcnt (w : LA)
  | emwr (w : LA)
  | lbr (w : LC)
  | ljoin (w : LC)
  | lend (w : LC)
  | lbrk (w : LC)
  | ljmp (w : LC)
  | laneLdp (w : LM)
  | laneStp (w : LM)
  | laneLdg (w : LM)
  | laneStg (w : LM)
  | laneLdh (w : LM)
  | laneSth (w : LM)
  | laneAtom (w : LM)
  | laneFence (w : LM)
  | laneBarArrive (w : LM)
  | laneBarWait (w : LM)
  | laneNbarArrive (w : LM)
  | laneNbarWait (w : LM)
  | xreqReserve (w : LA)
  | xreqRelease (w : LA)
  | xfeed (w : LA)
  | xread (w : LA)
  | wapp (w : LA)
  | monitorTimeout (u : UnitId)
  | cpmCreditTake (u : UnitId)
  | quiescenceReport (ctx : Nat)
  | collectiveComplete (job : Nat) (lost : Bool)
  | matrixWordPerform (cl : Nat)
  | reservationGrant (cl obj : Nat)
  | fixedResultWrite (u : UnitId) (st : Strm)
  | variableResultArrive (u : UnitId) (id : Nat)
  | impreciseTrapTake (u : UnitId)
  | homeWriteSerialize (seq : Nat)
  | remoteAtomicPerform (seq : Nat)
  | ackArrive (seq : Nat)
  | ackRetransmitTimeout (seq : Nat)
  | poisonNotice (seq : Nat)
  | bargeChunkMove (job : Nat)
  | copyComplete (job : Nat)
  | pageWalkComplete (walk : Nat)
  | invalidationComplete (inv : Nat)
  | refreshMgmtIssue (stack channel bank : Nat)
  | queuePacketTake (src : QSrc)
  | gridStart (g : Nat)
  | teamPlace (g : Nat)
  | ladingStage (wg : Nat)
  | gridRetire (g : Nat)
  | deadlineMiss (g : Nat)
  | deadlinePreemptRequest (g : Nat)
  | preemptTimerExpire (req : Nat)
  | evictTeam (team : Nat)
  | teamReadmit (team : Nat)
  | contextResetDone (ctx : Nat)
  | replicaCompare (set : Nat)
  | compareTimeout (set : Nat)
  | outvoteComplete (set : Nat)
  | bisnpTimeout (snp : Nat)
  | compressedPageExpand (t page : Nat)
  | pageMigrationInstant (t page : Nat)
  | droopFreezeEnd (cl : Nat)
  | ingressRecord (ch src : Nat) (payload : List (BitVec 8))
  | illegalInstruction (code bit word : Nat)
  | patternRampStep (cl : Nat)
  | sramUncorrectable (e : ErrAt)
  | registerUncorrectable (u : UnitId)
  | patrolScrub (corrected : Bool)
  | stackCriticalTemp (stack : Nat)
  | stackThermalClear (stack : Nat)
  | pageEvacuationInstant (die ctx dva : Nat) (entry : BitVec 64)
  | evacuationEnd (die : Nat)
  | qtailWrite (b : BellAt) (v : Word)
  | qstatWrite (b : BellAt) (v : Word)
  | doorbellOtherWrite (t off : Nat) (v : Word)
  | waitForWalk
  | hostMemRead (t addr : Nat) (own : Option Bool)
  | hostMemWrite (t addr : Nat) (data : BitVec 512) (be : BitVec 64)
  | bisnpResponse (snp : Nat) (data : Option (BitVec 512))
  | hostLinkDown (t : Nat)
  | hostLdReset (t : Nat)
  | hostLinkUp (t : Nat)
  | memoryActiveSet (t : Nat)
  | globalPersistentFlush (t : Nat)
  | ptmRequest (port : Nat)
  | tsiAgeingPeriod
  | ptpEventMessage (ns : Nat)
  | timeSourceLost
  | fabricPacketReceive (src cls seq : Nat) (payload : List (BitVec 8))
  | linkDead (port : Nat)
  | checkpointBlock
  | checkpointEnd
  | safeTierPathLoss
  | pulsePatternWrite (cl : Nat) (v : BitVec 32)
  | droopDetect (cl : Nat)
  | currentComparatorTrip (die : Nat)
  | thermalTrip1 (die : Nat)
  | thermalTrip1Clear (die : Nat)
  | thermalTrip2 (die : Nat)
  | powerWatchdogExpire
  | modulePowerUp
  | tsiSupplyCycle
  | tenantCreate (by_ : Issuer) (t size queues port : Nat)
  | tenantWithdraw (by_ : Issuer) (t : Nat) (force : Bool)
  | loadKey (by_ : Issuer) (t wrapped : Nat)
  | setSysatMark (by_ : Issuer) (t first last : Nat) (mark : Bool)
  | readTenantMap (by_ : Issuer) (t first count : Nat)
  | setAgeing (by_ : Issuer) (periodUs hot cold : Nat)
  | declareHostCrashed (by_ : Issuer) (t : Nat)
  | contextCreate (by_ : Issuer) (ctx : Nat) (tenant : Option Nat)
  | contextDestroy (by_ : Issuer) (ctx : Nat)
  | setPageTableRoot (by_ : Issuer) (ctx : Nat) (root : BitVec 64)
  | invalidateRange (by_ : Issuer) (ctx first last : Nat)
  | mapLentRange (by_ : Issuer) (ctx dva addr len : Nat) (wr : Bool)
  | queueCreate (by_ : Issuer) (q : Nat) (desc : QueueDesc)
  | queueDestroy (by_ : Issuer) (q : Nat)
  | allocateTimelines (by_ : Issuer) (ctx first count : Nat) (engine : Bool)
  | createWorkList (by_ : Issuer) (ctx list base k die : Nat) (wide : Bool)
  | defineCollectiveGroup (by_ : Issuer) (ctx group : Nat) (members : List Nat)
  | setSupervisorHandler (by_ : Issuer) (ctx : Nat) (h : Handler)
  | setTrapSaveArea (by_ : Issuer) (ctx off : Nat)
  | setShadowArea (by_ : Issuer) (ctx core off size : Nat)
  | setFaultLog (by_ : Issuer) (ctx dva k : Nat)
  | setEvictionSaveArea (by_ : Issuer) (ctx dva : Nat)
  | touchstoneEnable (by_ : Issuer) (ctx mode : Nat)
  | debugAttach (by_ : Issuer) (ctx : Nat)
  | debugDetach (by_ : Issuer) (ctx : Nat)
  | debugResume (u : UnitId)
  | aqueductHold (by_ : Issuer) (ctx a b : Nat)
  | aqueductUnhold (by_ : Issuer) (ctx a b : Nat)
  | injectAckloss (by_ : Issuer) (ctx die sector : Nat)
  | replicaFlip (by_ : Issuer) (ctx : Nat) (u : UnitId) (r : FlipReg) (bit : Nat)
  | resetContext (by_ : Issuer) (ctx : Nat)
  | clearPoison (by_ : Issuer) (ctx : Nat) (e : ErrAt)
  | setWindowEntry (by_ : Issuer) (w : WinSet)
  | clearWindowEntry (by_ : Issuer) (core idx : Nat)
  | requestPreemption (by_ : Issuer) (ctx : Nat) (mask : BitVec 256)
  | releasePreemption (by_ : Issuer) (ctx : Nat)
  | setCoreBudget (by_ : Issuer) (v : Nat)
  | setPreemptTimeout (by_ : Issuer) (v : Nat)
  | setEvictionThreshold (by_ : Issuer) (v : Nat)
  | setCompareTimeout (by_ : Issuer) (v : Nat)
  | setActivationLevel (by_ : Issuer) (v : Nat)
  | takeDieOffline (by_ : Issuer) (die : Nat)
  | selectTimeSource (by_ : Issuer) (src : TimeSource)
  | createIngressChannel (by_ : Issuer) (ch : Nat) (desc : ChanDesc)
  | ingressChannelStatus (by_ : Issuer) (ch : Nat)
  | checkpoint (by_ : Issuer) (tier : SafeTier)
  | warmReset (by_ : Issuer) (force : Bool)
  | coldReset (by_ : Issuer) (force : Bool)
  | tsiIslandReset (by_ : Issuer) (force : Bool)
  | forcedReset (by_ : Issuer)
  | lifecycleTransition (by_ : Issuer) (next : LifeState) (tokenOk : Bool)
  | mgmtUnlistedOpcode (by_ : Issuer) (op : Nat)
  | bankRefresh (stack channel bank : Nat)
  | powerWatchdogRefresh
  | hdmDecoderCommit (t : Nat) (r : HdmRange) (commit : Bool)
  | aqueductPathDown (a b : Nat) (k : PathKind)
  deriving DecidableEq, Repr

end Sys2Proof
end

