-- ==== Sys2Proof/Machine/State.lean ====
section
/-! DEFINITION. The state of the machine as plain data: everything the spec gives it, and the model's own agenda,
clock and counters (assumption log 1, 3). Nothing here computes. -/

namespace Sys2Proof.Machine

/-! ## In-flight results, parks and pending bits -/

/-- A fixed-latency result that has been produced and not yet written (R22). -/
inductive FRes where
  | s (r : SReg) (v : Word)
  | p (r : PReg) (b : Bool)
  | kst (n : BitVec 2) (v : Word)
  | v (r : Nat) (mask : Mask) (vals : List Half)
  | q (r : BitVec 3) (mask bits : Mask)
  | em (keep : Mask)
  deriving DecidableEq, Repr

/-- A result in flight with the count of its cluster's kept pulses at which its latency ends (R22, R85, R111, R4) and the
number of its word. -/
structure Fly where
  due : Nat
  word : Nat
  res : FRes
  deriving DecidableEq, Repr

/-- What a parked or stalled stream waits for (R273). -/
inductive Why where
  | pendingReg | fpmodeWait | queueFull | laneIdle | results | written | release | ackFull | barPhase (kind idx phase : Nat)
  | monitor (timeout : Nat) | timeline (n : Nat) (v : Nat) | batch (n : Nat) | copySlots | credit (gsa mask : Nat) | reported | listRoom (n : Nat)
  | listItem (n : Nat) | quiescence | mxQueue | mxDone (n : Nat) | resvRoom | grant (obj : Nat) | join | compare
  | leader | port | outvote
  deriving DecidableEq, Repr

/-- A parked stream: what it waits for, the mclk at which it parked, and the progress count at which it last looked. -/
structure Park where
  why : Why
  since : Nat
  tick : Nat
  deriving DecidableEq, Repr

/-- Where a variable-latency result goes: an `s` register or a group of `v` registers. -/
inductive PDst where
  | none
  | s (r : SReg)
  | v (r : Nat) (n : Nat)
  deriving DecidableEq, Repr

/-- What the leader does for a value that its replicas take (R301): a load, an atomic, or a read of `tclk`. -/
inductive LeadWhat where
  | load (acc : List (Nat × Nat)) (size : Nat) (sgn : Bool)
  | atom
  | tclk
  deriving DecidableEq, Repr

/-- What a pending result waits for (R21). `leader` and `late` wait for a value of the leader; a trap entry does not wait for
`late`, the value of a timeline or a status word (R23). -/
inductive PWhat where
  | ldg (acc : List (Nat × Nat)) (size : Nat) (sgn : Bool)
  | atom (seq : Nat)
  | mailbox (n : BitVec 2)
  | tclk
  | tlr (n : Nat)
  | status (job : Nat)
  | launch (id : Nat)
  | leader (n : Nat) (own : LeadWhat)
  | late (n : Nat) (tl : Option Nat)
  deriving DecidableEq, Repr

/-- One outstanding variable-latency result (R21). `id` is its place in the order of issue; `acq` holds later memory
operations of its stream (R214); `vals` lists lanes and values that have come; `bad` the lanes that met poison (R283); `share` the place under which a
leader hands the value to its replicas (R144, R304); `flip` lanes and bits of the value to invert when it is written (R361); `own` the bytes of
earlier held entries that a compare has discarded since, newest first (R293). -/
structure Pend where
  id : Nat
  strm : Strm
  dst : PDst
  what : PWhat
  acq : Bool
  idx : Nat
  raw : Nat
  act : Mask
  vals : List (Nat × Nat)
  bad : Mask
  saved : Bool
  share : Option Nat
  flip : List (Nat × Nat)
  own : List (Nat × Byte)
  deriving DecidableEq, Repr

/-- The kinds of a mask-stack entry (R131). -/
inductive StackKind where
  | pair | join | pending
  deriving DecidableEq, Repr

/-- One mask-stack entry (R131). -/
structure StackE where
  kind : StackKind
  mask : Mask
  idx : Option Nat
  deriving DecidableEq, Repr

/-- A path slot (R14, R131). `marked`: a marker parks it until its results have been written (R22). `lanes` are the lanes
that it took at the divergence. `hist` and `histQ` keep the values that its `v` lanes (by the number of the word) and `q` registers (with the lanes
written) held before the slot's writes of this divergence, which the other slot may still read (R112); `start` and `seq0` are the numbers of the word and
of the memory operation at which the divergence began, and `shade` and `shadeQ` what the slot still reads of its own results from before it, which
have been written for the other slot's lanes alone (R22). -/
structure Slot where
  live : Bool
  lpc : Nat
  em : Mask
  lanes : Mask
  stack : List StackE
  fly : List Fly
  marked : Bool
  park : Option Park
  hist : List (Nat × Nat × Half)
  histQ : List (Nat × Mask × Mask)
  start : Nat
  seq0 : Nat
  shade : SMap Half
  shadeQ : SMap Mask
  deriving DecidableEq, Repr

/-- A lane run in the queue or executing (R11). `lqSeq` is the place of its `lq` in the order of memory operations. -/
structure QRun where
  entry : Nat
  k : List Word
  mask : BitVec 4
  lqSeq : Nat
  deriving DecidableEq, Repr

/-- One entry of the imprecise queue (R280, R283). `wgNum` is the issuing workgroup's number; `zero` names the pending result written 0 at trap
entry, `zdst` a destination and lanes written 0 there after their result had come; `at_` is the mclk at which the entry arrived (R281). -/
structure Imp where
  code : Nat
  addr : Nat
  info : Nat
  idx : Nat
  strm : Strm
  raw : Nat
  act : Mask
  origWarp : Nat
  wgNum : Nat
  other : Bool
  origCode : Nat
  zero : Option Nat
  zdst : Option (PDst × Mask)
  held : Bool
  at_ : Nat
  deriving DecidableEq, Repr

/-- The one monitor of a warp (R152). -/
structure Monitor where
  addr : Nat
  fired : Bool
  deriving DecidableEq, Repr

/-- A held entry of an assay buffer (R292, R296): the bytes it folds and the bytes it writes. `word` is the place of its
word in the order of issue. -/
structure Held where
  bytes : List Byte
  strm : Strm
  data : List (Nat × Byte)
  ef : Bool
  word : Nat
  idx : Nat
  raw : Nat
  act : Mask
  lqSeq : Nat
  deriving DecidableEq, Repr

/-- State set aside at trap entry and put back by `rft` (R276, R23). `seq` is the place of the entry in the order of
issue, `sup` whether the interrupted code was the supervisor's, `passed` the stream and kind of a word that had passed its compare. -/
structure Saved where
  queue : List QRun
  running : Option QRun
  slot0 : Slot
  slot1 : Slot
  mbCnt : List Nat
  mbVal : List Word
  bank : List Word
  turn : Bool
  seq : Nat
  sup : Bool
  passed : Option (Strm × Nat)
  deriving DecidableEq, Repr

/-! ## Warps and lockmasters -/

/-- Who a unit is (R18, R20) and where its code lies (R9). Keys name its workgroup, team and grid in the tables; a lockmaster has its team's
key as its workgroup's. -/
structure Ident where
  ctx : Nat
  grid : Nat
  team : Nat
  wg : Nat
  isLm : Bool
  producer : Bool
  leader : Bool
  cls : Nat
  rset : Nat
  rep : Nat
  rmode : Word
  warpid : Word
  wgid : Word
  teamid : Word
  dieid : Word
  gridid : Word
  coreid : Word
  sbase : Nat
  slen : Nat
  lbase : Nat
  llen : Nat
  deriving DecidableEq, Repr

/-- The S-stream side of a warp, or a lockmaster's stream (R8, R9). -/
structure SSide where
  spc : Nat
  s : SMap Word
  p : SMap Bool
  kst : SMap Word
  fly : List Fly
  marked : Bool
  park : Option Park
  deriving DecidableEq, Repr

/-- The lane side of a warp (R8, R11 to R14). `turn`: slot 1 has the next turn (R131). -/
structure LSide where
  v : SMap Half
  q : SMap Mask
  slot0 : Slot
  slot1 : Slot
  queue : List QRun
  running : Option QRun
  turn : Bool
  deriving DecidableEq, Repr

/-- What a trap records: `tcause`, `taddr`, `tinfo`, `flm`, `tspc`, and the record of R278. -/
structure Frame where
  precise : Bool
  lbit : Bool
  cause : Nat
  addr : Nat
  info : Nat
  lanes : Mask
  spc : Nat
  word : Nat
  act : Nat
  issue : Nat
  orig : Nat
  deriving DecidableEq, Repr

/-- A trap that has been taken and whose entry waits for outstanding results (R23, R276): its stream, its frame, and the
pending result written 0 at entry (R283). -/
structure Due where
  strm : Strm
  frame : Frame
  zero : Option Nat
  zdst : Option (PDst × Mask)
  deriving DecidableEq, Repr

/-- Trap registers and handler state (R17, R19, R276). `due`: a trap whose entry waits; both streams are stopped meanwhile.
`sup`: the unit fetches from the supervisor images, from trap entry until the return, also after a handler has cleared `tcause.h` (R100). -/
structure Trap where
  tcause : BitVec 32
  taddr : Word
  tinfo : Word
  tspc : Word
  tlpc : Word
  tpath : Word
  flm : BitVec 32
  saved : Option Saved
  due : Option Due
  imp : List Imp
  sup : Bool
  deriving DecidableEq, Repr

/-- A replica's assay state (R292 to R297): held entries, the signature, the arrival at a compare point with its
point record, the stream and kind of the word whose compare has agreed, and how many values each stream has taken from the
leader (R304). `at_` holds the bytes that the compare folds: the word's own entries and its point record; `cseq` is the place of the last agreement in
the order of issue (R298), and `bad` an uncorrectable error of the buffer (R336). -/
structure Assay where
  held : List Held
  sig : Word
  at_ : Option (List Byte)
  strm : Strm
  since : Nat
  passed : Option (Strm × Nat)
  kind : Nat
  counts : SMap Nat
  cseq : Nat
  bad : Bool
  deriving DecidableEq, Repr

/-- A word of a unit's code as it stood before a store that was made while the unit ran (R10): its address, whether it is an L
word, and its contents. -/
structure OldWord where
  at_ : Nat
  lane : Bool
  raw : Nat
  deriving DecidableEq, Repr

/-- One resident unit. `age` and `ageS` order it for its lane and S ports (R266); `yield` renews `ageS` alone (R104).
`code` holds the older contents of its code that it may still fetch (R10); `mbOld` for each mailbox written the mclk of the last write and
the value before it (R13); `dirty` the register lines written since the rollback shadow was taken (R285). -/
structure Unit where
  id : UnitId
  who : Ident
  sS : SSide
  lS : LSide
  mbVal : SMap Word
  mbCnt : SMap Nat
  fpmode : BitVec 32
  trap : Trap
  pend : List Pend
  mon : Option Monitor
  tags : List Nat
  lqwSeq : Nat
  joinSeq : Nat
  lastBatch : Nat
  tsMode : Nat
  tsInterval : Nat
  tsPairs : List (Nat × Nat)
  tsOver : Bool
  tsScope : Scope
  assay : Assay
  age : Nat
  ageS : Nat
  waitS : Nat
  waitL : Nat
  yieldTo : Nat
  stopped : Bool
  outvoted : Bool
  code : List OldWord
  mbOld : SMap (Nat × Word)
  dirty : List Nat
  deriving DecidableEq, Repr

/-! ## Barriers, workgroups, teams, grids -/

/-- A barrier (R149, R150): the count of the open phase (0: none open), the units that have arrived, and the number
of phases completed. -/
structure Barrier where
  count : Nat
  arrived : List Nat
  phases : Nat
  deriving DecidableEq, Repr

/-- The rollback shadow of a workgroup (R285): its units as captured, its pad bytes, and its arrivals at named and die
barriers that were outstanding (kind, index, unit). -/
structure Shadow where
  units : List Unit
  pad : SMap Byte
  arr : List (Nat × Nat × Nat)
  deriving DecidableEq, Repr

/-- A resident workgroup. `rolled` and `mism`: its interval has met an uncorrectable error or a mismatch (R286, R299); `peers` are the replicas of the
workgroup, itself included. -/
structure Wg where
  grid : Nat
  team : Nat
  core : Nat
  warps : Nat
  padBase : Nat
  padP : Nat
  charge : Nat
  bar : Barrier
  shadow : Option Shadow
  eligible : Bool
  touched : List Nat
  rolled : Bool
  mism : Bool
  staged : Bool
  peers : List Nat
  deriving DecidableEq, Repr

/-- An accumulator injection (R192). -/
structure Inject where
  row : Nat
  col : Nat
  two : Bool
  deriving DecidableEq, Repr

/-- The operation of a queued matrix word with its operands as read at issue (R181). `write`: this replica's drain is the
one written (R206). -/
inductive MKind where
  | mma (t : Nat) (a b : Option (Word × Word)) (ta tb : Nat) (fmt : Word)
  | mzero (t : Nat)
  | mdrn (t : Nat) (dst : Option (Word × Word)) (ctl : Word) (write : Bool)
  | mspl (t : Nat) (d0 d1 : Word) (tab : Nat) (fmt : Word)
  | mrowMig (tab inst : Nat)
  | mrowReg (tab : Nat)
  | mage (tab exp : Nat) (halve : Bool)
  | mchkRd (t : Nat)
  | mchkClr (t : Nat)
  | mchkInj (t : Nat) (pos : Nat)
  | msl (off src len : Nat)
  deriving DecidableEq, Repr

/-- A queued matrix word (R180): its number, its place in the order of issue, its place in the arrival sequence (R193), how many of its passes are
done. -/
structure MWord where
  num : Nat
  seq : Nat
  kind : MKind
  arr : Nat
  done : Nat
  idx : Nat
  raw : Nat
  deriving DecidableEq, Repr

/-- A reservation (R193): object 0 to 7 a tile half, 8 the drain buffer. -/
structure Resv where
  obj : Nat
  unit : UnitId
  prio : Nat
  arr : Nat
  granted : Bool
  deriving DecidableEq, Repr

/-- A matrix engine (R178). Accumulator element (t, r, c) has key t * 16384 + r * 128 + c; byte b of half h of tile t has key
(t * 2 + h) * 16384 + b. The bad lists hold the bytes stored as uncorrectable (R189, R203); `migs` the tables with a
pending migration and its instant (R202). -/
structure Engine where
  acc : SMap Half
  corr : SMap Nat
  marks : List Nat
  inj : SMap Inject
  o : SMap Byte
  scale : SMap Byte
  drain : SMap Byte
  oBad : List Nat
  scaleBad : List Nat
  migs : List (Nat × Nat)
  queue : List MWord
  resv : List Resv
  doneNum : Nat
  doneStat : Option (Nat × Word)
  deriving DecidableEq, Repr

/-- A cluster buffer's entry in the hub's handle table (R26, R153, R154) with the team it belongs to. `offer` names the
recipient while offered; `opened` marks an open buffer. -/
structure Handle where
  team : Nat
  base : Nat
  size : Nat
  gen : Nat
  holder : Option UnitId
  offer : Option UnitId
  opened : Bool
  deriving DecidableEq, Repr

/-- The state of a team written to its save area by an eviction (R270): its units, workgroups, pads, buffers and
engine, the places of its units with an arrival outstanding at a die barrier, and whether a wake event has been recorded
(R271). Pads, shadows and buffers are kept relative to their bases. -/
structure Evicted where
  units : List Unit
  wgs : List (Nat × Wg)
  pads : List (Nat × SMap Byte)
  handles : SMap Handle
  bufs : List (Nat × SMap Byte)
  engine : Engine
  dArr : List Nat
  woken : Bool
  deriving DecidableEq, Repr

/-- A placed team (R258), resident or evicted (R270). `mnum` is the number of its last matrix word (R180). -/
structure Team where
  grid : Nat
  slab : Nat
  j : Nat
  die : Nat
  cluster : Nat
  rep : Nat
  wgs : List Nat
  lm : Bool
  mtl : Nat
  mnum : Nat
  nbar : SMap Barrier
  peers : List Nat
  nwarps : Nat
  evicted : Option Evicted
  deriving DecidableEq, Repr

/-- A launch packet's fields (R256). -/
structure Packet where
  sbase : Nat
  lbase : Nat
  sentry : Nat
  warps : Nat
  producer : Nat
  wgs : Nat
  slen : Nat
  mtl : Nat
  lmentry : Nat
  energy : Nat
  cls : Nat
  redund : Nat
  slabs : Nat
  lm : Bool
  llen : Nat
  ladn : Nat
  mtk : Nat
  pad : Nat
  bufsz : Nat
  bufn : Nat
  teams : Nat
  maxrun : Nat
  lading : Nat
  deadline : Nat
  wtl : Nat
  ctl : Nat
  wen : Bool
  cen : Bool
  wval : Nat
  cval : Nat
  reserved : Bool
  deriving DecidableEq, Repr

/-- One record of a lading list (R49). -/
structure Lading where
  src : Nat
  dst : Nat
  size : Nat
  kind : Nat
  deriving DecidableEq, Repr

/-- A die slab of a started grid: its dies, one for each replica, and the next team to place. -/
structure SlabAt where
  dies : List Nat
  next : Nat
  dbars : List Barrier
  deriving DecidableEq, Repr

/-- A grid that was accepted (R261 to R265). `queue` is its hardware queue, `parent` its parent grid;
`ctr` is what its completion counter held when it was read, on a page not marked for system atomics (R231). -/
structure Grid where
  ctx : Nat
  num : Nat
  depth : Nat
  parent : Option Nat
  queue : Option Nat
  pkt : Packet
  lads : List Lading
  enq : Nat
  order : Nat
  started : Bool
  slabs : List SlabAt
  aborted : Bool
  missed : Bool
  kids : Nat
  ctr : Option Nat
  deriving DecidableEq, Repr

/-- A child packet in a child queue (R170, R253): the packet, its depth, parent grid, enqueue time and grid number. -/
structure Child where
  pkt : Packet
  lads : List Lading
  depth : Nat
  parent : Nat
  enq : Nat
  num : Nat
  deriving DecidableEq, Repr

/-- A hardware queue (R253 to R255). `enqs` holds the time at which each tail was accepted. -/
structure HwQueue where
  desc : QueueDesc
  tidx : Nat
  head : Nat
  tail : Nat
  stat : BitVec 64
  enqs : List (Nat × Nat)
  deriving DecidableEq, Repr

/-! ## Memory operations under way -/

/-- Where an atomic is performed (R147): the target slice, a cluster hub, or a die's home slice agent. -/
inductive Place where
  | slice | hub (cl : Nat) | agent (die : Nat)
  deriving DecidableEq, Repr

/-- One store, or the part of a store word in one 32-byte sector, that has issued and is not finished (R211, R237 to
R239). `die` is the writing die. `sent`: it has left the store queue (R215); `ord` is its place among its die's writes, given when it leaves the
queue or its hub. `out`: it has been sent to its home (R238, R352). `rset` is the replica set that it was committed for, and `cseq` the place of that commit (R298). `via` names the hub or die agent
whose atomic it writes back (R147), and `back` that atomic's pending result, destination and lane. -/
structure PStore where
  seq : Nat
  die : Nat
  unit : Option UnitId
  strm : Strm
  lqSeq : Nat
  ef : Bool
  bytes : List (Nat × Byte)
  full : Bool
  idx : Nat
  raw : Nat
  act : Mask
  applied : Bool
  sent : Bool
  out : Bool
  sentAt : Nat
  retrans : Nat
  lostAck : Bool
  ord : Nat
  rset : Nat
  cseq : Nat
  via : Option Place
  back : Option (Nat × PDst × Nat)
  deriving DecidableEq, Repr

/-- One lane's atomic: lane, address, operand and compare value. -/
structure AtomAcc where
  lane : Nat
  addr : Nat
  v : Nat
  cmp : Nat
  deriving DecidableEq, Repr

/-- A stamp of the touchstone (R156): the last writer with the workgroups, replica numbers and cores of its replicas, its interval, the scope of its
last release, and whether the last access was an atomic. -/
structure Stamp where
  writer : Nat
  wgs : List Nat
  reps : List (Nat × Nat)
  lm : Bool
  rset : Nat
  interval : Nat
  sc : Scope
  atomic : Bool
  rel : Bool
  deriving DecidableEq, Repr

/-- A GSA atomic that has issued and is not performed (R146, R147); `stamp` is what the touchstone keeps of it (R156). -/
structure PAtom where
  seq : Nat
  unit : UnitId
  strm : Strm
  op : AtomOp
  size : Nat
  place : Place
  die : Nat
  accs : List AtomAcc
  pend : Nat
  idx : Nat
  raw : Nat
  act : Mask
  stamp : Option Stamp
  deriving DecidableEq, Repr

/-- An end of a copy: a DVA, a GSA, the pads listed by their GSA and size (the first is read), which stay the copy's until it ends, or the scale
memories of the clusters listed. -/
inductive Endp where
  | dva (a : Nat)
  | gsa (a : Nat)
  | pad (ps : List (Nat × Nat)) (a : Nat)
  | scale (cls : List Nat) (a : Nat)
  deriving DecidableEq, Repr

/-- A receiver of a multicast copy (R169): where its bytes go and where its own part comes from. -/
structure Recv where
  dst : Nat
  own : Nat
  deriving DecidableEq, Repr

/-- A collective as its descriptor gives it (R175, R176). `op` 0 to 4 for ar, rs, ag, bc, aa. -/
structure Coll where
  op : Nat
  src : Nat
  dst : Nat
  elems : Nat
  ty : Nat
  red : Nat
  group : Nat
  root : Nat
  tl : Nat
  val : Nat
  deriving DecidableEq, Repr

/-- A copy, scale copy, multicast or collective outstanding (R163 to R169, R175). `barge` is the one of the die's four that has it. A copy's rows are `planes * rows`
of `len` bytes; `moved` lists the parts moved, by place in row order and length; `pre` keeps, for each byte that the copy has
written, what stood there before and the place, counted from 1, of the byte that stands there now. -/
structure Job where
  id : Nat
  unit : UnitId
  ctx : Nat
  wgroup : Nat
  wgNum : Nat
  warp : Nat
  grid : Nat
  cls : Nat
  src : Endp
  dst : Endp
  es : Nat
  len : Nat
  rows : Nat
  srp : Nat
  drp : Nat
  planes : Nat
  spp : Nat
  dpp : Nat
  recv : List Recv
  part : Nat
  coll : Option Coll
  moved : List (Nat × Nat)
  pre : SMap (Byte × Nat)
  batch : Option Nat
  idx : Nat
  raw : Nat
  die : Nat
  barge : Nat
  code : Nat
  info : Nat
  seq : Nat
  deriving DecidableEq, Repr

/-! ## Clusters, cores, contexts -/

/-- The pulse-pattern register and its ramp (R340), the droop freeze (R341), and the count of pulses kept before mclk `cntAt`,
at which the pattern last changed (R4); `safe`: a safeguard has set the pattern (R343). -/
structure Pulse where
  frz : BitVec 10
  pat : BitVec 16
  target : BitVec 16
  freezeTo : Nat
  rampAt : Nat
  safe : Bool
  cnt : Nat
  cntAt : Nat
  deriving DecidableEq, Repr

/-- A cluster. -/
structure Cluster where
  handles : SMap Handle
  engine : Engine
  pulse : Pulse
  deriving DecidableEq, Repr

/-- A window entry (R25, R330). -/
structure Window where
  ctx : Nat
  base : Nat
  limit : Nat
  rd : Bool
  wr : Bool
  at_ : Bool
  deriving DecidableEq, Repr

/-- Who owns a timeline (R155). -/
inductive TlOwner where
  | software | engine | channel
  deriving DecidableEq, Repr

/-- A timeline (R155). -/
structure Timeline where
  owner : TlOwner
  val : Nat
  deriving DecidableEq, Repr

/-- A work list (R172): ring base GSA, capacity 2^k items, width, and its counts of appended and taken items. -/
structure WorkList where
  base : Nat
  k : Nat
  wide : Bool
  die : Nat
  head : Nat
  tail : Nat
  waiters : List UnitId
  deriving DecidableEq, Repr

/-- The fault log ring of a context (R288). -/
structure FaultLog where
  dva : Nat
  k : Nat
  seq : Nat
  deriving DecidableEq, Repr

/-- A shadow-area reservation (R285). -/
structure ShadowArea where
  off : Nat
  size : Nat
  deriving DecidableEq, Repr

/-- A device context. -/
structure Ctx where
  tenant : Option Nat
  root : BitVec 64
  tls : SMap Timeline
  lists : SMap WorkList
  groups : SMap (List Nat)
  handler : Option Handler
  saveOff : Option Nat
  shadows : SMap ShadowArea
  log : Option FaultLog
  lost : Nat
  evictDva : Option Nat
  tsOn : Bool
  tsStart : Nat
  stamps : SMap Stamp
  raceLog : List (List Byte)
  debug : Bool
  kids : List (List Child)
  nextGrid : Nat
  maps : List (Nat × Nat × Nat × Bool)
  resetting : Bool
  deriving DecidableEq, Repr

/-- A pre-emption request (R268, R331), with the deadline grid that made it or none for a command. -/
structure Preempt where
  id : Nat
  for_ : Option Nat
  ctx : Nat
  clusters : List Nat
  at_ : Nat
  limit : Nat
  running : Bool
  wasReset : Bool
  deriving DecidableEq, Repr

/-! ## Translation, banks, dies -/

/-- A cached translation (R249): the cache (0 to 8 a share, 16 + 4 d + b barge b of die d, 64 + 32 k + c the weir unit of channel c of stack k; 1000
and 1001 keep the outcome of a walk that failed for its requester), the context, the DVA of the page and the leaf entry. -/
structure Tlb where
  place : Nat
  ctx : Nat
  dva : Nat
  entry : BitVec 64
  deriving DecidableEq, Repr

/-- A non-leaf entry in the walk cache of a share (R249): the level of the table that holds it, and the number of the entry's region. -/
structure WalkE where
  place : Nat
  ctx : Nat
  level : Nat
  idx : Nat
  entry : BitVec 64
  deriving DecidableEq, Repr

/-- A walk in flight (R249, R250). -/
structure Walk where
  id : Nat
  share : Nat
  ctx : Nat
  dva : Nat
  deriving DecidableEq, Repr

/-- An invalidation in progress (R250); `moved` holds the old and the new leaf of a page that an evacuation has moved (R251). -/
structure Inval where
  id : Nat
  moved : Option (BitVec 64 × BitVec 64)
  ctx : Nat
  first : Nat
  last : Nat
  deriving DecidableEq, Repr

/-- The state of a compute die (R251, R252). -/
inductive DieState where
  | on | evacuating | memoryOnly | off
  deriving DecidableEq, Repr

/-! ## Tenants -/

/-- A directory state (R317). -/
inductive DirState where
  | shared | exclusive
  deriving DecidableEq, Repr

/-- What goes on when a snoop completes (R318): a completion counter's add, to what was read before where it was (R231), a write of bytes, a read
of the requester named, or nothing more, where a way of the directory was wanted (R317). -/
inductive SnpThen where
  | counter (q : Nat) (old : Option Nat)
  | put (l : List (Nat × Byte))
  | read (who : Nat)
  | way
  deriving DecidableEq, Repr

/-- The three snoops (R309). -/
inductive SnpKind where
  | inv | data | cur
  deriving DecidableEq, Repr

/-- An outstanding back-invalidation snoop (R318). -/
structure Snoop where
  id : Nat
  tenant : Nat
  line : Nat
  kind : SnpKind
  go : SnpThen
  at_ : Nat
  deriving DecidableEq, Repr

/-- A tenant (R310 to R324). `pages` holds map entries; `side` the destinations of migrating pages; `comp` what the images of compressed pages
decompress to; `wbuf` the write buffer; `cold` the periods a page's counter stayed low; `fresh` lines whose host copy a snoop brought home, each
with the requester that may read it; `key` the key pair in use and `nvKey` the wrapped one kept with the configuration; `decs` by decoder the base and
size of its committed host range; `events` the poisoned lines of the event log's records. -/
structure Tenant where
  size : Nat
  queues : Nat
  port : Nat
  pages : SMap (BitVec 64)
  side : SMap (BitVec 64)
  cold : SMap Nat
  dir : SMap DirState
  poison : List Nat
  comp : SMap Byte
  wbuf : SMap Byte
  fresh : List (Nat × Nat)
  key : Option Nat
  nvKey : Option Nat
  decs : SMap (Nat × Nat)
  active : Bool
  linkUp : Bool
  crashed : Bool
  heldVecs : List Nat
  events : List Nat
  deriving DecidableEq, Repr

/-- A frame or posted write that stands at an ingress channel: the time of its first flit, its source and its payload (R328). -/
structure InRec where
  stamp : Nat
  src : Nat
  payload : List Byte
  deriving DecidableEq, Repr

/-- An ingress channel (R328); `inq` holds what has come and waits for a snoop, oldest first. -/
structure Channel where
  inq : List InRec
  desc : ChanDesc
  w : Nat
  seq : Nat
  dropped : Nat
  gap : Bool
  deriving DecidableEq, Repr

/-- A packet in the reorder buffer: its number, the time of its first flit, the port at which it came and its payload (R328, R333). -/
structure HeldPkt where
  seq : Nat
  stamp : Nat
  port : Nat
  payload : List Byte
  deriving DecidableEq, Repr

/-- A reorder stream of the fabric (R333): the next sequence number due and the packets held. -/
structure FabricFlow where
  src : Nat
  cls : Nat
  next : Nat
  held : List HeldPkt
  deriving DecidableEq, Repr

/-- CXL mailbox return codes used by the spec (R329, R331, R339). -/
inductive Rc where
  | success | invalidInput | unsupported | busy | mediaFailure | background
  deriving DecidableEq, Repr

/-- The answer to the last management command: the return code and the numbers it returns. -/
structure MgmtReply where
  rc : Rc
  out : List Nat
  deriving DecidableEq, Repr

/-- What a host request returned (R309, R319, R322). -/
inductive HostAns where
  | data (d : BitVec 512)
  | poison
  | time (ns : Nat)
  | done
  deriving DecidableEq, Repr

/-- A checkpoint in progress (R337, R338): the tier, the blocks streamed, and the last block's trailer with its poisoned sectors. -/
structure Ckpt where
  tier : SafeTier
  blocks : Nat
  crc : Word
  marks : List Nat
  deriving DecidableEq, Repr

/-! ## The agenda -/

/-- A turn on the agenda: a given stream issues its next word, a given event happens, or an mclk passes (log 1). -/
inductive Turn where
  | issue (u : UnitId) (st : Strm)
  | ev (i : Instr)
  | idle
  deriving DecidableEq, Repr

/-! ## The package -/

/-- The memories and their poison (R233, R234, R240, R244, R363). `sram` is keyed by GSA, `hbm` by stack * 2^36 +
byte, `far` by byte; the poison sets by sector or granule; `doubt` the sectors marked in-doubt (R239), at home or in the mirror of a die as in `badMir`;
`mirror` by line (R237); `recent`, by slice and source die, the sequence numbers that a home has applied last (R239). -/
structure Memory where
  sram : List Host.Cell
  hbm : List Host.Cell
  far : List Host.Cell
  badHome : List Nat
  badMir : List Nat
  badHbm : List Nat
  badFar : List Nat
  doubt : List Nat
  mirror : SMap (BitVec 8)
  recent : SMap (List Nat)
  deriving DecidableEq, Repr

/-- Memory operations under way and the counters that order them. `seq` orders issue; `lead` holds leader values. -/
structure Flight where
  seq : Nat
  stores : List PStore
  atoms : List PAtom
  jobs : List Job
  tlb : List Tlb
  nodes : List WalkE
  walks : List Walk
  invals : List Inval
  snoops : List Snoop
  lead : List (Nat × Nat × Nat)
  deriving DecidableEq, Repr

/-- Faults of the die-to-die paths and debug holds (R236, R352): paths down, held pairs, and sectors whose next
acknowledgements are discarded. -/
structure Paths where
  down : List (Nat × Nat × PathKind)
  holds : List (Nat × Nat)
  loss : List (Nat × Nat)
  deriving DecidableEq, Repr

/-- Settings of the management command set (R263, R268, R270, R295, R242, R315), times in mclk. -/
structure Settings where
  budget : Nat
  preempt : Nat
  evict : Nat
  compare : Nat
  level : Nat
  agePeriodUs : Nat
  hot : Nat
  cold : Nat
  deriving DecidableEq, Repr

/-- The clocks: the master clock (R4), the mclk that passed while every context was frozen (R243), the offset of `tclk`
in ns, its holdover flag and source (R17, R327). -/
structure Clock where
  now : Nat
  held : Nat
  tOff : Nat
  holdover : Bool
  src : Option TimeSource
  deriving DecidableEq, Repr

/-- Reliability, power and life-cycle state (R242, R243, R251, R336 to R345); `ageAt` is the mclk at which the TSI's ageing period ends (R315), and
`memrdy` lists the CXL ports whose output `MEMRDY` is asserted (R326); `upAt` is the time of the last power-up, from which the clusters start in turn (R342). The watchdog
and `upAt` count every mclk. -/
structure Plant where
  banks : SMap Nat
  hotStacks : List Nat
  frozen : Bool
  dies : List DieState
  thermal1 : List Nat
  watchdog : Nat
  powered : Bool
  life : LifeState
  ckpt : Option Ckpt
  corrected : Nat
  deadLinks : List Nat
  flows : List FabricFlow
  ageAt : Nat
  memrdy : List Nat
  upAt : Option Nat
  deriving DecidableEq, Repr

/-- Bookkeeping of the warp scheduler and of the model (R266): the place in the rotation, the next residency age, and
progress counts. `did` lists the units and ports that issued in this mclk;
`lastQ` and `starve` are, for each class, the queue last served and the starts since the class had one (R260); `walkAt` is
the mclk of the next walk of the wait-for table (R273). -/
structure Sched where
  rr : Nat
  age : Nat
  order : Nat
  progress : Nat
  parked : Bool
  lport : SMap Nat
  did : List Nat
  lastQ : SMap Nat
  starve : SMap Nat
  walkAt : Nat
  deriving DecidableEq, Repr

/-- The whole machine. -/
structure State where
  far : Bool
  agenda : List Turn
  cur : UnitId
  curS : Strm
  free : Nat
  clk : Clock
  mem : Memory
  fl : Flight
  paths : Paths
  units : SMap Unit
  wgs : SMap Wg
  teams : SMap Team
  grids : SMap Grid
  nextKey : Nat
  clusters : SMap Cluster
  windows : SMap Window
  ctxs : SMap Ctx
  queues : SMap HwQueue
  preempts : List Preempt
  tenants : SMap Tenant
  channels : SMap Channel
  set : Settings
  plant : Plant
  sch : Sched
  mgmt : Option MgmtReply
  irqs : List (Nat × Nat)
  host : Option HostAns
  deriving DecidableEq, Repr

/-- Why a step stops with a fault. The spec gives every illegal use of the device a stated outcome (R7), so the one
fault is the model's own. -/
inductive Fault where
  /-- Raised by every word's meaning when no unit is resident at the cursor `State.cur`. Safe: the hardware executes a
  word only on a resident unit, so no run of the hardware corresponds to it. -/
  | noUnit
  deriving DecidableEq, Repr

/-- Why a step is refused. -/
inductive Refusal where
  /-- Raised by a dispatch arm whose instruction has no meaning in the model yet. Safe: the model stops. -/
  | notModelled (mnemonic : String)
  deriving DecidableEq, Repr

/-- The machine right after a cold reset (R344, R345): no unit, grid, queue, context or tenant; memory zero; every
setting at its stated default. Values the spec does not state are named in assumption log 5 and 6. -/
def State.reset : State where
  far := true
  agenda := []
  cur := ⟨0, 0⟩
  curS := .s
  free := 0
  clk := { now := 0, held := 0, tOff := 0, holdover := false, src := none }
  mem := { sram := [], hbm := [], far := [], badHome := [], badMir := [], badHbm := [], badFar := [], doubt := [], mirror := [], recent := [] }
  fl := { seq := 1, stores := [], atoms := [], jobs := [], tlb := [], nodes := [], walks := [], invals := [], snoops := [],
          lead := [] }
  paths := { down := [], holds := [], loss := [] }
  units := []
  wgs := []
  teams := []
  grids := []
  nextKey := 1
  clusters := []
  windows := []
  ctxs := []
  queues := []
  preempts := []
  tenants := []
  channels := []
  set := { budget := 64, preempt := 500000, evict := 200000, compare := 4000000, level := 64,
           agePeriodUs := 10000, hot := 64, cold := 2 }
  plant := { banks := [], hotStacks := [], frozen := false,
             dies := [.on, .on, .on, .on, .on, .on, .on, .on], thermal1 := [], watchdog := 0, powered := true,
             life := .deployed, ckpt := none, corrected := 0, deadLinks := [], flows := [], ageAt := 20000000, memrdy := [], upAt := none }
  sch := { rr := 0, age := 0, order := 0, progress := 1, parked := false, lport := [], did := [], lastQ := [], starve := [], walkAt := 20000000 }
  mgmt := none
  irqs := []
  host := none

end Sys2Proof.Machine
end

