-- ==== Sys2Proof/Machine/Mem.lean ====
section
/-! DEFINITION. Reading and writing bytes: global SRAM and its die mirrors, HBM4 and the far tier, poison, windows,
and the page-table walk (R24 to R27, R211, R233 to R248, R363). -/

namespace Sys2Proof.Machine

/-- Bits `lo` to `lo + n - 1` of `w`. -/
def fld (w lo n : Nat) : Nat := w / 2 ^ lo % 2 ^ n

/-- One bit of `w`. -/
def tb (w i : Nat) : Bool := decide (w / 2 ^ i % 2 = 1)

/-! ## Names of places -/

/-- The die of a core (R18). Cores from 1024 up name the units of evicted teams, which keep their die. -/
def dieOf (core : Nat) : Nat := core / 128 % 8
/-- The cluster of a core, 0 to 255. -/
def clusterOf (core : Nat) : Nat := core / 4
/-- The die of a cluster. -/
def clDie (cl : Nat) : Nat := cl / 32
/-- The core that a GSA names (R25). -/
def gsaCore (a : Nat) : Nat := a / 2 ^ 22
/-- The home die of a GSA. -/
def gsaDie (a : Nat) : Nat := dieOf (gsaCore a)
/-- The 32-byte sector of a GSA. -/
def sectorOf (a : Nat) : Nat := a / 32
/-- The 128-byte line of a GSA. -/
def lineOf (a : Nat) : Nat := a / 128
/-- The GSA of an offset in a core's slice. -/
def gsaAt (core off : Nat) : Nat := core * 2 ^ 22 + off

/-! ## Bytes and words -/

/-- The little-endian value of a byte list. -/
def leNat (l : List Byte) : Nat :=
  match l with
  | [] => 0
  | b :: t => b.toNat + 256 * leNat t

/-- The `n` low bytes of `v`, little-endian. -/
def leBytes (n v : Nat) : List Byte :=
  match n with
  | 0 => []
  | k + 1 => BitVec.ofNat 8 v :: leBytes k (v / 256)

/-- `n` bytes read one by one from `a` upward. -/
def readN (rd : Nat → Byte) (n a : Nat) : List Byte :=
  match n with
  | 0 => []
  | k + 1 => rd a :: readN rd k (a + 1)

/-- Pairs of rising addresses from `a` and the bytes of `l`. -/
def bytesAt (a : Nat) (l : List Byte) : List (Nat × Byte) :=
  match l with
  | [] => []
  | b :: t => (a, b) :: bytesAt (a + 1) t

/-- Memory with the pairs written in order. -/
def writeAll (m : SMap Byte) (l : List (Nat × Byte)) : SMap Byte :=
  match l with
  | [] => m
  | (a, b) :: t => writeAll (SMap.set 0 m a b) t

/-- Memory with every byte from `a` to `a + n - 1` zero. -/
def zeroRange (m : SMap Byte) (a n : Nat) : SMap Byte :=
  m.filter (fun e => decide (e.1 < a) || decide (a + n ≤ e.1))

/-! ## Global SRAM -/

/-- The byte at home (R211). -/
def homeByte (s : State) (a : Nat) : Byte := SMap.get 0 s.mem.sram a

/-- The byte that the one of `l` with the greatest key holds for `a`. -/
def newest (key : PStore → Nat) (l : List PStore) (a : Nat) : Option Byte :=
  (l.foldl (fun (acc : Option (Nat × Byte)) p => match SMap.look p.bytes a, acc with
    | none, _ => acc
    | some b, some (k, c) => if key p < k then some (k, c) else some (key p, b)
    | some b, none => some (key p, b)) none).map (fun e => e.2)

/-- The home die of a store. -/
def PStore.home (p : PStore) : Nat := match p.bytes with | b :: _ => gsaDie b.1 | [] => 0

/-- The byte that a pending `.ef` store of die `d`, not yet serialized at home, holds for `a` (R143, R237). -/
def efByte (s : State) (d a : Nat) : Option Byte :=
  if gsaDie a = d then none
  else newest (fun p => p.ord) (s.fl.stores.filter (fun p => p.ef && p.sent && decide (p.die = d) && !p.applied)) a

/-- The byte as die `d` reads it: a pending `.ef` store of that die covers the home byte (R143, R237). -/
def dieByte (s : State) (d a : Nat) : Byte := (efByte s d a).getD (homeByte s a)

/-- Whether a sector read by die `d` is poisoned (R233, R239). -/
def sectorBad (s : State) (d a : Nat) : Bool :=
  s.mem.badHome.contains (sectorOf a) || s.mem.badMir.contains (d * 2 ^ 27 + sectorOf a)

/-- The number of a slice's window entry in the table of windows. -/
def winKey (core idx : Nat) : Nat := core * 16 + idx

/-- Whether an entry admits bytes `off` to `off + size - 1` for `ctx`; kind 0 read, 1 write, 2 atomic (R25). -/
def Window.admits (w : Window) (ctx off size kind : Nat) : Bool :=
  decide (w.ctx = ctx) && decide (w.base * 4096 ≤ off) && decide (off + size ≤ (w.limit + 1) * 4096)
    && (match kind with | 0 => w.rd | 1 => w.wr | _ => w.at_)

/-- Whether any entry of the core's slice admits the access. -/
def admitted (s : State) (ctx core off size kind : Nat) : Bool :=
  s.windows.any (fun e => decide (e.1 / 16 = core) && e.2.admits ctx off size kind)

/-! ## Mirrors and monitors -/

/-- The sector of a store. -/
def PStore.sector (p : PStore) : Nat := match p.bytes with | b :: _ => sectorOf b.1 | [] => 0

/-- Whether a die's mirror holds a line. -/
def mirrorHas (s : State) (d line : Nat) : Bool := (SMap.get 0 s.mem.mirror line).getLsbD d

/-- Whether a line of a die's mirror has a pending sector. -/
def linePending (s : State) (d line : Nat) : Bool :=
  s.fl.stores.any (fun p => p.ef && p.sent && decide (p.die = d) && decide (p.sector / 4 = line))

/-- The lines of a die's mirror that share the set of a line, where that set has no free way. -/
def fullSet (s : State) (d line : Nat) : List Nat :=
  let l := (s.mem.mirror.filter (fun e => e.2.getLsbD d)).map (fun e => e.1)
  if l.length < 16 then []
  else
    let m := l.filter (fun k => decide (Config.mirrorSet k = Config.mirrorSet line))
    if m.length < 16 then [] else m

/-- Whether a die's mirror holds a line or can take it: a set whose lines are all pending cannot (R237). -/
def wayFree (s : State) (d line : Nat) : Bool :=
  mirrorHas s d line || (let m := fullSet s d line; m.isEmpty || m.any (fun k => !linePending s d k))

/-- A die's bit of a line set or cleared at the home. -/
def mirrorBit (s : State) (d line : Nat) (b : Bool) : State :=
  let v := SMap.get 0 s.mem.mirror line
  let m : BitVec 8 := BitVec.ofNat 8 (2 ^ d)
  { s with mem := { s.mem with mirror := SMap.set 0 s.mem.mirror line (if b then v ||| m else v &&& ~~~m) } }

/-- A line leaves a die's mirror, and what was wrong with that copy with it (R237). -/
def evictLine (s : State) (d line : Nat) : State :=
  let s1 := mirrorBit s d line false
  let gone (k : Nat) : Bool := decide (k / 2 ^ 27 = d) && decide (k % 2 ^ 27 / 4 = line)
  { s1 with mem := { s1.mem with badMir := s1.mem.badMir.filter (fun k => !gone k), doubt := s1.mem.doubt.filter (fun k => !gone k) } }

/-- A die's mirror takes a line of another die, and the home sets the die's bit: in a full set a line without a pending sector, freely
chosen, makes room (R237). -/
def takeLine (s : State) (d line : Nat) : State :=
  if mirrorHas s d line || !wayFree s d line then s
  else
    let c := (fullSet s d line).filter (fun k => !linePending s d k)
    let s1 := if c.isEmpty then s
      else evictLine { s with free := s.free + 1 } d (c.getD (Config.freeNat s.free % c.length) 0)
    mirrorBit s1 d line true

/-- The home sets a die's bit for a line that it fetches (R237). -/
def touchMirror (s : State) (d a : Nat) : State := if gsaDie a = d then s else takeLine s d (lineOf a)

/-! ## Paths between dies (R236) -/

/-- Whether a path of a kind is up. -/
def pathUp (s : State) (a b : Nat) (k : PathKind) : Bool :=
  !(s.paths.down.contains (a, b, k)) && !(s.paths.down.contains (b, a, k))

/-- Whether two dies are ring neighbours. -/
def neighbours (a b : Nat) : Bool := decide ((a + 1) % 8 = b) || decide ((b + 1) % 8 = a)

/-- Whether any path between two dies is up. -/
def linked (s : State) (a b : Nat) : Bool :=
  decide (a = b) || (neighbours a b && pathUp s a b .direct) || pathUp s a b .fed || pathUp s a b .ringUp
    || pathUp s a b .ringDown

/-- Whether die `d` can read a line: its own, one in its mirror, or one whose home a path reaches (R236, R237; log 32). -/
def reachable (s : State) (d a : Nat) : Bool := decide (gsaDie a = d) || mirrorHas s d (lineOf a) || linked s d (gsaDie a)

/-- The time in mclk, those in which every context was frozen included. -/
def State.wall (s : State) : Nat := s.clk.now + s.clk.held

/-- The value of `tclk` in ns (R4, R17, R327). -/
def State.tclk (s : State) : Nat := (s.clk.tOff + (s.clk.now + s.clk.held) / 2) % 2 ^ 64

/-- A unit whose monitor is armed on the sector, after it fires. -/
def fireOne (hit : UnitId → Bool) (sec : Nat) (u : Unit) : Unit :=
  match u.mon with
  | some m => if m.addr / 32 = sec ∧ hit u.id then { u with mon := some { m with fired := true } } else u
  | none => u

/-- A monitor fires when a byte of its sector changes in the copy that its warp reads (R152), also that of a warp whose
team is evicted (R270). -/
def fireMonitors (s : State) (hit : UnitId → Bool) (sec : Nat) : State :=
  { s with
    units := s.units.map (fun (e : Nat × Unit) => (e.1, fireOne hit sec e.2)),
    teams := s.teams.map (fun (t : Nat × Team) => match t.2.evicted with
      | some e => (t.1, { t.2 with evicted := some { e with units := e.units.map (fireOne hit sec) } })
      | none => t) }

/-- A write of `v` to the tail of a queue: the tail never falls, and a tail beyond the ring is refused (R254). The second
part tells whether it was refused. -/
def HwQueue.tailTo (q : HwQueue) (v now : Nat) : HwQueue × Bool :=
  if v ≤ q.tail then (q, false)
  else if 2 ^ q.desc.k < v - q.head then ({ q with stat := q.stat ||| 2 }, true)
  else ({ q with tail := v, enqs := q.enqs ++ [(v, now)] }, false)

/-! ## Code that is written while units run (R10) -/

/-- The images of a unit: its own, and its context's handler's. Each: whether of L words, its base, its words. -/
def codeImages (s : State) (u : Unit) : List (Bool × Nat × Nat) :=
  let own := [(false, u.who.sbase, u.who.slen), (true, u.who.lbase, u.who.llen)]
  match (SMap.look s.ctxs u.who.ctx).bind (fun c => c.handler) with
  | some h => own ++ [(false, h.sbase, h.slen), (true, h.lbase, h.llen)]
  | none => own

/-- Bytes of a code word. -/
def codeBytes (lane : Bool) : Nat := if lane then 12 else 4

/-- The words of a unit's images that a write of the bytes `l` changes. -/
def codeHit (s : State) (u : Unit) (l : List (Nat × Byte)) : List (Bool × Nat) :=
  ((l.filter (fun e => decide (homeByte s e.1 ≠ e.2))).flatMap (fun e => (codeImages s u).filterMap (fun i =>
    if i.2.1 ≤ e.1 ∧ e.1 < i.2.1 + codeBytes i.1 * i.2.2 then some (i.1, e.1 - (e.1 - i.2.1) % codeBytes i.1) else none))).dedup

/-- A unit that keeps what a write of the bytes `l` replaces in its code: it may still fetch it (R10, log 28). -/
def Unit.keepOld (s : State) (l : List (Nat × Byte)) (u : Unit) : Unit :=
  { u with code := (codeHit s u l).foldl (fun c w =>
      let x : OldWord := { at_ := w.2, lane := w.1, raw := leNat (readN (homeByte s) (codeBytes w.1) w.2) }
      if c.contains x then c else c ++ [x]) u.code }

/-- Every unit, resident or evicted, before the bytes `l` are written at home. -/
def keepOld (s : State) (l : List (Nat × Byte)) : State :=
  { s with
    units := s.units.map (fun (e : Nat × Unit) => (e.1, e.2.keepOld s l)),
    teams := s.teams.map (fun (t : Nat × Team) => match t.2.evicted with
      | some e => (t.1, { t.2 with evicted := some { e with units := e.units.map (fun u => u.keepOld s l) } })
      | none => t) }

/-- Bytes put at home in one step, whose older contents a running unit may still fetch as code (R10). Every monitor on
their sectors fires, but for a warp whose die's mirror refuses all of the sector's bytes because of its own pending `.ef`
stores (R152, R237). -/
def putHome (s : State) (l : List (Nat × Byte)) : State :=
  let s0 := keepOld s l
  let s1 := { s0 with mem := { s0.mem with sram := writeAll s0.mem.sram l } }
  (l.map (fun e => sectorOf e.1)).dedup.foldl (fun t sec =>
    fireMonitors t (fun u => l.any (fun e => decide (sectorOf e.1 = sec) && (efByte s (dieOf u.core) e.1).isNone)) sec) s1

/-! ## Doorbells in global SRAM (R254) -/

/-- The scanner's store of `qhead` and `qstat` of a queue bound to no tenant in its doorbell block. -/
def syncBell (s : State) (q : HwQueue) : State :=
  if q.desc.tenant.isSome then s
  else putHome s (bytesAt (q.desc.bell + 8) (leBytes 8 q.head ++ leBytes 8 q.stat.toNat))

/-- A queue replaced; its doorbell block follows a change of its head or status. -/
def setQueue (s : State) (k : Nat) (h : HwQueue) : State :=
  let s1 := { s with queues := SMap.put s.queues k h }
  match SMap.look s.queues k with
  | some o => if o.head = h.head ∧ o.stat = h.stat then s1 else syncBell s1 h
  | none => syncBell s1 h

/-- The tail writes that a write of the given bytes makes at doorbell blocks. -/
def ringBells (s : State) (l : List (Nat × Byte)) : State :=
  s.queues.foldl (fun t e =>
    let b := e.2.desc.bell
    if e.2.desc.tenant.isNone && l.any (fun x => decide (b ≤ x.1) && decide (x.1 < b + 8)) then
      setQueue t e.1 (e.2.tailTo (leNat (readN (homeByte t) 8 b)) t.tclk).1
    else t) s

/-- Bytes written at home in one step; a write to a queue's doorbell rings it. -/
def writeHome (s : State) (l : List (Nat × Byte)) : State := ringBells (putHome s l) l

/-- Poison of a sector at home and in every mirror is lifted, and its in-doubt marks with it (R233). -/
def clearBad (s : State) (sec : Nat) : State :=
  let keep (l : List Nat) : List Nat := l.filter (fun k => decide (k % 2 ^ 27 ≠ sec))
  { s with mem := { s.mem with badHome := setDel s.mem.badHome sec, badMir := keep s.mem.badMir, doubt := keep s.mem.doubt } }

/-! ## DRAM -/

/-- A place in DRAM, or a byte of a tenant's lent memory. -/
inductive Phys where
  | hbm (a : Nat)
  | far (a : Nat)
  | lent (t a : Nat)
  deriving DecidableEq, Repr

/-- The key of a byte of a stack. -/
def hbmKey (stack a : Nat) : Nat := stack * 2 ^ 36 + a

/-- A byte of DRAM; lent memory is read through the TSI (Tenants.lean). -/
def physByte (s : State) (p : Phys) : Byte :=
  match p with
  | .hbm a => SMap.get 0 s.mem.hbm a
  | .far a => SMap.get 0 s.mem.far a
  | .lent _ _ => 0

/-- The next byte after a place. -/
def Phys.add (p : Phys) (n : Nat) : Phys :=
  match p with
  | .hbm a => .hbm (a + n)
  | .far a => .far (a + n)
  | .lent t a => .lent t (a + n)

/-- Whether the granule that holds a byte of DRAM is poisoned (R363). -/
def physBad (s : State) (p : Phys) : Bool :=
  match p with
  | .hbm a => s.mem.badHbm.contains (a / 32)
  | .far a => s.mem.badFar.contains (a / 64)
  | .lent _ _ => false

/-! ## The page-table walk -/

/-- The fields of a table entry (R247). -/
structure Pte where
  valid : Bool
  leaf : Bool
  rd : Bool
  wr : Bool
  tier : Nat
  size : Nat
  frame : Nat
  smask : Nat
  rsv : Bool
  deriving DecidableEq, Repr

def pteOf (v : Nat) : Pte :=
  { valid := tb v 0, leaf := tb v 1, rd := tb v 3, wr := tb v 4, tier := fld v 6 2, size := fld v 8 4,
    frame := fld v 12 40, smask := fld v 56 8, rsv := tb v 2 || tb v 5 || decide (fld v 52 4 ≠ 0) }

/-- The set bits of a stack mask, lowest first. -/
def stacksOf (mask : Nat) : List Nat := (List.range 8).filter (fun i => tb mask i)

/-- The table that a non-leaf entry names (R245, R247): tier 0 with one stack, or tier 2; none where it breaks the
limits or lies beyond its tier. -/
def tableAt (s : State) (e : Pte) (bytes : Nat) : Option Phys :=
  match e.tier with
  | 0 => match stacksOf e.smask with
    | [st] => if e.frame * 4096 + bytes ≤ Config.stackBytes then some (.hbm (hbmKey st (e.frame * 4096))) else none
    | _ => none
  | 2 => if e.smask = 0 ∧ s.far ∧ e.frame * 4096 + bytes ≤ Config.farBytes then some (.far (e.frame * 4096)) else none
  | _ => none

/-- Where a leaf puts byte `off` of its page (R246 to R248), or none. -/
def leafPhys (s : State) (e : Pte) (off : Nat) : Option Phys :=
  let sz := 4096 * 4 ^ e.size
  match e.tier with
  | 0 => match stacksOf e.smask with
    | [st] => if e.frame * 4096 + sz ≤ Config.stackBytes then some (.hbm (hbmKey st (e.frame * 4096 + off))) else none
    | _ => none
  | 1 =>
    let l := stacksOf e.smask
    let m := l.length
    let g := off / 4096
    if m = 0 then none
    else if e.frame * 4096 + (4 ^ e.size + m - 1) / m * 4096 ≤ Config.stackBytes then
      (l[g % m]?).map (fun st => .hbm (hbmKey st (e.frame * 4096 + g / m * 4096 + off % 4096)))
    else none
  | 2 => if e.smask = 0 ∧ s.far ∧ e.frame * 4096 + sz ≤ Config.farBytes then some (.far (e.frame * 4096 + off)) else none
  | _ => none

/-- The offset in a page of a byte of DRAM that the page holds. -/
def pageOff (e : Pte) (p : Phys) : Option Nat :=
  let f := e.frame * 4096
  match p with
  | .lent _ _ => none
  | .far a => if e.tier = 2 ∧ f ≤ a ∧ a < f + 4096 * 4 ^ e.size then some (a - f) else none
  | .hbm k =>
    let a := k % 2 ^ 36
    let l := stacksOf e.smask
    match (List.range l.length).find? (fun i => decide (l.getD i 8 = k / 2 ^ 36)) with
    | none => none
    | some i =>
      let o := if e.tier = 0 then a - f else ((a - f) / 4096 * l.length + i) * 4096 + (a - f) % 4096
      if e.tier ≤ 1 ∧ f ≤ a ∧ o < 4096 * 4 ^ e.size then some o else none

/-- The leaf sizes of a level, lowest first: L0, L1, L2; L3 has none (R246). -/
def leafOk (level size : Nat) : Bool :=
  match level with
  | 0 => decide (size ≤ 3)
  | 1 => decide (4 ≤ size) && decide (size ≤ 9)
  | 2 => decide (10 ≤ size)
  | _ => false

/-- The index of a DVA at a level and the bytes of that level's table (R245). -/
def levelIdx (level dva : Nat) : Nat × Nat :=
  match level with
  | 0 => (fld dva 12 8, 2048)
  | 1 => (fld dva 20 12, 32768)
  | 2 => (fld dva 32 12, 32768)
  | _ => (fld dva 44 12, 32768)

/-- What a walk gives: a leaf, a translation fault, or uncorrectable data met while it read a table. -/
inductive WalkRes where
  | leaf (e : BitVec 64)
  | absent
  | bad
  deriving DecidableEq, Repr

/-- Walk from a table at `p` down from `level` (R245 to R247). -/
def walkFrom (s : State) (level : Nat) (p : Phys) (dva : Nat) : WalkRes :=
  let at_ := p.add ((levelIdx level dva).1 * 8)
  if physBad s at_ then .bad
  else
    let v := leNat (readN (fun i => physByte s (at_.add i)) 8 0)
    let e := pteOf v
    if !e.valid || e.rsv || decide (e.tier = 3) then .absent
    else if e.leaf then
      if leafOk level e.size && (leafPhys s e 0).isSome then .leaf (BitVec.ofNat 64 v) else .absent
    else if e.size ≠ 0 ∨ (2 ≤ level ∧ e.frame * 4096 % 32768 ≠ 0) then .absent
    else match level with
      | 0 => .absent
      | l + 1 => match tableAt s e (levelIdx l dva).2 with
        | none => .absent
        | some q => walkFrom s l q dva

/-- The root table of a context (R245). -/
def rootTable (s : State) (ctx : Nat) : Option Phys :=
  (SMap.look s.ctxs ctx).bind (fun c => if tb c.root.toNat 0 then tableAt s (pteOf c.root.toNat) 32768 else none)

/-- Walk a DVA of a context from its root (R245). -/
def walk (s : State) (ctx dva : Nat) : WalkRes :=
  match rootTable s ctx with
  | none => .absent
  | some p => walkFrom s 3 p dva

/-- The table to which an entry of a level leads a walk of a DVA: none where the entry is absent, a leaf, or takes a translation fault (R245 to R247). -/
def nodeNext (s : State) (level : Nat) (e : Pte) (dva : Nat) : Option Phys :=
  match level with
  | 0 => none
  | l + 1 =>
    if !e.valid || e.leaf || e.rsv || decide (e.size ≠ 0) || (decide (1 ≤ l) && decide (e.frame * 4096 % 32768 ≠ 0)) then none
    else tableAt s e (levelIdx l dva).2

/-- The entries that a walk from a table at `p` reads: the level, the place and the value of each. -/
def walkReads (s : State) (level : Nat) (p : Phys) (dva : Nat) : List (Nat × Phys × Nat) :=
  let at_ := p.add ((levelIdx level dva).1 * 8)
  let v := leNat (readN (fun i => physByte s (at_.add i)) 8 0)
  (level, at_, v) :: (if physBad s at_ then []
    else match level with
      | 0 => []
      | l + 1 => match nodeNext s (l + 1) (pteOf v) dva with
        | none => []
        | some q => walkReads s l q dva)

/-- The bytes of the page of a leaf. -/
def pageBytes (e : BitVec 64) : Nat := 4096 * 4 ^ (pteOf e.toNat).size

/-- Where a leaf puts a DVA. -/
def leafAt (s : State) (e : BitVec 64) (dva : Nat) : Option Phys := leafPhys s (pteOf e.toNat) (dva % pageBytes e)

/-! ## Translation caches (R249) -/

/-- The second-level share of a DVA: a die's own, or the FED's for a die that is offline. -/
def shareOf (s : State) (ctx dva : Nat) : Nat :=
  let k := (fld dva 20 36 + ctx) % 9
  if k < 8 ∧ s.plant.dies.getD k .off ≠ .on then 8 else k

/-- Bytes that one entry of a table covers. -/
def coverage (level : Nat) : Nat := match level with | 0 => 2 ^ 12 | 1 => 2 ^ 20 | 2 => 2 ^ 32 | _ => 2 ^ 44

/-- The leaf that a cache holds for a DVA. -/
def tlbAt (s : State) (place ctx dva : Nat) : Option Tlb :=
  s.fl.tlb.find? (fun x => decide (x.place = place) && decide (x.ctx = ctx) && decide (x.dva ≤ dva) && decide (dva < x.dva + pageBytes x.entry))

/-- The lowest non-leaf entry on the way to a DVA that its share's walk cache holds. -/
def nodeAt (s : State) (ctx dva : Nat) : Option WalkE :=
  [1, 2, 3].findSome? (fun l => s.fl.nodes.find? (fun x =>
    decide (x.place = shareOf s ctx dva) && decide (x.ctx = ctx) && decide (x.level = l) && decide (x.idx = dva / coverage l)))

/-- The table from which a share walks for a DVA, and its level: below the cached non-leaf entry, or the root. -/
def walkStart (s : State) (ctx dva : Nat) : Option (Nat × Phys) :=
  match nodeAt s ctx dva with
  | some x => (tableAt s (pteOf x.entry.toNat) (levelIdx (x.level - 1) dva).2).map (fun p => (x.level - 1, p))
  | none => (rootTable s ctx).map (fun p => (3, p))

/-- A walk by the share of a DVA. -/
def shareWalk (s : State) (ctx dva : Nat) : WalkRes :=
  match walkStart s ctx dva with
  | none => .absent
  | some (l, p) => walkFrom s l p dva

/-- Translation by an agent without a cache of its own: the share's entry, or a walk. -/
def walkCached (s : State) (ctx dva : Nat) : WalkRes :=
  match tlbAt s (shareOf s ctx dva) ctx dva with
  | some x => .leaf x.entry
  | none => shareWalk s ctx dva

/-- A list that holds at most `cap` of the things that `mine` names, with a new one: a freely chosen one of them leaves a full list. -/
def cachePut {α : Type} (mine : α → Bool) (cap n : Nat) (l : List α) (x : α) : List α :=
  let k := l.countP mine
  if k < cap then x :: l
  else
    let v := Config.freeNat n % k
    x :: (l.foldr (fun y (acc : List α × Nat) => if mine y then (if acc.2 = v then acc.1 else y :: acc.1, acc.2 + 1) else (y :: acc.1, acc.2)) ([], 0)).1

/-- Entries of a cache: 16,384 at a share, 128 at a barge, 32 at a weir unit. -/
def tlbCap (place : Nat) : Nat := if place < 16 then 16384 else if place < 64 then 128 else 32

/-- A leaf entered in a cache. -/
def tlbPut (s : State) (x : Tlb) : State :=
  { s with free := s.free + 1,
           fl := { s.fl with tlb := cachePut (fun y => decide (y.place = x.place)) (tlbCap x.place) s.free s.fl.tlb x } }

/-- A first-level cache filled from the share of a DVA, where the share holds a leaf that it lacks. -/
def tlbFill (s : State) (place ctx dva : Nat) : State :=
  if (tlbAt s place ctx dva).isSome then s
  else match tlbAt s (shareOf s ctx dva) ctx dva with
    | some x => tlbPut s { x with place := place }
    | none => s

/-- The non-leaf entries that a walk read and went on by, entered in its share's walk cache of 256. -/
def nodesPut (s : State) (share ctx dva : Nat) (l : List (Nat × Phys × Nat)) : State :=
  l.foldl (fun t e =>
    if physBad t e.2.1 || (nodeNext t e.1 (pteOf e.2.2) dva).isNone then t
    else
      let x : WalkE := { place := share, ctx := ctx, level := e.1, idx := dva / coverage e.1, entry := BitVec.ofNat 64 e.2.2 }
      let l1 := t.fl.nodes.filter (fun y => !(decide (y.place = share) && decide (y.ctx = ctx) && decide (y.level = x.level) && decide (y.idx = x.idx)))
      { t with free := t.free + 1, fl := { t.fl with nodes := cachePut (fun y => decide (y.place = share)) 256 t.free l1 x } }) s

/-! ## Banks (R240, R242) -/

/-- The number of a bank in the table of activation counters. -/
def bankKey (stack channel bank : Nat) : Nat := stack * 32768 + channel * 1024 + bank

/-- The bank of a byte of a stack. -/
def bankAt (a : Nat) : Nat := bankKey (a / 2 ^ 36) (Config.channelOf (a / 4096)).toNat (Config.bankOf (a / 32)).toNat

/-- Whether a bank takes no activation until its refresh-management command has been issued (R242). -/
def bankFull (s : State) (p : Phys) : Bool :=
  match p with
  | .hbm a => decide (2 * s.set.level ≤ SMap.get 0 s.plant.banks (bankAt a))
  | _ => false

/-- One activation for an access to DRAM. A bank whose counter stands at 2L first has its command issued (R242, log 16). -/
def activate (s : State) (p : Phys) : State :=
  match p with
  | .hbm a =>
    let n := SMap.get 0 s.plant.banks (bankAt a)
    let m := if 2 * s.set.level ≤ n then n - s.set.level else n
    { s with plant := { s.plant with banks := SMap.set 0 s.plant.banks (bankAt a) (m + 1) } }
  | _ => s

/-- The activations of an access to `n` bytes of DRAM: one for each 64-byte piece (R242, log 16). -/
def touchRun (s : State) (p : Phys) (n : Nat) : State := (List.range ((n + 63) / 64)).foldl (fun t i => activate t (p.add (64 * i))) s

/-- The activations of an access to a whole page. -/
def touchPage (s : State) (e : Pte) : State :=
  (List.range (64 * 4 ^ e.size)).foldl (fun t i => match leafPhys t e (64 * i) with | some p => activate t p | none => t) s

/-- The entries that the share of a DVA reads in a walk of it. -/
def walkList (s : State) (ctx dva : Nat) : List (Nat × Phys × Nat) :=
  match walkStart s ctx dva with
  | none => []
  | some (l, p) => walkReads s l p dva

/-- A walk by the share of a DVA, which fills its caches from what it reads (R249). -/
def shareFill (s : State) (ctx dva : Nat) : State :=
  let k := shareOf s ctx dva
  let l := walkList s ctx dva
  let s1 := nodesPut (l.foldl (fun t e => activate t e.2.1) s) k ctx dva l
  match shareWalk s ctx dva with
  | .leaf x => tlbPut s1 { place := k, ctx := ctx, dva := dva / pageBytes x * pageBytes x, entry := x }
  | _ => s1

/-- A walk in flight done: it has read each entry from its home and filled the share's caches; a failing one leaves its outcome for the
requester, 1000 absent, 1001 uncorrectable (R247, R249). -/
def walkDone (s : State) (w : Walk) : State :=
  let s1 := shareFill s w.ctx w.dva
  let s2 := { s1 with fl := { s1.fl with walks := s1.fl.walks.filter (fun x => decide (x.id ≠ w.id)) } }
  let miss (k : Nat) : State :=
    { s2 with fl := { s2.fl with tlb := { place := k, ctx := w.ctx, dva := w.dva, entry := 0 } :: s2.fl.tlb } }
  match shareWalk s w.ctx w.dva with
  | .leaf _ => s2
  | .absent => miss 1000
  | .bad => miss 1001

/-- What a miss waits for at its share before it walks by itself: a walk in flight that matches, and where 32 are in flight the first of them, which
end here, as they may at any time (R249; log 16). -/
def joinWalks (s : State) (ctx dva : Nat) : State :=
  let s1 := (s.fl.walks.filter (fun w => decide (w.ctx = ctx) && decide (w.dva / 2 ^ 20 = dva / 2 ^ 20))).foldl walkDone s
  let l := s1.fl.walks.filter (fun w => decide (w.share = shareOf s1 ctx dva))
  if 32 ≤ l.length then (l.head?.map (walkDone s1)).getD s1 else s1

/-- Whether a leaf permits the access (R247). -/
def leafOkFor (e : BitVec 64) (wr : Bool) : Bool := if wr then (pteOf e.toNat).wr else (pteOf e.toNat).rd

/-- A DVA mapped to lent memory by command 0xC012, as the tenant address of the context's tenant (R320). -/
def lentAt (s : State) (ctx dva : Nat) (wr : Bool) : Option (Option Phys) :=
  match SMap.look s.ctxs ctx with
  | none => none
  | some c => match c.maps.find? (fun r => decide (r.1 ≤ dva) && decide (dva < r.1 + r.2.2.1)) with
    | none => none
    | some r => match c.tenant with
      | some t => if wr && !r.2.2.2 then some none else some (some (.lent t (r.2.1 + (dva - r.1))))
      | none => some none

/-- The share's caches after an access to a DVA by an agent without a cache of its own: a miss has been walked (R249). -/
def useDva (s : State) (ctx dva : Nat) : State :=
  let hit (t : State) : Bool := (tlbAt t (shareOf t ctx dva) ctx dva).isSome
  if 2 ^ 56 ≤ dva ∨ (lentAt s ctx dva false).isSome ∨ hit s then s
  else if hit (joinWalks s ctx dva) then joinWalks s ctx dva
  else shareFill (joinWalks s ctx dva) ctx dva

/-- Bytes put in DRAM, one run from `p`, with the granules of R363: whole granules lose their poison. -/
def putDram (s : State) (p : Phys) (l : List Byte) : State :=
  match p with
  | .hbm a =>
    let n := l.length
    let bad := s.mem.badHbm.filter (fun g => !(decide (a ≤ g * 32) && decide (g * 32 + 32 ≤ a + n)))
    { s with mem := { s.mem with hbm := writeAll s.mem.hbm (bytesAt a l), badHbm := bad } }
  | .far a =>
    let n := l.length
    let bad := s.mem.badFar.filter (fun g => !(decide (a ≤ g * 64) && decide (g * 64 + 64 ≤ a + n)))
    { s with mem := { s.mem with far := writeAll s.mem.far (bytesAt a l), badFar := bad } }
  | .lent _ _ => s

/-- The byte address of a place in its tier. -/
def Phys.off (p : Phys) : Nat := match p with | .hbm a => a | .far a => a | .lent _ a => a

/-- The other places of a byte of DRAM whose page an evacuation has moved, until no access uses the old entry any more: a write reaches both
(R251, R252; DEDUCED, log 85). -/
def twins (s : State) (p : Phys) : List Phys :=
  s.fl.invals.filterMap (fun v => v.moved.bind (fun m =>
    match pageOff (pteOf m.1.toNat) p, pageOff (pteOf m.2.toNat) p with
    | some o, _ => leafPhys s (pteOf m.2.toNat) o
    | none, some o => leafPhys s (pteOf m.1.toNat) o
    | none, none => none))

/-- A run written at its other places, 4 KiB by 4 KiB; `fuel` bounds the pieces. -/
def putTwins (s : State) (p : Phys) (l : List Byte) (fuel : Nat) : State :=
  match fuel with
  | 0 => s
  | n + 1 =>
    if l.isEmpty then s
    else
      let c := 4096 - p.off % 4096
      putTwins ((twins s p).foldl (fun t q => putDram t q (l.take c)) s) (p.add c) (l.drop c) n

/-- Bytes written in DRAM, one run from `p`, also at the other place of a page that has just moved. -/
def writeDram (s : State) (p : Phys) (l : List Byte) : State :=
  if s.fl.invals.all (fun v => v.moved.isNone) then putDram s p l else putTwins (putDram s p l) p l l.length

/-! ## What a page table maps (R245 to R248) -/

/-- The indices of the entries of a table that are not all zero. -/
def usedEntries (s : State) (p : Phys) (bytes : Nat) : List Nat :=
  (match p with
    | .hbm a => (s.mem.hbm.filter (fun (c : Nat × Byte) => decide (a ≤ c.1) && decide (c.1 < a + bytes))).map (fun (c : Nat × Byte) => (c.1 - a) / 8)
    | .far a => (s.mem.far.filter (fun (c : Nat × Byte) => decide (a ≤ c.1) && decide (c.1 < a + bytes))).map (fun (c : Nat × Byte) => (c.1 - a) / 8)
    | .lent _ _ => []).dedup

/-- What lies under a table: the leaves with their DVAs, and the tables with their levels. -/
structure Under where
  leaves : List (Nat × BitVec 64)
  tables : List (Phys × Nat)
  deriving DecidableEq, Repr

/-- The leaves and tables under a table at `p` for the DVAs from `dva` up. -/
def underFrom (s : State) (level : Nat) (p : Phys) (dva : Nat) : Under :=
  (usedEntries s p (levelIdx level 0).2).foldl (fun acc i =>
    let at_ := p.add (i * 8)
    let v := leNat (readN (fun k => physByte s (at_.add k)) 8 0)
    let e := pteOf v
    let x := dva + i * coverage level
    if !e.valid then acc
    else if e.leaf then
      (if leafOk level e.size then { acc with leaves := acc.leaves ++ [(x, BitVec.ofNat 64 v)] } else acc)
    else match level with
      | 0 => acc
      | l + 1 => match tableAt s e (levelIdx l 0).2 with
        | none => acc
        | some q =>
          let r := underFrom s l q x
          { leaves := acc.leaves ++ r.leaves, tables := acc.tables ++ r.tables }) { leaves := [], tables := [(p, level)] }

/-- The page table of a context. -/
def tablesOf (s : State) (ctx : Nat) : Under :=
  match rootTable s ctx with
  | none => { leaves := [], tables := [] }
  | some p => underFrom s 3 p 0

end Sys2Proof.Machine
end

