-- ==== Sys2Proof/Machine/Lent.lean ====
section
/-! DEFINITION. Lent memory at its home: map entries (R312), frames (R311), bytes, images and poison (R313, R314, R319), writes (R316), and what a
DVA names for an agent of the package (R247, R320). A frame in use holds its data as the TSI deciphers them; one that is released
holds ciphertext, whose bytes are free (R314, log 9). -/

namespace Sys2Proof.Machine

/-! ## Map entries (R312) -/

/-- `w` with bits `lo` to `lo + n - 1` replaced. -/
def setFld (w lo n v : Nat) : Nat := w - fld w lo n * 2 ^ lo + v % 2 ^ n * 2 ^ lo

/-- The entry of a page. -/
def Tenant.entry (t : Tenant) (p : Nat) : Nat := (SMap.get (0 : BitVec 64) t.pages p).toNat

/-- The state of an entry: 0 zero, 1 plain, 2 compressed, 3 migrating, 4 lost. -/
def entState (e : Nat) : Nat := fld e 61 3

/-- Whether an entry names data. -/
def entData (e : Nat) : Bool := decide (entState e ≠ 0) && decide (entState e ≠ 4)

/-- The place of a page's data. -/
def entPhys (e : Nat) : Phys :=
  let a := fld e 8 44 * 256
  if tb e 59 then .far a else .hbm (hbmKey (fld e 56 3) a)

/-- The bytes of a page's data in its tier: a frame, or a compressed image. -/
def entSize (e : Nat) : Nat := if entState e = 2 then (fld e 52 4 + 1) * 256 else 4096

/-- A page's entry replaced. -/
def Tenant.setEntry (t : Tenant) (p e : Nat) : Tenant := { t with pages := SMap.set 0 t.pages p (BitVec.ofNat 64 e) }

/-- A tenant replaced. -/
def State.setTenant (s : State) (k : Nat) (t : Tenant) : State := { s with tenants := SMap.put s.tenants k t }

/-- An entry of state `st` with the place of frame `f` and the mark and counter of `e`. -/
def entAt (st f e : Nat) : Nat := st * 2 ^ 61 + f % 2 ^ 60 + (if tb e 60 then 2 ^ 60 else 0) + fld e 0 8

/-! ## Frames (R311; log 15) -/

/-- A run of a tier in use: the far tier, or an HBM4 stack. -/
structure Extent where
  far : Bool
  stack : Nat
  at_ : Nat
  len : Nat
  deriving DecidableEq, Repr

/-- The entries and side records of every tenant. -/
def lentEntries (s : State) : List Nat :=
  s.tenants.flatMap (fun t => t.2.pages.map (fun e => e.2.toNat) ++ t.2.side.map (fun e => e.2.toNat))

/-- Whether two runs share a byte. -/
def Extent.meets (a b : Extent) : Bool :=
  decide (a.far = b.far) && (a.far || decide (a.stack = b.stack)) && decide (a.at_ < b.at_ + b.len) && decide (b.at_ < a.at_ + a.len)

/-- What lent data take of the tiers. -/
def lentExtents (s : State) : List Extent :=
  (lentEntries s).filterMap (fun e =>
    if entData e then some { far := tb e 59, stack := fld e 56 3, at_ := fld e 8 44 * 256, len := entSize e } else none)

/-- What a leaf's page takes of the tiers (R248). -/
def leafExtents (e : Pte) : List Extent :=
  let x (k n : Nat) : Extent := { far := decide (e.tier = 2), stack := k, at_ := e.frame * 4096, len := n }
  let m := (stacksOf e.smask).length
  match e.tier with
  | 2 => [x 0 (4096 * 4 ^ e.size)]
  | t => (stacksOf e.smask).map (fun k => x k (if t = 0 then 4096 * 4 ^ e.size else (4 ^ e.size + m - 1) / m * 4096))

/-- What the pages and tables of contexts take of the tiers. -/
def devExtents (s : State) : List Extent :=
  s.ctxs.flatMap (fun c =>
    let u := tablesOf s c.1
    u.leaves.flatMap (fun l => leafExtents (pteOf l.2.toNat)) ++ u.tables.filterMap (fun p =>
      let n := (levelIdx p.2 0).2
      match p.1 with
      | .hbm a => some { far := false, stack := a / 2 ^ 36, at_ := a % 2 ^ 36, len := n }
      | .far a => some { far := true, stack := 0, at_ := a, len := n }
      | .lent _ _ => none))

/-- The highest run of `n` bytes below `top`, at a multiple of `al`, that meets no extent of a list. -/
def freePlace (l : List Extent) (top n al : Nat) : Option Nat :=
  let c := (top :: l.map (fun e => e.at_)).filterMap (fun a => if n ≤ a then some ((a - n) / al * al) else none)
  ((c.filter (fun a => l.all (fun e => decide (a + n ≤ e.at_) || decide (e.at_ + e.len ≤ a)))).foldl
    (fun (acc : Option Nat) a => some (max a (acc.getD 0))) none)

/-- The element of a list whose key is least, the first of equals. -/
def leastBy {α : Type} (f : α → Nat) (l : List α) : Option α :=
  l.foldl (fun acc x => match acc with
    | none => some x
    | some b => if f x < f b then some x else some b) none

/-- A free run in the stack, of those whose die `ok` admits, that holds the least lent data. -/
def hbmPlace (s : State) (l : List Extent) (ok : DieState → Bool) (n al : Nat) : Option Nat :=
  let on (k : Nat) : List Extent := l.filter (fun e => !e.far && decide (e.stack = k))
  let c := (List.range 8).filterMap (fun k =>
    if ok (s.plant.dies.getD k .off) then (freePlace (on k) Config.stackBytes n al).map (fun a => (k, a)) else none)
  (leastBy (fun e => ((lentExtents s).filter (fun x => !x.far && decide (x.stack = e.1))).length) c).map (fun e => e.1 * 2 ^ 56 + e.2)

/-- A free run in the far tier. -/
def farPlace (s : State) (l : List Extent) (n al : Nat) : Option Nat :=
  if s.far then (freePlace (l.filter (fun e => e.far)) Config.farBytes n al).map (fun a => 2 ^ 59 + a) else none

/-- Whether new data may be placed in the stack of a die. -/
def placesData (d : DieState) : Bool := match d with | .on => true | .memoryOnly => true | _ => false

/-- What is in use: lent data, the pages and tables of contexts, and the old place of a page whose move is not complete. -/
def usedExtents (s : State) : List Extent :=
  lentExtents s ++ devExtents s ++ s.fl.invals.flatMap (fun v => match v.moved with | some m => leafExtents (pteOf m.1.toNat) | none => [])

/-- A free run in an HBM4 stack in service. -/
def hbmFree (s : State) (n al : Nat) : Option Nat := hbmPlace s (usedExtents s) placesData n al

/-- A free run in the far tier. -/
def farFree (s : State) (n al : Nat) : Option Nat := farPlace s (usedExtents s) n al

/-- A frame for a page, which the tenant's reserve holds ready: a free one, or one that device pages have strayed into. -/
def anyFrame (s : State) : Option Nat :=
  hbmFree s 4096 4096 <|> farFree s 4096 4096 <|> hbmPlace s (lentExtents s) placesData 4096 4096
    <|> farPlace s (lentExtents s) 4096 4096 <|> hbmPlace s (lentExtents s) (fun d => decide (d ≠ .off)) 4096 4096

/-- Frames of the stacks that are not off and of the far tier that hold no lent data. -/
def framesLeft (s : State) : Nat :=
  let used := ((lentExtents s).flatMap (fun e => (List.range ((e.at_ % 4096 + e.len + 4095) / 4096)).map (fun i =>
    ((if e.far then 8 else e.stack) * 2 ^ 40 + e.at_ / 4096 + i)))).dedup
  ((List.range 8).filter (fun d => decide (s.plant.dies.getD d .off ≠ .off))).length * (Config.stackBytes / 4096)
    + (if s.far then Config.farBytes / 4096 else 0) - used.length

/-- Frames that the reserves of the tenants still owe: one for each page that has none of its own (R311). -/
def framesOwed (s : State) : Nat :=
  (s.tenants.map (fun t => t.2.size / 4096 - (t.2.pages.filter (fun e => decide (entState e.2.toNat = 1) || decide (entState e.2.toNat = 3))).length)).sum

/-- Whether a frame is free beyond the reserves: a migration or a compression takes no other, so that a host write never fails for want of one (R311). -/
def spareFrame (s : State) : Bool := decide (framesOwed s < framesLeft s)

/-- Whether a frame backs a lent page: such a frame is reached only through a mapped range (R320). -/
def taggedFrame (s : State) (p : Phys) : Bool :=
  let in_ (far : Bool) (k a : Nat) : Bool := (lentExtents s).any (fun e => decide (e.far = far) && (far || decide (e.stack = k)) &&
    decide (e.at_ / 4096 ≤ a / 4096) && decide (a / 4096 ≤ (e.at_ + e.len - 1) / 4096))
  match p with
  | .hbm a => in_ false (a / 2 ^ 36) (a % 2 ^ 36)
  | .far a => in_ true 0 a
  | .lent _ _ => false

/-- Bytes written in DRAM with no effect on poison. -/
def putRaw (s : State) (p : Phys) (l : List Byte) : State :=
  match p with
  | .hbm a => { s with mem := { s.mem with hbm := writeAll s.mem.hbm (bytesAt a l) } }
  | .far a => { s with mem := { s.mem with far := writeAll s.mem.far (bytesAt a l) } }
  | .lent _ _ => s

/-- A run that is released, or whose key is gone: what it holds is ciphertext (R314). -/
def cipherRun (s : State) (p : Phys) (n : Nat) : State :=
  putRaw { s with free := s.free + 1 } p ((List.range n).map (Config.staleByte s.free))

/-- A new image written: ciphertext. -/
def putImage (s : State) (p : Phys) (n : Nat) : State :=
  writeDram { s with free := s.free + 1 } p ((List.range n).map (Config.staleByte s.free))

/-- A frame set to zero before its first use. -/
def zeroFrame (s : State) (e : Nat) : State :=
  match entPhys e with
  | .hbm a => { s with mem := { s.mem with hbm := zeroRange s.mem.hbm a 4096,
                                           badHbm := s.mem.badHbm.filter (fun g => !(decide (a / 32 ≤ g) && decide (g < a / 32 + 128))) } }
  | .far a => { s with mem := { s.mem with far := zeroRange s.mem.far a 4096,
                                           badFar := s.mem.badFar.filter (fun g => !(decide (a / 64 ≤ g) && decide (g < a / 64 + 64))) } }
  | .lent _ _ => s

/-! ## Bytes and poison (R313, R316, R319) -/

/-- A byte of lent memory at home. -/
def lentByte (s : State) (k a : Nat) : Byte :=
  match SMap.look s.tenants k with
  | none => 0
  | some t =>
    let e := t.entry (a / 4096)
    match SMap.look t.wbuf a with
    | some b => b
    | none =>
      if !entData e then 0
      else if entState e = 2 then SMap.get 0 t.comp a
      else physByte s ((entPhys e).add (a % 4096))

/-- Whether every byte of a line waits in the write buffer. -/
def Tenant.buffered (t : Tenant) (line : Nat) : Bool :=
  (List.range 64).all (fun i => (SMap.look t.wbuf (line * 64 + i)).isSome)

/-- The bytes of an ECC granule of an entry's tier (R363). -/
def entGran (e : Nat) : Nat := if tb e 59 then 64 else 32

/-- Whether the index of a page's image cannot be read. -/
def indexBad (s : State) (e : Nat) : Bool := physBad s (entPhys e)

/-- Whether a granule of an image that holds the index or part of block `b` cannot be read (R313). -/
def blockBad (s : State) (e b : Nat) : Bool :=
  (List.range (entSize e / entGran e)).any (fun i =>
    physBad s ((entPhys e).add (i * entGran e)) && (decide (i = 0) || Config.imageBlock (e / 256 % 2 ^ 52) i b))

/-- Whether a line of a page reads as poison (R319). -/
def linePoison (s : State) (t : Tenant) (line : Nat) : Bool :=
  let e := t.entry (line / 64)
  let p := entPhys e
  let o := line % 64 * 64
  t.poison.contains line || decide (entState e = 4)
    || (match entState e with
      | 0 => false
      | 2 => !t.buffered line && blockBad s e (o / 1024)
      | _ => physBad s (p.add o) || physBad s (p.add (o + 32)))

/-- The 64 bytes of a line. -/
def lineBytes (s : State) (k line : Nat) : List Byte := readN (lentByte s k) 64 (line * 64)

/-- The poisoned lines of a tenant with those of page `p` that read as poison now. -/
def keepPoison (s : State) (t : Tenant) (p : Nat) : List Nat :=
  (List.range 64).foldl (fun l i => if linePoison s t (p * 64 + i) then setAdd l (p * 64 + i) else l) t.poison

/-- What a tenant holds for page `p` outside its frame, gone. -/
def Tenant.forget (t : Tenant) (p : Nat) : Tenant :=
  let other (b : Nat × Byte) : Bool := decide (b.1 / 4096 ≠ p)
  { t with comp := t.comp.filter other, wbuf := t.wbuf.filter other }

/-- A compressed page in a plain frame, with its buffered writes: in HBM4 where a frame is free. A page whose index cannot be read, and
of which no write waits, is lost (R312, R313, R319; log 15). -/
def expandPage (s : State) (k p : Nat) : State :=
  match SMap.look s.tenants k with
  | none => s
  | some t =>
    let e := t.entry p
    if entState e ≠ 2 then s
    else if indexBad s e && !t.wbuf.any (fun b => decide (b.1 / 4096 = p)) then
      (cipherRun s (entPhys e) (entSize e)).setTenant k ((t.forget p).setEntry p (entAt 4 0 e))
    else match anyFrame s with
      | none => s
      | some f =>
        let e1 := entAt 1 f e
        let data := readN (lentByte s k) 4096 (p * 4096)
        let s0 := touchRun (touchRun s (entPhys e) (entSize e)) (entPhys e1) 4096
        let s1 := writeDram (zeroFrame (cipherRun s0 (entPhys e) (entSize e)) e1) (entPhys e1) data
        s1.setTenant k { (t.forget p).setEntry p e1 with poison := keepPoison s t p }

/-- A page's data compressed into an image at a free place, in the far tier for a page there: what it takes there is the free size of the
image (R313, log 15). -/
def packPage (s : State) (k p : Nat) : State :=
  match SMap.look s.tenants k with
  | none => s
  | some t =>
    let e := t.entry p
    let z := (Config.imageSize s.free).toNat
    let n := (z + 1) * 256
    if (entState e ≠ 1 ∧ entState e ≠ 2) ∨ spareFrame s = false then s
    else match (if tb e 59 then farFree s n 256 <|> hbmFree s n 256 else hbmFree s n 256 <|> farFree s n 256) with
      | none => s
      | some f =>
        let e1 := setFld (entAt 2 f e) 52 4 z
        let data := readN (lentByte s k) 4096 (p * 4096)
        let s0 := touchRun (touchRun { s with free := s.free + 1 } (entPhys e) (entSize e)) (entPhys e1) n
        let s1 := putImage (cipherRun s0 (entPhys e) (entSize e)) (entPhys e1) n
        s1.setTenant k { (t.forget p).setEntry p e1 with comp := writeAll (t.forget p).comp (bytesAt (p * 4096) data),
                                                          poison := keepPoison s t p }

/-- A page in state 0 or 4 gets a zeroed frame before a write; every line of a lost page is then poisoned by itself. -/
def openPage (s : State) (k p : Nat) : State :=
  match SMap.look s.tenants k with
  | none => s
  | some t =>
    let e := t.entry p
    if entData e then s
    else match anyFrame s with
      | none => s
      | some f =>
        let e1 := entAt 1 f e
        (zeroFrame (touchRun s (entPhys e1) 4096) e1).setTenant k { t.setEntry p e1 with poison := if entState e = 4 then keepPoison s t p else t.poison }

/-- The bytes of the lines that wait in the write buffer, of all tenants. -/
def bufferUse (s : State) : Nat := (s.tenants.map (fun t => (t.2.wbuf.map (fun b => b.1 / 64)).dedup.length)).sum * 64

/-- The page of a line made ready for a write of it: a page without a frame gets one, and a compressed page whose write finds the 1 MiB buffer
full is expanded first (R313). -/
def readyPage (s : State) (k line : Nat) : State :=
  let s1 := openPage s k (line / 64)
  match SMap.look s1.tenants k with
  | none => s1
  | some t =>
    if entState (t.entry (line / 64)) = 2 ∧ 2 ^ 20 ≤ bufferUse s1 ∧ !t.wbuf.any (fun b => decide (b.1 / 64 = line)) then expandPage s1 k (line / 64)
    else s1

/-- Bytes written inside one line of lent memory: into the write buffer for a compressed page, into both copies of a
migrating one. A whole line lifts its poison; a part of a poisoned line leaves it (R313, R316, R319). -/
def writeLine (s0 : State) (k line : Nat) (l : List (Nat × Byte)) : State :=
  let s := readyPage s0 k line
  match SMap.look s.tenants k with
  | none => s
  | some t =>
    let e := t.entry (line / 64)
    let whole := (List.range 64).all (fun i => (SMap.look l (line * 64 + i)).isSome)
    let t1 := if whole then { t with poison := setDel t.poison line }
      else if linePoison s t line then { t with poison := setAdd t.poison line } else t
    let put (x : State) (f : Nat) : State :=
      let at_ := (entPhys f).add (line % 64 * 64)
      if whole then writeDram x at_ ((List.range 64).map (fun i => (SMap.look l (line * 64 + i)).getD 0))
      else l.foldl (fun y b => writeDram y (at_.add (b.1 % 64)) [b.2]) x
    if !entData e then s
    else if entState e = 2 then s.setTenant k { t1 with wbuf := l.foldl (fun m b => SMap.put m b.1 b.2) t1.wbuf }
    else
      let s1 := put (s.setTenant k t1) e
      match entState e, SMap.look t1.side (line / 64) with
      | 3, some d => put s1 d.toNat
      | _, _ => s1

/-- A run of bytes written to lent memory, line by line; `fuel` bounds the lines. -/
def writeLent (s : State) (k a : Nat) (l : List Byte) (fuel : Nat) : State :=
  match fuel with
  | 0 => s
  | n + 1 =>
    if l.isEmpty then s
    else
      let c := 64 - a % 64
      writeLent (writeLine s k (a / 64) (bytesAt a (l.take c))) k (a + c) (l.drop c) n

/-- Every frame and image of a tenant left as ciphertext. -/
def cipherAll (s : State) (t : Tenant) : State :=
  (t.pages ++ t.side).foldl (fun x e => if entData e.2.toNat then cipherRun x (entPhys e.2.toNat) (entSize e.2.toNat) else x) s

/-! ## The snoop that an access needs (R317, R318) -/

/-- The snoop that a device access needs first. A line brought home for this reader needs none. -/
def snoopFor (t : Tenant) (line : Nat) (wr : Bool) (who : Nat) : Option SnpKind :=
  match SMap.look t.dir line, wr with
  | none, _ => none
  | some .shared, true => some .inv
  | some .shared, false => none
  | some .exclusive, true => some .data
  | some .exclusive, false => if t.fresh.contains (line, who) then none else some .cur

/-- The requesters of snoops: a copy or collective, a queue's scanner, a unit, a grid, an ingress channel. -/
def jobWho (id : Nat) : Nat := 5 * id
def queueWho (q : Nat) : Nat := 5 * q + 1
def unitWho (u : UnitId) : Nat := 5 * (u.core * 64 + u.slot) + 2
def gridWho (g : Nat) : Nat := 5 * g + 3
def chanWho (c : Nat) : Nat := 5 * c + 4

/-- A snoop sent, unless the same one is outstanding. -/
def sendSnoop (s : State) (k line : Nat) (kind : SnpKind) (go : SnpThen) : State :=
  if s.fl.snoops.any (fun x => decide (x.tenant = k) && decide (x.line = line) && decide (x.kind = kind) && decide (x.go = go)) then s
  else
    let n : Snoop := { id := s.fl.seq, tenant := k, line := line, kind := kind, go := go, at_ := s.clk.now }
    { s with fl := { s.fl with snoops := s.fl.snoops ++ [n], seq := s.fl.seq + 1 } }

/-- A write by a unit of the package that does not wait for it: at once, or when the snoop that its line needs is answered. -/
def putLine (s : State) (k line : Nat) (l : List (Nat × Byte)) : State :=
  match SMap.look s.tenants k with
  | none => s
  | some t => match snoopFor t line true 0 with
    | some x => sendSnoop s k line x (.put l)
    | none => writeLine s k line l

/-! ## What a DVA names (R245 to R247, R320) -/

/-- Where a DVA of a context leads an access, by its leaf or its lent range: a place, or the code of the status word of R165. -/
def leafPlace (s : State) (e : BitVec 64) (dva : Nat) (wr : Bool) : Except Nat Phys :=
  if !leafOkFor e wr then .error 1
  else match leafAt s e dva with
    | none => .error 1
    | some p => if taggedFrame s p then .error 1 else .ok p

/-- Where a DVA leads an agent without a cache of its own. -/
def dvaPhys (s : State) (ctx dva : Nat) (wr : Bool) : Except Nat Phys :=
  if 2 ^ 56 ≤ dva then .error 1
  else match lentAt s ctx dva wr with
    | some none => .error 1
    | some (some p) => .ok p
    | none => match walkCached s ctx dva with
      | .absent => .error 1
      | .bad => .error 2
      | .leaf e => leafPlace s e dva wr

/-- A byte at a place, lent memory as at its home. -/
def placeByte (s : State) (p : Phys) : Byte := match p with | .lent t a => lentByte s t a | x => physByte s x

/-- Whether a place reads as uncorrectable. -/
def placeBad (s : State) (p : Phys) : Bool :=
  match p with
  | .lent t a => match SMap.look s.tenants t with | some x => linePoison s x (a / 64) | none => true
  | x => physBad s x

/-- One byte at a DVA, or the code with which reading it fails. -/
def dvaByte (s : State) (ctx dva : Nat) : Except Nat Byte :=
  match dvaPhys s ctx dva false with
  | .error c => .error c
  | .ok p => if placeBad s p then .error 2 else .ok (placeByte s p)

/-- `n` bytes from a DVA up, or the code and the address of the first that fails. -/
def readRun (s : State) (ctx dva n : Nat) : Except (Nat × Nat) (List Byte) :=
  match n with
  | 0 => .ok []
  | k + 1 => match dvaByte s ctx dva with
    | .error c => .error (c, dva)
    | .ok b => match readRun s ctx (dva + 1) k with
      | .ok t => .ok (b :: t)
      | .error x => .error x

/-- A run of DVA bytes; none where a translation or the data fails. -/
def readDva (s : State) (ctx dva n : Nat) : Option (List Byte) :=
  match readRun s ctx dva n with
  | .ok l => some l
  | .error _ => none

/-- The place of lent data in DRAM. -/
def atHome (s : State) (p : Phys) : Phys :=
  match p with
  | .lent t a => match SMap.look s.tenants t with
    | some x => (entPhys (x.entry (a / 4096))).add (if entState (x.entry (a / 4096)) = 2 then 0 else a % 4096)
    | none => p
  | x => x

/-- The activations that an access to `n` bytes from a DVA counts, one for each 64-byte piece and those of the walks, and the translations that it
leaves in the shares (R242, R249, log 16). -/
def touchDva (s : State) (ctx dva n : Nat) : State :=
  (List.range ((n + 63) / 64)).foldl (fun t i =>
    let u := useDva t ctx (dva + 64 * i)
    match dvaPhys t ctx (dva + 64 * i) false with
    | .ok p => activate u (atHome u p)
    | .error _ => u) s

/-- A piece of at most 64 bytes, within 64 aligned bytes, written at a DVA by a unit of the package; one that does not translate is dropped. -/
def putPiece (s : State) (ctx dva : Nat) (l : List Byte) : State :=
  match dvaPhys s ctx dva true with
  | .error _ => useDva s ctx dva
  | .ok (.lent t a) => putLine (activate s (atHome s (.lent t a))) t (a / 64) (bytesAt a l)
  | .ok p => writeDram (activate (useDva s ctx dva) p) p l

/-- A run of bytes written at a DVA, piece by piece; `fuel` bounds the pieces. -/
def putRun (s : State) (ctx dva : Nat) (l : List Byte) (fuel : Nat) : State :=
  match fuel with
  | 0 => s
  | n + 1 =>
    if l.isEmpty then s
    else
      let c := 64 - dva % 64
      putRun (putPiece s ctx dva (l.take c)) ctx (dva + c) (l.drop c) n

/-- A run of bytes written at a DVA; what does not translate is dropped. -/
def writeDva (s : State) (ctx dva : Nat) (l : List Byte) : State := putRun s ctx dva l l.length

end Sys2Proof.Machine
end

