-- ==== Sys2Proof/Machine/Ops.lean ====
section
/-! DEFINITION. The named operations over units, registers and memory that the meanings share: residents, S registers,
results in flight, parks, retirement, the store queue as a stream sees it, the release condition, the context fault
log, context reset, taking a trap and returning from one. -/

namespace Sys2Proof.Machine

/-- The outcome of a meaning. -/
abbrev Res := Host.Outcome State Fault Refusal

/-! ## Units -/

/-- The place of a unit in the table of units. -/
def ukey (u : UnitId) : Nat := u.core * 64 + u.slot

/-- The unit resident at a place. -/
def State.unit? (s : State) (u : UnitId) : Option Unit := SMap.look s.units (ukey u)

/-- The machine with a unit's new state. -/
def State.setUnit (s : State) (u : Unit) : State := { s with units := SMap.put s.units (ukey u.id) u }

/-- The machine without a unit. -/
def State.dropUnit (s : State) (u : UnitId) : State := { s with units := SMap.del s.units (ukey u) }

/-- Run `k` on the unit at the cursor. -/
def withUnit (s : State) (k : Unit → Res) : Res :=
  match s.unit? s.cur with
  | none => .fault .noUnit
  | some u => k u

/-- The die of a unit. -/
def Unit.die (u : Unit) : Nat := dieOf u.id.core
/-- The cluster of a unit. -/
def Unit.cluster (u : Unit) : Nat := clusterOf u.id.core

/-- Whether the unit is inside its handler (R19). -/
def Unit.inHandler (u : Unit) : Bool := tb u.trap.tcause.toNat 31

/-- A cluster's table entry; a cluster without an entry is as after reset (R178, R340). -/
def Engine.init : Engine :=
  { acc := [], corr := [], marks := [], inj := [], o := [], scale := [], drain := [], oBad := [], scaleBad := [],
    migs := [], queue := [], resv := [], doneNum := 0, doneStat := none }

def Pulse.init : Pulse := { frz := 64, pat := 0x5555, target := 0x5555, freezeTo := 0, rampAt := 0, safe := false, cnt := 0, cntAt := 0 }

def Cluster.init : Cluster := { handles := [], engine := Engine.init, pulse := Pulse.init }

def State.cluster (s : State) (cl : Nat) : Cluster := SMap.get Cluster.init s.clusters cl

def State.setCluster (s : State) (cl : Nat) (c : Cluster) : State := { s with clusters := SMap.put s.clusters cl c }

/-! ## Time in kept pulses (R4, R340) -/

/-- The pulses that a pattern keeps in mclk 0 to `n - 1`. -/
def keptBelow (pat : BitVec 16) (n : Nat) : Nat :=
  n / 16 * (List.range 16).countP (fun i => pat.getLsbD i) + (List.range (n % 16)).countP (fun i => pat.getLsbD i)

/-- The pulses that a cluster has kept up to mclk `now`. -/
def Pulse.count (p : Pulse) (now : Nat) : Nat := p.cnt + (keptBelow p.pat (now + 1) - keptBelow p.pat p.cntAt)

/-- A pattern that takes effect at mclk `now`: the pulses kept before stay counted. -/
def Pulse.setPat (p : Pulse) (now : Nat) (v : BitVec 16) : Pulse :=
  { p with cnt := p.cnt + (keptBelow p.pat now - keptBelow p.pat p.cntAt), cntAt := now, pat := v }

/-- The kept pulses of a core's cluster up to now. -/
def pulses (s : State) (core : Nat) : Nat := (s.cluster (clusterOf core)).pulse.count s.clk.now

/-- The count of kept pulses at which an operation of `n` mclk that starts now on a core ends: swallowed pulses, also those of a
later pattern, stretch it (R4). -/
def dueAt (s : State) (core n : Nat) : Nat := pulses s core + n

/-- The results of a word that issues now, in flight for `lat` mclk. -/
def flights (s : State) (core lat : Nat) (rs : List FRes) : List Fly :=
  rs.map (fun r => { due := dueAt s core lat, word := s.sch.progress, res := r })

/-! ## S registers -/

/-- `s`n: `s0` reads 0 (R8, R84). -/
def Unit.rs (u : Unit) (r : SReg) : Word := if r = 0 then 0 else SMap.get 0 u.sS.s r.toNat

/-- `p`n: `p0` reads true (R8, R84). -/
def Unit.rp (u : Unit) (p : PReg) : Bool := if p = 0 then true else SMap.get false u.sS.p p.toNat

/-- A register line written, which the rollback shadow then keeps (R285): lines 0 to 3 hold 16 `s` registers each, 8 the small registers, 9 the lane
queue, 10 and 11 the path slots, 16 on the `v` registers (log 14). -/
def Unit.dirt (u : Unit) (line : Nat) : Unit := { u with dirty := setAdd u.dirty line }

/-- `s`n written: `s0` ignores it. -/
def Unit.ws (u : Unit) (r : SReg) (v : Word) : Unit :=
  if r = 0 then u else ({ u with sS := { u.sS with s := SMap.set 0 u.sS.s r.toNat v } } : Unit).dirt (r.toNat / 16)

/-- `p`n written: `p0` ignores it. -/
def Unit.wp (u : Unit) (p : PReg) (b : Bool) : Unit :=
  if p = 0 then u else ({ u with sS := { u.sS with p := SMap.set false u.sS.p p.toNat b } } : Unit).dirt 8

/-- A mailbox as a read in mclk `now` finds it: a write of that mclk is not seen yet (R13). -/
def Unit.mailbox (u : Unit) (now n : Nat) : Word :=
  match SMap.look u.mbOld n with
  | some (t, v) => if t = now then v else SMap.get 0 u.mbVal n
  | none => SMap.get 0 u.mbVal n

/-- Whether a pending result stands on `s`r in the warp's current state; a result set aside for the interrupted
program does not (R21, R23). -/
def Unit.sPend (u : Unit) (r : SReg) : Bool :=
  u.pend.any (fun p => !p.saved && decide (p.dst = .s r))

/-- The mailbox that a register of a handler waits on when its read was issued before the trap and the runs that hold
the mailbox are set aside (R23): such a read cannot complete in the handler. -/
def Unit.mbPend (u : Unit) (r : SReg) : Option Nat :=
  match u.trap.saved with
  | none => none
  | some sv =>
    (u.pend.find? (fun p => !p.saved && decide (p.dst = .s r) && decide (p.id < sv.seq))).bind (fun p =>
      match p.what with
      | .mailbox n => if sv.mbCnt.getD n.toNat 0 = 0 then none else some n.toNat
      | _ => none)

/-! ## Lane registers -/

/-- The place of a lane of a `v` register in its table. -/
def vkey (r l : Nat) : Nat := r * 32 + l

/-- Lane `l` of `v`r. -/
def Unit.rv (u : Unit) (r l : Nat) : Half := SMap.get 0 u.lS.v (vkey r l)

/-- `q`n: `q0` reads all ones (R8). -/
def Unit.rq (u : Unit) (n : BitVec 3) : Mask := if n = 0 then 0xFFFFFFFF else SMap.get 0 u.lS.q n.toNat

/-- `v`r with lanes `l` upward taking the values where `mask` is set. -/
def wvFrom (m : SMap Half) (r l : Nat) (mask : Mask) (vals : List Half) : SMap Half :=
  match vals with
  | [] => m
  | x :: t => wvFrom (if mask.getLsbD l then SMap.set 0 m (vkey r l) x else m) r (l + 1) mask t

/-- Lanes of `v`r written. -/
def Unit.wv (u : Unit) (r : Nat) (mask : Mask) (vals : List Half) : Unit :=
  ({ u with lS := { u.lS with v := wvFrom u.lS.v r 0 mask vals } } : Unit).dirt (16 + r)

/-- The bits of `mask` taken from `bits`, the others kept. -/
def mergeMask (old mask bits : Mask) : Mask := (old &&& ~~~mask) ||| (bits &&& mask)

/-- A path slot by its index. -/
def Unit.slot (u : Unit) (i : Bool) : Slot := if i then u.lS.slot1 else u.lS.slot0

/-- A unit with a path slot replaced. -/
def Unit.setSlot (u : Unit) (i : Bool) (x : Slot) : Unit :=
  if i then { u with lS := { u.lS with slot1 := x } } else { u with lS := { u.lS with slot0 := x } }

/-- The slot index of a lane stream. -/
def strmSlot (st : Strm) : Bool := decide (st = .l1)

/-- The stream of a slot. -/
def slotStrm (i : Bool) : Strm := if i then .l1 else .l0

/-- The line of a path slot. -/
def slotLine (i : Bool) : Nat := if i then 11 else 10

/-- An idle path slot. -/
def Slot.idle : Slot :=
  { live := false, lpc := 0, em := 0, lanes := 0xFFFFFFFF, stack := [], fly := [], marked := false, park := none, hist := [], histQ := [],
    start := 0, seq0 := 0, shade := [], shadeQ := [] }

/-- Whether `v` registers r to r + n - 1 hold a pending bit (R21). -/
def Unit.vPend (u : Unit) (r n : Nat) : Bool :=
  u.pend.any (fun p => match p.dst with | .v x k => decide (x < r + n) && decide (r < x + k) | _ => false)

/-! ## Results in flight (R22) -/

/-- While both slots are live, the old values of its lanes that a word of a slot writes are kept for the other slot (R112). -/
def Unit.noteV (u : Unit) (i : Bool) (word r : Nat) (mask : Mask) : Unit :=
  if u.lS.slot0.live && u.lS.slot1.live then
    let own := mask &&& (u.slot i).lanes
    let old := (List.range 32).filterMap (fun l => if own.getLsbD l then some (word, vkey r l, u.rv r l) else none)
    u.setSlot i { u.slot i with hist := (u.slot i).hist ++ old }
  else u

/-- As `noteV` for a `q` register. -/
def Unit.noteQ (u : Unit) (i : Bool) (d : BitVec 3) (mask : Mask) : Unit :=
  if u.lS.slot0.live && u.lS.slot1.live then
    u.setSlot i { u.slot i with histQ := (u.slot i).histQ ++ [(d.toNat, mask &&& (u.slot i).lanes, u.rq d)] }
  else u

/-- A result of the other slot from before the divergence, written for lanes that slot `i` took: the other slot reads what was there until its own
results have been written (R22). -/
def Unit.shadeV (u : Unit) (i : Bool) (r : Nat) (mask : Mask) : Unit :=
  let o := u.slot (!i)
  u.setSlot (!i) { o with shade := (List.range 32).foldl (fun m l =>
    if mask.getLsbD l && (SMap.look m (vkey r l)).isNone then SMap.put m (vkey r l) (u.rv r l) else m) o.shade }

/-- As `shadeV` for a `q` register. -/
def Unit.shadeQ (u : Unit) (i : Bool) (d : BitVec 3) : Unit :=
  let o := u.slot (!i)
  u.setSlot (!i) { o with shadeQ := if (SMap.look o.shadeQ d.toNat).isSome then o.shadeQ else SMap.put o.shadeQ d.toNat (u.rq d) }

/-- Whether a result is of a word from before the divergence of a slot. -/
def Slot.earlier (x : Slot) (f : Fly) : Bool := decide (f.word < x.start)

/-- Whether a slot is the one that a divergence opened: the other one owns the pair entry (R131). -/
def Unit.sibling (u : Unit) (i : Bool) : Bool := (u.slot (!i)).stack.any (fun e => decide (e.kind = .pair))

/-- What is kept for the other slot when a result in a slot's hands is written. -/
def Unit.noted (u : Unit) (slot : Bool) (f : Fly) : Unit :=
  let old := (u.slot slot).earlier f
  match f.res with
  | .v d mask _ => if !old then u.noteV slot (2 * f.word) d mask else if u.sibling slot then u.shadeV slot d mask else u
  | .q d mask _ => if !old then u.noteQ slot d mask else if u.sibling slot then u.shadeQ slot d else u
  | _ => u

/-- One fixed-latency result written into its register. -/
def Unit.land (u0 : Unit) (slot : Bool) (f : Fly) : Unit :=
  let u := u0.noted slot f
  match f.res with
  | .s d v => u.ws d v
  | .p d b => u.wp d b
  | .kst n v => ({ u with sS := { u.sS with kst := SMap.set 0 u.sS.kst n.toNat v } } : Unit).dirt 8
  | .v d mask vals => u.wv d mask vals
  | .q d mask bits =>
    if d = 0 then u
    else ({ u with lS := { u.lS with q := SMap.set 0 u.lS.q d.toNat (mergeMask (u.rq d) mask bits) } } : Unit).dirt 8
  | .em keep => (u.setSlot slot { u.slot slot with em := (u.slot slot).em &&& keep }).dirt (slotLine slot)

/-- Results written in order. -/
def Unit.landAll (u : Unit) (slot : Bool) (l : List Fly) : Unit := l.foldl (fun t f => t.land slot f) u

/-- Every result of the S-stream written (R22, R23). -/
def Unit.landS (u : Unit) : Unit :=
  { u with sS := { u.sS with fly := [], marked := false } }.landAll false u.sS.fly

/-- The results of a slot from before the divergence that the other slot holds for its lanes, written (R22). -/
def Unit.landMoved (u : Unit) (i : Bool) : Unit :=
  if u.sibling (!i) then
    let o := u.slot (!i)
    (u.setSlot (!i) { o with fly := o.fly.filter (fun f => !o.earlier f) }).landAll (!i) (o.fly.filter o.earlier)
  else u

/-- Every result of a path slot written. -/
def Unit.landSlot (u : Unit) (i : Bool) : Unit :=
  let v := (u.landMoved i).setSlot i { (u.landMoved i).slot i with fly := [], marked := false, shade := [], shadeQ := [] }
  v.landAll i (u.slot i).fly

/-- Every fixed-latency result of the unit written. -/
def Unit.landEvery (u : Unit) : Unit := ((u.landS).landSlot false).landSlot true

/-! ## Parks and retirement -/

/-- The park that a stream holds. -/
def Unit.parkOf (u : Unit) (st : Strm) : Option Park :=
  match st with
  | .s => u.sS.park
  | .l0 => u.lS.slot0.park
  | .l1 => u.lS.slot1.park

/-- A unit with the park of a stream set. -/
def Unit.setPark (u : Unit) (st : Strm) (p : Option Park) : Unit :=
  match st with
  | .s => { u with sS := { u.sS with park := p } }
  | .l0 => u.setSlot false { u.lS.slot0 with park := p }
  | .l1 => u.setSlot true { u.lS.slot1 with park := p }

/-- A stream parks at its word: nothing but the park changes, and the time of the first park is kept (R273). -/
def parkAt (s : State) (u : Unit) (st : Strm) (why : Why) : Res :=
  let since := match u.parkOf st with | some p => if p.why = why then p.since else s.clk.now | none => s.clk.now
  let s1 := s.setUnit (u.setPark st (some { why := why, since := since, tick := s.sch.progress }))
  .next { s1 with sch := { s1.sch with parked := true } }

/-- A word of a stream has retired: the compare that it had passed is used up. -/
def Assay.retire (a : Assay) (st : Strm) : Assay :=
  { a with passed := a.passed.filter (fun e => decide (e.1 ≠ st)) }

/-- The unit after its S word retires to `pc` with results in flight; a marker parks the stream until they are written
(R22). -/
def Unit.sDone (u : Unit) (m : Bool) (fly : List Fly) (pc : Nat) : Unit :=
  { u with sS := { u.sS with spc := pc, fly := u.sS.fly ++ fly, marked := m, park := none },
           waitS := 0, assay := u.assay.retire .s }

/-- The unit after an L word of slot `i` retires to `pc`. -/
def Unit.lDone (u : Unit) (i m : Bool) (fly : List Fly) (pc : Nat) : Unit :=
  let x := u.slot i
  let v := u.setSlot i { x with lpc := pc, fly := x.fly ++ fly, marked := m, park := none }
  ({ v with waitL := 0, assay := v.assay.retire (slotStrm i), lS := { v.lS with turn := !i } } : Unit).dirt (slotLine i)

/-- The unit after the word of a stream retires to the next index. -/
def Unit.done (u : Unit) (st : Strm) (m : Bool) (fly : List Fly) : Unit :=
  match st with
  | .s => u.sDone m fly (u.sS.spc + 1)
  | .l0 => u.lDone false m fly (u.lS.slot0.lpc + 1)
  | .l1 => u.lDone true m fly (u.lS.slot1.lpc + 1)

/-- The program counter of a stream. -/
def Unit.pcOf (u : Unit) (st : Strm) : Nat :=
  match st with
  | .s => u.sS.spc
  | .l0 => u.lS.slot0.lpc
  | .l1 => u.lS.slot1.lpc

/-! ## Code images and fetch (R9, R10, R276) -/

/-- The images a unit fetches from: S base, S length, L base, L length; the supervisor's from trap entry until the return from trap (R276, R100). -/
def images (s : State) (u : Unit) : Nat × Nat × Nat × Nat :=
  let own := (u.who.sbase, u.who.slen, u.who.lbase, u.who.llen)
  if u.trap.sup then
    match (SMap.look s.ctxs u.who.ctx).bind (fun c => c.handler) with
    | some h => (h.sbase, h.slen, h.lbase, h.llen)
    | none => own
  else own

/-- Words in the S image. -/
def sLen (s : State) (u : Unit) : Nat := (images s u).2.1
/-- Words in the L image. -/
def lLen (s : State) (u : Unit) : Nat := (images s u).2.2.2

/-- A code word as a unit fetches it: the contents at home, or any that stores have replaced while it ran (R10). -/
def codeWord (s : State) (u : Unit) (lane : Bool) (a : Nat) : Nat :=
  let home := leNat (readN (homeByte s) (codeBytes lane) a)
  match u.code.filter (fun x => decide (x.at_ = a) && decide (x.lane = lane)) with
  | [] => home
  | l => ((home :: l.map (fun x => x.raw))[Config.freeFetch (s.sch.progress * 2 ^ 20 + ukey u.id) % (l.length + 1)]?).getD home

/-- The S word at an index. -/
def fetchS (s : State) (u : Unit) (pc : Nat) : Nat := codeWord s u false ((images s u).1 + 4 * pc)

/-- The L word at an index: three little-endian words (R57). -/
def fetchL (s : State) (u : Unit) (pc : Nat) : Nat := codeWord s u true ((images s u).2.2.1 + 12 * pc)

/-- The word a stream stands at. -/
def rawAt (s : State) (u : Unit) (st : Strm) : Nat :=
  match st with
  | .s => fetchS s u (u.pcOf st)
  | _ => fetchL s u (u.pcOf st)

/-! ## What a stream's earlier operations are (R142, R97, R98, R133) -/

/-- The place in the order of issue before which S-stream operations precede the executing run (R97). -/
def Unit.lqSeq (u : Unit) : Nat := match u.lS.running with | some r => r.lqSeq | none => 0

/-- Whether an operation of the unit with sequence `q` on stream `os` is earlier, in the order of R142, R97, R98 and
R133, than an operation of stream `st` issued now. -/
def Unit.before (u : Unit) (st os : Strm) (q : Nat) : Bool :=
  match st, os with
  | .s, .s => true
  | .s, _ => decide (q < u.lqwSeq)
  | _, .s => decide (q < u.lqSeq)
  | .l0, .l0 => true
  | .l1, .l1 => true
  | _, _ => decide (q < u.joinSeq)

/-- Whether a store stands before an operation of stream `st` of the unit with sequence `id`: an earlier one of its own, or, for a
replica, one that the leader of its set committed before (R298). -/
def PStore.precedes (p : PStore) (u : Unit) (st : Strm) (id : Nat) : Bool :=
  if p.unit = some u.id then decide (p.seq < id) && u.before st p.strm p.seq
  else decide (u.who.rset ≠ 0) && decide (p.rset = u.who.rset) && decide (p.cseq < id)

/-- Whether a store is one that its issuer's own later loads of its stream see from its issue: a store to another die's line (R143, R211). -/
def PStore.served (p : PStore) (u : Unit) : Bool := decide (p.unit = some u.id) && p.bytes.any (fun b => decide (gsaDie b.1 ≠ p.die))

/-- Whether a load of the bytes `l` waits for an earlier store of its unit: one that the store queue does not serve, to the unit's own die, whose one
point is the home (R211), or one that the leader committed for the set (R298). -/
def storeBlocks (s : State) (u : Unit) (st : Strm) (id : Nat) (l : List Nat) : Bool :=
  s.fl.stores.any (fun p => !p.applied && p.precedes u st id && !p.served u && l.any (fun a => (SMap.look p.bytes a).isSome))

/-- The place of a store among its die's writes; one that is still in its queue comes after all that have left. -/
def PStore.rank (s : State) (p : PStore) : Nat := if p.sent || p.via.isSome then p.ord else s.fl.seq + p.seq

/-- The byte of `a` that a load of stream `st` with sequence `id` returns: the newest of those that the unit's store queue serves and that pending
`.ef` stores of its die hold, or else the home's (R143, R211). -/
def loadByte (s : State) (u : Unit) (st : Strm) (id a : Nat) : Byte :=
  (newest (PStore.rank s) (s.fl.stores.filter (fun p => !p.applied && ((p.precedes u st id && p.served u) ||
    (p.ef && p.sent && decide (p.die = u.die) && decide (gsaDie a ≠ u.die))))) a).getD (homeByte s a)

/-- Sequence numbers of the pending `.ef` stores of the unit's die that hold byte `a` (R213). -/
def tagsAt (s : State) (u : Unit) (a : Nat) : List Nat :=
  (s.fl.stores.filter (fun p => p.ef && p.sent && decide (p.die = u.die) && decide (gsaDie a ≠ u.die) &&
      (SMap.look p.bytes a).isSome)).map (fun p => p.seq)

/-- The unit's unacknowledged cross-die stores. -/
def crossStores (s : State) (u : Unit) : List PStore :=
  s.fl.stores.filter (fun p => decide (p.unit = some u.id) && p.bytes.any (fun b => decide (gsaDie b.1 ≠ p.die)))

/-- The entries of the acknowledgement buffer that mirror tags of other warps' stores take. -/
def tagUse (s : State) (u : Unit) : Nat :=
  (u.tags.filter (fun t => !(crossStores s u).any (fun p => decide (p.seq = t)))).length

/-- The unit's atomics at a hub or die agent that will write back to another die. -/
def backUse (s : State) (u : Unit) : Nat :=
  ((s.fl.atoms.filter (fun a => decide (a.unit = u.id) && decide (a.place ≠ .slice))).flatMap (fun a =>
    a.accs.filter (fun e => decide (gsaDie e.addr ≠ a.die)))).length

/-- Entries of the unit's acknowledgement buffer (R238, R353): its unacknowledged cross-die stores, the write-backs to come, and its
tags. -/
def ackUse (s : State) (u : Unit) : Nat := (crossStores s u).length + backUse s u + tagUse s u

/-! ## The release condition (R213) -/

/-- Whether a store must still be waited for by a release of scope `sc`: a `.ef` store of another die's line is
visible within the die once it has entered the mirror. -/
def storeHolds (d : Nat) (sc : Scope) (p : PStore) : Bool :=
  let narrow := decide (sc = .wg) || decide (sc = .cl) || decide (sc = .die)
  let cross := p.bytes.any (fun b => decide (gsaDie b.1 ≠ d))
  !(narrow && p.ef && cross && p.sent)

/-- Whether a pending entry is a load or a GSA atomic, its own or its leader's, that has not bound. -/
def Pend.unbound (p : Pend) : Bool :=
  decide (p.bad = 0) && (match p.what with | .ldg _ _ _ => true | .atom _ => true | .leader _ _ => true | _ => false)

/-- Whether a release of stream `st` at scope `sc` has to wait: an earlier store or atomic is not visible yet, an
earlier load has not bound, or a mirror tag is open. -/
def releaseHeld (s : State) (u : Unit) (st : Strm) (sc : Scope) : Bool :=
  s.fl.stores.any (fun p => p.precedes u st s.fl.seq && storeHolds u.die sc p)
    || s.fl.atoms.any (fun p => decide (p.unit = u.id) && u.before st p.strm p.seq)
    || u.pend.any (fun p => p.unbound && u.before st p.strm p.id)
    || !u.tags.isEmpty

/-- Whether an earlier acquire of the stream has not bound (R214). -/
def acquireHeld (u : Unit) (st : Strm) : Bool :=
  u.pend.any (fun p => p.acq && u.before st p.strm p.id)

/-! ## Interrupts and the context fault log (R288, R289) -/

/-- A vector raised for a tenant, or held while its host is crashed (R323). -/
def raiseVec (s : State) (t v : Nat) : State :=
  match SMap.look s.tenants t with
  | some x => if x.crashed then { s with tenants := SMap.put s.tenants t { x with heldVecs := x.heldVecs ++ [v] } }
      else { s with irqs := s.irqs ++ [(t, v)] }
  | none => s

/-- The fields of a fault-log record (R288). -/
structure LogRec where
  code : Nat
  kind : Nat
  grid : Nat
  wg : Nat
  core : Nat
  slot : Nat
  flags : Nat
  spc : Nat
  lpc : Nat
  addr : Nat
  info : Nat
  extra : Nat
  deriving DecidableEq, Repr

/-- The 64 bytes of a record (R288). -/
def LogRec.bytes (r : LogRec) (time seq lost : Nat) : List Byte :=
  leBytes 8 time ++ leBytes 2 r.code ++ leBytes 1 r.kind ++ leBytes 1 0 ++ leBytes 4 r.grid ++ leBytes 4 r.wg
    ++ leBytes 2 r.core ++ leBytes 1 r.slot ++ leBytes 1 r.flags ++ leBytes 4 r.spc ++ leBytes 4 r.lpc
    ++ leBytes 8 r.addr ++ leBytes 8 r.info ++ leBytes 8 r.extra ++ leBytes 4 seq ++ leBytes 4 lost

/-- A record written to the context's ring, or counted as dropped while no log is set or the ring is full; the vector
of the context's tenant is raised (R288). -/
def writeLog (s : State) (ctx : Nat) (r : LogRec) : State :=
  match SMap.look s.ctxs ctx with
  | none => s
  | some c => match c.log with
    | none => { s with ctxs := SMap.put s.ctxs ctx { c with lost := c.lost + 1 } }
    | some g =>
      if 2 ^ g.k ≤ g.seq then { s with ctxs := SMap.put s.ctxs ctx { c with lost := c.lost + 1 } }
      else
        let s1 := writeDva s ctx (g.dva + g.seq % 2 ^ g.k * 64) (r.bytes s.tclk g.seq c.lost)
        let s2 := { s1 with ctxs := SMap.put s1.ctxs ctx { c with log := some { g with seq := g.seq + 1 }, lost := 0 } }
        match c.tenant with
        | some t => raiseVec s2 t 0
        | none => s2

/-- The slot that `tlpc` and `tpath` describe: the trapping slot, or for a trap of the S-stream the live slot; which of two
live ones is not stated (R277, log 10). -/
def Unit.trapSlot (u : Unit) (st : Strm) : Bool :=
  match st with
  | .l0 => false
  | .l1 => true
  | .s => if u.lS.slot0.live && u.lS.slot1.live then Config.sTrapSlot else u.lS.slot1.live

/-- A record that describes a unit as it stands (R288, R289). -/
def unitRec (u : Unit) (st : Strm) (code kind addr info extra : Nat) : LogRec :=
  { code := code, kind := kind, grid := u.who.gridid.toNat % 2 ^ 32, wg := u.who.wgid.toNat % 2 ^ 32,
    core := u.who.coreid.toNat % 1024, slot := u.id.slot,
    flags := (if st = .s then 0 else 1) + (if st = .l1 then 2 else 0), spc := u.sS.spc,
    lpc := (u.slot (u.trapSlot st)).lpc, addr := addr, info := info, extra := extra }

/-! ## Resetting one context (R272) -/

/-- Whether a grid key belongs to the context. -/
def gridOf (s : State) (ctx g : Nat) : Bool :=
  match SMap.look s.grids g with
  | some x => decide (x.ctx = ctx)
  | none => false

/-- A run of a slice given out: its bytes are zero and sound (R235, R233). -/
def freeRun (s : State) (a n : Nat) : State :=
  { s with mem := { s.mem with
      sram := zeroRange s.mem.sram a n,
      badHome := s.mem.badHome.filter (fun k => !(decide (a ≤ k * 32) && decide (k * 32 < a + n))),
      badMir := s.mem.badMir.filter (fun k =>
        !(decide (a ≤ k % 2 ^ 27 * 32) && decide (k % 2 ^ 27 * 32 < a + n))) } }

/-- A workgroup's pad at its placement: zero (R24, R235). -/
def zeroPad (s : State) (w : Wg) : State := freeRun s (gsaAt w.core w.padBase) w.padP

/-- The buffers of a team freed when it leaves the cluster: their bytes are zero again before a later team receives them (R235). -/
def freeBufs (s : State) (cl team : Nat) : State :=
  let c := s.cluster cl
  s.setCluster cl { c with handles := c.handles.filter (fun h => decide (h.2.team ≠ team)) }

/-- The engine of a cluster as at a team's start (R178). -/
def clearEngine (s : State) (cl : Nat) : State := s.setCluster cl { s.cluster cl with engine := Engine.init }

/-- Whether a unit of the context is resident at a place. -/
def unitOf (s : State) (ctx : Nat) (id : UnitId) : Bool := match s.unit? id with | some u => decide (u.who.ctx = ctx) | none => false

/-- A context's host queues stopped and drained (R272, R254). -/
def resetQueues (s : State) (ctx : Nat) : State :=
  s.queues.foldl (fun t q =>
    if q.2.desc.ctx = ctx then setQueue t q.1 { q.2 with head := q.2.tail, enqs := [], stat := q.2.stat &&& ~~~1 ||| 4 } else t) s

/-- The monitors of the warps of a die fire on a sector (R152). -/
def fireDie (s : State) (d sec : Nat) : State := fireMonitors s (fun u => decide (dieOf u.core = d)) sec

/-- The lowest address that a store writes. -/
def PStore.low (p : PStore) : Nat := match p.bytes with | b :: _ => b.1 | [] => 0

/-- Whether a store may go to its home: out of the queue, not held for the debugger, and first of its die for its sector (R238, R352). -/
def onTheWay (s : State) (p : PStore) : Bool :=
  p.sent && decide (p.retrans < 4)
    && !(s.fl.stores.any (fun q => decide (q.die = p.die) && decide (q.sector = p.sector) && (q.sent || q.via.isSome) && decide (q.ord < p.ord)))
    && !(s.paths.holds.contains (p.die, p.home) && decide (p.die ≠ p.home) && !p.applied)

/-- A store sent to its home: its timer starts, and an injected loss of the die and sector takes it (R239, R352). -/
def sendOne (s : State) (x : PStore) : State :=
  let lose := s.paths.loss.contains (x.die, x.sector)
  { s with
    fl := { s.fl with stores := s.fl.stores.map (fun (p : PStore) =>
      if p.seq = x.seq then { p with out := true, sentAt := s.clk.now, lostAck := lose } else p) },
    paths := { s.paths with loss := s.paths.loss.filter (fun e => decide (e ≠ (x.die, x.sector))) } }

/-- Every store that may go to its home and has not yet gone is sent, in the order of issue. -/
def sendOut (s : State) : State := (s.fl.stores.filter (fun p => !p.out && onTheWay s p)).foldl sendOne s

/-- A store leaves the store queue with its place among its die's writes: a cross-die `.ef` store updates its die's mirror at once (R143, R237). -/
def sendStore (s : State) (x : PStore) : State :=
  let sec := x.sector
  let l := s.fl.stores.map (fun (p : PStore) =>
    if p.seq = x.seq then { p with sent := true, ord := if p.via.isSome then p.ord else s.fl.seq } else p)
  let s1 := sendOut { s with fl := { s.fl with stores := l, seq := s.fl.seq + 1 } }
  if x.ef && decide (gsaDie (sec * 32) ≠ x.die) then fireDie (takeLine s1 x.die (sec / 4)) x.die sec else s1

/-- Stores that no unit has any more leave the store queue in their order (R272). -/
def sendLoose (s : State) : State := (s.fl.stores.filter (fun p => p.unit.isNone && !p.sent)).foldl sendStore s

/-- A context reset alone: its units killed without exit, release or commit, and the stores that they have issued no longer theirs; its engine work
stopped; its packets discarded and its queues stopped with `qstat`.rst; its pads and buffers freed; memory, tables, windows and timeline
values kept (R272). -/
def resetCtx (s : State) (ctx : Nat) : State :=
  let tms := s.teams.filter (fun t => gridOf s ctx t.2.grid)
  let s2 := tms.foldl (fun t x =>
    if x.2.evicted.isSome then t else if x.2.lm then clearEngine (freeBufs t x.2.cluster x.1) x.2.cluster
    else freeBufs t x.2.cluster x.1) s
  let ps := (s2.preempts.filter (fun p => match p.for_ with | some g => !gridOf s ctx g | none => true)).map (fun (p : Preempt) =>
    if p.ctx = ctx ∧ p.running then { p with running := false, wasReset := true } else p)
  let st := s2.fl.stores.map (fun (p : PStore) => match p.unit with
    | some i => if unitOf s ctx i then { p with unit := none, rset := 0 } else p
    | none => p)
  let s3 : State := sendLoose (resetQueues { s2 with
    units := s2.units.filter (fun u => decide (u.2.who.ctx ≠ ctx)),
    wgs := s2.wgs.filter (fun w => !gridOf s ctx w.2.grid),
    teams := s2.teams.filter (fun t => !gridOf s ctx t.2.grid),
    grids := s2.grids.filter (fun g => decide (g.2.ctx ≠ ctx)), preempts := ps,
    fl := { s2.fl with stores := st, jobs := s2.fl.jobs.filter (fun j => decide (j.ctx ≠ ctx)) } } ctx)
  let s4 := if s3.tenants.any (fun t => !t.2.fresh.isEmpty) then
      { s3 with tenants := s3.tenants.map (fun (t : Nat × Tenant) => (t.1, { t.2 with fresh := [] })) } else s3
  match SMap.look s4.ctxs ctx with
  | some c =>
    let ls := c.lists.map (fun l => (l.1, { l.2 with waiters := [] }))
    { s4 with ctxs := SMap.put s4.ctxs ctx { c with kids := [[], [], [], []], lists := ls, resetting := true } }
  | none => s4

/-- A context-fatal cause: its record is written, and then the context is reset alone (R272, R289). -/
def contextFatal (s : State) (u : Unit) (st : Strm) (code kind addr info extra : Nat) : State :=
  resetCtx (writeLog s u.who.ctx (unitRec u st code kind addr info extra)) u.who.ctx

/-! ## Imprecise faults (R280 to R283) -/

/-- An entry put into a unit's imprecise queue, with the time of its arrival; a ninth makes the context fatal with 0x0051 (R282). -/
def pushImp (s : State) (u : Unit) (e : Imp) : State :=
  if 8 ≤ u.trap.imp.length then contextFatal s u e.strm 0x0051 0 e.addr e.info 0
  else s.setUnit { u with trap := { u.trap with imp := u.trap.imp ++ [{ e with at_ := s.clk.now }] } }

/-- The lowest-numbered live warp of a workgroup. -/
def lowestLive (s : State) (wg : Nat) : Option Unit :=
  (s.units.filter (fun e => decide (e.2.who.wg = wg) && !e.2.who.isLm)).foldl (fun (acc : Option Unit) e =>
    match acc with
    | none => some e.2
    | some b => if e.2.who.warpid.toNat % 32 < b.who.warpid.toNat % 32 then some e.2 else some b) none

/-- An imprecise fault that no live warp can take (R283): logged as 0x0052, and the context is reset. -/
def unattributable (s : State) (issuer : UnitId) (ctx grid : Nat) (e : Imp) : State :=
  let n := match SMap.look s.grids grid with | some g => g.num | none => 0
  let r : LogRec := { code := 0x52, kind := 2, grid := n, wg := e.wgNum, core := issuer.core, slot := issuer.slot,
                      flags := 0, spc := e.idx, lpc := 0, addr := e.addr, info := e.info, extra := 0 }
  resetCtx (writeLog s ctx r) ctx

/-- The units of a replica set; a simplex unit (`rset` 0) stands alone (R290). -/
def replicas (s : State) (u : Unit) : List Unit :=
  if u.who.rset = 0 then [u]
  else (s.units.filter (fun e => decide (e.2.who.rset = u.who.rset))).map (fun e => e.2)

/-- The warp that takes an imprecise fault whose issuer may have exited, and the entry that it takes: the issuer itself, or the lowest live warp of
its workgroup with cause 0x0044 (R280, R283). -/
def impTarget (s : State) (issuer : UnitId) (wg grid : Nat) (e : Imp) : Option (Unit × Imp) :=
  match (s.unit? issuer).filter (fun u => decide (u.who.wg = wg) && decide (u.who.grid = grid)) with
  | some u => some (u, e)
  | none => (if issuer.slot = 32 then none else lowestLive s wg).map (fun v =>
      (v, { e with code := 0x44, origCode := e.code, other := true, zero := none, zdst := none }))

/-- An imprecise fault of an operation that a unit performs for its replica set, raised in every replica with the same
frame, or, without a live warp to take it, logged as 0x0052 (R144, R177, R283, R305). -/
def impreciseSet (s : State) (issuer : UnitId) (wg ctx grid : Nat) (e : Imp) : State :=
  match impTarget s issuer wg grid e with
  | some (u, x) => (replicas s u).foldl (fun t v => match t.unit? v.id with | some y => pushImp t y x | none => t) s
  | none => unattributable s issuer ctx grid e

/-! ## Guards and active lanes (R14, R57) -/

/-- The mask that a guard gives. -/
def Unit.guard (u : Unit) (g : Guard) : Mask := if g.neg then ~~~(u.rq g.q) else u.rq g.q

/-- The active lanes of a word: `em` of its slot AND its guard (R29). -/
def Unit.act (u : Unit) (i : Bool) (g : Guard) : Mask := (u.slot i).em &&& u.guard g

/-- The guard field of a raw L word. -/
def rawGuard (w : Nat) : Guard := { neg := tb w 87, q := BitVec.ofNat 3 (fld w 84 3) }

/-- The lanes of a mask, lowest first. -/
def lanesOf (m : Mask) : List Nat := (List.range 32).filter (fun l => m.getLsbD l)

/-- The mask of the lanes where `f` holds. -/
def maskOf (f : Nat → Bool) : Mask := BitVec.ofNat 32 ((List.range 32).foldl (fun a l => if f l then a + 2 ^ l else a) 0)

/-! ## Taking a trap (R274 to R279) -/

/-- Whether a pending result must have come before a handler's first word (R23): loads, atomics, `tclk` reads and
values of the leader that have not reported a fault. -/
def Pend.mustLand (p : Pend) : Bool :=
  !p.saved && (match p.what with
    | .ldg _ _ _ => decide (p.bad = 0)
    | .atom _ => decide (p.bad = 0)
    | .tclk => true
    | .leader _ _ => decide (p.bad = 0)
    | _ => false)

/-- Whether the S word at which the unit is parked has begun to take effect: the boundary is then after it (log 22). -/
def Unit.committed (u : Unit) : Bool :=
  match u.sS.park with
  | some p => match p.why with
    | .reported | .mxDone _ => true
    | _ => false
  | none => false

/-- Whether no result that R23 waits for is outstanding, and the S-stream stands at a boundary. -/
def Unit.settled (u : Unit) : Bool := !u.pend.any Pend.mustLand && !u.committed

/-- Causes that the management core takes (R274). -/
def mcCause (c : Nat) : Bool :=
  (decide (0x10 ≤ c) && decide (c ≤ 0x18)) || (decide (0x26 ≤ c) && decide (c ≤ 0x29)) || decide (c = 0x2B)
    || decide (c = 0x37) || decide (0x50 ≤ c)

/-- The context's supervisor handler and its save-area offset (R275). -/
def handlerOf (s : State) (u : Unit) : Option (Handler × Nat) :=
  match SMap.look s.ctxs u.who.ctx with
  | none => none
  | some c => match c.handler, c.saveOff with
    | some h, some o => some (h, o)
    | _, _ => none

/-- The 32 bytes written at the start of the save area (R278). -/
def Frame.bytes (f : Frame) (time : Nat) : List Byte :=
  leBytes 12 f.word ++ leBytes 4 f.act ++ leBytes 4 f.issue ++ leBytes 4 f.orig ++ leBytes 8 time

/-- `tcause` at entry (R19). -/
def Frame.tcause (f : Frame) : BitVec 32 :=
  BitVec.ofNat 32 (2 ^ 31 + (if f.precise then 2 ^ 17 else 0) + (if f.lbit then 2 ^ 16 else 0) + f.cause % 2 ^ 16)

/-- `tpath` for trapping slot `i` (R19); without a live sibling its index and mask are written 0 (DESIGN CHOICE, log 80). -/
def Unit.tpathOf (u : Unit) (i : Bool) : Word :=
  let b := u.slot (!i)
  BitVec.ofNat 64 ((if b.live then b.lpc % 2 ^ 24 * 2 ^ 40 + b.em.toNat * 2 ^ 8 + 2 ^ 7 else 0)
    + (if i then 2 ^ 6 else 0) + (u.slot i).stack.length % 32)

/-- The GSA of a unit's save area (R276). -/
def saveArea (u : Unit) (off : Nat) : Nat := gsaAt u.id.core (off + u.id.slot * 1024)

/-- What the trap sets aside (R276). -/
def Unit.setAside (u : Unit) (seq : Nat) : Saved :=
  { queue := u.lS.queue, running := u.lS.running, slot0 := u.lS.slot0, slot1 := u.lS.slot1,
    mbCnt := (List.range 4).map (fun n => SMap.get 0 u.mbCnt n),
    mbVal := (List.range 4).map (fun n => SMap.get 0 u.mbVal n),
    bank := [u.rs 56, u.rs 57, u.rs 58, u.rs 59], turn := u.lS.turn, seq := seq, sup := u.trap.sup,
    passed := u.assay.passed }

/-- The registers set aside at trap entry, `s56` to `s59`. -/
def bankReg (r : SReg) : Bool := decide (56 ≤ r.toNat) && decide (r.toNat ≤ 59)

/-- The unit as its handler finds it (R276): results written, the lane side empty, the trap registers loaded. -/
def Unit.entered (u : Unit) (st : Strm) (seq : Nat) (h : Handler) (save : Nat) (f : Frame) : Unit :=
  let v := u.landEvery
  let i := v.trapSlot st
  let w : Unit := { v with
    sS := { v.sS with spc := h.entry, marked := false, park := none },
    waitS := if st = .s then 0 else v.waitS, waitL := if st = .s then v.waitL else 0,
    lS := { v.lS with slot0 := Slot.idle, slot1 := Slot.idle, queue := [], running := none, turn := false },
    mbCnt := [], mbOld := [], dirty := [9, 10, 11].foldl setAdd v.dirty,
    trap := { v.trap with
      tcause := f.tcause, taddr := BitVec.ofNat 64 f.addr, tinfo := BitVec.ofNat 64 f.info,
      tspc := BitVec.ofNat 64 f.spc, tlpc := BitVec.ofNat 64 (v.slot i).lpc, tpath := v.tpathOf i, flm := f.lanes,
      saved := some (v.setAside seq), due := none, sup := true },
    pend := v.pend.map (fun p => match p.dst with
      | .s r => if bankReg r then { p with saved := true } else p
      | _ => p),
    assay := { v.assay with at_ := none, passed := none } }
  (((w.ws 56 (BitVec.ofNat 64 save)).ws 57 0).ws 58 0).ws 59 0

/-- A unit no longer listed as waiting at a work list: the word at which it was parked counts as unissued (R277). -/
def leaveLists (s : State) (ctx : Nat) (id : UnitId) : State :=
  { s with ctxs := SMap.upd s.ctxs ctx (fun c =>
      { c with lists := c.lists.map (fun (l : Nat × WorkList) => (l.1, { l.2 with waiters := l.2.waiters.filter (fun x => decide (x ≠ id)) })) }) }

/-- Entry into the supervisor handler (R276, R278). -/
def enterTrap (s : State) (u : Unit) (st : Strm) (h : Handler) (off : Nat) (f : Frame) : State :=
  let save := saveArea u off
  let s1 := s.setUnit (u.entered st s.fl.seq h save f)
  let s2 := leaveLists { s1 with fl := { s1.fl with seq := s1.fl.seq + 1 } } u.who.ctx u.id
  writeHome s2 (bytesAt save (f.bytes s.tclk))

/-- A double trap (R279): the log names the outer code and the inner cause; a `trap` word's own code is the inner
cause (DEDUCED, log 11). The other fields are those of the outer frame. -/
def doubleTrap (s : State) (u : Unit) (inner : Nat) : State :=
  let lt := tb u.trap.tcause.toNat 16
  let r : LogRec := { unitRec u .s (u.trap.tcause.toNat % 2 ^ 16) 1 u.trap.taddr.toNat u.trap.tinfo.toNat inner with
    flags := if lt then 1 + (if tb u.trap.tpath.toNat 6 then 2 else 0) else 0,
    spc := u.trap.tspc.toNat % 2 ^ 24, lpc := u.trap.tlpc.toNat % 2 ^ 24 }
  resetCtx (writeLog s u.who.ctx r) u.who.ctx

/-- The index, stream and slot of R278 for a word of a stream. -/
def issueField (idx : Nat) (st : Strm) : Nat :=
  idx % 2 ^ 24 + (if st = .s then 0 else 2 ^ 24) + (if st = .l1 then 2 ^ 25 else 0)

/-- The frame of a precise trap at the word a stream stands at; `adv` records the S word after it (R101, R277). -/
def preciseFrame (s : State) (u : Unit) (st : Strm) (cause addr info : Nat) (lanes : Mask) (adv : Bool) : Frame :=
  let w := rawAt s u st
  { precise := true, lbit := decide (st ≠ .s), cause := cause, addr := addr, info := info, lanes := lanes,
    spc := if adv then u.sS.spc + 1 else u.sS.spc, word := w,
    act := if st = .s then 0 else (u.act (strmSlot st) (rawGuard w)).toNat, issue := issueField (u.pcOf st) st,
    orig := u.who.warpid.toNat % 32 + cause % 2 ^ 16 * 2 ^ 16 }

/-- A unit that owes a trap whose entry waits (R276). -/
def Unit.owing (u : Unit) (d : Due) : Unit := { u with trap := { u.trap with due := some d } }

/-- A trap is taken: its handler is entered at once, or as soon as the results that R23 names have come; both streams are
stopped meanwhile (R276, R277). -/
def beginTrap (s : State) (u : Unit) (h : Handler) (off : Nat) (d : Due) : State :=
  if u.settled then enterTrap s u d.strm h off d.frame
  else s.setUnit (u.owing d)

/-- A precise trap at the word a stream stands at (R276): a double trap inside a handler; context-fatal where the
management core takes the cause or no handler is set; otherwise the handler. A word that would trap while a trap waits counts as unissued (R277). -/
def takeTrap (s : State) (u : Unit) (st : Strm) (cause addr info : Nat) (lanes : Mask) (adv : Bool) : Res :=
  if u.inHandler then .next (doubleTrap s u (if cause = 0x20 then info else cause))
  else if u.trap.due.isSome then parkAt s u st .results
  else
    let f := preciseFrame s u st cause addr info lanes adv
    match if mcCause cause then none else handlerOf s u with
    | none =>
      let r : LogRec := { unitRec u st cause 0 addr info 0 with spc := f.spc }
      .next (resetCtx (writeLog s u.who.ctx r) u.who.ctx)
    | some (h, off) => .next (beginTrap s u h off { strm := st, frame := f, zero := none, zdst := none })

/-- A precise trap of the S-stream. -/
def trapS (s : State) (u : Unit) (cause addr info : Nat) : Res := takeTrap s u .s cause addr info 0 false

/-- A bit of an `s` register inverted; `s0` ignores it. -/
def Unit.flipS (u : Unit) (r : SReg) (b : Nat) : Unit := u.ws r (u.rs r ^^^ BitVec.ofNat 64 (2 ^ b))

/-- A bit of a lane of a `v` register inverted. -/
def Unit.flipV (u : Unit) (r l b : Nat) : Unit :=
  { u with lS := { u.lS with v := SMap.set 0 u.lS.v (vkey r l) (u.rv r l ^^^ BitVec.ofNat 32 (2 ^ b)) } }

/-- The bits that a debugger inverted in a pending register, inverted when its pending bit clears (R361). -/
def Unit.flipPend (u : Unit) (p : Pend) : Unit :=
  p.flip.foldl (fun t f => match p.dst with
    | .none => t
    | .s r => t.flipS r f.2
    | .v r _ => t.flipV (r + f.2 / 32) f.1 (f.2 % 32)) u

/-- A destination written 0 in the lanes of a mask. -/
def Unit.zeroDst (u : Unit) (d : PDst) (m : Mask) : Unit :=
  match d with
  | .none => u
  | .s r => u.ws r 0
  | .v r n => (List.range n).foldl (fun t k => t.wv (r + k) m (List.replicate 32 0)) u

/-- A pending result that met poison written 0, and its pending bit cleared (R283). -/
def Unit.zeroPend (u : Unit) (id : Nat) : Unit :=
  match u.pend.find? (fun p => decide (p.id = id)) with
  | none => u
  | some p => ({ u with pend := u.pend.filter (fun q => decide (q.id ≠ id)) }.zeroDst p.dst p.bad).flipPend p

/-- A result that comes after the rollback shadow was taken but was outstanding there also reaches the shadow (R285). -/
def onShadow (s : State) (u : Unit) (p : Pend) (f : Unit → Unit) : State :=
  match (SMap.look s.wgs u.who.wg).bind (fun w => w.shadow) with
  | none => s
  | some sh =>
    if sh.units.any (fun x => decide (x.id = u.id) && x.pend.any (fun q => decide (q.id = p.id))) then
      let us := sh.units.map (fun (x : Unit) => if x.id = u.id then f x else x)
      { s with wgs := SMap.upd s.wgs u.who.wg (fun w => { w with shadow := some { sh with units := us } }) }
    else s

/-- A trap entered whose results have come: a result that met poison is written 0 (R283), and an S-stream that ran on to its boundary is
recorded there (R277). -/
def State.enterDue (s0 : State) (u : Unit) (h : Handler) (off : Nat) (d : Due) : State :=
  let s := match d.zero.bind (fun id => u.pend.find? (fun p => decide (p.id = id))) with
    | some p => onShadow s0 u p (fun x => x.zeroPend p.id)
    | none => s0
  let w := match d.zero with | some id => u.zeroPend id | none => u
  let v := match d.zdst with | some x => w.zeroDst x.1 x.2 | none => w
  let f := if d.frame.precise && decide (d.strm = .s) then d.frame else { d.frame with spc := u.sS.spc }
  enterTrap s v d.strm h off f

/-- An entry of the imprecise queue taken as a trap at a boundary of stream `st` (R280). -/
def takeImp (s : State) (u : Unit) (st : Strm) (e : Imp) : Res :=
  let u1 := { u with trap := { u.trap with imp := u.trap.imp.erase e } }
  match handlerOf s u with
  | none => .next (contextFatal (s.setUnit u1) u1 (if e.code = 0x42 then st else e.strm) e.code 0 e.addr e.info 0)
  | some (h, off) =>
      let f : Frame :=
        { precise := false, lbit := if e.code = 0x42 then decide (st ≠ .s) else decide (e.strm ≠ .s), cause := e.code,
          addr := e.addr, info := e.info, lanes := 0, spc := u.sS.spc, word := e.raw, act := e.act.toNat,
          issue := issueField e.idx e.strm,
          orig := e.origWarp % 32 + (if e.other then 32 else 0) + e.origCode % 2 ^ 16 * 2 ^ 16 }
      let d : Due := { strm := st, frame := f, zero := e.zero, zdst := e.zdst }
      .next (if u1.settled then (s.setUnit u1).enterDue u1 h off d else s.setUnit (u1.owing d))

/-- The waiting trap of a unit is entered once its results have come (R23, R276). -/
def finishTrap (s : State) (u : Unit) : Res :=
  match u.trap.due with
  | none => .next s
  | some d =>
    if !u.settled then .next s
    else match handlerOf s u with
      | none => .next (contextFatal s u d.strm d.frame.cause 0 d.frame.addr d.frame.info 0)
      | some (h, off) => .next (s.enterDue u h off d)

/-! ## Return from a trap (R102) -/

/-- A path slot put back at `pc` with `em` and the lowest `depth` entries of its stack. A slot stays parked only at
its `ljoin` (R277). -/
def Slot.back (x : Slot) (pc : Nat) (em : Mask) (depth : Nat) : Slot :=
  { x with lpc := pc, em := em, stack := x.stack.drop (x.stack.length - depth), fly := [], marked := false, park := none }

/-- The lane side as `tpath` and the saved state give it (R102): the trapping slot at `tlpc`, the sibling at `siblpc`
with `sibem` when `sib` is 1, and idle when it is 0. -/
def Unit.restored (u : Unit) (sv : Saved) : LSide :=
  let tp := u.trap.tpath.toNat
  let i := tb tp 6
  let a := if i then sv.slot1 else sv.slot0
  let b := if i then sv.slot0 else sv.slot1
  let a1 := if a.live then a.back (u.trap.tlpc.toNat % 2 ^ 24) a.em (fld tp 0 5) else a
  let b1 := if tb tp 7 then { b.back (fld tp 40 24) (BitVec.ofNat 32 (fld tp 8 32)) b.stack.length with live := true }
    else Slot.idle
  { u.lS with slot0 := if i then b1 else a1, slot1 := if i then a1 else b1, queue := sv.queue, running := sv.running,
              turn := sv.turn }

/-- The state after `rft` (R102, R23, R276). -/
def Unit.returned (u : Unit) : Unit :=
  match u.trap.saved with
  | none => u
  | some sv =>
    let v := u.landEvery
    let keep := v.pend.filter (fun p => p.saved || !(match p.dst with | .s r => bankReg r | _ => false))
    let w : Unit := { v with
      sS := { v.sS with spc := v.trap.tspc.toNat % 2 ^ 24, park := none },
      lS := v.restored sv,
      mbCnt := (List.range 4).foldl (fun m n => SMap.set 0 m n (sv.mbCnt.getD n 0)) [],
      mbVal := (List.range 4).foldl (fun m n => SMap.set 0 m n (sv.mbVal.getD n 0)) [],
      mbOld := [], dirty := [8, 9, 10, 11].foldl setAdd v.dirty, waitS := 0,
      trap := { v.trap with tcause := v.trap.tcause &&& 0x7FFFFFFF, flm := 0, saved := none, sup := sv.sup },
      pend := keep.map (fun p => { p with saved := false }),
      assay := { v.assay with passed := sv.passed } }
    (((w.ws 56 (sv.bank.getD 0 0)).ws 57 (sv.bank.getD 1 0)).ws 58 (sv.bank.getD 2 0)).ws 59 (sv.bank.getD 3 0)

/-- Whether no lane run is queued or executing (R16, R98). -/
def Unit.laneIdle (u : Unit) : Bool := u.lS.queue.isEmpty && u.lS.running.isNone

/-- The first resume index of R102 that lies outside its image; the lengths are those of the kernel's images, also where the interrupted
program was the supervisor's (DESIGN CHOICE, log 80). -/
def Unit.badReturn (u : Unit) (sv : Saved) : Option Nat :=
  let x := u.restored sv
  let pc := u.trap.tspc.toNat
  let tl := u.trap.tlpc.toNat
  let i := tb u.trap.tpath.toNat 6
  if u.who.slen ≤ pc then some pc
  else if (if i then x.slot1 else x.slot0).live ∧ u.who.llen ≤ tl then some tl
  else if (if i then x.slot0 else x.slot1).live ∧ u.who.llen ≤ fld u.trap.tpath.toNat 40 24 then
    some (fld u.trap.tpath.toNat 40 24)
  else none

/-- Return from a trap (R102), after the wait of `lqw`. -/
def returnFromTrap (s : State) (u : Unit) : Res :=
  match u.inHandler, u.trap.saved with
  | true, some sv =>
    if u.laneIdle then
      match u.badReturn sv with
      | some t => trapS s u 0x26 t 0
      | none => .next (s.setUnit u.returned)
    else parkAt s u .s .laneIdle
  | _, _ => trapS s u 0x19 0x10 0

/-! ## Gates of an S word (R21, R23) -/

/-- The first of `regs` whose mailbox read was issued before the trap, with its mailbox (R23). -/
def Unit.handlerMb (u : Unit) (regs : List SReg) : Option (SReg × Nat) :=
  match regs with
  | [] => none
  | r :: t => match u.mbPend r with
    | some n => some (r, n)
    | none => u.handlerMb t

/-- An S word that reads or writes `regs`: the pending-mailbox trap of a handler, a stall on a pending bit, or `k`. -/
def sWord (s : State) (regs : List SReg) (k : Unit → Res) : Res :=
  withUnit s (fun u =>
    match u.handlerMb regs with
    | some (r, n) => trapS s u 0x37 r.toNat n
    | none => if regs.any u.sPend then parkAt s u .s .pendingReg else k u)

/-- An S word retires to the next index with results of the given latency in flight. -/
def retireS (s : State) (u : Unit) (m : Bool) (lat : Nat) (rs : List FRes) : Res :=
  .next (s.setUnit (u.sDone m (flights s u.id.core lat rs) (u.sS.spc + 1)))

/-- What a word does after it has issued: `f` on the machine that `r` gives. -/
def thenDo (r : Res) (f : State → State) : Res :=
  match r with
  | .next t => .next (f t)
  | x => x

/-! ## Release points (R143, R213, R280) -/

/-- The held ack-loss entry that the next release operation takes (R280). -/
def Unit.ackLoss (u : Unit) : Option Imp := if u.inHandler then none else u.trap.imp.find? (fun e => e.held)

/-- A release operation of stream `st` at scope `sc`: an outstanding ack-loss is taken as a trap, then the word waits
for what R213 names, and then `k` runs. -/
def releaseGate (s : State) (u : Unit) (st : Strm) (sc : Scope) (k : Res) : Res :=
  match u.ackLoss with
  | some e => takeImp s u st e
  | none => if releaseHeld s u st sc then parkAt s u st .release else k

/-- Whether an order is a release. -/
def relOrd (o : Order) : Bool := decide (o = .rel) || decide (o = .acqrel)
/-- Whether an order is an acquire. -/
def acqOrd (o : Order) : Bool := decide (o = .acq) || decide (o = .acqrel)

/-- The interval number advances at a release operation, whose scope is kept (R156). -/
def Unit.released (u : Unit) (sc : Scope) : Unit := { u with tsInterval := u.tsInterval + 1, tsScope := sc }

end Sys2Proof.Machine
end

