-- ==== Sys2Proof/Machine/Shapes.lean ====
section
/-! DEFINITION. The field tables of the words: codes of R51, R58 and R60, the shape of every L opcode (R61) and the
checks of R62 to R65 on the raw fields of an L word. Well-formedness and the decoder both read these tables. -/

namespace Sys2Proof.Machine

/-- Bits `lo` to `lo + n - 1` of `w`. -/
def bf (w lo n : Nat) : Nat := w / 2 ^ lo % 2 ^ n

/-- The lowest bit number among the checks that fail (R65). -/
def firstBad (l : List (Bool × Nat)) : Option Nat :=
  match l with
  | [] => none
  | (false, _) :: t => firstBad t
  | (true, b) :: t => match firstBad t with | none => some b | some c => some (min b c)

/-- The outcome of the field checks of R64: a cause code and the lowest bit of the field, or none. -/
def judge (res ill sel grp : List (Bool × Nat)) : Option (Nat × Nat) :=
  match firstBad res with
  | some b => some (0x15, b)
  | none => match firstBad ill with
    | some b => some (0x16, b)
    | none => match firstBad sel with
      | some b => some (0x17, b)
      | none => match firstBad grp with
        | some b => some (0x18, b)
        | none => none

/-! ## Codes -/

def orderCode : Order → Nat
  | .rlx => 0 | .acq => 1 | .rel => 2 | .acqrel => 3

def ordOf (n : Nat) : Order :=
  match n with
  | 0 => .rlx | 1 => .acq | 2 => .rel | _ => .acqrel

def scopeCode : Scope → Nat
  | .wg => 0 | .cl => 1 | .die => 2 | .dev => 3 | .sys => 4

def scopeOf (n : Nat) : Scope :=
  match n with
  | 0 => .wg | 1 => .cl | 2 => .die | 3 => .dev | _ => .sys

def scondCode : SCond → Nat
  | .eq => 0 | .ne => 1 | .slt => 2 | .sge => 3 | .ult => 4 | .uge => 5 | .tst => 6 | .tnz => 7

def scondOf (n : Nat) : SCond :=
  match n with
  | 0 => .eq | 1 => .ne | 2 => .slt | 3 => .sge | 4 => .ult | 5 => .uge | 6 => .tst | _ => .tnz

def mtyCode : MTy → Nat
  | .u8 => 0 | .s8 => 1 | .u16 => 2 | .s16 => 3 | .u32 => 4 | .s32 => 5 | .b64 => 6

def mtyOf (n : Nat) : MTy :=
  match n with
  | 0 => .u8 | 1 => .s8 | 2 => .u16 | 3 => .s16 | 4 => .u32 | 5 => .s32 | _ => .b64

def atomCode : AtomOp → Nat
  | .add => 0 | .smin => 1 | .umin => 2 | .smax => 3 | .umax => 4 | .and => 5 | .or => 6 | .xor => 7 | .exch => 8
  | .cas => 9 | .fadd => 10

def atomOf (n : Nat) : AtomOp :=
  match n with
  | 0 => .add | 1 => .smin | 2 => .umin | 3 => .smax | 4 => .umax | 5 => .and | 6 => .or | 7 => .xor | 8 => .exch
  | 9 => .cas | _ => .fadd

def dirCode : CopyDir → Nat
  | .d2g => 0 | .g2d => 1 | .g2g => 2 | .d2d => 3 | .d2p => 4 | .p2d => 5

def dirOf (n : Nat) : CopyDir :=
  match n with
  | 0 => .d2g | 1 => .g2d | 2 => .g2g | 3 => .d2d | 4 => .d2p | _ => .p2d

def ltyCode : LTy → Nat
  | .none => 0 | .u8 => 1 | .s8 => 2 | .u16 => 3 | .s16 => 4 | .u32 => 5 | .s32 => 6 | .u64 => 7 | .s64 => 8
  | .f16 => 9 | .bf16 => 10 | .f32 => 11 | .f64 => 12 | .f16x2 => 13 | .bf16x2 => 14 | .e4m3 => 15 | .e5m2 => 16
  | .e2m1 => 17 | .e8m0 => 18 | .mk8 => 19 | .b32 => 20 | .b64 => 21 | .u16x2 => 22 | .s16x2 => 23 | .u8x4 => 24
  | .s8x4 => 25 | .b128 => 26

/-- The type of a code of R60; codes 27 to 31 name none. -/
def ltyOf (n : Nat) : Option LTy :=
  match n with
  | 0 => some .none | 1 => some .u8 | 2 => some .s8 | 3 => some .u16 | 4 => some .s16 | 5 => some .u32
  | 6 => some .s32 | 7 => some .u64 | 8 => some .s64 | 9 => some .f16 | 10 => some .bf16 | 11 => some .f32
  | 12 => some .f64 | 13 => some .f16x2 | 14 => some .bf16x2 | 15 => some .e4m3 | 16 => some .e5m2
  | 17 => some .e2m1 | 18 => some .e8m0 | 19 => some .mk8 | 20 => some .b32 | 21 => some .b64 | 22 => some .u16x2
  | 23 => some .s16x2 | 24 => some .u8x4 | 25 => some .s8x4 | 26 => some .b128 | _ => Option.none

def rndCode : Rnd → Nat
  | .dyn => 0 | .rne => 1 | .rtz => 2 | .rup => 3 | .rdn => 4 | .rna => 5

def rndOf (n : Nat) : Rnd :=
  match n with
  | 0 => .dyn | 1 => .rne | 2 => .rtz | 3 => .rup | 4 => .rdn | _ => .rna

/-- The selector code of R58. -/
def selCode : Sel → Nat
  | .v n => n.toNat
  | .k n => 128 + n.toNat
  | .q n => 132 + n.toNat
  | .em => 140
  | .flm => 141
  | .laneid => 142
  | .imm => 143
  | .mb n => 144 + n.toNat
  | .small n => 192 + n.toNat

/-- The selector of a code of R58; codes 148 to 191 name none. -/
def selOf (c : Nat) : Option Sel :=
  if c < 128 then some (.v (BitVec.ofNat 7 c))
  else if c < 132 then some (.k (BitVec.ofNat 2 (c - 128)))
  else if c < 140 then some (.q (BitVec.ofNat 3 (c - 132)))
  else if c = 140 then some .em
  else if c = 141 then some .flm
  else if c = 142 then some .laneid
  else if c = 143 then some .imm
  else if c < 148 then some (.mb (BitVec.ofNat 2 (c - 144)))
  else if c < 192 then Option.none
  else some (.small (BitVec.ofNat 6 (c - 192)))

/-! ## Shapes of the L opcodes -/

/-- What an operand field of an L word accepts (R58): nothing; any value; any value but imm32; a mask or a `v` or `k`
value (`poll`); a mask; a `v` register. -/
inductive OpK where
  | no | x | xn | xq | mask | vv
  deriving DecidableEq, Repr

/-- How many `v` registers an operand takes: one, by the word's type, or by the source type of a conversion. -/
inductive OpW where
  | one | ty | src
  deriving DecidableEq, Repr

/-- What a destination field accepts: nothing; `v`; `v` or a mailbox; a mask; as `poll`'s mode says (R127). -/
inductive DstK where
  | no | v | vm | q | poll
  deriving DecidableEq, Repr

/-- The rule of an LA modifier (R61). -/
inductive ModR where
  | zero | below (n : Nat) | fixed (n : Nat) | lsw | xreq (rel : Bool) | xfeed | unused | cvt | unpk | pack
  deriving DecidableEq, Repr

/-- The types of a row of R61. -/
inductive TySet where
  | fl | dot2 | f64 | f1632 | f32 | int | mulhi | bits | shift | absI | b32 | conv | packT | scl | none | redT | xf
  deriving DecidableEq, Repr

/-- Types F of R61. -/
def isF (t : LTy) : Bool :=
  match t with
  | .f16 | .bf16 | .f32 | .f16x2 | .bf16x2 => true
  | _ => false

/-- Types I of R61. -/
def isI (t : LTy) : Bool :=
  match t with
  | .u32 | .s32 | .u64 | .s64 | .u16x2 | .s16x2 | .u8x4 | .s8x4 => true
  | _ => false

/-- Types B of R61. -/
def isB (t : LTy) : Bool :=
  match t with
  | .b32 | .b64 => true
  | _ => false

/-- Types M of R61. -/
def isM (t : LTy) : Bool :=
  match t with
  | .u8 | .s8 | .u16 | .s16 | .u32 | .s32 | .b64 | .b128 => true
  | _ => false

def TySet.has (s : TySet) (t : LTy) : Bool :=
  match s with
  | .fl => isF t
  | .dot2 => decide (t = .f16x2) || decide (t = .bf16x2)
  | .f64 => decide (t = .f64)
  | .f1632 => decide (t = .f16) || decide (t = .f32)
  | .f32 => decide (t = .f32)
  | .int => isI t
  | .mulhi => decide (t = .u32) || decide (t = .s32) || decide (t = .u64) || decide (t = .s64)
  | .bits => isB t
  | .shift => isI t || isB t
  | .absI => decide (t = .s32) || decide (t = .s64) || decide (t = .s16x2) || decide (t = .s8x4)
  | .b32 => decide (t = .b32)
  | .conv => decide (t ≠ .none) && decide (t ≠ .b128)
  | .packT => decide (t = .f16x2) || decide (t = .bf16x2) || decide (t = .u16x2) || decide (t = .s16x2)
      || decide (t = .u8x4) || decide (t = .s8x4) || decide (t = .e4m3) || decide (t = .e5m2) || decide (t = .e2m1)
      || decide (t = .mk8)
  | .scl => decide (t = .f16) || decide (t = .bf16) || decide (t = .f32)
  | .none => decide (t = .none)
  | .redT => isI t || isF t
  | .xf => isB t || decide (t = .b128)

/-- The shape of an LA word: its types, operands and modifier rule; whether rounding and saturation are legal (R62);
whether imm32 is the class set of `fcls`, or must be zero even where an operand selects it (`wapp`, R172). -/
structure LShape where
  tys : TySet
  dst : DstK
  a : OpK
  aw : OpW
  b : OpK
  bw : OpW
  c : OpK
  cw : OpW
  md : ModR
  rnd : Bool
  sat : Bool
  guard : Bool
  cls : Bool
  noImm : Bool := false
  deriving DecidableEq, Repr

/-- A shape of `n` value operands in the word's type, with the modifier 0. -/
def shape (tys : TySet) (dst : DstK) (n : Nat) (rnd sat : Bool) : LShape :=
  { tys := tys, dst := dst, a := .x, aw := .ty, b := if 2 ≤ n then .x else .no, bw := .ty,
    c := if 3 ≤ n then .x else .no, cw := .ty, md := .zero, rnd := rnd, sat := sat, guard := true, cls := false }

/-- Registers of a 64-bit type are pairs and of `.b128` quads (R58). -/
def tyRegs (t : LTy) : Nat :=
  match t with
  | .u64 | .s64 | .f64 | .b64 => 2
  | .b128 => 4
  | _ => 1

/-- The LA opcode of an instruction and its shape (R61). -/
def laShape (i : Instr) : Option (Nat × LShape × LA) :=
  match i with
  | .laneAddF w => some (0x01, shape .fl .v 2 true true, w)
  | .laneSubF w => some (0x02, shape .fl .v 2 true true, w)
  | .laneMulF w => some (0x03, shape .fl .v 2 true true, w)
  | .laneFma w => some (0x04, shape .fl .v 3 true true, w)
  | .laneFms w => some (0x05, shape .fl .v 3 true true, w)
  | .laneFnma w => some (0x06, shape .fl .v 3 true true, w)
  | .laneMinF w => some (0x07, shape .fl .v 2 true true, w)
  | .laneMaxF w => some (0x08, shape .fl .v 2 true true, w)
  | .laneMinp w => some (0x09, shape .fl .v 2 true true, w)
  | .laneMaxp w => some (0x0A, shape .fl .v 2 true true, w)
  | .laneAbsF w => some (0x0B, shape .fl .v 1 true true, w)
  | .laneNegF w => some (0x0C, shape .fl .v 1 true true, w)
  | .laneCmpF w => some (0x0D, { shape .fl .q 2 true true with md := .below 8 }, w)
  | .laneClamp w => some (0x0E, shape .fl .v 3 true true, w)
  | .laneCsgn w => some (0x0F, shape .fl .v 2 true true, w)
  | .laneDot2 w => some (0x10, shape .dot2 .v 3 true true, w)
  | .laneFcls w => some (0x11, { shape .fl .q 1 true true with a := .xn, cls := true }, w)
  | .laneRint w => some (0x12, shape .fl .v 1 true true, w)
  | .laneAddF64 w => some (0x20, shape .f64 .v 2 true true, w)
  | .laneSubF64 w => some (0x21, shape .f64 .v 2 true true, w)
  | .laneMulF64 w => some (0x22, shape .f64 .v 2 true true, w)
  | .laneFmaF64 w => some (0x23, shape .f64 .v 3 true true, w)
  | .laneMinF64 w => some (0x24, shape .f64 .v 2 true true, w)
  | .laneMaxF64 w => some (0x25, shape .f64 .v 2 true true, w)
  | .laneCmpF64 w => some (0x26, { shape .f64 .q 2 true true with md := .below 8 }, w)
  | .laneDivF64 w => some (0x27, shape .f64 .v 2 true true, w)
  | .laneSqrtF64 w => some (0x28, shape .f64 .v 1 true true, w)
  | .laneRcp w => some (0x29, shape .f1632 .v 1 true true, w)
  | .laneRsqrt w => some (0x2A, shape .f1632 .v 1 true true, w)
  | .laneSqrt w => some (0x2B, shape .f1632 .v 1 true true, w)
  | .laneEx2 w => some (0x2C, shape .f1632 .v 1 true true, w)
  | .laneLg2 w => some (0x2D, shape .f1632 .v 1 true true, w)
  | .laneSin w => some (0x2E, { shape .f1632 .v 1 true true with md := .fixed 0 }, w)
  | .laneCos w => some (0x2E, { shape .f1632 .v 1 true true with md := .fixed 1 }, w)
  | .laneTanh w => some (0x2E, { shape .f1632 .v 1 true true with md := .fixed 2 }, w)
  | .laneDivF32 w => some (0x2F, shape .f32 .v 2 true true, w)
  | .laneAddI w => some (0x30, shape .int .v 2 false true, w)
  | .laneSubI w => some (0x31, shape .int .v 2 false true, w)
  | .laneMulI w => some (0x32, shape .int .v 2 false true, w)
  | .laneMulhi w => some (0x33, shape .mulhi .v 2 false false, w)
  | .laneMad w => some (0x34, shape .int .v 3 false true, w)
  | .laneMinI w => some (0x35, shape .int .v 2 false false, w)
  | .laneMaxI w => some (0x36, shape .int .v 2 false false, w)
  | .laneAnd w => some (0x37, { shape .bits .v 2 false false with md := .fixed 0 }, w)
  | .laneOr w => some (0x37, { shape .bits .v 2 false false with md := .fixed 1 }, w)
  | .laneXor w => some (0x37, { shape .bits .v 2 false false with md := .fixed 2 }, w)
  | .laneAndn w => some (0x37, { shape .bits .v 2 false false with md := .fixed 3 }, w)
  | .laneShl w => some (0x38, shape .shift .v 2 false false, w)
  | .laneShr w => some (0x39, shape .shift .v 2 false false, w)
  | .laneCmpI w => some (0x3A, { shape .int .q 2 false false with md := .below 6 }, w)
  | .lanePopc w => some (0x3B, { shape .bits .v 1 false false with md := .fixed 0 }, w)
  | .laneClz w => some (0x3B, { shape .bits .v 1 false false with md := .fixed 1 }, w)
  | .laneCtz w => some (0x3B, { shape .bits .v 1 false false with md := .fixed 2 }, w)
  | .laneBrev w => some (0x3B, { shape .bits .v 1 false false with md := .fixed 3 }, w)
  | .laneAbsI w => some (0x3C, { shape .absI .v 1 false false with md := .fixed 0 }, w)
  | .laneNegI w => some (0x3C, { shape .absI .v 1 false false with md := .fixed 1 }, w)
  | .laneBdot w => some (0x3D, { shape .b32 .v 3 false false with md := .below 4 }, w)
  | .laneCvt w => some (0x40, { shape .conv .v 1 true true with aw := .src, md := .cvt }, w)
  | .lanePack w => some (0x41, { shape .packT .v 2 true true with aw := .src, bw := .src, md := .pack }, w)
  | .laneUnpk w => some (0x42, { shape .conv .v 1 true true with aw := .src, md := .unpk }, w)
  | .laneScl w => some (0x43, { shape .scl .v 2 true true with bw := .one }, w)
  | .laneMov w => some (0x50, shape .bits .vm 1 false false, w)
  | .laneSel w => some (0x51, { shape .bits .v 2 false false with c := .mask }, w)
  | .laneLsw w => some (0x52, { shape .bits .v 2 false false with a := .vv, bw := .one, md := .lsw }, w)
  | .lanePoll w => some (0x53, { shape .none .poll 1 false false with a := .xq, md := .below 5 }, w)
  | .laneRed w => some (0x54, { shape .redT .vm 1 false false with md := .below 6 }, w)
  | .laneBsel w => some (0x55, shape .b32 .v 3 false false, w)
  | .laneScan w => some (0x56, { shape .redT .v 1 false false with md := .below 6 }, w)
  | .qand w => some (0x60, { shape .none .q 2 false false with a := .mask, b := .mask, md := .fixed 0 }, w)
  | .qor w => some (0x60, { shape .none .q 2 false false with a := .mask, b := .mask, md := .fixed 1 }, w)
  | .qxor w => some (0x60, { shape .none .q 2 false false with a := .mask, b := .mask, md := .fixed 2 }, w)
  | .qandn w => some (0x60, { shape .none .q 2 false false with a := .mask, b := .mask, md := .fixed 3 }, w)
  | .qmov w => some (0x61, shape .b32 .q 1 false false, w)
  | .qcnt w => some (0x62, { shape .none .v 1 false false with a := .mask }, w)
  | .emwr w => some (0x63, { shape .none .no 1 false false with a := .mask, guard := false }, w)
  | .xreqReserve w => some (0x78, { shape .none .no 0 false false with a := .no, md := .xreq false }, w)
  | .xreqRelease w => some (0x78, { shape .none .no 0 false false with a := .no, md := .xreq true }, w)
  | .xfeed w => some (0x79, { shape .xf .no 2 false false with a := .vv, bw := .one, md := .xfeed }, w)
  | .xread w => some (0x7A, { shape .xf .v 1 false false with aw := .one, md := .unused }, w)
  | .wapp w => some (0x7B, { shape .bits .no 2 false false with bw := .one, md := .unused, noImm := true }, w)
  | _ => none

/-- The constructor of an LA opcode and modifier (R61); none where the opcode is no LA opcode or its modifier is
unassigned among those that select a mnemonic. -/
def laCon (op md : Nat) : Option (LA → Instr) :=
  match op with
  | 0x01 => some .laneAddF | 0x02 => some .laneSubF | 0x03 => some .laneMulF | 0x04 => some .laneFma
  | 0x05 => some .laneFms | 0x06 => some .laneFnma | 0x07 => some .laneMinF | 0x08 => some .laneMaxF
  | 0x09 => some .laneMinp | 0x0A => some .laneMaxp | 0x0B => some .laneAbsF | 0x0C => some .laneNegF
  | 0x0D => some .laneCmpF | 0x0E => some .laneClamp | 0x0F => some .laneCsgn | 0x10 => some .laneDot2
  | 0x11 => some .laneFcls | 0x12 => some .laneRint | 0x20 => some .laneAddF64 | 0x21 => some .laneSubF64
  | 0x22 => some .laneMulF64 | 0x23 => some .laneFmaF64 | 0x24 => some .laneMinF64 | 0x25 => some .laneMaxF64
  | 0x26 => some .laneCmpF64 | 0x27 => some .laneDivF64 | 0x28 => some .laneSqrtF64 | 0x29 => some .laneRcp
  | 0x2A => some .laneRsqrt | 0x2B => some .laneSqrt | 0x2C => some .laneEx2 | 0x2D => some .laneLg2
  | 0x2E => match md with
    | 0 => some .laneSin | 1 => some .laneCos | 2 => some .laneTanh | _ => none
  | 0x2F => some .laneDivF32 | 0x30 => some .laneAddI | 0x31 => some .laneSubI | 0x32 => some .laneMulI
  | 0x33 => some .laneMulhi | 0x34 => some .laneMad | 0x35 => some .laneMinI | 0x36 => some .laneMaxI
  | 0x37 => match md with
    | 0 => some .laneAnd | 1 => some .laneOr | 2 => some .laneXor | 3 => some .laneAndn | _ => none
  | 0x38 => some .laneShl | 0x39 => some .laneShr | 0x3A => some .laneCmpI
  | 0x3B => match md with
    | 0 => some .lanePopc | 1 => some .laneClz | 2 => some .laneCtz | 3 => some .laneBrev | _ => none
  | 0x3C => match md with
    | 0 => some .laneAbsI | 1 => some .laneNegI | _ => none
  | 0x3D => some .laneBdot | 0x40 => some .laneCvt | 0x41 => some .lanePack | 0x42 => some .laneUnpk
  | 0x43 => some .laneScl | 0x50 => some .laneMov | 0x51 => some .laneSel | 0x52 => some .laneLsw
  | 0x53 => some .lanePoll | 0x54 => some .laneRed | 0x55 => some .laneBsel | 0x56 => some .laneScan
  | 0x60 => match md with
    | 0 => some .qand | 1 => some .qor | 2 => some .qxor | 3 => some .qandn | _ => none
  | 0x61 => some .qmov | 0x62 => some .qcnt | 0x63 => some .emwr
  | 0x78 => if md % 4 < 2 then some .xreqReserve else some .xreqRelease
  | 0x79 => some .xfeed | 0x7A => some .xread | 0x7B => some .wapp
  | _ => none

/-! ## The raw fields of an LA word and their checks -/

/-- The raw fields of an LA word (R57). -/
structure LARaw where
  m : Nat
  g : Nat
  dst : Nat
  a : Nat
  b : Nat
  c : Nat
  rnd : Nat
  sat : Nat
  ty : Nat
  md : Nat
  z : Nat
  imm : Nat
  deriving DecidableEq, Repr

/-- Operand code 0 where nothing is read, else an accepted selector (R58). -/
def opSelBad (k : OpK) (code : Nat) : Bool :=
  match k, selOf code with
  | .no, _ => false
  | _, none => true
  | .x, some (.v _) | .x, some (.k _) | .x, some .laneid | .x, some .imm | .x, some (.small _) => false
  | .xn, some (.v _) | .xn, some (.k _) | .xn, some .laneid | .xn, some (.small _) => false
  | .xq, some (.v _) | .xq, some (.k _) | .xq, some (.q _) | .xq, some .em | .xq, some .flm => false
  | .mask, some (.q _) | .mask, some .em | .mask, some .flm => false
  | .vv, some (.v _) => false
  | _, _ => true

/-- Destinations accepted (R58, R127). -/
def dstSelBad (k : DstK) (md code : Nat) : Bool :=
  match k, selOf code with
  | .no, _ => false
  | _, none => true
  | .v, some (.v _) => false
  | .vm, some (.v _) | .vm, some (.mb _) => false
  | .q, some (.q _) => false
  | .poll, some (.q _) => decide (3 ≤ md)
  | .poll, some (.v _) | .poll, some (.mb _) => decide (md < 3)
  | _, _ => true

/-- The source type in modifier [42:38] (R121). -/
def srcTy (md : Nat) : Option LTy := ltyOf (md / 4)

/-- Registers that an operand of width rule `w` takes. -/
def opRegs (w : OpW) (ty : Option LTy) (md : Nat) : Nat :=
  match w with
  | .one => 1
  | .ty => match ty with | some t => tyRegs t | none => 1
  | .src => match srcTy md with | some t => tyRegs t | none => 1

/-- The largest element index that a conversion source admits (R121). -/
def srcElMax (t : LTy) : Nat :=
  match t with
  | .u8 | .s8 | .e4m3 | .e5m2 | .mk8 | .e8m0 | .u8x4 | .s8x4 | .e2m1 => 3
  | .u16 | .s16 | .f16 | .bf16 | .f16x2 | .bf16x2 | .u16x2 | .s16x2 => 1
  | _ => 0

/-- The largest element index of a `pack` destination (R122). -/
def packElMax (t : LTy) : Nat :=
  match t with
  | .e4m3 | .e5m2 | .mk8 | .u8x4 | .s8x4 => 1
  | .e2m1 => 3
  | _ => 0

/-- The signedness and width of an integer type's element; bit types count as unsigned (R121). -/
def intTy (t : LTy) : Option (Bool × Nat) :=
  match t with
  | .u8 => some (false, 8) | .s8 => some (true, 8) | .u16 => some (false, 16) | .s16 => some (true, 16)
  | .u32 => some (false, 32) | .s32 => some (true, 32) | .u64 => some (false, 64) | .s64 => some (true, 64)
  | .b32 => some (false, 32) | .b64 => some (false, 64)
  | .u16x2 => some (false, 16) | .s16x2 => some (true, 16) | .u8x4 => some (false, 8) | .s8x4 => some (true, 8)
  | _ => none

/-- The pairs of types that `unpk` accepts (R121). -/
def unpkOk (s t : LTy) : Bool :=
  match s with
  | .e2m1 | .e4m3 | .e5m2 | .mk8 =>
      decide (t = .f16) || decide (t = .bf16) || decide (t = .f16x2) || decide (t = .bf16x2) || decide (t = .f32)
        || decide (t = .f64)
  | .f16 | .bf16 | .f16x2 | .bf16x2 | .e8m0 => decide (t = .f32) || decide (t = .f64)
  | .f32 => decide (t = .f64)
  | _ => match intTy s, intTy t with
    | some (ss, sw), some (ts, tw) => decide (sw < tw) && (decide (ss = ts) || (ts && !ss))
    | _, _ => false

/-- The unassigned modifier check of R64 order 5: the lowest bit of the offending field. -/
def modBad (r : ModR) (md : Nat) : Option Nat :=
  match r with
  | .zero => if md ≠ 0 then some 36 else none
  | .below n => if n ≤ md then some 36 else none
  | .fixed n => if md ≠ n then some 36 else none
  | .lsw => if 4 < md / 4 % 8 then some 38 else none
  | _ => none

/-- Reserved modifier bits (R61). -/
def modRes (r : ModR) (md : Nat) : List (Bool × Nat) :=
  match r with
  | .lsw => [(decide (md / 32 ≠ 0), 41)]
  | .xreq _ => [(decide (md % 2 = 1) && decide (md / 4 % 8 ≠ 0), 38)]
  | .xfeed => [(decide (md / 8 ≠ 0), 39)]
  | .unused => [(decide (md ≠ 0), 36)]
  | _ => []

/-- Illegal source types and element numbers of the conversions (R121, R122). -/
def modIll (r : ModR) (ty : Option LTy) (md : Nat) : List (Bool × Nat) :=
  match r with
  | .cvt => match srcTy md with
    | none | some .none | some .b128 => [(true, 38)]
    | some s => [(decide (srcElMax s < md % 4), 36)]
  | .unpk => match srcTy md with
    | none | some .none | some .b128 => [(true, 38)]
    | some s => [(decide (srcElMax s < md % 4), 36),
        (match ty with | some t => !unpkOk s t | none => false, 38)]
  | .pack => match srcTy md with
    | none | some .none | some .b128 => [(true, 38)]
    | some _ => [(match ty with | some t => decide (packElMax t < md % 4) | none => false, 36)]
  | _ => []

/-- A word of a `red` or `scan` with a bitwise operation takes no floating type (R128). -/
def redBad (s : LShape) (ty : Option LTy) (md : Nat) : Bool :=
  decide (s.tys = .redT) && decide (3 ≤ md) && (match ty with | some t => isF t | none => false)

/-- `lsw.rev` reads no b (R125). -/
def bKind (s : LShape) (md : Nat) : OpK := if s.md = .lsw ∧ md % 4 = 3 then .no else s.b

/-- Whether code `c` is an odd `v` register for a pair, or not a multiple of 4 for a quad (R58). -/
def grpBad (k : Bool) (c n : Nat) : Bool := k && decide (c < 128) && decide (c % n ≠ 0)

/-- Whether an operand that the word reads selects imm32. -/
def readsImm (s : LShape) (r : LARaw) : Bool :=
  (decide (s.a ≠ .no) && decide (r.a = 143)) || (decide (bKind s r.md ≠ .no) && decide (r.b = 143))
    || (decide (s.c ≠ .no) && decide (r.c = 143))

/-- Every check of R64 orders 5 to 9 on an LA word's raw fields: the cause code and bit, or none. An operand that is
not read is no operand of R58: code 143 there leaves imm32 reserved. A bitwise `red` or `scan` of a floating type is
reported at its type field (DEDUCED, log 78). -/
def laCheck (s : LShape) (r : LARaw) : Option (Nat × Nat) :=
  match modBad s.md r.md with
  | some b => some (0x14, b)
  | none =>
    let ty := ltyOf r.ty
    let bk := bKind s r.md
    judge
      ([(decide (s.guard = false) && decide (r.g ≠ 0), 84), (decide (s.dst = .no) && decide (r.dst ≠ 0), 76),
        (decide (s.a = .no) && decide (r.a ≠ 0), 68), (decide (bk = .no) && decide (r.b ≠ 0), 60),
        (decide (s.c = .no) && decide (r.c ≠ 0), 52), (!s.rnd && decide (r.rnd ≠ 0), 49),
        (!s.sat && decide (r.sat ≠ 0), 48), (decide (r.z ≠ 0), 32),
        (s.cls && decide (r.imm / 1024 ≠ 0), 10),
        (!s.cls && decide (r.imm ≠ 0) && (s.noImm || !readsImm s r), 0)]
        ++ modRes s.md r.md)
      ([(s.rnd && decide (6 ≤ r.rnd), 49), (match ty with | some t => !s.tys.has t | none => true, 43),
        (redBad s ty r.md, 43)] ++ modIll s.md ty r.md)
      [(dstSelBad s.dst r.md r.dst, 76), (opSelBad s.a r.a, 68), (opSelBad bk r.b, 60), (opSelBad s.c r.c, 52)]
      [(grpBad (decide (s.dst ≠ .no) && decide (s.dst ≠ .q)) r.dst (opRegs .ty ty r.md), 76),
        (grpBad (decide (s.a ≠ .no)) r.a (opRegs s.aw ty r.md), 68),
        (grpBad (decide (bk ≠ .no)) r.b (opRegs s.bw ty r.md), 60),
        (grpBad (decide (s.c ≠ .no)) r.c (opRegs s.cw ty r.md), 52)]

/-- The raw fields of a typed LA word. -/
def laRaw (w : LA) : LARaw :=
  { m := w.m.toNat, g := w.g.neg.toNat * 8 + w.g.q.toNat, dst := selCode w.dst, a := selCode w.a, b := selCode w.b,
    c := selCode w.c, rnd := rndCode w.rnd, sat := w.sat.toNat, ty := ltyCode w.ty, md := w.md.toNat, z := 0,
    imm := w.imm.toNat }

/-- The guard field of R57. -/
def guardOf (g : Nat) : Guard := { neg := decide (8 ≤ g), q := BitVec.ofNat 3 g }

/-- The typed word of raw fields that passed their checks. -/
def laOf (r : LARaw) : LA :=
  { m := decide (r.m = 1), g := guardOf r.g, dst := (selOf r.dst).getD (.v 0), a := (selOf r.a).getD (.v 0),
    b := (selOf r.b).getD (.v 0), c := (selOf r.c).getD (.v 0), rnd := rndOf r.rnd, sat := decide (r.sat = 1),
    ty := (ltyOf r.ty).getD .none, md := BitVec.ofNat 7 r.md, imm := BitVec.ofNat 32 r.imm }

/-! ## LM and LC words -/

/-- The LM opcode, the function where it selects the mnemonic, and the word of an instruction (R61). -/
def lmCode (i : Instr) : Option (Nat × Nat × LM) :=
  match i with
  | .laneLdp w => some (0x70, 0, w) | .laneStp w => some (0x71, 0, w) | .laneLdg w => some (0x72, 0, w)
  | .laneStg w => some (0x73, 0, w) | .laneLdh w => some (0x74, 0, w) | .laneSth w => some (0x75, 0, w)
  | .laneAtom w => some (0x76, 0, w) | .laneFence w => some (0x77, 0, w) | .laneBarArrive w => some (0x77, 1, w)
  | .laneBarWait w => some (0x77, 2, w) | .laneNbarArrive w => some (0x77, 3, w)
  | .laneNbarWait w => some (0x77, 4, w)
  | _ => none

/-- The constructor of an LM opcode and function. -/
def lmCon (op fn : Nat) : Option (LM → Instr) :=
  match op with
  | 0x70 => some .laneLdp | 0x71 => some .laneStp | 0x72 => some .laneLdg | 0x73 => some .laneStg
  | 0x74 => some .laneLdh | 0x75 => some .laneSth | 0x76 => some .laneAtom
  | 0x77 => match fn with
    | 0 => some .laneFence | 1 => some .laneBarArrive | 2 => some .laneBarWait | 3 => some .laneNbarArrive
    | 4 => some .laneNbarWait | _ => none
  | _ => none

/-- The raw fields of an LM word (R57). -/
structure LMRaw where
  m : Nat
  g : Nat
  dst : Nat
  a : Nat
  b : Nat
  c : Nat
  rnd : Nat
  sat : Nat
  ty : Nat
  ord : Nat
  sc : Nat
  ef : Nat
  rb : Nat
  z : Nat
  fn : Nat
  off : Nat
  deriving DecidableEq, Repr

/-- Whether the opcode and function are a load, a store, or read each field: (load, store, a, b, c). -/
def lmReads (op fn : Nat) : Bool × Bool × Bool × Bool × Bool :=
  match op with
  | 0x70 => (true, false, true, false, false)
  | 0x71 => (false, true, true, true, false)
  | 0x72 => (true, false, true, false, false)
  | 0x73 => (false, true, true, true, false)
  | 0x74 => (true, false, true, true, false)
  | 0x75 => (false, true, true, true, true)
  | 0x76 => (false, false, true, true, decide (fn / 16 = 9) || decide (fn / 4 % 4 = 2))
  | _ => match fn with
    | 1 => (false, false, true, false, false)
    | 3 => (false, false, true, true, false)
    | 4 => (false, false, false, true, false)
    | _ => (false, false, false, false, false)

/-- Types an LM opcode accepts (R61). -/
def lmTyOk (op : Nat) (t : LTy) : Bool :=
  match op with
  | 0x71 | 0x73 | 0x75 => isM t && decide (t ≠ .s8) && decide (t ≠ .s16) && decide (t ≠ .s32)
  | 0x76 => decide (t = .u32) || decide (t = .s32) || decide (t = .u64) || decide (t = .s64) || decide (t = .b32)
      || decide (t = .b64) || decide (t = .f32)
  | 0x77 => decide (t = .none)
  | _ => isM t

/-- Orders accepted (R52), by code. -/
def lmOrdOk (op fn ord : Nat) : Bool :=
  match op with
  | 0x70 | 0x72 | 0x74 => decide (ord < 2)
  | 0x71 | 0x73 | 0x75 => decide (ord = 0) || decide (ord = 2)
  | 0x76 => true
  | _ => match fn with
    | 0 => decide (ord ≠ 0)
    | 1 | 3 => decide (ord = 0) || decide (ord = 2)
    | _ => decide (ord < 2)

/-- Which operand takes the data width of the type: b of a store or atomic, c of a compare-exchange. -/
def lmGrp (op fn : Nat) : Bool × Bool :=
  match op with
  | 0x71 | 0x73 | 0x75 => (true, false)
  | 0x76 => (true, decide (fn / 16 = 9))
  | _ => (false, false)

/-- A `.b128` operand is a quad of `v` registers; other data takes any selector but imm32 (R58, R63). -/
def dataK (grp : Bool) (ty : Option LTy) : OpK := if grp ∧ ty = some .b128 then .vv else .xn

/-- Every check of R64 orders 5 to 9 on an LM word's raw fields. The base field a takes the value selectors of R58's
table, not only the `v` register of R34, and an operation that disagrees with the type is reported at the type field
(DEDUCED, log 78). -/
def lmCheck (op : Nat) (r : LMRaw) : Option (Nat × Nat) :=
  if op = 0x77 ∧ 5 ≤ r.fn then some (0x14, 24)
  else if op = 0x76 ∧ 11 ≤ r.fn / 16 then some (0x14, 28)
  else
    let ty := ltyOf r.ty
    let k := lmReads op r.fn
    let g := lmGrp op r.fn
    let n := opRegs .ty ty 0
    let aop := r.fn / 16
    let spc := r.fn / 4 % 4
    let hasDst := k.1 || decide (op = 0x76)
    judge
      [(!hasDst && decide (r.dst ≠ 0), 76), (!k.2.2.1 && decide (r.a ≠ 0), 68), (!k.2.2.2.1 && decide (r.b ≠ 0), 60),
        (!k.2.2.2.2 && decide (r.c ≠ 0), 52), (decide (r.rnd ≠ 0), 49), (decide (r.sat ≠ 0), 48),
        (!k.2.1 && decide (r.ef ≠ 0), 37), (!k.1 && decide (r.rb ≠ 0), 36), (decide (r.z ≠ 0), 32),
        (decide (op < 0x76) && decide (r.fn ≠ 0), 24), (decide (op = 0x76) && decide (r.fn % 4 ≠ 0), 24),
        (decide (op = 0x77) && decide (r.off ≠ 0), 0)]
      [(match ty with | some t => !lmTyOk op t | none => true, 43), (!lmOrdOk op r.fn r.ord, 41),
        (decide (4 < r.sc), 38),
        (decide (op = 0x76) && (decide (spc = 3) || (decide (aop = 9) && decide (spc = 2))), 26),
        (decide (op = 0x76) && (decide (aop = 10) != decide (ty = some .f32)), 43)]
      [(hasDst && dstSelBad .v 0 r.dst, 76), (k.2.2.1 && opSelBad .xn r.a, 68),
        (k.2.2.2.1 && opSelBad (dataK g.1 ty) r.b, 60), (k.2.2.2.2 && opSelBad .xn r.c, 52)]
      [(grpBad hasDst r.dst n, 76), (grpBad (k.2.2.2.1 && g.1) r.b n, 60), (grpBad (k.2.2.2.2 && g.2) r.c n, 52)]

/-- The raw fields of a typed LM word. -/
def lmRaw (w : LM) : LMRaw :=
  { m := w.m.toNat, g := w.g.neg.toNat * 8 + w.g.q.toNat, dst := selCode w.dst, a := selCode w.a, b := selCode w.b,
    c := selCode w.c, rnd := 0, sat := 0, ty := ltyCode w.ty, ord := orderCode w.ord, sc := scopeCode w.sc,
    ef := w.ef.toNat, rb := w.rb.toNat, z := 0, fn := w.fn.toNat, off := w.off.toNat }

/-- The typed word of raw fields that passed their checks. -/
def lmOf (r : LMRaw) : LM :=
  { m := decide (r.m = 1), g := guardOf r.g, dst := (selOf r.dst).getD (.v 0), a := (selOf r.a).getD (.v 0),
    b := (selOf r.b).getD (.v 0), c := (selOf r.c).getD (.v 0), ty := (ltyOf r.ty).getD .none, ord := ordOf r.ord,
    sc := scopeOf r.sc, ef := decide (r.ef = 1), rb := decide (r.rb = 1), fn := BitVec.ofNat 8 r.fn,
    off := BitVec.ofNat 24 r.off }

/-- The LC opcode and word of an instruction. -/
def lcCode (i : Instr) : Option (Nat × LC) :=
  match i with
  | .lbr w => some (0x68, w) | .ljoin w => some (0x69, w) | .lend w => some (0x6A, w) | .lbrk w => some (0x6B, w)
  | .ljmp w => some (0x6C, w)
  | _ => none

/-- The constructor of an LC opcode. -/
def lcCon (op : Nat) : Option (LC → Instr) :=
  match op with
  | 0x68 => some .lbr | 0x69 => some .ljoin | 0x6A => some .lend | 0x6B => some .lbrk | 0x6C => some .ljmp
  | _ => none

/-- The checks on an LC word: guard, the two reserved fields and the offset (R57). -/
def lcCheck (op g z1 z0 off : Nat) : Option (Nat × Nat) :=
  judge
    [((decide (op = 0x69) || decide (op = 0x6A) || decide (op = 0x6C)) && decide (g ≠ 0), 84),
      (decide (z1 ≠ 0), 52), (decide (z0 ≠ 0), 24),
      ((decide (op = 0x69) || decide (op = 0x6A) || decide (op = 0x6B)) && decide (off ≠ 0), 0)] [] [] []

end Sys2Proof.Machine
end

