-- ==== Sys2Proof/Machine/Assay.lean ====
section
/-! DEFINITION. Redundant execution as the words meet it: signatures (R29, R296, R297), compare points (R294), held
accesses (R292, R293) and values that replicas take from their leader (R304). -/

namespace Sys2Proof.Machine

/-! ## Signatures -/

/-- One round of `sig_fold` (R29). -/
def sigRound (c : Word) : Word :=
  if c.getLsbD 63 then (c <<< (1 : Nat)) ^^^ 0x42F0E1EBA9EA3693 else c <<< (1 : Nat)

/-- `n` rounds. -/
def sigRounds (n : Nat) (c : Word) : Word :=
  match n with
  | 0 => c
  | k + 1 => sigRounds k (sigRound c)

/-- `sig_fold(crc, b)` (R29). -/
def sigFold (c : Word) (b : Byte) : Word := sigRounds 8 (c ^^^ (b.setWidth 64 <<< (56 : Nat)))

/-- Bytes folded in order. -/
def sigBytes (c : Word) (l : List Byte) : Word := l.foldl sigFold c

/-- The modes byte of R296. -/
def modesByte (sc : Scope) (ef : Bool) (o : Order) : Nat := scopeCode sc + (if ef then 8 else 0) + orderCode o * 16

/-- The 16 + m bytes of a held entry (R296). -/
def entryBytes (cls modes size lane op addr : Nat) (data : List Byte) : List Byte :=
  leBytes 1 cls ++ leBytes 1 modes ++ leBytes 1 size ++ leBytes 1 lane ++ leBytes 1 op ++ leBytes 3 0 ++ leBytes 8 addr
    ++ data

/-- The 8 + 8k bytes of a point record (R297). -/
def pointBytes (kind modes : Nat) (st : Strm) (idx : Nat) (ops : List Nat) : List Byte :=
  leBytes 1 kind ++ leBytes 1 modes ++ leBytes 1 ((if st = .s then 0 else 1) + (if st = .l1 then 2 else 0))
    ++ leBytes 1 ops.length ++ leBytes 4 (idx % 2 ^ 24) ++ ops.flatMap (leBytes 8)

/-! ## Compare points (R294, R295) -/

/-- Whether the unit performs effects that leave it: a simplex unit or the leader (R290, R301). -/
def Unit.performs (u : Unit) : Bool := decide (u.who.rset = 0) || u.who.leader

/-- Whether another stream of the unit stands at a compare, or at a word whose compare has agreed. -/
def Unit.otherCompares (u : Unit) (st : Strm) : Bool :=
  (u.assay.at_.isSome && decide (u.assay.strm ≠ st)) || (match u.assay.passed with | some e => decide (e.1 ≠ st) | none => false)

/-- A compare point of the given kind: a replica whose compare has not agreed parks with the bytes that the compare
folds; after the compare, and in a simplex launch, `k` runs. While another stream of the warp stands at a compare, the
word waits for it, also until a word that has passed its compare has retired. -/
def compareGate (s : State) (u : Unit) (st : Strm) (kind : Nat) (bytes : List Byte) (k : Res) : Res :=
  let a := u.assay
  if u.who.rset = 0 then k
  else if a.passed = some (st, kind) then k
  else if u.otherCompares st then parkAt s u st .compare
  else
    let v : Unit := { u with assay := { a with
      at_ := some bytes, strm := st, kind := kind, passed := none, since := if a.at_.isSome then a.since else s.clk.now } }
    parkAt s v st .compare

/-- A compare point whose record names the word itself and no held entry of its own. -/
def pointGate (s : State) (u : Unit) (st : Strm) (kind modes : Nat) (ops : List Nat) (k : Res) : Res :=
  compareGate s u st kind (pointBytes kind modes st (u.pcOf st) ops) k

/-- A compare point of a command: its one held entry and its point record (R293, R297; a word without order and scope
fields folds modes 0, log 13). -/
def cmdGate (s : State) (u : Unit) (st : Strm) (kind : Nat) (ops : List Nat) (k : Res) : Res :=
  compareGate s u st kind (entryBytes 0x84 0 0 0xFF 0 0 [] ++ pointBytes kind 0 st (u.pcOf st) ops) k

/-- A held word: it waits while another stream stands at a compare, so that its entries fold after the compare word's (R296, log 53), and
makes an interim compare where the assay buffer cannot take `n` more entries (R293). -/
def roomGate (s : State) (u : Unit) (st : Strm) (n : Nat) (k : Res) : Res :=
  if u.who.rset ≠ 0 ∧ u.otherCompares st then parkAt s u st .compare
  else if u.who.rset ≠ 0 ∧ 256 < u.assay.held.length + n then pointGate s u st 0x0D 0 [] k else k

/-- Entries put into the assay buffer and folded (R292, R296). -/
def Unit.hold (u : Unit) (l : List Held) : Unit :=
  { u with assay := { u.assay with
      held := u.assay.held ++ l, sig := sigBytes u.assay.sig (l.flatMap (fun h => h.bytes)) } }

/-- The newest byte that a held entry of the unit writes at `a` (R293). -/
def heldByte (l : List Held) (a : Nat) (acc : Option Byte) : Option Byte :=
  match l with
  | [] => acc
  | h :: t => heldByte t a (match SMap.look h.data a with | some b => some b | none => acc)

/-- The byte of `a` among the unit's own held entries of words before `id` (R293). -/
def Unit.heldAt (u : Unit) (id a : Nat) : Option Byte := heldByte (u.assay.held.filter (fun h => decide (h.word < id))) a none

/-- The byte of `a` that a load returns: the unit's own held bytes first (R293). -/
def seenByte (s : State) (u : Unit) (st : Strm) (id a : Nat) : Byte :=
  (u.heldAt id a).getD (loadByte s u st id a)

/-! ## Values of the leader (R144, R304) -/

/-- The code of a stream. -/
def strmCode (st : Strm) : Nat := match st with | .s => 0 | .l0 => 1 | .l1 => 2

/-- The place of the next value that a stream takes from the leader. -/
def Unit.leadKey (u : Unit) (st : Strm) : Nat := 4 * SMap.get 0 u.assay.counts (strmCode st) + strmCode st

/-- The stream has taken one more such value. -/
def Unit.bumpLead (u : Unit) (st : Strm) : Unit :=
  let c := u.assay.counts
  { u with assay := { u.assay with counts := SMap.set 0 c (strmCode st) (SMap.get 0 c (strmCode st) + 1) } }

/-- The value handed out under a place of a set. -/
def leadVal (s : State) (set n : Nat) : Option Nat :=
  (s.fl.lead.find? (fun e => decide (e.1 = set) && decide (e.2.1 = n))).map (fun e => e.2.2)

/-- Whether the next value of the leader that a stream uses is taken, and not performed: by another replica, or one that the earlier leader has
handed out (R301, R304). -/
def Unit.takes (s : State) (u : Unit) (st : Strm) : Bool :=
  decide (u.who.rset ≠ 0) && (!u.who.leader || (leadVal s u.who.rset (u.leadKey st)).isSome)

/-- Whether a replica, still or again in a handler, has to execute the word whose compare has agreed. -/
def Unit.owesWord (u : Unit) : Bool :=
  u.assay.passed.isSome || (match u.trap.saved with | some v => v.passed.isSome | none => false)

/-- Whether the leader of a replica has still to perform the compare word that agreed: operations of the replica from then on come after it (R298). -/
def leadOwes (s : State) (u : Unit) (id : Nat) : Bool :=
  decide (u.who.rset ≠ 0) && !u.who.leader && decide (u.assay.cseq ≤ id) && (replicas s u).any (fun v => v.who.leader && v.owesWord)

/-- A value handed out. -/
def shareVal (s : State) (set n v : Nat) : State := { s with fl := { s.fl with lead := (set, n, v) :: s.fl.lead } }

/-- Lane values, the mask of bad lanes, the failing address and `tinfo` of the fault in one number. -/
def packLanes (vals : List (Nat × Nat)) (bad : Mask) (addr info : Nat) : Nat :=
  vals.foldl (fun a e => a + e.2 * 2 ^ (128 * e.1)) 0 + bad.toNat * 2 ^ 4096 + addr * 2 ^ 4128 + info * 2 ^ 4192

/-- The value of a lane in such a number. -/
def unpackLane (v l : Nat) : Nat := fld v (128 * l) 128

end Sys2Proof.Machine
end

