-- ==== Sys2Proof/Machine/Float.lean ====
section
/-! DEFINITION. Number formats, exact values, rounding, saturation and flags (R67 to R79, R82): one exact dyadic value
type, one rounding function and one saturation function, used by lanes, conversions, atomics and the matrix engine. -/

namespace Sys2Proof.Machine

/-- A value: a NaN, an infinity, or (-1)^neg * m * 2^e, with a zero of either sign at m = 0. -/
inductive FVal where
  | nan (sig : Bool)
  | inf (neg : Bool)
  | fin (neg : Bool) (m : Nat) (e : Int)
  deriving DecidableEq, Repr

/-- The floating formats of R68 and R70. -/
inductive Fmt where
  | f64 | f32 | f16 | bf16 | e5m2 | e4m3 | e2m1 | e8m0 | mk8
  deriving DecidableEq, Repr

/-- Rounding modes (R74). -/
inductive Rm where
  | rne | rtz | rup | rdn | rna
  deriving DecidableEq, Repr

/-- Flags in the order of `fpmode` (R15): [4] inexact, [3] underflow, [2] overflow, [1] divide by zero, [0] invalid. -/
abbrev Flags := BitVec 5

def flNone : Flags := 0
def flInvalid : Flags := 1
def flDiv0 : Flags := 2
def flOverflow : Flags := 4
def flUnderflow : Flags := 8
def flInexact : Flags := 16

/-- Fraction bits (R68). -/
def Fmt.fbits (f : Fmt) : Nat :=
  match f with
  | .f64 => 52 | .f32 => 23 | .f16 => 10 | .bf16 => 7 | .e5m2 => 2 | .e4m3 => 3 | .e2m1 => 1 | .e8m0 => 0 | .mk8 => 5

/-- Exponent bits (R68). -/
def Fmt.ebits (f : Fmt) : Nat :=
  match f with
  | .f64 => 11 | .f32 => 8 | .f16 => 5 | .bf16 => 8 | .e5m2 => 5 | .e4m3 => 4 | .e2m1 => 2 | .e8m0 => 8 | .mk8 => 2

/-- Exponent bias (R68). -/
def Fmt.bias (f : Fmt) : Int :=
  match f with
  | .f64 => 1023 | .f32 => 127 | .f16 => 15 | .bf16 => 127 | .e5m2 => 15 | .e4m3 => 7 | .e2m1 => 1 | .e8m0 => 127
  | .mk8 => 0

/-- The exponent of the smallest normal value (R74). -/
def Fmt.emin (f : Fmt) : Int :=
  match f with
  | .mk8 => -9
  | .e8m0 => -127
  | _ => 1 - f.bias

/-- Whether the format has infinities (R68). -/
def Fmt.hasInf (f : Fmt) : Bool :=
  match f with
  | .f64 | .f32 | .f16 | .bf16 | .e5m2 => true
  | _ => false

/-- The bits of an encoding. -/
def Fmt.width (f : Fmt) : Nat :=
  match f with
  | .f64 => 64 | .f32 => 32 | .f16 | .bf16 => 16 | .e2m1 => 4 | _ => 8

/-- The canonical NaN (R69); E2M1 has none and gives +0 (R75). -/
def Fmt.canonNan (f : Fmt) : Nat :=
  match f with
  | .f64 => 0x7FF8000000000000 | .f32 => 0x7FC00000 | .f16 => 0x7E00 | .bf16 => 0x7FC0 | .e5m2 => 0x7E
  | .e4m3 => 0x7F | .mk8 => 0x80 | .e8m0 => 0xFF | .e2m1 => 0

/-- The largest finite magnitude as m * 2^e (R68, R70). -/
def Fmt.maxFin (f : Fmt) : Nat × Int :=
  match f with
  | .f64 => (2 ^ 53 - 1, 971) | .f32 => (2 ^ 24 - 1, 104) | .f16 => (2047, 5) | .bf16 => (255, 120)
  | .e5m2 => (7, 13) | .e4m3 => (7, 6) | .e2m1 => (3, 1) | .e8m0 => (1, 127) | .mk8 => (63, -2)

/-- Whether formats are flushed by fzi and fzo (R76). -/
def Fmt.flushes (f : Fmt) : Bool :=
  match f with
  | .f64 | .f32 | .f16 | .bf16 => true
  | _ => false

/-! ## Decoding -/

/-- The value of an MK8 code (R70): the highest set bit below the sign gives the exponent pair. -/
def mk8Val (w : Nat) : FVal :=
  let s := decide (128 ≤ w % 256)
  let c := w % 128
  if c = 0 then (if s then .nan false else .fin false 0 0)
  else
    let p := Nat.log2 c          -- 6 - z
    if p = 0 then .fin s 1 (-9)
    else
      let a := c / 2 ^ (p - 1) % 2
      let fr := c % 2 ^ (p - 1)
      let ex : Int := 2 - 2 * (6 - p : Int) + a
      .fin s (2 ^ (p - 1) + fr) (ex - ((p - 1 : Nat) : Int))

/-- The value of an encoding (R68, R70). -/
def Fmt.decode (f : Fmt) (w : Nat) : FVal :=
  match f with
  | .mk8 => mk8Val w
  | .e8m0 => if w % 256 = 255 then .nan false else .fin false 1 ((w % 256 : Nat) - 127 : Int)
  | _ =>
    let fb := f.fbits
    let fr := w % 2 ^ fb
    let ex := w / 2 ^ fb % 2 ^ f.ebits
    let s := decide (w / 2 ^ (fb + f.ebits) % 2 = 1)
    if f.hasInf ∧ ex = 2 ^ f.ebits - 1 then
      (if fr = 0 then .inf s else .nan (decide (fr < 2 ^ (fb - 1)) && decide (f ≠ .e5m2)))
    else if f = .e4m3 ∧ ex = 15 ∧ fr = 7 then .nan false
    else if ex = 0 then .fin s fr (1 - f.bias - fb)
    else .fin s (2 ^ fb + fr) ((ex : Int) - f.bias - fb)

/-- Whether the value is a subnormal of the format. -/
def Fmt.isSub (f : Fmt) (w : Nat) : Bool :=
  decide (w / 2 ^ f.fbits % 2 ^ f.ebits = 0) && decide (w % 2 ^ f.fbits ≠ 0)

/-- An input value with fzi applied (R76). -/
def Fmt.decodeFz (f : Fmt) (fzi : Bool) (w : Nat) : FVal :=
  match f.decode w with
  | .fin s m e => if fzi && f.flushes && f.isSub w then .fin s 0 0 else .fin s m e
  | v => v

/-! ## Exact arithmetic -/

/-- Normal form for comparing: the signed integer at a common exponent. -/
def sgnInt (neg : Bool) (m : Nat) : Int := if neg then -(m : Int) else m

/-- m * 2^(e - k) for k at or below e. -/
def scaleTo (m : Nat) (e k : Int) : Nat := m * 2 ^ (e - k).toNat

/-- The exact sum of two finite values; a zero sum takes the sign of R82 and IEEE 754-2019: -0 only when both are -0,
or under RDN when the terms cancel. -/
def addFin (rm : Rm) (s1 : Bool) (m1 : Nat) (e1 : Int) (s2 : Bool) (m2 : Nat) (e2 : Int) : FVal :=
  let k := min e1 e2
  let x := sgnInt s1 (scaleTo m1 e1 k) + sgnInt s2 (scaleTo m2 e2 k)
  if x = 0 then
    (if m1 = 0 ∧ m2 = 0 ∧ s1 = s2 then .fin s1 0 0
     else .fin (decide (rm = .rdn)) 0 0)
  else .fin (decide (x < 0)) x.natAbs k

/-- Addition with the IEEE special cases; invalid for opposite infinities. -/
def fadd (rm : Rm) (a b : FVal) : FVal × Flags :=
  match a, b with
  | .nan s, .nan t => (.nan false, if s || t then flInvalid else flNone)
  | .nan s, _ => (.nan false, if s then flInvalid else flNone)
  | _, .nan t => (.nan false, if t then flInvalid else flNone)
  | .inf s, .inf t => if s = t then (.inf s, flNone) else (.nan false, flInvalid)
  | .inf s, _ => (.inf s, flNone)
  | _, .inf t => (.inf t, flNone)
  | .fin s1 m1 e1, .fin s2 m2 e2 => (addFin rm s1 m1 e1 s2 m2 e2, flNone)

/-- The value with its sign inverted. -/
def fneg (a : FVal) : FVal :=
  match a with
  | .nan s => .nan s
  | .inf s => .inf !s
  | .fin s m e => .fin (!s) m e

/-- The exact product with the IEEE special cases. -/
def fmul (a b : FVal) : FVal × Flags :=
  match a, b with
  | .nan s, .nan t => (.nan false, if s || t then flInvalid else flNone)
  | .nan s, _ => (.nan false, if s then flInvalid else flNone)
  | _, .nan t => (.nan false, if t then flInvalid else flNone)
  | .inf s, .inf t => (.inf (s != t), flNone)
  | .inf s, .fin t m _ => if m = 0 then (.nan false, flInvalid) else (.inf (s != t), flNone)
  | .fin s m _, .inf t => if m = 0 then (.nan false, flInvalid) else (.inf (s != t), flNone)
  | .fin s1 m1 e1, .fin s2 m2 e2 => (.fin (s1 != s2) (m1 * m2) (e1 + e2), flNone)

/-- a * b + c with one rounding to come; an invalid product raises invalid even when c is a quiet NaN (R113). -/
def ffma (rm : Rm) (a b c : FVal) : FVal × Flags :=
  let p := fmul a b
  let r := fadd rm p.1 c
  (r.1, p.2 ||| r.2)

/-- Twice-jammed quotient: 70 extra bits and a sticky bit, enough for every format. -/
def fdiv (a b : FVal) : FVal × Flags :=
  match a, b with
  | .nan s, .nan t => (.nan false, if s || t then flInvalid else flNone)
  | .nan s, _ => (.nan false, if s then flInvalid else flNone)
  | _, .nan t => (.nan false, if t then flInvalid else flNone)
  | .inf _, .inf _ => (.nan false, flInvalid)
  | .inf s, .fin t _ _ => (.inf (s != t), flNone)
  | .fin s _ _, .inf t => (.fin (s != t) 0 0, flNone)
  | .fin s m e, .fin t n k =>
    if n = 0 then (if m = 0 then (.nan false, flInvalid) else (.inf (s != t), flDiv0))
    else
      let sh := 130 + Nat.log2 n
      let q := m * 2 ^ sh / n
      let st := if m * 2 ^ sh % n = 0 then 0 else 1
      (if m = 0 then .fin (s != t) 0 0 else .fin (s != t) (q * 2 + st) (e - k - (sh : Int) - 1), flNone)

/-- The integer square root by bits from `b` down. -/
def isqrtGo (n : Nat) (b acc : Nat) : Nat :=
  match b with
  | 0 => acc
  | k + 1 => let t := acc + 2 ^ k
    if t * t ≤ n then isqrtGo n k t else isqrtGo n k acc

/-- floor(sqrt n). -/
def isqrt (n : Nat) : Nat := isqrtGo n (Nat.log2 n / 2 + 1) 0

/-- Square root with a sticky bit; sqrt(-0) = -0, negative values are invalid (R116). -/
def fsqrt (a : FVal) : FVal × Flags :=
  match a with
  | .nan s => (.nan false, if s then flInvalid else flNone)
  | .inf false => (.inf false, flNone)
  | .inf true => (.nan false, flInvalid)
  | .fin s m e =>
    if m = 0 then (.fin s 0 0, flNone)
    else if s then (.nan false, flInvalid)
    else
      let e2 : Int := if e % 2 = 0 then e else e - 1
      let m2 := if e % 2 = 0 then m else m * 2
      let n := m2 * 2 ^ 160
      let r := isqrt n
      let st := if r * r = n then 0 else 1
      (.fin false (r * 2 + st) (e2 / 2 - 81), flNone)

/-! ## Rounding (R74) -/

/-- Whether to round the magnitude up: q the truncated multiple, r the remainder over 2^d, `odd` its parity. -/
def roundUp (rm : Rm) (neg odd : Bool) (r d : Nat) : Bool :=
  match rm with
  | .rne => decide (2 ^ d < 2 * r) || (decide (2 * r = 2 ^ d) && odd)
  | .rtz => false
  | .rup => !neg && decide (r ≠ 0)
  | .rdn => neg && decide (r ≠ 0)
  | .rna => decide (2 ^ d ≤ 2 * r)

/-- The magnitude m * 2^e as a multiple of 2^k under rm, and whether it is inexact; `flip` inverts the parity that
breaks ties. -/
def roundAt (rm : Rm) (neg flip : Bool) (m : Nat) (e k : Int) : Nat × Bool :=
  if k ≤ e then (scaleTo m e k, false)
  else
    let d := (k - e).toNat
    let q := m / 2 ^ d
    let r := m % 2 ^ d
    ((if roundUp rm neg ((decide (q % 2 = 1)) != flip) r d then q + 1 else q), decide (r ≠ 0))

/-- floor(log2) of m * 2^e for m ≠ 0. -/
def expOf (m : Nat) (e : Int) : Int := (Nat.log2 m : Int) + e

/-- The spacing exponent of the candidates next to a value of exponent `ex` (R71, R74). -/
def Fmt.spacing (f : Fmt) (ex : Int) : Int :=
  match f with
  | .mk8 => if 3 ≤ ex then -2 else if 1 ≤ ex then -3 else if -1 ≤ ex then -4 else if -3 ≤ ex then -5
      else if -5 ≤ ex then -6 else if -7 ≤ ex then -7 else if ex = -8 then -8 else -9
  | _ => max ex f.emin - f.fbits

/-- Whether |m1 * 2^e1| < |m2 * 2^e2|. -/
def magLt (m1 : Nat) (e1 : Int) (m2 : Nat) (e2 : Int) : Bool :=
  let k := min e1 e2
  decide (scaleTo m1 e1 k < scaleTo m2 e2 k)

/-- `round()` of a finite nonzero value: magnitude, exponent and flags (R74). -/
def roundMag (f : Fmt) (rm : Rm) (neg : Bool) (m : Nat) (e : Int) : Nat × Int × Flags :=
  let ex := expOf m e
  let k := f.spacing ex
  let r := roundAt rm neg (decide (f = .mk8) && decide (ex = -8)) m e k
  let small := magLt m e 1 f.emin
  (r.1, k, (if r.2 then flInexact else flNone) ||| (if r.2 && small then flUnderflow else flNone))

/-! ## Encoding and saturation (R75) -/

/-- The bits of a finite magnitude that the format holds exactly, n * 2^k with k its spacing. -/
def Fmt.pack (f : Fmt) (neg : Bool) (n : Nat) (k : Int) : Nat :=
  match f with
  | .mk8 =>
    if n = 0 then 0
    else
      let ex := expOf n k
      if ex ≤ -9 then (if neg then 128 else 0) + 1
      else
        let z := ((3 - ex) / 2).toNat
        let a := (ex - (2 - 2 * (z : Int))).toNat
        let fb := 5 - z
        let fr := (if k ≤ ex - fb then n / 2 ^ (ex - fb - k).toNat else scaleTo n k (ex - fb)) - 2 ^ fb
        (if neg then 128 else 0) + 2 ^ (6 - z) + a * 2 ^ (5 - z) + fr
  | .e8m0 => (expOf n k + 127).toNat
  | _ =>
    let fb := f.fbits
    let s := if neg then 2 ^ (f.width - 1) else 0
    if n < 2 ^ fb then s + n else s + ((k + fb + f.bias).toNat * 2 ^ fb + (n - 2 ^ fb))

/-- The bits of the largest finite magnitude. -/
def Fmt.maxBits (f : Fmt) (neg : Bool) : Nat :=
  let s := if neg then 2 ^ (f.width - 1) else 0
  match f with
  | .f64 => s + 0x7FEFFFFFFFFFFFFF | .f32 => s + 0x7F7FFFFF | .f16 => s + 0x7BFF | .bf16 => s + 0x7F7F
  | .e5m2 => s + 0x7B | .e4m3 => s + 0x7E | .e2m1 => s + 7 | .mk8 => s + 0x7F | .e8m0 => 0xFE

/-- The bits of an infinity. -/
def Fmt.infBits (f : Fmt) (neg : Bool) : Nat :=
  (if neg then 2 ^ (f.width - 1) else 0) + (2 ^ f.ebits - 1) * 2 ^ f.fbits

/-- Whether rm rounds away from zero for the sign (R75). -/
def away (rm : Rm) (neg : Bool) : Bool :=
  match rm with
  | .rne | .rna => true
  | .rtz => false
  | .rup => !neg
  | .rdn => neg

/-- What an overflow becomes (R75): its bits, and whether they are finite, a NaN or an infinity. -/
def Fmt.over (f : Fmt) (s aw neg : Bool) : Nat × Bool × Bool :=
  match f with
  | .f64 | .f32 | .f16 | .bf16 | .e5m2 => if !s && aw then (f.infBits neg, false, false) else (f.maxBits neg, true, false)
  | .e4m3 | .e8m0 => if !s && aw then (f.canonNan, false, true) else (f.maxBits neg, true, false)
  | .mk8 => if s && aw then (0x80, false, true) else (f.maxBits neg, true, false)
  | .e2m1 => (f.maxBits neg, true, false)

/-- `sat(round(x, fmt, rm), fmt, s, rm)` and then fzo: the encoding of a value and the flags raised (R74 to R76). A
NaN gives the canonical NaN; for E2M1 it gives +0 and raises invalid. -/
def Fmt.encode (f : Fmt) (rm : Rm) (s fzo : Bool) (v : FVal) : Nat × Flags :=
  match v with
  | .nan _ => (f.canonNan, if f = .e2m1 then flInvalid else flNone)
  | .inf neg =>
    let o := f.over s true neg
    (o.1, if o.2.1 then flOverflow ||| flInexact else if o.2.2 then flInvalid else flNone)
  | .fin neg m e =>
    if m = 0 then (if neg ∧ f ≠ .mk8 then 2 ^ (f.width - 1) else 0, flNone)
    else
      let r := roundMag f rm neg m e
      let mx := f.maxFin
      if magLt mx.1 mx.2 r.1 r.2.1 then
        ((f.over s (away rm neg) neg).1, flOverflow ||| flInexact)
      else if fzo && f.flushes && magLt r.1 r.2.1 1 f.emin && decide (r.1 ≠ 0) then
        ((if neg then 2 ^ (f.width - 1) else 0), r.2.2 ||| flUnderflow ||| flInexact)
      else (f.pack neg r.1 r.2.1, r.2.2)

/-- A value rounded to a format and read back, with the overflow of s = 0 under rm (R82, R200). -/
def Fmt.roundVal (f : Fmt) (rm : Rm) (v : FVal) : FVal := f.decode (f.encode rm false false v).1

/-! ## Integers and E8M0 (R79) -/

/-- An integer as a value. -/
def ofInt (x : Int) : FVal := .fin (decide (x < 0)) x.natAbs 0

/-- The integer that rm chooses for m * 2^e. -/
def roundInt (rm : Rm) (neg : Bool) (m : Nat) (e : Int) : Int × Bool :=
  let r := roundAt rm neg false m e 0
  (sgnInt neg r.1, r.2)

/-- The range of a w-bit integer type. -/
def intLo (sgn : Bool) (w : Nat) : Int := if sgn then -(2 ^ (w - 1) : Int) else 0
def intHi (sgn : Bool) (w : Nat) : Int := if sgn then (2 ^ (w - 1) : Int) - 1 else (2 ^ w : Int) - 1

/-- An exact integer wrapped to w bits. -/
def wrapInt (w : Nat) (x : Int) : Nat := (x % (2 ^ w : Int)).toNat

/-- An exact integer clamped to its type's range, as w bits. -/
def clampInt (sgn : Bool) (w : Nat) (x : Int) : Nat := wrapInt w (max (intLo sgn w) (min (intHi sgn w) x))

/-- The integer that w bits hold. -/
def readInt (sgn : Bool) (w v : Nat) : Int :=
  let x := v % 2 ^ w
  if sgn ∧ 2 ^ (w - 1) ≤ x then (x : Int) - (2 ^ w : Int) else x

/-- Float to integer (R79): clamped, NaN gives 0, out of range or NaN raises invalid and never inexact. -/
def toInt (rm : Rm) (sgn : Bool) (w : Nat) (v : FVal) : Nat × Flags :=
  match v with
  | .nan _ => (0, flInvalid)
  | .inf neg => (clampInt sgn w (if neg then intLo sgn w else intHi sgn w), flInvalid)
  | .fin neg m e =>
    let r := roundInt rm neg m e
    if r.1 < intLo sgn w ∨ intHi sgn w < r.1 then (clampInt sgn w r.1, flInvalid)
    else (wrapInt w r.1, if r.2 then flInexact else flNone)

/-- Any value to E8M0 (R79). -/
def toE8m0 (rm : Rm) (s : Bool) (v : FVal) : Nat × Flags :=
  match v with
  | .nan sig => (0xFF, if sig then flInvalid else flNone)
  | .inf true => (0xFF, flInvalid)
  | .inf false =>
    let o := Fmt.over .e8m0 s true false
    (o.1, if o.2.1 then flOverflow ||| flInexact else flInvalid)
  | .fin neg m e =>
    if m = 0 then (0, flUnderflow ||| flInexact)
    else if neg then (0xFF, flInvalid)
    else
      let ex := expOf m e
      if ex < -127 then (0, flUnderflow ||| flInexact)
      else
        let exact := magLt m e 1 ex == false && magLt 1 ex m e == false
        let cmpHalf := magLt m e 3 (ex - 1)          -- x < 1.5 * 2^ex
        let tie := !cmpHalf && !magLt 3 (ex - 1) m e
        let code := ex + 127
        let up := !exact && (match rm with
          | .rtz | .rdn => false
          | .rup => true
          | .rna => !cmpHalf
          | .rne => if tie then decide (code % 2 = 1) else !cmpHalf)
        let c := if up then code + 1 else code
        if 254 < c then ((Fmt.over .e8m0 s (away rm false) false).1, flOverflow ||| flInexact)
        else (c.toNat, if exact then flNone else flInexact)

/-! ## Comparison, minimum, maximum (R113, R114) -/

/-- a < b for values that are no NaN; -0 equals +0. -/
def fltReal (a b : FVal) : Bool :=
  match a, b with
  | .inf true, .inf true => false
  | .inf true, _ => true
  | _, .inf true => false
  | .inf false, _ => false
  | _, .inf false => true
  | .fin s1 m1 e1, .fin s2 m2 e2 =>
    let k := min e1 e2
    decide (sgnInt s1 (scaleTo m1 e1 k) < sgnInt s2 (scaleTo m2 e2 k))
  | _, _ => false

def FVal.isNan (a : FVal) : Bool := match a with | .nan _ => true | _ => false
def FVal.isSnan (a : FVal) : Bool := match a with | .nan s => s | _ => false
def FVal.neg? (a : FVal) : Bool := match a with | .nan _ => false | .inf s => s | .fin s _ _ => s
def FVal.isZero (a : FVal) : Bool := match a with | .fin _ m _ => decide (m = 0) | _ => false

/-- Equality of values that are no NaN. -/
def feqReal (a b : FVal) : Bool := !fltReal a b && !fltReal b a

/-- The total order for minimum and maximum, in which -0 < +0. -/
def fltMin (a b : FVal) : Bool := fltReal a b || (feqReal a b && a.neg? && !b.neg?)

/-- Which of two operands a minimum or maximum takes: `num` treats a NaN as missing, otherwise any NaN gives NaN.
The answer names the first (true) or second operand, or none for the canonical NaN (R113). -/
def pickMin (max num : Bool) (a b : FVal) : Option Bool :=
  match a.isNan, b.isNan with
  | true, true => none
  | true, false => if num then some false else none
  | false, true => if num then some true else none
  | false, false =>
    let lt := fltMin b a
    some (if max then lt || !fltMin a b else !lt)

/-- A minimum or maximum on encodings, with fzi and fzo; a signalling NaN raises invalid. -/
def fminmax (f : Fmt) (fzi fzo max num : Bool) (x y : Nat) : Nat × Flags :=
  let a := f.decodeFz fzi x
  let b := f.decodeFz fzi y
  let fl := if a.isSnan || b.isSnan then flInvalid else flNone
  match pickMin max num a b with
  | none => (f.canonNan, fl)
  | some c =>
    let r := f.encode .rne false fzo (if c then a else b)
    (r.1, fl ||| r.2)

/-- A comparison by its code in R61: (result, flags). -/
def fcompare (cond : Nat) (a b : FVal) : Bool × Flags :=
  let un := a.isNan || b.isNan
  let sn := a.isSnan || b.isSnan
  let fl := if sn || (un && decide (2 ≤ cond) && decide (cond ≤ 5)) then flInvalid else flNone
  let r := match cond with
    | 0 => !un && feqReal a b
    | 1 => un || !feqReal a b
    | 2 => !un && fltReal a b
    | 3 => !un && !fltReal b a
    | 4 => !un && fltReal b a
    | 5 => !un && !fltReal a b
    | 6 => un
    | _ => !un
  (r, fl)

/-- The class bit of an encoding (R114). -/
def Fmt.classBit (f : Fmt) (w : Nat) : Nat :=
  match f.decode w with
  | .nan true => 0
  | .nan false => 1
  | .inf true => 2
  | .inf false => 9
  | .fin s m _ => if m = 0 then (if s then 5 else 6) else if f.isSub w then (if s then 4 else 7) else (if s then 3 else 8)

/-- Round to an integral value under rm; never inexact or overflow (R113). -/
def frint (rm : Rm) (a : FVal) : FVal × Flags :=
  match a with
  | .nan s => (.nan false, if s then flInvalid else flNone)
  | .inf s => (.inf s, flNone)
  | .fin s m e => (.fin s (roundAt rm s false m e 0).1 0, flNone)

/-! ## Float atomic add and pass accumulation (R82, R146) -/

/-- The accumulate rule: FP addition under RNE with the canonical NaN, subnormals kept, no flags. -/
def accAdd (f : Fmt) (x y : Nat) : Nat := (f.encode .rne false false (fadd .rne (f.decode x) (f.decode y)).1).1

/-! ## Block scales (R73) -/

/-- The largest exponent of a destination of `mx_scale`. -/
def Fmt.emaxMx (f : Fmt) : Int :=
  match f with
  | .e4m3 => 8 | .e5m2 => 15 | .e2m1 => 2 | _ => 3

/-- The largest magnitude of a block, as m * 2^e; none where some value is no number. -/
def blockMax (l : List FVal) : Option (Nat × Int) :=
  match l with
  | [] => some (0, 0)
  | .fin _ m e :: t => (blockMax t).map (fun r => if magLt r.1 r.2 m e then (m, e) else r)
  | _ :: _ => none

/-- `mx_scale()` (R73): the scale code and the element codes. -/
def mxScale (f : Fmt) (l : List FVal) : Nat × List Nat :=
  match blockMax l with
  | none => (0xFF, l.map (fun _ => 0))
  | some (m, e) =>
    if m = 0 then (0, l.map (fun _ => 0))
    else
      let x := max (-127) (min 127 (expOf m e - f.emaxMx))
      let c := decide (f ≠ .mk8)
      ((x + 127).toNat, l.map (fun v => match v with
        | .fin s n k => (f.encode .rne c false (.fin s n (k - x))).1
        | _ => 0))

end Sys2Proof.Machine
end

