-- ==== Sys2Proof/Machine/Access.lean ====
section
/-! DEFINITION. Memory accesses as both streams make them: effective addresses and their checks (R137 to R139, R364),
issue and arrival of loads (R21, R145), the store queue (R143, R211, R215), atomics (R146, R147) and the touchstone
(R156). Together with the release and acquire gates of Ops they give the outcomes of R208 to R216. -/

namespace Sys2Proof.Machine

/-! ## Checks -/

/-- The outcome of a check: the GSA of the first byte, or a cause with `taddr` and `tinfo` (R274). -/
inductive Chk where
  | ok (a : Nat)
  | bad (cause addr info : Nat)
  deriving DecidableEq, Repr

/-- `tinfo` of the misalignment trap (R274, R364). -/
def misInfo (n kind : Nat) : Nat := (if n ≤ 16 then n else 0) + kind * 32 + Nat.log2 n * 256

/-- The GSA of a pad address of the unit's workgroup (R24). -/
def padEA (s : State) (u : Unit) (a : Nat) : Nat :=
  match SMap.look s.wgs u.who.wg with
  | some w => gsaAt w.core (w.padBase + a % w.padP)
  | none => 0

/-- A pad access of `n` bytes; `kind` is that of R364. -/
def checkPad (s : State) (u : Unit) (a n kind : Nat) : Chk :=
  if a % n ≠ 0 then .bad 0x22 a (misInfo n kind) else .ok (padEA s u a)

/-- `gsa_check` (R29) for a context; `win` 0 read, 1 write, 2 atomic. -/
def checkGsa (s : State) (ctx a n kind win : Nat) : Chk :=
  if a % n ≠ 0 then .bad 0x22 a (misInfo n kind)
  else if Config.sliceBytes < a % 2 ^ 22 + n then .bad 0x23 a win
  else if admitted s ctx (gsaCore a) (a % 2 ^ 22) n win then .ok a
  else .bad 0x23 a win

/-- `handle_check` (R29, R26): the reasons are 0 holder, 1 generation, 2 size. A misaligned access reports the offset within the buffer
(R138 says the address; DESIGN CHOICE, log 86). -/
def checkHnd (s : State) (u : Unit) (h off n kind : Nat) : Chk :=
  if off % n ≠ 0 then .bad 0x22 off (misInfo n kind)
  else match SMap.look (s.cluster u.cluster).handles (h / 256 % 256) with
    | none => .bad 0x24 (h % 2 ^ 16) 0
    | some e =>
      if e.holder ≠ some u.id then .bad 0x24 (h % 2 ^ 16) 0
      else if e.gen ≠ h % 256 then .bad 0x24 (h % 2 ^ 16) 1
      else if e.size < off + n then .bad 0x24 (h % 2 ^ 16) 2
      else .ok (e.base + off)

/-- The failures among lane checks whose cause satisfies `p`: cause, address, detail of the lowest lane, and the lanes. -/
def failWith (l : List (Nat × Chk)) (p : Nat → Bool) : Option (Nat × Nat × Nat × Mask) :=
  let bad := l.filterMap (fun e => match e.2 with | .bad c a i => if p c then some (e.1, c, a, i) else none | .ok _ => none)
  match bad with
  | [] => none
  | (_, c, a, i) :: _ => some (c, a, i, maskOf (fun k => bad.any (fun e => decide (e.1 = k))))

/-- What the checks of a lane word give: misalignment first (R139). -/
def laneFail (l : List (Nat × Chk)) : Option (Nat × Nat × Nat × Mask) :=
  match failWith l (fun c => decide (c = 0x22)) with
  | some r => some r
  | none => failWith l (fun c => decide (c ≠ 0x22))

/-- The addresses of checks that all passed. -/
def okAddrs (l : List (Nat × Chk)) : List (Nat × Nat) :=
  l.filterMap (fun e => match e.2 with | .ok a => some (e.1, a) | .bad _ _ _ => none)

/-- Run `k` on the checked addresses, or take the one precise trap of R139; an S word's access is lane 0. -/
def checked (s : State) (u : Unit) (st : Strm) (l : List (Nat × Chk)) (k : List (Nat × Nat) → Res) : Res :=
  match laneFail l with
  | some (c, a, i, m) => takeTrap s u st c a i (if st = .s then 0 else m) false
  | none => k (okAddrs l)

/-! ## The touchstone (R156) -/

/-- The identity of a unit as `tinfo` of a race and its record name it (R274). -/
def raceId (u : UnitId) : Nat := if u.slot = 32 then 2 ^ 15 + u.core % 1024 * 32 else u.core % 1024 * 32 + u.slot

/-- The identity of the writer of a stamp. -/
def Stamp.id (x : Stamp) : Nat := raceId ⟨x.writer / 64, x.writer % 64⟩

/-- The core of the writer of a stamp as unit `w` meets it: a replica meets its own writer, the one of its number (R141, R158). -/
def Stamp.coreFor (x : Stamp) (w : Unit) : Nat :=
  (if w.who.rset ≠ 0 then SMap.look x.reps w.who.rep else none).getD x.writer / 64

/-- Whether a release by the writer of a stamp, at the stamp's scope, reaches unit `w` (R141). -/
def Stamp.reaches (x : Stamp) (w : Unit) : Bool :=
  let core := x.coreFor w
  match x.sc with
  | .wg => !x.lm && !w.who.isLm && x.wgs.contains w.who.wg
  | .cl => decide (clusterOf core = w.cluster)
  | .die => decide (dieOf core = w.die)
  | _ => true

/-- The stamp that an access by `u` conflicts with: a write by another warp, the replicas of a warp counting as one. -/
def raceAt (c : Ctx) (u : Unit) (kind a : Nat) : Option Stamp :=
  match SMap.look c.stamps (sectorOf a) with
  | none => none
  | some x =>
    if x.writer = ukey u.id ∨ (u.who.rset ≠ 0 ∧ x.rset = u.who.rset) ∨ (x.atomic ∧ kind = 2) then none
    else if u.tsPairs.any (fun p => decide (p.1 = x.writer) && decide (x.interval < p.2)) then none
    else some x

/-- A race-log record of 32 bytes: W's identity and PC, the GSA, X's identity, the kind and the overflow flag (log 12). -/
def raceRec (u : Unit) (st : Strm) (kind a : Nat) (x : Stamp) : List Byte :=
  leBytes 4 (raceId u.id) ++ leBytes 4 (issueField (u.pcOf st) st) ++ leBytes 8 a ++ leBytes 4 x.id
    ++ leBytes 1 kind ++ leBytes 1 (if u.tsOver then 1 else 0) ++ leBytes 10 0

/-- The stamp of a write by a unit, at `sc` where it is a release, and otherwise at the scope of the unit's last one. -/
def tsStamp (s : State) (u : Unit) (atomic rel : Bool) (sc : Scope) : Stamp :=
  { writer := ukey u.id, wgs := (replicas s u).map (fun v => v.who.wg), reps := (replicas s u).map (fun v => (v.who.rep, ukey v.id)), lm := u.who.isLm, rset := u.who.rset, interval := u.tsInterval + (if rel then 1 else 0),
    sc := if rel then sc else u.tsScope, atomic := atomic, rel := rel }

/-- The sectors at `l` stamped in a context. -/
def putStamps (s : State) (ctx : Nat) (x : Stamp) (l : List Nat) : State :=
  { s with ctxs := SMap.upd s.ctxs ctx (fun c => { c with stamps := l.foldl (fun m a => SMap.put m (sectorOf a) x) c.stamps }) }

/-- What the touchstone keeps of a word that has issued: its records, and the stamp of a store that is performed as it issues, which is not one that
an assay buffer holds (R158). An atomic is stamped where it is performed. -/
def tsMark (u : Unit) (kind : Nat) (rel : Bool) (sc : Scope) (accs : List (Nat × Nat)) (recs : List (List Byte)) (s : State) : State :=
  let s1 := { s with ctxs := SMap.upd s.ctxs u.who.ctx (fun c => { c with raceLog := c.raceLog ++ recs }) }
  if kind = 1 && (decide (u.who.rset = 0) || (u.who.leader && rel)) then putStamps s1 u.who.ctx (tsStamp s u false rel sc) (accs.map (fun e => e.2))
  else s1

/-- The touchstone on the accesses of a word, `kind` 0 load, 1 store, 2 atomic: a race trap, or `k`, which gets what is recorded when
the word issues. -/
def tsGate (s : State) (u : Unit) (st : Strm) (kind : Nat) (rel : Bool) (sc : Scope) (accs : List (Nat × Nat))
    (k : (State → State) → Res) : Res :=
  match SMap.look s.ctxs u.who.ctx with
  | none => k (fun t => t)
  | some c =>
    if !c.tsOn then k (fun t => t)
    else
      let hits := if u.tsMode = 0 then [] else accs.filterMap (fun e => (raceAt c u kind e.2).map (fun x => (e.1, e.2, x)))
      match hits, u.tsMode with
      | (_, a, x) :: _, 2 =>
        takeTrap s u st 0x2E a x.id (if st = .s then 0 else maskOf (fun l => hits.any (fun e => decide (e.1 = l)))) false
      | _, _ =>
        k (tsMark u kind rel sc accs (hits.map (fun e => raceRec u st kind e.2.1 e.2.2)))

/-- The pairs that an acquire of the sectors at `accs` records: at most eight are held, and the oldest leaves a full table (DESIGN CHOICE,
log 12). -/
def learnPairs (s : State) (u : Unit) (accs : List (Nat × Nat)) : Unit :=
  match SMap.look s.ctxs u.who.ctx with
  | none => u
  | some c => if !c.tsOn then u else accs.foldl (fun v e => match SMap.look c.stamps (sectorOf e.2) with
    | some x =>
      if x.rel ∧ x.reaches u ∧ !(v.tsPairs.contains (x.writer, x.interval)) then
        if 8 ≤ v.tsPairs.length then
          { v with tsPairs := v.tsPairs.drop 1 ++ [(x.writer, x.interval)], tsOver := true }
        else { v with tsPairs := v.tsPairs ++ [(x.writer, x.interval)] }
      else v
    | none => v) u

/-! ## Values and their registers -/

/-- A loaded value of `n` bytes extended to `w` bits (R145). -/
def extLoad (n : Nat) (sgn : Bool) (w v : Nat) : Nat := if sgn then wrapInt w (readInt true (8 * n) v) else v

/-- Register `k` of a group of lane values. -/
def regVals (vals : List (Nat × Nat)) (k : Nat) : List Half :=
  (List.range 32).map (fun l => BitVec.ofNat 32 ((SMap.look vals l).getD 0 / 2 ^ (32 * k)))

/-- Lane values to `n` registers from `v`r. -/
def vRes (r n : Nat) (act : Mask) (vals : List (Nat × Nat)) : List FRes :=
  (List.range n).map (fun k => .v (r + k) act (regVals vals k))

/-- The results of a value to its destination; a 32-bit value, also the old value of a 32-bit atomic, is zero-extended to an `s` register
(DESIGN CHOICE, log 80). -/
def dstRes (dst : PDst) (act : Mask) (vals : List (Nat × Nat)) : List FRes :=
  match dst with
  | .none => []
  | .s r => [.s r (BitVec.ofNat 64 ((SMap.look vals 0).getD 0))]
  | .v r n => vRes r n act vals

/-- Older results in flight to a destination, cut back where a newer result lands (R22). -/
def cutFly (l : List Fly) (dst : PDst) (act : Mask) : List Fly :=
  l.filterMap (fun f => match f.res, dst with
    | .s r _, .s q => if r = q then none else some f
    | .v r m vs, .v q n =>
      if q ≤ r ∧ r < q + n then
        if m &&& ~~~act = 0 then none else some { f with res := .v r (m &&& ~~~act) vs }
      else some f
    | _, _ => some f)

/-- A unit with results in flight cut back. -/
def Unit.cut (u : Unit) (dst : PDst) (act : Mask) : Unit :=
  { u with sS := { u.sS with fly := cutFly u.sS.fly dst act },
           lS := { u.lS with
             slot0 := { u.lS.slot0 with fly := cutFly u.lS.slot0.fly dst act },
             slot1 := { u.lS.slot1 with fly := cutFly u.lS.slot1.fly dst act } } }

/-- A variable-latency result written into its destination; one set aside by a trap goes to the set-aside value (R276). -/
def Unit.putRes (u : Unit) (p : Pend) (mask : Mask) (vals : List (Nat × Nat)) : Unit :=
  match p.dst with
  | .none => u
  | .s r =>
    let x := BitVec.ofNat 64 ((SMap.look vals 0).getD 0)
    if p.saved then
      match u.trap.saved with
      | some sv => { u with trap := { u.trap with saved := some { sv with bank := sv.bank.set (r.toNat - 56) x } } }
      | none => u
    else (u.cut p.dst mask).ws r x
  | .v r n => (List.range n).foldl (fun t k =>
      let x := if p.strm = .s ∨ p.id < (t.slot (strmSlot p.strm)).seq0 then t else t.noteV (strmSlot p.strm) (2 * p.id + 1) (r + k) mask
      x.wv (r + k) mask (regVals vals k)) (u.cut p.dst mask)

/-! ## Loads (R21, R145) -/

/-- Whether an earlier load of the stream has not bound (R215). -/
def loadsHeld (u : Unit) (st : Strm) : Bool := u.pend.any (fun p => p.unbound && u.before st p.strm p.id)

/-- A new outstanding result of the word a stream stands at. -/
def newPend (s : State) (u : Unit) (st : Strm) (dst : PDst) (what : PWhat) (acq : Bool) (act : Mask)
    (share : Option Nat) : Pend :=
  { id := s.fl.seq, strm := st, dst := dst, what := what, acq := acq, idx := u.pcOf st, raw := rawAt s u st, act := act,
    vals := [], bad := 0, saved := false, share := share, flip := [], own := [] }

/-- The unit with one more outstanding result; the word retires and the sequence advances by `n`. -/
def issuePend (s : State) (u : Unit) (st : Strm) (m : Bool) (n : Nat) (p : Pend) : State :=
  let s1 := s.setUnit ({ u with pend := u.pend ++ [p] }.done st m [])
  { s1 with fl := { s1.fl with seq := s1.fl.seq + n } }

/-- The fields of a load word. -/
structure LoadW where
  m : Bool
  dst : PDst
  acq : Bool
  rb : Bool
  act : Mask
  size : Nat
  sgn : Bool
  lat : Nat
  gsa : Bool
  deriving DecidableEq, Repr

/-- The width to which a destination takes a loaded value. -/
def PDst.width (d : PDst) : Nat := match d with | .v _ n => 32 * n | _ => 64

/-- The bytes that accesses of `n` bytes touch. -/
def accBytes (n : Nat) (l : List (Nat × Nat)) : List Nat := l.flatMap (fun e => (List.range n).map (fun k => e.2 + k))

/-- The bytes of an access in memory as a number. -/
def memVal (s : State) (u : Unit) (st : Strm) (id size a : Nat) : Nat := leNat (readN (loadByte s u st id) size a)

/-- The value of an access as its destination takes it, from its bytes in memory: those that held entries of the unit write, or wrote before a
compare discarded them, come first (R293). -/
def heldOver (u : Unit) (id : Nat) (own : List (Nat × Byte)) (size : Nat) (sgn : Bool) (d : PDst) (a raw : Nat) : Nat :=
  extLoad size sgn d.width (leNat ((List.range size).map (fun k =>
    (match u.heldAt id (a + k) with | some b => some b | none => SMap.look own (a + k)).getD (BitVec.ofNat 8 (fld raw (8 * k) 8)))))

/-! ## Rollback eligibility (R285) -/

/-- The unit's workgroup with its entry changed; a lockmaster has none. -/
def onWg (s : State) (u : Unit) (f : Wg → Wg) : State := { s with wgs := SMap.upd s.wgs u.who.wg f }

/-- The interval of the unit's workgroup is no longer rollback-eligible. -/
def spoil (s : State) (u : Unit) : State := onWg s u (fun w => { w with eligible := false })

/-- Pad lines written since the shadow point. -/
def touchPad (s : State) (u : Unit) (l : List Nat) : State :=
  onWg s u (fun w => { w with touched := l.foldl (fun t a => setAdd t (lineOf a)) w.touched })

/-! ## The store queue (R143, R211, R215) -/

/-- Whether a load earlier in a store's stream has not bound; for a store that was committed for a replica set, a load of any replica before the
commit (R215, R298). -/
def PStore.held (s : State) (x : PStore) (u : Unit) : Bool :=
  let early (v : Unit) : Bool := v.pend.any (fun p => p.unbound &&
    (if v.id = u.id then
      decide (p.id < x.seq) && (decide (p.strm = x.strm) || (decide (p.strm = .s) && decide (p.id < x.lqSeq)))
    else decide (p.id < x.cseq) && decide (p.strm = x.strm)))
  if x.rset = 0 then early u else (replicas s u).any early

/-- Whether store `q` of a unit comes before store `x` of it and has still to leave the queue for the same sector. -/
def PStore.behind (u : Unit) (x q : PStore) : Bool :=
  !q.sent && decide (q.unit = x.unit) && decide (q.seq < x.seq) && decide (q.sector = x.sector) &&
    (decide (q.strm = x.strm) || (decide (q.strm = .s) && decide (q.seq < x.lqSeq))
      || (decide (x.strm = .s) && decide (q.seq < u.lqwSeq)) || decide (q.seq < u.joinSeq))

/-- Whether a store of a unit may leave the queue: no earlier load holds it, no earlier store stands before it, and for another die's line the
acknowledgement buffer has an entry and the mirror a way (R215, R237, R238). -/
def sendable (s : State) (u : Unit) (x : PStore) : Bool :=
  let cross : Bool := decide (gsaDie (x.sector * 32) ≠ x.die)
  !x.sent && !x.held s u && !s.fl.stores.any (fun q => x.behind u q)
    && (!cross || decide (((crossStores s u).filter (fun p => p.sent)).length + tagUse s u < 16))
    && (!cross || !x.ef || wayFree s x.die (x.sector / 4))

/-- Every store of a unit that can leave the queue does so (R215). -/
def releaseStores (s : State) (uid : UnitId) : State :=
  match s.unit? uid with
  | none => s
  | some u => (s.fl.stores.filter (fun p => decide (p.unit = some uid) && !p.sent)).foldl (fun t p =>
      if sendable t u p then sendStore t p else t) s

/-- The bytes of a store word, lane by lane, a later lane over an earlier one (R139). -/
def storeBytes (size : Nat) (accs : List (Nat × Nat × Nat)) : SMap Byte :=
  accs.foldl (fun m e => (bytesAt e.2.1 (leBytes size e.2.2)).foldl (fun t b => SMap.put t b.1 b.2) m) []

/-- The sectors that a byte map touches, lowest first. -/
def sectorsOf (m : SMap Byte) : List Nat := (m.map (fun b => sectorOf b.1)).dedup

/-- The parts of one store word, one for each sector. -/
def storeParts (s : State) (u : Unit) (st : Strm) (ef : Bool) (act : Mask) (m : SMap Byte) : List PStore :=
  let secs := sectorsOf m
  (List.range secs.length).map (fun k =>
    let part := m.filter (fun b => decide (sectorOf b.1 = secs.getD k 0))
    { seq := s.fl.seq + k, die := u.die, unit := some u.id, strm := st, lqSeq := u.lqSeq, ef := ef,
      bytes := part, full := decide (part.length = 32), idx := u.pcOf st, raw := rawAt s u st, act := act,
      applied := false, sent := false, out := false, sentAt := 0, retrans := 0, lostAck := false, ord := 0, rset := u.who.rset,
      cseq := u.assay.cseq, via := none, back := none })

/-- Parts of store words put into the unit's store queue. -/
def queueStores (s : State) (uid : UnitId) (l : List PStore) : State :=
  releaseStores { s with fl := { s.fl with stores := s.fl.stores ++ l, seq := s.fl.seq + l.length } } uid

/-- The fields of a store word. -/
structure StoreW where
  m : Bool
  ef : Bool
  o : Order
  sc : Scope
  act : Mask
  size : Nat
  lane : Bool
  pad : Bool
  deriving DecidableEq, Repr

/-- The held entries of a store word (R293, R296). -/
def heldStores (s : State) (u : Unit) (st : Strm) (w : StoreW) (accs : List (Nat × Nat × Nat)) : List Held :=
  accs.map (fun e =>
    { bytes := entryBytes 0x81 (modesByte w.sc w.ef w.o) w.size (if w.lane then e.1 else 0xFF) 0 e.2.1 (leBytes w.size e.2.2),
      strm := st, data := bytesAt e.2.1 (leBytes w.size e.2.2), ef := w.ef, word := s.fl.seq, idx := u.pcOf st,
      raw := rawAt s u st, act := w.act, lqSeq := u.lqSeq })

/-- Whether the acknowledgement buffer has no room for `n` more entries; an empty one takes any word, whose stores leave as entries come free
(R238). -/
def bufferFull (s : State) (u : Unit) (n : Nat) : Bool := decide (n ≠ 0) && decide (ackUse s u ≠ 0) && decide (16 < ackUse s u + n)

/-- A global store word whose accesses passed their checks: it enters the store queue, or a replica's assay buffer.
A `.rel` store is a release point and, in a replica, a compare point at which its own accesses fold last. It stalls while the acknowledgement
buffer is full, or an `.ef` store while the set of a line in the mirror has no way for it (R237, R238). -/
def issueStore (s : State) (u : Unit) (st : Strm) (w : StoreW) (accs : List (Nat × Nat × Nat)) (ts : State → State) : Res :=
  let m := storeBytes w.size accs
  let cross := sectorsOf (m.filter (fun b => decide (gsaDie b.1 ≠ u.die)))
  let go (v : Unit) : Res :=
    if bufferFull s v cross.length || (w.ef && cross.any (fun k => !wayFree s v.die (k / 4))) then parkAt s v st .ackFull
    else
      let s1 := queueStores (s.setUnit (v.done st w.m [])) v.id (storeParts s v st w.ef w.act m)
      .next (ts (if relOrd w.o then spoil s1 v else s1))
  roomGate s u st accs.length (
    if relOrd w.o then
      let own := (heldStores s u st w accs).flatMap (fun (h : Held) => h.bytes)
      compareGate s u st 0x01 (own ++ pointBytes 0x01 (modesByte w.sc w.ef w.o) st (u.pcOf st) [])
        (releaseGate s u st w.sc (if u.performs then go (u.released w.sc) else .next (ts (spoil (s.setUnit ((u.released w.sc).done st w.m [])) u))))
    else if u.who.rset ≠ 0 then
      let s1 := s.setUnit ((u.hold (heldStores s u st w accs)).done st w.m [])
      .next (ts { s1 with fl := { s1.fl with seq := s1.fl.seq + accs.length } })
    else go u)

/-- The imprecise fault of a store whose word has retired. -/
def storeFault (u : Unit) (p : PStore) (code addr info : Nat) : Imp :=
  { code := code, addr := addr, info := info, idx := p.idx, strm := p.strm, raw := p.raw, act := if p.strm = .s then 0 else p.act,
    origWarp := u.who.warpid.toNat % 32, wgNum := u.who.wgid.toNat % 2 ^ 32, other := false, origCode := code, zero := none, zdst := none,
    held := false, at_ := 0 }

/-- A pad or handle store word whose accesses passed their checks: performed at once, once every earlier load has bound
(R215), and on a poisoned sector as R233 says; a `.rel` one is a release point and in a replica a compare point as a fence (R294). -/
def localStore (s : State) (u : Unit) (st : Strm) (w : StoreW) (accs : List (Nat × Nat × Nat)) : Res :=
  let go (v : Unit) : Res :=
    if loadsHeld v st then parkAt s v st .results
    else
      let m := storeBytes w.size accs
      let parts := storeParts s v st false w.act m
      let s1 := writeHome (s.setUnit (v.done st w.m [])) m
      let s2 := parts.foldl (fun t p => if p.full then clearBad t p.sector
        else if t.mem.badHome.contains p.sector then (match t.unit? v.id with | some x => pushImp t x (storeFault x p 0x43 p.low 1) | none => t)
        else t) s1
      .next (if w.pad then touchPad s2 v (m.map (fun b => b.1)) else s2)
  if relOrd w.o then
    pointGate s u st 0x03 (modesByte w.sc false w.o) [] (releaseGate s u st w.sc (go (u.released w.sc)))
  else go u

/-! ## Atomics (R146, R147) -/

/-- The new value of a location of `n` bytes. -/
def atomNew (op : AtomOp) (n old v cmp : Nat) : Nat :=
  let w := 8 * n
  match op with
  | .add => (old + v) % 2 ^ w
  | .smin => if readInt true w v < readInt true w old then v else old
  | .umin => min old v
  | .smax => if readInt true w old < readInt true w v then v else old
  | .umax => max old v
  | .and => old &&& v
  | .or => old ||| v
  | .xor => old ^^^ v
  | .exch => v
  | .cas => if old = cmp then v else old
  | .fadd => accAdd (if n = 8 then .f64 else .f32) old v

/-- Atomics on home bytes one after another, with the old values by lane. -/
def atomHome (s : State) (op : AtomOp) (n : Nat) (accs : List AtomAcc) : State × List (Nat × Nat) :=
  accs.foldl (fun r e =>
    let old := leNat (readN (homeByte r.1) n e.addr)
    (writeHome r.1 (bytesAt e.addr (leBytes n (atomNew op n old e.v e.cmp))), r.2 ++ [(e.lane, old)])) (s, [])

/-- The fields of an atomic word. `vals` gives operand and compare value by lane. -/
structure AtomW where
  m : Bool
  op : AtomOp
  o : Order
  sc : Scope
  act : Mask
  size : Nat
  dst : PDst
  lat : Nat
  lane : Bool
  pad : Bool
  deriving DecidableEq, Repr

/-- The place of a global atomic (R147). -/
def atomPlace (u : Unit) (sc : Scope) : Place :=
  match sc with
  | .cl => .hub u.cluster
  | .die => .agent u.die
  | _ => .slice

/-- The held bytes of an atomic word (R296): `cas` carries the compare value and then the new value. -/
def atomBytes (w : AtomW) (accs : List AtomAcc) : List Byte :=
  accs.flatMap (fun e => entryBytes 0x82 (modesByte w.sc false w.o) w.size (if w.lane then e.lane else 0xFF)
    (atomCode w.op) e.addr (if w.op = .cas then leBytes w.size e.cmp ++ leBytes w.size e.v else leBytes w.size e.v))

/-- A global atomic word whose accesses passed their checks: it is queued for its place of execution; in a replica it is
a compare point, and only the leader performs it (R302). One at a hub or die agent stalls while the acknowledgement buffer has no room for its
write-backs. -/
def issueAtom (s : State) (u : Unit) (st : Strm) (w : AtomW) (accs : List AtomAcc) (ts : State → State) : Res :=
  let far := if atomPlace u w.sc = .slice then 0 else (accs.filter (fun e => decide (gsaDie e.addr ≠ u.die))).length
  let go (v : Unit) : Res :=
    let key := v.leadKey st
    let red := decide (v.who.rset ≠ 0)
    let x := if red then v.bumpLead st else v
    if v.takes s st then
      .next (ts (spoil (issuePend s x st w.m 1 (newPend s x st w.dst (.leader key .atom) (acqOrd w.o) w.act none)) v))
    else if bufferFull s v far then parkAt s v st .ackFull
    else
      let p := newPend s x st w.dst (.atom s.fl.seq) (acqOrd w.o) w.act (if red then some key else none)
      let a : PAtom := { seq := s.fl.seq, unit := v.id, strm := st, op := w.op, size := w.size, place := atomPlace v w.sc,
                         die := v.die, accs := accs, pend := s.fl.seq, idx := v.pcOf st, raw := rawAt s v st,
                         act := if st = .s then 0 else w.act,
                         stamp := match SMap.look s.ctxs v.who.ctx with
                           | some c => if c.tsOn then some { tsStamp s v true false w.sc with rel := relOrd w.o } else none
                           | none => none }
      let s1 := issuePend s x st w.m (1 + accs.length) p
      .next (ts (spoil { s1 with fl := { s1.fl with atoms := s1.fl.atoms ++ [a] } } v))
  roomGate s u st accs.length (
    compareGate s u st 0x02
      (atomBytes w accs ++ pointBytes 0x02 (modesByte w.sc false w.o) st (u.pcOf st) [])
      (if relOrd w.o then releaseGate s u st w.sc (go (u.released w.sc)) else go u))

/-- Whether an atomic may be performed: the unit's earlier loads and atomics have bound, its earlier stores to the sectors are
serialized, and at a slice also the `.ef` stores that its die's mirror holds for them, which its die reads already; earlier are those of its stream and
those that R97, R98 and R133 put before it (R210 to R212, R214 to R216). -/
def atomReady (s : State) (a : PAtom) : Bool :=
  let secs := a.accs.map (fun e => sectorOf e.addr)
  let early := s.fl.stores.any (fun p => p.ef && p.sent && !p.applied && decide (p.die = a.die) && decide (p.home ≠ p.die) && secs.contains p.sector)
  !(decide (a.place = .slice) && early) && match s.unit? a.unit with
  | none => true
  | some u =>
    !(s.fl.stores.any (fun p => p.precedes u a.strm a.seq && !p.applied && secs.contains p.sector))
      && !(u.pend.any (fun p => p.unbound && decide (p.id < a.seq) && u.before a.strm p.strm p.id))

/-- The byte that a hub or die agent works on: its own newest write-back or a newer `.ef` store of its die, else the copy of its die (R147). -/
def agentByte (s : State) (pl : Place) (d a : Nat) : Byte :=
  (newest (fun p => p.ord) (s.fl.stores.filter (fun p =>
    !p.applied && (decide (p.via = some pl) || (p.ef && p.sent && decide (p.die = d))))) a).getD (homeByte s a)

/-- Atomics at a hub or a die agent, one after another: each result is written back as a `.ga` store of the issuer's die, in the order in which the
place performs them (R147, R230). -/
def atomAgent (s : State) (a : PAtom) (who : Option Pend) (accs : List AtomAcc) : State × List (Nat × Nat) :=
  accs.foldl (fun r e =>
    let t := r.1
    let old := leNat (readN (agentByte t a.place a.die) a.size e.addr)
    let x : PStore :=
      { seq := a.seq + 1 + r.2.length, die := a.die, unit := who.map (fun _ => a.unit), strm := a.strm, lqSeq := 0, ef := false,
        bytes := bytesAt e.addr (leBytes a.size (atomNew a.op a.size old e.v e.cmp)), full := false, idx := a.idx, raw := a.raw,
        act := a.act, applied := false, sent := false, out := false, sentAt := 0, retrans := 0, lostAck := false, ord := t.fl.seq, rset := 0, cseq := 0,
        via := some a.place, back := who.map (fun p => (a.pend, p.dst, e.lane)) }
    ({ t with fl := { t.fl with stores := t.fl.stores ++ [x], seq := t.fl.seq + 1 } }, r.2 ++ [(e.lane, old)])) (s, [])

/-- An imprecise fault of a word that has retired but whose result is outstanding; `act` is 0 for an S word (R278). -/
def pendImp (u : Unit) (p : Pend) (code addr info : Nat) (zero : Option Nat) : Imp :=
  { code := code, addr := addr, info := info, idx := p.idx, strm := p.strm, raw := p.raw, act := if p.strm = .s then 0 else p.act,
    origWarp := u.who.warpid.toNat % 32, wgNum := u.who.wgid.toNat % 2 ^ 32, other := false, origCode := code, zero := zero, zdst := none, held := false, at_ := 0 }

/-- The pending result of an atomic; none where its issuer has been killed. -/
def atomPend (s : State) (a : PAtom) : Option Pend :=
  (s.unit? a.unit).bind (fun (u : Unit) => u.pend.find? (fun (p : Pend) => decide (p.id = a.pend)))

/-- The touchstone at an atomic that is performed: an acquire records the pairs of the stamps it reads, in every replica, and the atomic stamps its
sectors (R156, R158). -/
def tsPerform (s : State) (a : PAtom) : State :=
  match a.stamp, (s.unit? a.unit).filter (fun _ => (atomPend s a).isSome) with
  | some x, some u =>
    let accs := a.accs.map (fun e => (e.lane, e.addr))
    let acq := match atomPend s a with | some p => p.acq | none => false
    let s1 := if acq then (replicas s u).foldl (fun t v => t.setUnit (learnPairs s v accs)) s else s
    putStamps s1 u.who.ctx x (accs.map (fun e => e.2))
  | _, _ => s

/-- An atomic performed at its place (R147); lanes on a poisoned sector are not performed and fault (R233). -/
def performAtom (t : State) (a : PAtom) : State :=
  let s := tsPerform t a
  let s0 := { s with fl := { s.fl with atoms := s.fl.atoms.filter (fun b => decide (b.seq ≠ a.seq)) } }
  let isBad (e : AtomAcc) : Bool :=
    match a.place with
    | .slice => s.mem.badHome.contains (sectorOf e.addr)
    | _ => sectorBad s a.die e.addr
  let good := a.accs.filter (fun e => !isBad e)
  let bad := a.accs.filter isBad
  let r := match a.place with
    | .slice => atomHome s0 a.op a.size good
    | _ => atomAgent s0 a (atomPend s0 a) good
  match (r.1.unit? a.unit).filter (fun _ => (atomPend s0 a).isSome) with
  | none => sendLoose r.1
  | some u =>
    let mask := maskOf (fun l => bad.any (fun e => decide (e.lane = l)))
    let u1 := { u with pend := u.pend.map (fun (p : Pend) => if p.id = a.pend then { p with vals := r.2, bad := mask } else p) }
    let s1 := releaseStores (r.1.setUnit u1) u1.id
    match bad, u1.pend.find? (fun p => decide (p.id = a.pend)) with
    | e :: _, some p =>
      let u2 := u1.putRes p (maskOf (fun l => r.2.any (fun x => decide (x.1 = l)))) r.2
      let s2 := match p.share with
        | some k => shareVal (s1.setUnit u2) u2.who.rset k (packLanes r.2 mask e.addr 2)
        | none => s1.setUnit u2
      pushImp s2 u2 (pendImp u2 p 0x43 e.addr 2 (some p.id))
    | _, _ => s1

/-- A pad or handle atomic word: performed at once, and on a poisoned sector with the outcome of R233. -/
def localAtom (s : State) (u : Unit) (st : Strm) (w : AtomW) (accs : List AtomAcc) : Res :=
  let done (t : State) (v : Unit) : State := if w.pad then touchPad t v (accs.map (fun e => e.addr)) else spoil t v
  let go (v : Unit) : Res :=
    if loadsHeld v st then parkAt s v st .results
    else if accs.any (fun e => s.mem.badHome.contains (sectorOf e.addr)) then
      let p := newPend s v st w.dst (.atom s.fl.seq) (acqOrd w.o) w.act none
      let a : PAtom := { seq := s.fl.seq, unit := v.id, strm := st, op := w.op, size := w.size, place := .slice, die := v.die, accs := accs,
                         pend := s.fl.seq, idx := v.pcOf st, raw := rawAt s v st, act := if st = .s then 0 else w.act, stamp := none }
      .next (done (performAtom (issuePend s v st w.m (1 + accs.length) p) a) v)
    else
      let r := atomHome s w.op w.size accs
      match r.1.unit? v.id with
      | none => .next r.1
      | some x =>
        let y := { x with tsInterval := v.tsInterval, tsScope := v.tsScope }
        .next (done (r.1.setUnit (y.done st w.m (flights s u.id.core w.lat (dstRes w.dst w.act r.2)))) v)
  if relOrd w.o then
    pointGate s u st 0x03 (modesByte w.sc false w.o) [] (releaseGate s u st w.sc (go (u.released w.sc)))
  else go u

/-! ## Arrival of variable-latency results (R21, R23) -/

/-- Whether two loads share a byte. -/
def overlap (n : Nat) (l : List (Nat × Nat)) (m : Nat) (r : List (Nat × Nat)) : Bool :=
  l.any (fun x => r.any (fun y => decide (x.2 < y.2 + m) && decide (y.2 < x.2 + n)))

/-- Whether an earlier operation of the unit must come before a load: an unbound acquire (R214), an atomic on one of its sectors,
a load of one of its bytes (R210, R216), or a store of one that must be readable first (R211, R298). -/
def loadBlocked (s : State) (u : Unit) (p : Pend) (size : Nat) (accs : List (Nat × Nat)) : Bool :=
  storeBlocks s u p.strm p.id (accBytes size accs) || leadOwes s u p.id || s.fl.atoms.any (fun b => decide (b.unit = u.id) && decide (b.seq < p.id) && u.before p.strm b.strm b.seq &&
    b.accs.any (fun e => accs.any (fun x => decide (sectorOf x.2 = sectorOf e.addr))))
  || u.pend.any (fun q => q.unbound && decide (q.id < p.id) && u.before p.strm q.strm q.id &&
    (q.acq || (match q.what with
      | .ldg l n _ => overlap n l size accs
      | .leader _ (.load l n _) => overlap n l size accs
      | _ => false)))

/-- The mirror tags that a load's bytes bring (R213). -/
def loadTags (s : State) (u : Unit) (size : Nat) (accs : List (Nat × Nat)) : List Nat :=
  ((accBytes size accs).flatMap (tagsAt s u)).dedup.filter (fun t => !u.tags.contains t)

/-- Whether a load could bind but for the acknowledgement buffer, which has no entries for its tags: its stream stalls (R238). A tag of the unit's own
store takes that store's entry. -/
def tagStall (s : State) (u : Unit) (p : Pend) : Bool :=
  match p.what with
  | .ldg accs size _ =>
    decide (p.bad = 0) && !loadBlocked s u p size accs &&
      (let t := (loadTags s u size accs).filter (fun q => !(crossStores s u).any (fun (x : PStore) => decide (x.seq = q)))
       decide (t ≠ []) && decide (16 < ackUse s u + t.length))
  | _ => false

/-- Whether a pending result can arrive now. A mailbox read samples the count when it arrives, so a run that is enqueued before that may hold it up
(DESIGN CHOICE, log 80); a load of another die's line waits while no path to its home is up (DEDUCED, log 32). -/
def pendReady (s : State) (u : Unit) (p : Pend) : Bool :=
  match p.what with
  | .ldg accs size _ => decide (p.bad = 0) && !loadBlocked s u p size accs && !tagStall s u p && accs.all (fun e => reachable s u.die e.2)
  | .atom q => decide (p.bad = 0) && !(s.fl.atoms.any (fun b => decide (b.seq = q)))
  | .mailbox n => decide (SMap.get 0 u.mbCnt n.toNat = 0) && (match u.trap.saved with
      | some sv => !(decide (p.id < sv.seq) && decide (sv.mbCnt.getD n.toNat 0 ≠ 0))
      | none => true)
  | .tclk => true
  | .tlr _ => true
  | .status _ => !p.vals.isEmpty
  | .launch _ => !p.vals.isEmpty
  | .leader n _ => decide (p.bad = 0) && (leadVal s u.who.rset n).isSome
  | .late n _ => (leadVal s u.who.rset n).isSome

/-- The value of a timeline. -/
def timelineVal (s : State) (ctx n : Nat) : Nat :=
  match (SMap.look s.ctxs ctx).bind (fun c => SMap.look c.tls n) with
  | some t => t.val
  | none => 0

/-- The stores that a bound load of a unit held back, its own and those of its replicas, leave the queue (R215). -/
def releaseSet (s : State) (u : Unit) : State := (replicas s u).foldl (fun t v => releaseStores t v.id) s

/-- A result that has come in full: written, its pending bit cleared, and, if it is shared, `mem` handed to the replicas. -/
def arriveAll (s : State) (u : Unit) (p : Pend) (vals mem : List (Nat × Nat)) : State :=
  let put (x : Unit) : Unit :=
    let y := x.putRes p p.act vals
    ({ y with pend := y.pend.filter (fun (q : Pend) => decide (q.id ≠ p.id)) } : Unit).flipPend ((x.pend.find? (fun q => decide (q.id = p.id))).getD p)
  let s1 := onShadow (s.setUnit (put u)) u p put
  let s2 := match p.share with
    | some k => shareVal s1 u.who.rset k (packLanes mem 0 0 0)
    | none => s1
  releaseSet s2 u

/-- A load whose lanes in `bad` met poison: the sound lanes are written, the rest stays pending, and the fault joins the
imprecise queue (R233, R283). -/
def arriveBad (s : State) (u : Unit) (p : Pend) (vals mem : List (Nat × Nat)) (bad : Mask) (addr info : Nat) : State :=
  let put (x : Unit) : Unit :=
    let y := x.putRes p (p.act &&& ~~~bad) vals
    { y with pend := y.pend.map (fun (q : Pend) => if q.id = p.id then { q with bad := bad } else q) }
  let u2 := put u
  let s1 := onShadow (s.setUnit u2) u p put
  let s2 := match p.share with
    | some k => shareVal s1 u.who.rset k (packLanes mem bad addr info)
    | none => s1
  let s3 := releaseSet s2 u
  pushImp s3 ((s3.unit? u.id).getD u2) (pendImp u2 p 0x43 addr info (some p.id))

/-- A single value arrives. -/
def arriveOne (s : State) (u : Unit) (p : Pend) (v : Nat) : State := arriveAll s u p [(0, v)] [(0, v)]

/-- A pending result that is ready arrives. -/
def arrive (s : State) (u : Unit) (p : Pend) : State :=
  match p.what with
  | .ldg accs size sgn =>
    let bad := accs.filter (fun e => sectorBad s u.die e.2)
    let good := accs.filter (fun e => !sectorBad s u.die e.2)
    let mem := good.map (fun e => (e.1, memVal s u p.strm p.id size e.2))
    let vals := (good.zip mem).map (fun e => (e.1.1, heldOver u p.id p.own size sgn p.dst e.1.2 e.2.2))
    let s1 := good.foldl (fun t e => touchMirror t u.die e.2) s
    let u1 := { u with tags := u.tags ++ loadTags s u size good }
    let u2 := if p.acq then learnPairs s u1 good else u1
    match bad with
    | [] => arriveAll s1 u2 p vals mem
    | e :: _ => arriveBad s1 u2 p vals mem (maskOf (fun l => bad.any (fun x => decide (x.1 = l)))) e.2 0
  | .atom _ => arriveAll s u p p.vals p.vals
  | .mailbox n => arriveOne s u p (u.mailbox s.clk.now n.toNat).toNat
  | .tclk => arriveOne s u p s.tclk
  | .tlr n => arriveOne s u p (timelineVal s u.who.ctx n)
  | .status _ => arriveAll s u p p.vals p.vals
  | .launch _ => arriveAll s u p p.vals p.vals
  | .late n _ => match leadVal s u.who.rset n with
    | none => s
    | some v => arriveOne s u p (unpackLane v 0)
  | .leader n own =>
    match leadVal s u.who.rset n with
    | none => s
    | some v =>
      let at_ (l : Nat) : Nat := match own with
        | .load accs size sgn => heldOver u p.id p.own size sgn p.dst ((SMap.look accs l).getD 0) (unpackLane v l)
        | _ => unpackLane v l
      let vals := (lanesOf p.act).map (fun l => (l, at_ l))
      let bad := BitVec.ofNat 32 (fld v 4096 32)
      let u1 := match own with | .load accs _ _ => if p.acq then learnPairs s u accs else u | _ => u
      if bad = 0 then arriveAll s u1 p vals vals
      else arriveBad s u1 p (vals.filter (fun e => !bad.getLsbD e.1)) vals bad (fld v 4128 64) (v / 2 ^ 4192)

/-- A load word whose accesses passed their checks. Global loads, and `.rb` loads in a redundant launch, are
variable-latency; the others read at once (R21, R144). `ts` is what the touchstone records. -/
def issueLoad (s : State) (u : Unit) (st : Strm) (w : LoadW) (accs : List (Nat × Nat)) (ts : State → State) : Res :=
  let shared := w.rb && decide (u.who.rset ≠ 0)
  if shared ∨ w.gsa then
    let key := u.leadKey st
    let v := if shared then u.bumpLead st else u
    if shared ∧ u.takes s st then
      .next (ts (issuePend s v st w.m 1 (newPend s v st w.dst (.leader key (.load accs w.size w.sgn)) w.acq w.act none)))
    else
      .next (ts (issuePend s v st w.m 1
        (newPend s v st w.dst (.ldg accs w.size w.sgn) w.acq w.act (if shared then some key else none))))
  else if acquireHeld u st || storeBlocks s u st s.fl.seq (accBytes w.size accs) then parkAt s u st .results
  else if accs.any (fun e => sectorBad s u.die e.2) then
    let p := newPend s u st w.dst (.ldg accs w.size w.sgn) w.acq w.act none
    let t := issuePend s u st w.m 1 p
    .next (match t.unit? u.id with | some v => arrive t v p | none => t)
  else
    let vals := accs.map (fun e => (e.1, extLoad w.size w.sgn w.dst.width (leNat (readN (seenByte s u st s.fl.seq) w.size e.2))))
    .next (s.setUnit (u.done st w.m (flights s u.id.core w.lat (dstRes w.dst w.act vals))))

end Sys2Proof.Machine
end

