-- ==== Sys2Proof/Machine/Operands.lean ====
section
/-! DEFINITION. The operand forms of lane words: register reads by type, latches, `laneid`, imm32, the small constants,
masks (R58, R59, R109, R110), reads across path slots (R112), elements of packed types (R67), and how a lane word
retires (R111). -/

namespace Sys2Proof.Machine

/-! ## Types -/

/-- The width of one element of a type. -/
def elBits (t : LTy) : Nat :=
  match t with
  | .u8 | .s8 | .e4m3 | .e5m2 | .e8m0 | .mk8 | .u8x4 | .s8x4 => 8
  | .u16 | .s16 | .f16 | .bf16 | .f16x2 | .bf16x2 | .u16x2 | .s16x2 => 16
  | .e2m1 => 4
  | .u64 | .s64 | .f64 | .b64 => 64
  | .b128 => 128
  | _ => 32

/-- Elements of a type in arithmetic words. -/
def elCount (t : LTy) : Nat :=
  match t with
  | .f16x2 | .bf16x2 | .u16x2 | .s16x2 => 2
  | .u8x4 | .s8x4 => 4
  | _ => 1

/-- Whether a type is signed. -/
def tySigned (t : LTy) : Bool :=
  match t with
  | .s8 | .s16 | .s32 | .s64 | .s16x2 | .s8x4 => true
  | _ => false

/-- The floating format of a type's elements. -/
def tyFmt (t : LTy) : Option Fmt :=
  match t with
  | .f16 | .f16x2 => some .f16
  | .bf16 | .bf16x2 => some .bf16
  | .f32 => some .f32
  | .f64 => some .f64
  | .e4m3 => some .e4m3
  | .e5m2 => some .e5m2
  | .e2m1 => some .e2m1
  | .e8m0 => some .e8m0
  | .mk8 => some .mk8
  | _ => none

/-- The elements of a value, element 0 first. -/
def elemsOf (w n v : Nat) : List Nat := (List.range n).map (fun k => fld v (k * w) w)

/-- Elements put together. -/
def joinElems (w : Nat) (l : List Nat) : Nat :=
  match l with
  | [] => 0
  | x :: t => x % 2 ^ w + 2 ^ w * joinElems w t

/-- One element in every place. -/
def replicate (w n x : Nat) : Nat := joinElems w (List.replicate n x)

/-! ## Constants (R58, R59) -/

/-- The integer of small-constant codes 192 to 239, the code less 192. -/
def smallInt (c : Nat) : Int := if c < 32 then (c : Int) else 31 - (c : Int)

/-- Sign and exponent of small-constant codes 240 to 255, the code less 192: the value is a power of two. -/
def smallPow (c : Nat) : Bool × Int :=
  (decide (56 ≤ c), match c % 8 with
    | 0 => -1 | 1 => 0 | 2 => 1 | 3 => 2 | 4 => 3 | 5 => 4 | 6 => -2 | _ => -3)

/-- The value of a small constant. -/
def smallReal (c : Nat) : FVal :=
  if c < 48 then ofInt (smallInt c) else .fin (smallPow c).1 1 (smallPow c).2

/-- The integer pattern of a small constant in `w` bits: two's complement, or the FP32 pattern. -/
def smallBits (w c : Nat) : Nat :=
  if c < 48 then wrapInt w (smallInt c) else (Fmt.encode .f32 .rne false false (smallReal c)).1 % 2 ^ w

/-- What a small-constant selector supplies to an operand of a type (R59): an integer type, however narrow, the 32-bit
pattern, of which a conversion selects its byte or half (R121); a 16-bit float its own encoding, with 0 as element 1
(DEDUCED, log 26). -/
def smallVal (t : LTy) (c : Nat) : Nat :=
  match t with
  | .f16 | .bf16 | .f32 | .f64 | .f16x2 | .bf16x2 =>
    match tyFmt t with
    | some f => replicate f.width (elCount t) (f.encode .rne false false (smallReal c)).1
    | none => 0
  | .u16x2 | .s16x2 | .u8x4 | .s8x4 => replicate (elBits t) (elCount t) (smallBits (elBits t) c)
  | .u64 | .s64 | .b64 => smallBits 64 c
  | .b128 => smallBits 128 c
  | _ => smallBits 32 c

/-- An FP32 value widened exactly to FP64, a NaN with its payload (R58). -/
def widen32 (x : Nat) : Nat :=
  match Fmt.decode .f32 x with
  | .nan _ => fld x 31 1 * 2 ^ 63 + 0x7FF * 2 ^ 52 + fld x 0 23 * 2 ^ 29
  | v => (Fmt.encode .f64 .rne false false v).1

/-- What imm32 supplies to an operand of a type (R58, R110, R118): a packed integer operand reads its low element in
every element, in each opcode that takes such a type (DEDUCED, log 78). -/
def immVal (t : LTy) (x : Nat) : Nat :=
  match t with
  | .f64 => widen32 x
  | .u16x2 | .s16x2 | .u8x4 | .s8x4 => replicate (elBits t) (elCount t) (x % 2 ^ elBits t)
  | .s64 => wrapInt 64 (readInt true 32 x)
  | _ => x

/-! ## Reads -/

/-- `n` registers of a lane as one number, the first lowest. -/
def Unit.laneRegs (u : Unit) (r n l : Nat) : Nat :=
  match n with
  | 0 => 0
  | k + 1 => (u.rv r l).toNat + 2 ^ 32 * u.laneRegs (r + 1) k l

/-- The latches of the executing run (R11). -/
def Unit.latch (u : Unit) (n : Nat) : Nat :=
  match u.lS.running with
  | some r => (r.k.getD n 0).toNat
  | none => 0

/-- The value that an operand of a type supplies to lane `l` (R109, R110). -/
def Unit.opVal (u : Unit) (t : LTy) (imm : Nat) (x : Sel) (l : Nat) : Nat :=
  match x with
  | .v n => u.laneRegs n.toNat (tyRegs t) l
  | .k n => if tyRegs t = 1 then u.latch n.toNat % 2 ^ 32 else u.latch n.toNat
  | .laneid => l
  | .imm => immVal t imm
  | .small c => smallVal t c.toNat
  | _ => 0

/-- The registers that a selector of `n` registers names. -/
def selRegs (x : Sel) (n : Nat) : List (Nat × Nat) :=
  match x with
  | .v r => [(r.toNat, n)]
  | _ => []

/-! ## Reads across path slots (R112) -/

/-- One of `x` and the values of `l`, by the n-th and later free choices (log 3). -/
def pickOld {α : Type} (n : Nat) (x : α) (l : List α) : α :=
  match l with
  | [] => x
  | y :: t => if Config.freeBool n then y else pickOld (n + 1) x t

/-- Whether both path slots are live. -/
def Unit.dual (u : Unit) : Bool := u.lS.slot0.live && u.lS.slot1.live

/-- A write of the other slot to a lane of a `v` register that no join has ordered: its word, the register, and the value before it
where it has been written, or the value after it where it is in flight. -/
structure OtherW where
  word : Nat
  reg : Nat
  old : Option Half
  new : Option Half
  deriving DecidableEq, Repr

/-- Such writes to lane `l`, oldest first; none where the lane does not belong to the other slot. -/
def Unit.otherV (u : Unit) (i : Bool) (l : Nat) : List OtherW :=
  let x := u.slot (!i)
  if u.dual && x.lanes.getLsbD l then
    (x.hist.filter (fun e => decide (e.2.1 % 32 = l))).map (fun e => { word := e.1, reg := e.2.1 / 32, old := some e.2.2, new := none })
      ++ x.fly.filterMap (fun f => match f.res with
        | .v q m vs => if m.getLsbD l && !x.earlier f then some { word := 2 * f.word, reg := q, old := none, new := some (vs.getD l 0) } else none
        | _ => none)
  else []

/-- Lane `l` of `v`r as slot `i` has it from its own words: the old value of a lane of the other slot while its own results are out (R22). -/
def Unit.ownV (u : Unit) (i : Bool) (r l : Nat) : Option Half := SMap.look (u.slot i).shade (vkey r l)

/-- Lane `l` of `v`r for slot `i` where, of the writes `ws`, those of `seen` words have been seen. -/
def Unit.seenV (u : Unit) (i : Bool) (ws : List OtherW) (seen : List Nat) (r l : Nat) : Half :=
  let mine := ws.filter (fun e => decide (e.reg = r))
  if !mine.any (fun e => seen.contains e.word) ∧ (u.ownV i r l).isSome then (u.ownV i r l).getD 0
  else match (mine.filter (fun e => e.old.isSome && !seen.contains e.word)).head? with
  | some e => e.old.getD 0
  | none => match (mine.filter (fun e => e.new.isSome && seen.contains e.word)).getLast? with
    | some e => e.new.getD 0
    | none => u.rv r l

/-- Lane `l` of the `n` registers from `v`r, as a word of slot `i` reads them from any lane: it has seen the other slot's words up to one
freely chosen for the lane (R112). -/
def Unit.crossV (u : Unit) (free : Nat) (i : Bool) (r n l : Nat) : Nat :=
  let ws := (u.otherV i l).filter (fun e => decide (r ≤ e.reg) && decide (e.reg < r + n))
  if !u.dual || (ws.isEmpty && (u.slot i).shade.isEmpty) then u.laneRegs r n l
  else
    let words := (ws.map (fun e => e.word)).dedup
    let seen := words.take (Config.freeNat (free + l) % (words.length + 1))
    (List.range n).foldl (fun a k => a + (u.seenV i ws seen (r + k) l).toNat * 2 ^ (32 * k)) 0

/-- The bits that slot `i` may see in `q`n besides the ones it holds, with the lanes concerned (R112). -/
def Unit.otherQ (u : Unit) (i : Bool) (n : BitVec 3) : List (Mask × Mask) :=
  let x := u.slot (!i)
  (x.histQ.filter (fun e => decide (e.1 = n.toNat))).map (fun e => e.2)
    ++ x.fly.filterMap (fun f => match f.res with
      | .q d m b => if d = n ∧ !x.earlier f then some (m &&& x.lanes, b) else none
      | _ => none)

/-- `q`n as a word of slot `i` reads it: lanes of the other slot are free among the values they had or will have. -/
def Unit.crossQ (u : Unit) (free : Nat) (i : Bool) (n : BitVec 3) : Mask :=
  if n = 0 then 0xFFFFFFFF
  else if u.dual then maskOf (fun l =>
    let h := ((u.otherQ i n).filter (fun e => e.1.getLsbD l)).map (fun e => e.2.getLsbD l)
    pickOld (free + 256 * l) (((SMap.look (u.slot i).shadeQ n.toNat).getD (u.rq n)).getLsbD l) (h ++ (if h.isEmpty then [] else [(u.rq n).getLsbD l])))
  else u.rq n

/-- The mask that a mask operand supplies (R58). -/
def Unit.maskVal (u : Unit) (free : Nat) (i : Bool) (x : Sel) : Mask :=
  match x with
  | .q n => u.crossQ free i n
  | .em => (u.slot i).em
  | .flm => u.trap.flm
  | _ => 0

/-- The machine after a word has used its free choices. -/
def spendFree (s : State) (u : Unit) : State := if u.dual then { s with free := s.free + 16384 } else s

/-! ## Retirement of a lane word (R111) -/

/-- Run `k` on the unit, slot and active lanes of a lane word, or stall on a pending register (R21). -/
def laneWord (s : State) (g : Guard) (regs : List (Nat × Nat)) (k : Unit → Bool → Mask → Res) : Res :=
  withUnit s (fun u =>
    let i := strmSlot s.curS
    if regs.any (fun r => u.vPend r.1 r.2) then parkAt s u (slotStrm i) .pendingReg
    else
      let gm := if g.neg then ~~~(u.crossQ (s.free + 8192) i g.q) else u.crossQ (s.free + 8192) i g.q
      k u i ((u.slot i).em &&& gm))

/-- A lane word holds the core's L-issue port for its issue interval, counted in kept pulses (R111, R4). -/
def holdPort (s : State) (core iv : Nat) : State :=
  { s with sch := { s.sch with lport := SMap.put s.sch.lport core (dueAt s core iv) } }

/-- A lane word that issued holds the port (R111, R140); one that parked does not. -/
def portAfter (r : Res) (core iv : Nat) : Res :=
  match r with
  | .next t => if t.sch.parked then .next t else .next (holdPort t core iv)
  | x => x

/-- A lane word retires to the next index with results of the given latency in flight. -/
def retireL (s : State) (u : Unit) (i m : Bool) (iv lat : Nat) (rs : List FRes) : Res :=
  .next (holdPort (spendFree (s.setUnit (u.lDone i m (flights s u.id.core lat rs) ((u.slot i).lpc + 1))) u) u.id.core iv)

/-- A mailbox written by the lowest active lane, zero-extended, at once, at mclk `now` (R8, R13, R124). -/
def Unit.wmb (u : Unit) (now : Nat) (n : BitVec 2) (act : Mask) (vals : List (Nat × Nat)) : Unit :=
  match lanesOf act with
  | [] => u
  | l :: _ => ({ u with mbVal := SMap.set 0 u.mbVal n.toNat (BitVec.ofNat 64 ((SMap.look vals l).getD 0 % 2 ^ 64)),
                        mbOld := SMap.put u.mbOld n.toNat (now, SMap.get 0 u.mbVal n.toNat) } : Unit).dirt 8

/-- A lane word that writes values of `n` registers to its destination. -/
def writeLane (s : State) (u : Unit) (i m : Bool) (act : Mask) (iv lat : Nat) (d : Sel) (n : Nat) (vals : List (Nat × Nat)) : Res :=
  match d with
  | .v r => retireL s u i m iv lat (vRes r.toNat n act vals)
  | .mb k => retireL s (u.wmb s.clk.now k act vals) i m iv lat []
  | _ => retireL s u i m iv lat []

/-- A lane word that writes a mask: only the bits of active lanes change (R109). -/
def writeMask (s : State) (u : Unit) (i m : Bool) (act : Mask) (iv lat : Nat) (d : Sel) (bits : Mask) : Res :=
  match d with
  | .q r => retireL s u i m iv lat [.q r act bits]
  | _ => retireL s u i m iv lat []

end Sys2Proof.Machine
end

