-- ==== Sys2Proof/Machine/Flags.lean ====
section
/-! DEFINITION. The floating-point mode and the flag computation of lane words: effective rounding mode, flushing,
sticky flags and the floating-point exception trap (R15, R74, R76 to R78). -/

namespace Sys2Proof.Machine

/-- The rounding mode of an `fpmode` code; codes 0, 6 and 7 never stand in `fpmode` (R16). -/
def rmOf (n : Nat) : Rm :=
  match n with
  | 2 => .rtz | 3 => .rup | 4 => .rdn | 5 => .rna | _ => .rne

/-- `fpmode`.rm. -/
def Unit.fpRm (u : Unit) : Rm := rmOf (u.fpmode.toNat % 8)
/-- `fpmode`.fzi. -/
def Unit.fzi (u : Unit) : Bool := u.fpmode.getLsbD 3
/-- `fpmode`.fzo. -/
def Unit.fzo (u : Unit) : Bool := u.fpmode.getLsbD 4
/-- `fpmode`.te. -/
def Unit.te (u : Unit) : Flags := u.fpmode.extractLsb' 10 5

/-- `eff_rm` (R74). -/
def Unit.effRm (u : Unit) (r : Rnd) : Rm :=
  match r with
  | .dyn => u.fpRm
  | .rne => .rne
  | .rtz => .rtz
  | .rup => .rup
  | .rdn => .rdn
  | .rna => .rna

/-- Flags joined into `fpmode`.sf (R77). -/
def Unit.raise (u : Unit) (f : Flags) : Unit := { u with fpmode := u.fpmode ||| (f.setWidth 32 <<< (5 : Nat)) }

/-- The union of flags. -/
def flUnion (l : List (Mask × Flags)) : Flags := l.foldl (fun a e => a ||| e.2) flNone

/-- The flags of a word, by the lanes that a trap would name: the floating-point exception trap when an enabled flag is
raised, and otherwise `k` on the unit with the flags joined in (R77, R78). -/
def flagGate (s : State) (u : Unit) (i : Bool) (l : List (Mask × Flags)) (k : Unit → Res) : Res :=
  let hot := l.filter (fun e => decide (e.2 &&& u.te ≠ 0))
  if hot.isEmpty then k (u.raise (flUnion l))
  else
    let all := flUnion l
    let en := hot.foldl (fun a e => a ||| (e.2 &&& u.te)) flNone
    takeTrap s u (slotStrm i) 0x21 0 (all.toNat * 32 + en.toNat) (hot.foldl (fun a e => a ||| e.1) 0) false

/-- The flags of single lanes. -/
def laneFlags (l : List (Nat × Flags)) : List (Mask × Flags) := l.map (fun e => (BitVec.ofNat 32 (2 ^ e.1), e.2))

end Sys2Proof.Machine
end

