-- ==== Sys2Proof/Machine/LaneConv.lean ====
section
/-! DEFINITION. Conversions: opcodes 0x40 to 0x43 (R79, R121 to R123). -/

namespace Sys2Proof.Machine

/-- The source type of a conversion (R121). -/
def convSrc (md : BitVec 7) : LTy := (srcTy md.toNat).getD .u32

/-- The element of a source that `n` selects (R121). -/
def pickElem (t : LTy) (n v : Nat) : Nat :=
  match t with
  | .e2m1 => fld v (8 * n) 4
  | _ => if elBits t ≤ 16 then fld v (elBits t * n) (elBits t) else v

/-- The conversions that R79 calls exact: its first row, and E8M0 to FP32 and FP64. -/
def exactConv (f g : Fmt) : Bool :=
  match f with
  | .e2m1 | .e4m3 | .e5m2 | .mk8 => g.flushes
  | .f16 | .bf16 | .e8m0 => decide (g = .f32) || decide (g = .f64)
  | .f32 => decide (g = .f64)
  | _ => false

/-- One element converted between two types (R79): bits in the destination's element width, and flags. An exact
conversion is neither saturated nor flushed by fzo; E8M0 to FP16 and BF16 are rounded, saturated and flushed
(DEDUCED, log 79). -/
def convert (src dst : LTy) (rm : Rm) (s fzi fzo : Bool) (code : Nat) : Nat × Flags :=
  match tyFmt src with
  | some f =>
    let x := f.decodeFz fzi code
    let sn := if x.isSnan then flInvalid else flNone
    (match tyFmt dst with
     | some .e8m0 => toE8m0 rm s x
     | some g =>
       let r := if exactConv f g then g.encode .rne false false x else g.encode rm s fzo x
       (r.1, sn ||| r.2)
     | none => toInt rm (tySigned dst) (elBits dst) x)
  | none =>
    let v := readInt (tySigned src) (elBits src) code
    (match tyFmt dst with
     | some .e8m0 => toE8m0 rm s (ofInt v)
     | some g => g.encode rm s fzo (ofInt v)
     | none => (if s then clampInt (tySigned dst) (elBits dst) v else wrapInt (elBits dst) v, flNone))

/-- How a converted element fills its destination (R121): a packed destination takes it as element 0; a narrow integer is
extended by its signedness, anything else with zeros. -/
def convFill (dst : LTy) (x : Nat) : Nat :=
  if tySigned dst ∧ elCount dst = 1 ∧ elBits dst < 32 then wrapInt 32 (readInt true (elBits dst) x) else x

/-- `cvt` and `unpk` under a rounding mode. -/
def convWord (s : State) (w : LA) (rmOf : Unit → Rm) : Res :=
  let src := convSrc w.md
  laneWord s w.g (selRegs w.dst (tyRegs w.ty) ++ selRegs w.a (tyRegs src)) (fun u i act =>
    let r := (lanesOf act).map (fun l =>
      (l, convert src w.ty (rmOf u) w.sat u.fzi u.fzo (pickElem src (w.md.toNat % 4) (u.opVal src w.imm.toNat w.a l))))
    flagGate s u i (laneFlags (r.map (fun e => (e.1, e.2.2)))) (fun v =>
      writeLane s v i w.m act 1 4 w.dst (tyRegs w.ty) (r.map (fun e => (e.1, convFill w.ty e.2.1)))))

/-- `cvt` (R121). -/
def execLaneCvt (w : LA) (s : State) : Res := convWord s w (fun u => u.effRm w.rnd)

/-- `unpk` ignores the rounding field (R121). -/
def execLaneUnpk (w : LA) (s : State) : Res := convWord s w (fun _ => .rne)

/-- `v` with element `k` of width `w` replaced. -/
def putElem (w k x v : Nat) : Nat := v - fld v (w * k) w * 2 ^ (w * k) + x % 2 ^ w * 2 ^ (w * k)

/-- `pack` converts A and B into elements 2n and 2n + 1 and keeps the others (R122). -/
def execLanePack (w : LA) (s : State) : Res :=
  let src := convSrc w.md
  let n := w.md.toNat % 4
  laneWord s w.g (selRegs w.dst 1 ++ selRegs w.a (tyRegs src) ++ selRegs w.b (tyRegs src)) (fun u i act =>
    let c (x : Sel) (l : Nat) : Nat × Flags :=
      convert src w.ty (u.effRm w.rnd) w.sat u.fzi u.fzo (pickElem src 0 (u.opVal src w.imm.toNat x l))
    let r := (lanesOf act).map (fun l =>
      let old := match w.dst with | .v d => (u.rv d.toNat l).toNat | _ => 0
      (l, putElem (elBits w.ty) (2 * n + 1) (c w.b l).1 (putElem (elBits w.ty) (2 * n) (c w.a l).1 old),
        (c w.a l).2 ||| (c w.b l).2))
    flagGate s u i (laneFlags (r.map (fun e => (e.1, e.2.2)))) (fun v =>
      writeLane s v i w.m act 1 4 w.dst 1 (r.map (fun e => (e.1, e.2.1)))))

/-- A value times 2^k. -/
def scaleVal (a : FVal) (k : Int) : FVal :=
  match a with
  | .fin s m e => .fin s m (e + k)
  | v => v

/-- The scaled product of `scl` (R123). -/
def sclVal (f : Fmt) (rm : Rm) (s fzi fzo : Bool) (a e : Nat) : Nat × Flags :=
  if e = 0xFF then (f.canonNan, flInvalid)
  else
    let x := f.decodeFz fzi a
    let r := f.encode rm s fzo (scaleVal x ((e : Int) - 127))
    (r.1, r.2 ||| (if x.isSnan then flInvalid else flNone))

/-- `scl` (R123). -/
def execLaneScl (w : LA) (s : State) : Res :=
  laneWord s w.g (selRegs w.dst 1 ++ selRegs w.a 1 ++ selRegs w.b 1) (fun u i act =>
    match tyFmt w.ty with
    | none => retireL s u i w.m 1 4 []
    | some f =>
      let r := (lanesOf act).map (fun l => (l, sclVal f (u.effRm w.rnd) w.sat u.fzi u.fzo
        (u.opVal w.ty w.imm.toNat w.a l % 2 ^ f.width) (u.opVal .b32 w.imm.toNat w.b l % 256)))
      flagGate s u i (laneFlags (r.map (fun e => (e.1, e.2.2)))) (fun v =>
        writeLane s v i w.m act 1 4 w.dst 1 (r.map (fun e => (e.1, e.2.1)))))

end Sys2Proof.Machine
end

