-- ==== Sys2Proof/Machine/Scalar.lean ====
section
/-! DEFINITION. The scalar-stream words that compute, test, branch, stage and enqueue lane runs, read mailboxes and
special registers, and enter and leave traps: majors 0x00 to 0x1B and 0x38 to 0x3E (R84 to R108). -/

namespace Sys2Proof.Machine

/-! ## Register ALU words (R86 to R89) -/

/-- A register ALU word: `S[d] := f(S[a], S[b])`, fixed-latency (R85, R86). -/
def aluS (s : State) (m : Bool) (d a b : SReg) (lat : Nat) (f : Word → Word → Word) : Res :=
  sWord s [d, a, b] (fun u => retireS s u m lat [.s d (f (u.rs a) (u.rs b))])

/-- A word of one source. -/
def aluS1 (s : State) (m : Bool) (d a : SReg) (lat : Nat) (f : Word → Word) : Res :=
  sWord s [d, a] (fun u => retireS s u m lat [.s d (f (u.rs a))])

/-- A shift count: bits [5:0] (R86). -/
def shCount (b : Word) : Nat := b.toNat % 64

/-- Quotients and remainders with the cases of R87. -/
def divU (a b : Word) : Word := if b = 0 then BitVec.allOnes 64 else BitVec.ofNat 64 (a.toNat / b.toNat)
def remU (a b : Word) : Word := if b = 0 then a else BitVec.ofNat 64 (a.toNat % b.toNat)
def divS (a b : Word) : Word := if b = 0 then BitVec.allOnes 64 else BitVec.ofInt 64 (Int.tdiv a.toInt b.toInt)
def remS (a b : Word) : Word := if b = 0 then a else BitVec.ofInt 64 (Int.tmod a.toInt b.toInt)

/-- Bits set, leading and trailing zeros (R86). -/
def popW (a : Word) : Word := BitVec.ofNat 64 ((List.range 64).countP (fun i => a.getLsbD i))
def clzW (a : Word) : Word := if a = 0 then 64 else BitVec.ofNat 64 (63 - Nat.log2 a.toNat)
def ctzW (a : Word) : Word := BitVec.ofNat 64 (((List.range 64).find? (fun i => a.getLsbD i)).getD 64)

def execAdd (m : Bool) (d a b : SReg) (s : State) : Res := aluS s m d a b 4 (fun x y => x + y)
def execSub (m : Bool) (d a b : SReg) (s : State) : Res := aluS s m d a b 4 (fun x y => x - y)
def execAnd (m : Bool) (d a b : SReg) (s : State) : Res := aluS s m d a b 4 (fun x y => x &&& y)
def execOr (m : Bool) (d a b : SReg) (s : State) : Res := aluS s m d a b 4 (fun x y => x ||| y)
def execXor (m : Bool) (d a b : SReg) (s : State) : Res := aluS s m d a b 4 (fun x y => x ^^^ y)
def execShl (m : Bool) (d a b : SReg) (s : State) : Res := aluS s m d a b 4 (fun x y => x <<< shCount y)
def execShr (m : Bool) (d a b : SReg) (s : State) : Res := aluS s m d a b 4 (fun x y => x >>> shCount y)
def execSar (m : Bool) (d a b : SReg) (s : State) : Res := aluS s m d a b 4 (fun x y => x.sshiftRight (shCount y))
def execMul (m : Bool) (d a b : SReg) (s : State) : Res := aluS s m d a b 8 (fun x y => x * y)
def execMulhiU64 (m : Bool) (d a b : SReg) (s : State) : Res :=
  aluS s m d a b 8 (fun x y => BitVec.ofNat 64 (x.toNat * y.toNat / 2 ^ 64))
def execMulhiS64 (m : Bool) (d a b : SReg) (s : State) : Res :=
  aluS s m d a b 8 (fun x y => BitVec.ofInt 64 (x.toInt * y.toInt / 2 ^ 64))
def execMinS64 (m : Bool) (d a b : SReg) (s : State) : Res := aluS s m d a b 4 (fun x y => if x.slt y then x else y)
def execMinU64 (m : Bool) (d a b : SReg) (s : State) : Res := aluS s m d a b 4 (fun x y => if x.ult y then x else y)
def execMaxS64 (m : Bool) (d a b : SReg) (s : State) : Res := aluS s m d a b 4 (fun x y => if x.slt y then y else x)
def execMaxU64 (m : Bool) (d a b : SReg) (s : State) : Res := aluS s m d a b 4 (fun x y => if x.ult y then y else x)
def execDivU64 (m : Bool) (d a b : SReg) (s : State) : Res := aluS s m d a b 40 divU
def execDivS64 (m : Bool) (d a b : SReg) (s : State) : Res := aluS s m d a b 40 divS
def execRemU64 (m : Bool) (d a b : SReg) (s : State) : Res := aluS s m d a b 40 remU
def execRemS64 (m : Bool) (d a b : SReg) (s : State) : Res := aluS s m d a b 40 remS
def execAndn (m : Bool) (d a b : SReg) (s : State) : Res := aluS s m d a b 4 (fun x y => x &&& ~~~y)
def execOrn (m : Bool) (d a b : SReg) (s : State) : Res := aluS s m d a b 4 (fun x y => x ||| ~~~y)
def execPopc (m : Bool) (d a : SReg) (s : State) : Res := aluS1 s m d a 4 popW
def execClz (m : Bool) (d a : SReg) (s : State) : Res := aluS1 s m d a 4 clzW
def execCtz (m : Bool) (d a : SReg) (s : State) : Res := aluS1 s m d a 4 ctzW

/-- imm13 sign-extended to 64 bits (R88). -/
def sx13 (i : BitVec 13) : Word := i.signExtend 64

def execAddImm (m : Bool) (d a : SReg) (i : BitVec 13) (s : State) : Res := aluS1 s m d a 4 (fun x => x + sx13 i)
def execAndImm (m : Bool) (d a : SReg) (i : BitVec 13) (s : State) : Res := aluS1 s m d a 4 (fun x => x &&& sx13 i)
def execOrImm (m : Bool) (d a : SReg) (i : BitVec 13) (s : State) : Res := aluS1 s m d a 4 (fun x => x ||| sx13 i)
def execXorImm (m : Bool) (d a : SReg) (i : BitVec 13) (s : State) : Res := aluS1 s m d a 4 (fun x => x ^^^ sx13 i)
def execShlImm (m : Bool) (d a : SReg) (n : BitVec 6) (s : State) : Res := aluS1 s m d a 4 (fun x => x <<< n.toNat)
def execShrImm (m : Bool) (d a : SReg) (n : BitVec 6) (s : State) : Res := aluS1 s m d a 4 (fun x => x >>> n.toNat)
def execSarImm (m : Bool) (d a : SReg) (n : BitVec 6) (s : State) : Res :=
  aluS1 s m d a 4 (fun x => x.sshiftRight n.toNat)
def execMulImm (m : Bool) (d a : SReg) (i : BitVec 13) (s : State) : Res := aluS1 s m d a 8 (fun x => x * sx13 i)

/-- `shin`: `S[d] := (S[d] << 19) OR imm19` (R89). -/
def execShin (m : Bool) (d : SReg) (i : BitVec 19) (s : State) : Res :=
  aluS1 s m d d 4 (fun x => (x <<< (19 : Nat)) ||| i.setWidth 64)

/-! ## Compares, predicates and select (R90 to R92) -/

/-- A condition of `cmp` (R90). -/
def scondHolds (c : SCond) (a x : Word) : Bool :=
  match c with
  | .eq => decide (a = x)
  | .ne => decide (a ≠ x)
  | .slt => a.slt x
  | .sge => !a.slt x
  | .ult => a.ult x
  | .uge => !a.ult x
  | .tst => decide (a &&& x ≠ 0)
  | .tnz => decide (a &&& x = 0)

def execCmp (m : Bool) (p : PReg) (c : SCond) (a b : SReg) (s : State) : Res :=
  sWord s [a, b] (fun u => retireS s u m 4 [.p p (scondHolds c (u.rs a) (u.rs b))])

def execCmpImm (m : Bool) (p : PReg) (c : SCond) (a : SReg) (i : BitVec 13) (s : State) : Res :=
  sWord s [a] (fun u => retireS s u m 4 [.p p (scondHolds c (u.rs a) (sx13 i))])

/-- A predicate word (R91). -/
def predWord (s : State) (m : Bool) (p pa : PReg) (na : Bool) (pb : PReg) (nb : Bool) (f : Bool → Bool → Bool) : Res :=
  sWord s [] (fun u => retireS s u m 4 [.p p (f (xor (u.rp pa) na) (xor (u.rp pb) nb))])

def execPand (m : Bool) (p pa : PReg) (na : Bool) (pb : PReg) (nb : Bool) (s : State) : Res :=
  predWord s m p pa na pb nb (fun x y => x && y)
def execPor (m : Bool) (p pa : PReg) (na : Bool) (pb : PReg) (nb : Bool) (s : State) : Res :=
  predWord s m p pa na pb nb (fun x y => x || y)
def execPxor (m : Bool) (p pa : PReg) (na : Bool) (pb : PReg) (nb : Bool) (s : State) : Res :=
  predWord s m p pa na pb nb xor

/-- `sel` (R92). -/
def execSel (m : Bool) (d a b : SReg) (neg : Bool) (p : PReg) (s : State) : Res :=
  sWord s [d, a, b] (fun u => retireS s u m 4 [.s d (if xor (u.rp p) neg then u.rs a else u.rs b)])

/-! ## Transfers of control (R93 to R95) -/

/-- An S word retires to index `t` with results of the latency of `add` in flight. -/
def jumpS (s : State) (u : Unit) (m : Bool) (t : Nat) (rs : List FRes) : Res :=
  .next (s.setUnit (u.sDone m (flights s u.id.core 4 rs) t))

/-- A transfer to an index, or the code-range fault (R9, R93). -/
def transferS (s : State) (u : Unit) (m : Bool) (t : Int) (rs : List FRes) : Res :=
  if t < 0 ∨ (sLen s u : Int) ≤ t then trapS s u 0x26 (wrapInt 64 t) 0 else jumpS s u m t.toNat rs

/-- The link register `s60`. -/
def linkReg : SReg := 60

/-- The link value, the index after the word. -/
def linkTo (u : Unit) : FRes := .s linkReg (BitVec.ofNat 64 (u.sS.spc + 1))

/-- `br` (R93). -/
def execBr (m neg : Bool) (p : PReg) (off : BitVec 21) (s : State) : Res :=
  sWord s [] (fun u =>
    if xor (u.rp p) neg then transferS s u m ((u.sS.spc : Int) + off.toInt) [] else jumpS s u m (u.sS.spc + 1) [])

/-- `call` (R93). -/
def execCall (m neg : Bool) (p : PReg) (off : BitVec 21) (s : State) : Res :=
  sWord s [linkReg] (fun u =>
    if xor (u.rp p) neg then transferS s u m ((u.sS.spc : Int) + off.toInt) [linkTo u]
    else jumpS s u m (u.sS.spc + 1) [])

/-- `jr`, `callr`, `ret` (R94). -/
def execJr (m : Bool) (a : SReg) (s : State) : Res :=
  sWord s [a] (fun u => transferS s u m (u.rs a).toNat [])
def execCallr (m : Bool) (a : SReg) (s : State) : Res :=
  sWord s [a, linkReg] (fun u => transferS s u m (u.rs a).toNat [linkTo u])
def execRet (m : Bool) (s : State) : Res :=
  sWord s [linkReg] (fun u => transferS s u m (u.rs linkReg).toNat [])

/-- `loop` (R95). -/
def execLoop (m : Bool) (c : SReg) (off : BitVec 19) (s : State) : Res :=
  sWord s [c] (fun u =>
    if u.rs c = 0 then jumpS s u m (u.sS.spc + 1) []
    else if u.rs c - 1 ≠ 0 then transferS s u m ((u.sS.spc : Int) + off.toInt) [.s c (u.rs c - 1)]
    else jumpS s u m (u.sS.spc + 1) [.s c (u.rs c - 1)])

/-! ## Staging and lane runs (R96 to R99) -/

/-- `lk` (R96). -/
def execLk (m : Bool) (k : BitVec 2) (a : SReg) (s : State) : Res :=
  sWord s [a] (fun u => retireS s u m 4 [.kst k (u.rs a)])

/-- The pending counts after a run with a mask is enqueued or has ended (R13). -/
def bumpCounts (cnt : SMap Nat) (mask : BitVec 4) (f : Nat → Nat) : SMap Nat :=
  (List.range 4).foldl (fun c n => if mask.getLsbD n then SMap.set 0 c n (f (SMap.get 0 c n)) else c) cnt

/-- Entries of the lane queue, the executing run included: an entry frees when its run's `lend` retires (R11). -/
def Unit.queueUse (u : Unit) : Nat := u.lS.queue.length + (if u.lS.running.isSome then 1 else 0)

/-- The next queued run started where none executes (R11, R12). -/
def Unit.startRun (u : Unit) : Unit :=
  match u.lS.running, u.lS.queue with
  | none, r :: t =>
    { u with dirty := [9, 10, 11].foldl setAdd u.dirty,
             lS := { u.lS with running := some r, queue := t, turn := false, slot1 := Slot.idle,
                               slot0 := { Slot.idle with live := true, lpc := r.entry, em := 0xFFFFFFFF } } }
  | _, _ => u

/-- `lq` (R97). -/
def execLq (m : Bool) (mask : BitVec 4) (entry : BitVec 21) (s : State) : Res :=
  sWord s [] (fun u =>
    if lLen s u ≤ entry.toNat then trapS s u 0x26 entry.toNat 0
    else if 8 ≤ u.queueUse then parkAt s u .s .queueFull
    else
      let k := (List.range 4).map (fun n => SMap.get 0 u.sS.kst n)
      let r : QRun := { entry := entry.toNat, k := k, mask := mask, lqSeq := s.fl.seq }
      let v : Unit := { u with lS := { u.lS with queue := u.lS.queue ++ [r] }, dirty := setAdd u.dirty 9,
                               mbCnt := bumpCounts u.mbCnt mask (fun n => n + 1) }
      let s1 := s.setUnit (v.startRun.sDone m [] (u.sS.spc + 1))
      .next { s1 with fl := { s1.fl with seq := s1.fl.seq + 1 } })

/-- `lqw` (R98). -/
def execLqw (m : Bool) (s : State) : Res :=
  sWord s [] (fun u =>
    if u.laneIdle then .next (s.setUnit ({ u with lqwSeq := s.fl.seq }.sDone m [] (u.sS.spc + 1)))
    else parkAt s u .s .laneIdle)

/-- `rdmb` (R99): a variable-latency read of a mailbox. -/
def execRdmb (m : Bool) (d : SReg) (n : BitVec 2) (s : State) : Res :=
  sWord s [d] (fun u => .next (issuePend s u .s m 1 (newPend s u .s (.s d) (.mailbox n) false 1 none)))

/-! ## Special registers (R15 to R20, R100) -/

/-- The special registers of R17. -/
def srListed (n : Nat) : Bool := decide (n ≤ 8) || (decide (0x10 ≤ n) && decide (n ≤ 0x16))

/-- Whether a write of a special register is allowed in the unit's state (R17, R100). -/
def srWritable (u : Unit) (n : Nat) : Bool :=
  (decide (n = 0) && !u.who.isLm) || (decide (0x10 ≤ n) && decide (n ≤ 0x16) && u.inHandler)

/-- The value of a special register other than `tclk` (R17, R18, R100). -/
def srValue (u : Unit) (n : Nat) : Word :=
  match n with
  | 0x00 => if u.who.isLm then 0 else u.fpmode.setWidth 64
  | 0x01 => u.who.rmode
  | 0x02 => if u.who.isLm then 0 else u.who.warpid
  | 0x03 => u.who.wgid
  | 0x04 => u.who.teamid
  | 0x05 => u.who.dieid
  | 0x06 => u.who.gridid
  | 0x07 => if u.who.isLm then u.who.coreid &&& ~~~3 else u.who.coreid
  | 0x10 => u.trap.tcause.setWidth 64
  | 0x11 => u.trap.taddr
  | 0x12 => u.trap.tinfo
  | 0x13 => u.trap.tspc
  | 0x14 => u.trap.tlpc
  | 0x15 => u.trap.tpath
  | 0x16 => if u.who.isLm then 0 else u.trap.flm.setWidth 64
  | _ => 0

/-- `rsr` (R100): `fpmode` waits for the lane side (R16), `tclk` is variable-latency and the leader's (R20). -/
def execRsr (m : Bool) (d n : SReg) (s : State) : Res :=
  sWord s [d] (fun u =>
    let k := n.toNat
    if !srListed k then trapS s u 0x19 k 0
    else if k = 0 ∧ !u.who.isLm ∧ !u.laneIdle then parkAt s u .s .fpmodeWait
    else if k = 8 then
      let key := u.leadKey .s
      if u.who.rset = 0 then .next (issuePend s u .s m 1 (newPend s u .s (.s d) .tclk false 1 none))
      else if !u.takes s .s then
        .next (issuePend s (u.bumpLead .s) .s m 1 (newPend s u .s (.s d) .tclk false 1 (some key)))
      else .next (issuePend s (u.bumpLead .s) .s m 1 (newPend s u .s (.s d) (.leader key .tclk) false 1 none))
    else retireS s u m 6 [.s d (srValue u k)])

/-- A trap register written in a handler, reserved bits ignored (R19). -/
def writeTrapReg (t : Trap) (n : Nat) (x : Word) : Trap :=
  match n with
  | 0x10 => { t with tcause := x.setWidth 32 &&& 0x8003FFFF }
  | 0x11 => { t with taddr := x }
  | 0x12 => { t with tinfo := x }
  | 0x13 => { t with tspc := x }
  | 0x14 => { t with tlpc := x }
  | 0x15 => { t with tpath := x &&& 0xFFFFFFFFFFFFFFDF }
  | 0x16 => { t with flm := x.setWidth 32 }
  | _ => t

/-- `wsr` (R100, R16). -/
def execWsr (m : Bool) (n b : SReg) (s : State) : Res :=
  sWord s [b] (fun u =>
    let k := n.toNat
    let x := u.rs b
    if !srWritable u k then trapS s u 0x19 k x.toNat
    else if k = 0 then
      if !u.laneIdle then parkAt s u .s .fpmodeWait
      else if x.toNat % 8 = 0 ∨ 6 ≤ x.toNat % 8 then trapS s u 0x1A 0 x.toNat
      else .next (s.setUnit ({ u with fpmode := x.setWidth 32 &&& 0x7FFF }.sDone m [] (u.sS.spc + 1)))
    else .next (s.setUnit ({ u with trap := writeTrapReg u.trap k x }.sDone m [] (u.sS.spc + 1))))

/-! ## Traps, breakpoints and the end of a warp (R101 to R107) -/

/-- `trap` (R101): a precise software trap that records the word after it. -/
def execTrap (_m : Bool) (code : BitVec 12) (s : State) : Res :=
  sWord s [] (fun u => takeTrap s u .s 0x20 0 code.toNat 0 true)

/-- `rft` (R102). -/
def execRft (_m : Bool) (s : State) : Res := sWord s [] (fun u => returnFromTrap s u)

/-- Whether a debugger is attached to the unit's context (R103). -/
def debugged (s : State) (u : Unit) : Bool :=
  match SMap.look s.ctxs u.who.ctx with
  | some c => c.debug
  | none => false

/-- A unit whose parked words count as unissued (R277, R287): its arrival at a compare is withdrawn (R305). A slot stays parked at its `ljoin`, and an S
word that has begun to take effect stays as it is (log 22). -/
def Unit.unissued (u : Unit) : Unit :=
  let free (x : Slot) : Slot := { x with park := x.park.filter (fun p => decide (p.why = .join)) }
  { u with sS := { u.sS with park := if u.committed then u.sS.park else none },
           lS := { u.lS with slot0 := free u.lS.slot0, slot1 := free u.lS.slot1 }, assay := { u.assay with at_ := none } }

/-- A unit stopped for the debugger (R103, R136, R287), inside a handler as elsewhere (R279): results written, and the trap registers show
where it stopped. -/
def Unit.stop (u : Unit) (st : Strm) (info : Nat) : Unit :=
  let v := u.landEvery.unissued
  let i := v.trapSlot st
  { v with stopped := true, trap := { v.trap with
    tspc := BitVec.ofNat 64 v.sS.spc, tlpc := BitVec.ofNat 64 (v.slot i).lpc, tpath := v.tpathOf i,
    tinfo := BitVec.ofNat 64 info } }

/-- The siblings of a stopped replica stop at their own boundaries (R305). -/
def stopSiblings (s : State) (u : Unit) : State :=
  if u.who.rset = 0 then s
  else (replicas s u).foldl (fun t v => if v.id = u.id then t else leaveLists (t.setUnit (v.stop .s 0)) v.who.ctx v.id) s

/-- A unit stopped at a word that breaks, with its replicas. -/
def stopAt (s : State) (u : Unit) (st : Strm) (info : Nat) : State :=
  stopSiblings (leaveLists (s.setUnit (u.stop st info)) u.who.ctx u.id) u

/-- `brk` (R103). -/
def execBrk (m : Bool) (i : BitVec 13) (s : State) : Res :=
  sWord s [] (fun u =>
    let v := u.sDone m [] (u.sS.spc + 1)
    .next (if debugged s u then stopAt s v .s i.toNat else s.setUnit v))

/-- `yield` (R104): the S-stream is not eligible in the next mclk, and the warp then counts as the youngest. -/
def execYield (m : Bool) (s : State) : Res :=
  sWord s [] (fun u =>
    let s1 := s.setUnit ({ u with yieldTo := s.clk.now + 2, ageS := s.sch.age }.sDone m [] (u.sS.spc + 1))
    .next { s1 with sch := { s1.sch with age := s1.sch.age + 1 } })

/-- `nop` (R106). -/
def execNop (m : Bool) (s : State) : Res := sWord s [] (fun u => retireS s u m 4 [])

/-- `rand` (R107, R304): fresh bits; the replicas of a warp receive the n-th value drawn for the set. -/
def execRand (m : Bool) (d : SReg) (s : State) : Res :=
  sWord s [d] (fun u =>
    let fresh := Config.drbg s.free
    let s1 := { s with free := s.free + 1 }
    if u.who.rset = 0 then retireS s1 u m 40 [.s d fresh]
    else
      let key := u.leadKey .s
      match leadVal s u.who.rset key with
      | some v => retireS s (u.bumpLead .s) m 40 [.s d (BitVec.ofNat 64 v)]
      | none => retireS (shareVal s1 u.who.rset key fresh.toNat) (u.bumpLead .s) m 40 [.s d fresh])

end Sys2Proof.Machine
end

