-- ==== Sys2Proof/Machine/LaneCtl.lean ====
section
/-! DEFINITION. Control of the lane stream: divergence, joins, jumps, breakpoints and the end of a run: L opcodes 0x68
to 0x6C (R12, R131 to R136). -/

namespace Sys2Proof.Machine

/-- A lane control word: `k` gets the unit, the slot index and the mask of active lanes whose condition holds; a word that
issues holds the port for one mclk. -/
def laneCtl (s : State) (g : Guard) (k : Unit → Bool → Mask → Res) : Res :=
  laneWord s g [] (fun u i t => portAfter (k u i t) u.id.core 1)

/-- The slot of a word retires to `pc` with a new mask and stack. -/
def Unit.moved (u : Unit) (i m : Bool) (pc : Nat) (em : Mask) (stack : List StackE) : Unit :=
  let v := u.lDone i m [] pc
  v.setSlot i { v.slot i with em := em, stack := stack }

/-- A slot that waits until every result of `l` has been written: a marked slot with nothing of its own to write. -/
def waitFor (l : List Fly) : Fly :=
  { due := l.foldl (fun n f => max n f.due) 0, word := 0, res := .em 0xFFFFFFFF }

/-- The part of the results in flight that concerns the lanes of a mask, the writes of an `em` aside. -/
def laneParts (l : List Fly) (m : Mask) : List Fly :=
  l.filterMap (fun f => match f.res with
    | .v r k vs => if k &&& m = 0 then none else some { f with res := .v r (k &&& m) vs }
    | .q r k b => if k &&& m = 0 then none else some { f with res := .q r (k &&& m) b }
    | _ => none)

/-- The results in flight without the lanes of a mask. -/
def withoutLanes (l : List Fly) (m : Mask) : List Fly :=
  l.filterMap (fun f => match f.res with
    | .v r k vs => if k &&& ~~~m = 0 then none else some { f with res := .v r (k &&& ~~~m) vs }
    | .q r k b => if k &&& ~~~m = 0 then none else some { f with res := .q r (k &&& ~~~m) b }
    | _ => some f)

/-- Both slots after a dual divergence (R132): the owner `i` goes on with its lanes, and the other slot starts once every result that
the owner issued has been written, its lanes' results among them. -/
def Unit.diverged (s : State) (u : Unit) (i m : Bool) (t n : Mask) (pc : Nat) (own : Slot) : Unit :=
  let e : StackE := { kind := .pair, mask := own.em, idx := none }
  let v := u.moved i m (own.lpc + 1) n (e :: own.stack)
  let wait := if own.fly.isEmpty then [] else [waitFor own.fly]
  let a := { v.slot i with lanes := n, fly := withoutLanes own.fly t ++ wait, hist := [], histQ := [], start := s.sch.progress, seq0 := s.fl.seq }
  let b := { Slot.idle with live := true, lpc := pc, em := t, lanes := t, marked := !own.fly.isEmpty,
                            fly := laneParts own.fly t ++ wait, start := s.sch.progress, seq0 := s.fl.seq }
  ((v.setSlot i a).setSlot (!i) b).dirt (slotLine (!i))

/-- `lbr` (R132). -/
def execLbr (w : LC) (s : State) : Res :=
  laneCtl s w.g (fun u i t =>
    let x := u.slot i
    let n := x.em &&& ~~~t
    let pc := (x.lpc : Int) + w.off.toInt
    let s1 := spendFree s u
    if t = 0 then .next (s1.setUnit (u.lDone i w.m [] (x.lpc + 1)))
    else if pc < 0 ∨ (lLen s u : Int) ≤ pc then takeTrap s u (slotStrm i) 0x26 (wrapInt 64 pc) 0 0 false
    else if n = 0 then .next (s1.setUnit (u.lDone i w.m [] pc.toNat))
    else if (u.slot (!i)).live then
      if 14 < x.stack.length then takeTrap s u (slotStrm i) 0x27 x.lpc x.stack.length 0 false
      else
        let j : StackE := { kind := .join, mask := x.em, idx := none }
        let p : StackE := { kind := .pending, mask := t, idx := some pc.toNat }
        .next (s1.setUnit (u.moved i w.m (x.lpc + 1) n (p :: j :: x.stack)))
    else if 16 ≤ x.stack.length then takeTrap s u (slotStrm i) 0x27 x.lpc x.stack.length 0 false
    else .next (s1.setUnit (u.diverged s i w.m t n pc.toNat x)))

/-- Whether an access of a stream is not yet done: the drain of a join (R133). -/
def pathHeld (s : State) (u : Unit) (st : Strm) : Bool :=
  s.fl.stores.any (fun p => decide (p.unit = some u.id) && decide (p.strm = st))
    || s.fl.atoms.any (fun p => decide (p.unit = u.id) && decide (p.strm = st))
    || u.pend.any (fun p => p.unbound && decide (p.strm = st))

/-- Results in flight without a pending `emwr`, whose mask a join replaces. -/
def dropEm (l : List Fly) : List Fly := l.filter (fun f => match f.res with | .em _ => false | _ => true)

/-- The slot of an `ljoin` that popped an entry: it issues again once every result of both slots has been written. -/
def Unit.joined (u : Unit) (seq : Nat) (i : Bool) (pc : Nat) (em : Mask) (stack : List StackE) : Unit :=
  let own := dropEm (u.slot i).fly
  let all := own ++ (u.slot (!i)).fly
  let v := u.moved i true pc em stack
  { v.setSlot i { v.slot i with fly := own ++ (if all.isEmpty then [] else [waitFor all]), marked := !all.isEmpty } with
    joinSeq := seq }

/-- Both paths joined: the owner `o` goes on at `pc`, the other slot becomes idle (R133). -/
def Unit.reunited (u : Unit) (seq : Nat) (o : Bool) (pc : Nat) (em : Mask) (stack : List StackE) : Unit :=
  let all := dropEm (u.slot o).fly ++ dropEm (u.slot (!o)).fly
  let v := ((u.moved o true pc em stack).setSlot (!o) Slot.idle).dirt (slotLine (!o))
  { v.setSlot o { v.slot o with fly := all, marked := !all.isEmpty, lanes := 0xFFFFFFFF, hist := [], histQ := [], shade := [], shadeQ := [] } with joinSeq := seq }

/-- Whether a slot is parked at an `ljoin` (R133). -/
def Slot.atJoin (x : Slot) : Bool :=
  x.live && (match x.park with | some p => decide (p.why = .join) | none => false)

/-- A slot that has reached the `ljoin` of its pair entry: the entry's index is that `ljoin`'s (R131). -/
def Slot.reached (x : Slot) : Slot :=
  match x.stack with
  | e :: t => if e.kind = .pair then { x with stack := { e with idx := some x.lpc } :: t } else x
  | [] => x

/-- An `ljoin` that pairs with the other slot: owner `o`. -/
def joinPair (s : State) (u : Unit) (i o : Bool) : Res :=
  let x := u.slot i
  let y := u.slot (!i)
  if !y.atJoin then parkAt s ((u.setSlot i x.reached).dirt (slotLine i)) (slotStrm i) .join
  else if x.lpc ≠ y.lpc then takeTrap s u (slotStrm i) 0x28 x.lpc y.lpc 0 false
  else if pathHeld s u .l0 || pathHeld s u .l1 then parkAt s u (slotStrm i) .release
  else
    let mask := match (u.slot o).stack with | e :: _ => e.mask | [] => 0
    .next (s.setUnit (u.reunited s.fl.seq o (x.lpc + 1) mask ((u.slot o).stack.drop 1)))

/-- `ljoin` (R133). -/
def execLjoin (w : LC) (s : State) : Res :=
  laneCtl s w.g (fun u i _ =>
    let x := u.slot i
    let y := u.slot (!i)
    match x.stack with
    | [] => if y.live then joinPair s u i (!i) else .next (s.setUnit (u.lDone i w.m [] (x.lpc + 1)))
    | e :: rest =>
      match e.kind with
      | .pair => joinPair s u i i
      | .pending =>
        if pathHeld s u (slotStrm i) then parkAt s u (slotStrm i) .release
        else
          let below := match rest with | j :: r => { j with idx := some x.lpc } :: r | [] => []
          .next (s.setUnit (u.joined s.fl.seq i (e.idx.getD 0) e.mask below))
      | .join =>
        if e.idx ≠ some x.lpc then takeTrap s u (slotStrm i) 0x28 x.lpc (e.idx.getD 0) 0 false
        else if pathHeld s u (slotStrm i) then parkAt s u (slotStrm i) .release
        else .next (s.setUnit (u.joined s.fl.seq i (x.lpc + 1) e.mask rest)))

/-- `ljmp` (R134). -/
def execLjmp (w : LC) (s : State) : Res :=
  laneCtl s w.g (fun u i _ =>
    let pc := ((u.slot i).lpc : Int) + w.off.toInt
    if pc < 0 ∨ (lLen s u : Int) ≤ pc then takeTrap s u (slotStrm i) 0x26 (wrapInt 64 pc) 0 0 false
    else .next (s.setUnit (u.lDone i w.m [] pc.toNat)))

/-- `lbrk` (R136). -/
def execLbrk (w : LC) (s : State) : Res :=
  laneCtl s w.g (fun u i t =>
    let v := u.lDone i w.m [] ((u.slot i).lpc + 1)
    let s1 := spendFree s u
    .next (if t ≠ 0 ∧ debugged s u then stopAt s1 v (slotStrm i) 0 else s1.setUnit v))

/-- The unit after its run ends: counts released, and the next queued run started (R11, R13). -/
def Unit.endRun (u : Unit) : Unit :=
  match u.lS.running with
  | none => u
  | some r =>
    let v : Unit := { u with mbCnt := bumpCounts u.mbCnt r.mask (fun n => n - 1), waitL := 0, dirty := [8, 9, 10, 11].foldl setAdd u.dirty }
    let w : Unit := { v with
      lS := { v.lS with running := none, slot0 := Slot.idle, slot1 := Slot.idle, turn := false },
      assay := { v.assay with passed := v.assay.passed.filter (fun e => decide (e.1 = .s)) } }
    w.startRun

/-- `lend` (R12, R135). -/
def execLend (w : LC) (s : State) : Res :=
  laneCtl s w.g (fun u i _ =>
    let x := u.slot i
    let st := slotStrm i
    if u.dual ∨ !x.stack.isEmpty then takeTrap s u st 0x29 x.lpc 0 0 false
    else if !x.fly.isEmpty then parkAt s u st .written
    else if u.pend.any (fun p => p.unbound && decide (p.strm ≠ .s)) then parkAt s u st .results
    else .next (s.setUnit u.endRun))

end Sys2Proof.Machine
end

