-- ==== Sys2Proof/Machine/Trans.lean ====
section
/-! DEFINITION. The elementary functions of R117: exact special values, `.f16` results correctly rounded from a fixed-point
value of far more bits than any rounding needs, and `.f32` results within the stated bound (assumption log 8). -/

namespace Sys2Proof.Machine

/-- ln 2 with 256 fraction bits. -/
def ln2Fix : Nat := 0xB17217F7D1CF79ABC9E3B39803F2F6AF40F343267298B62D8A0D175B8BAAFA2B

/-- pi with 384 fraction bits. -/
def piFix : Nat := 0x3243F6A8885A308D313198A2E03707344A4093822299F31D0082EFA98EC4E6C89452821E638D01377BE5466CF34E90C6C

/-- `n` terms of the exponential series from term `t` at index `k`, with 256 fraction bits. -/
def expGo (n k y t acc : Nat) : Nat :=
  match n with
  | 0 => acc
  | j + 1 => expGo j (k + 1) y (t * y / 2 ^ 256 / k) (acc + t)

/-- exp(y) for y in [0, 1), 256 fraction bits. -/
def expFix (y : Nat) : Nat := expGo 70 1 y (2 ^ 256) 0

/-- A value known to lie strictly between n and n + 1 units of 2^e. -/
def sticky (neg : Bool) (n : Nat) (e : Int) : FVal := .fin neg (2 * n + 1) (e - 1)

/-- 2^x for x = (-1)^neg * m * 2^e. -/
def ex2Val (neg : Bool) (m : Nat) (e : Int) : FVal :=
  if magLt 4096 0 m e then .fin false 1 (if neg then -5000 else 5000)
  else
    let x : Int := sgnInt neg (m * 2 ^ e.toNat)
    let k := (-e).toNat
    let n := x / (2 ^ k : Int)
    let f := (x % (2 ^ k : Int)).toNat
    if f = 0 then .fin false 1 n else sticky false (expFix (f * ln2Fix / 2 ^ k)) (n - 256)

/-- `n` fraction bits of log2 of z in [1, 2), 256 fraction bits. -/
def lg2Go (n z acc : Nat) : Nat :=
  match n with
  | 0 => acc
  | j + 1 =>
    let y := z * z / 2 ^ 256
    if 2 ^ 257 ≤ y then lg2Go j (y / 2) (2 * acc + 1) else lg2Go j y (2 * acc)

/-- log2 of m * 2^e for m ≠ 0. -/
def lg2Val (m : Nat) (e : Int) : FVal :=
  let ex := expOf m e
  if m = 2 ^ Nat.log2 m then ofInt ex
  else
    let fr := lg2Go 120 (m * 2 ^ 256 / 2 ^ Nat.log2 m) 0
    let v : Int := 2 * (ex * 2 ^ 120 + fr) + 1
    .fin (decide (v < 0)) v.natAbs (-121)

/-- 1 / sqrt(m * 2^e) for m ≠ 0: exact where the square root is. -/
def rsqrtVal (m : Nat) (e : Int) : FVal :=
  let m2 := if e % 2 = 0 then m else 2 * m
  let e2 := if e % 2 = 0 then e else e - 1
  let q := isqrt (2 ^ 320 / m2)
  if q * q * m2 = 2 ^ 320 then .fin false q (-160 - e2 / 2) else sticky false q (-160 - e2 / 2)

/-- `n` terms of an alternating series with 384 fraction bits: t the term, k the next index. -/
def altGo (n k : Nat) (x2 t acc : Int) : Int :=
  match n with
  | 0 => acc
  | j + 1 => altGo j (k + 2) x2 (-(t * x2 / 2 ^ 384 / ((k * (k + 1) : Nat) : Int))) (acc + t)

/-- sin and cos of r in [0, pi/2], 384 fraction bits. -/
def sinFix (r : Nat) : Int := altGo 50 2 ((r * r / 2 ^ 384 : Nat) : Int) r 0
def cosFix (r : Nat) : Int := altGo 50 1 ((r * r / 2 ^ 384 : Nat) : Int) (2 ^ 384) 0

/-- sin (or cos) of (-1)^neg * m * 2^e for m ≠ 0. -/
def sinCosVal (co neg : Bool) (m : Nat) (e : Int) : FVal :=
  if magLt m e 1 (-13) ∧ co = false then .fin neg (m * 2 ^ 64 - 1) (e - 64)
  else if magLt m e 1 (-30) ∧ co then .fin false (2 ^ 300 - 1) (-300)
  else
    let x := if 0 ≤ e + 384 then m * 2 ^ (e + 384).toNat else m / 2 ^ (-(e + 384)).toNat
    let r := x % (2 * piFix)
    let q := r / (piFix / 2)
    let y := r % (piFix / 2)
    let k := if co then q + 1 else q
    let v : Int := match k % 4 with
      | 0 => sinFix y
      | 1 => cosFix y
      | 2 => -(sinFix y)
      | _ => -(cosFix y)
    let w := if neg && !co then -v else v
    sticky (decide (w < 0)) w.natAbs (-384)

/-- tanh of (-1)^neg * m * 2^e for m ≠ 0. -/
def tanhVal (neg : Bool) (m : Nat) (e : Int) : FVal :=
  if magLt m e 1 (-13) then .fin neg (m * 2 ^ 64 - 1) (e - 64)
  else if magLt 64 0 m e then .fin neg (2 ^ 300 - 1) (-300)
  else
    let x2 := if 0 ≤ e + 257 then m * 2 ^ (e + 257).toNat else m / 2 ^ (-(e + 257)).toNat
    let n := x2 / ln2Fix
    let ex := expFix (x2 % ln2Fix) * 2 ^ n
    sticky neg ((ex - 2 ^ 256) * 2 ^ 400 / (ex + 2 ^ 256)) (-400)

/-- The functions that R117 approximates in `.f32`. -/
inductive TrFn where
  | rsqrt | ex2 | lg2 | sin | cos | tanh
  deriving DecidableEq, Repr

/-- The number under which `Config.approx` knows a function. -/
def TrFn.num (f : TrFn) : Nat :=
  match f with
  | .rsqrt => 0 | .ex2 => 1 | .lg2 => 2 | .sin => 3 | .cos => 4 | .tanh => 5

/-- The special values of R117, and otherwise the function's value; with the flags of the special value. -/
def trVal (f : TrFn) (a : FVal) : FVal × Flags :=
  match a with
  | .nan s => (.nan false, if s then flInvalid else flNone)
  | .inf neg =>
    match f with
    | .rsqrt => if neg then (.nan false, flInvalid) else (.fin false 0 0, flNone)
    | .ex2 => if neg then (.fin false 0 0, flNone) else (.inf false, flNone)
    | .lg2 => if neg then (.nan false, flInvalid) else (.inf false, flNone)
    | .sin | .cos => (.nan false, flInvalid)
    | .tanh => (.fin neg 1 0, flNone)
  | .fin neg m e =>
    if m = 0 then
      match f with
      | .rsqrt => (.inf neg, flDiv0)
      | .ex2 => (.fin false 1 0, flNone)
      | .lg2 => (.inf true, flDiv0)
      | .sin | .tanh => (.fin neg 0 0, flNone)
      | .cos => (.fin false 1 0, flNone)
    else
      match f with
      | .rsqrt => if neg then (.nan false, flInvalid) else (rsqrtVal m e, flNone)
      | .ex2 => (ex2Val neg m e, flNone)
      | .lg2 => if neg then (.nan false, flInvalid) else (lg2Val m e, flNone)
      | .sin => (sinCosVal false neg m e, flNone)
      | .cos => (sinCosVal true neg m e, flNone)
      | .tanh => (tanhVal neg m e, flNone)

/-- Whether an FP32 result lies within the bound of R117 around the value: 2 ulp, or 2^-21 for `sin` and `cos`. -/
def withinBound (f : TrFn) (v : FVal) (y : Nat) : Bool :=
  match v, Fmt.decode .f32 y with
  | .fin _ m e, .fin s n k =>
    match (fadd .rne (.fin s n k) (fneg v)).1 with
    | .fin _ d c =>
      (match f with
       | .sin | .cos => !magLt 1 (-21) d c
       | _ => !magLt 2 (Fmt.spacing .f32 (expOf m e)) d c)
    | _ => false
  | _, _ => false

/-- A finite result of an infinite input: in `.f32` it is none of the exact cases of R117, so it raises inexact. -/
def infInexact (f : Fmt) (a v : FVal) : Flags :=
  match a, v with
  | .inf _, .fin _ _ _ => if f = .f32 then flInexact else flNone
  | _, _ => flNone

/-- An elementary function on an encoding of `.f16` or `.f32` (R117): result bits and flags. -/
def trFun (g : TrFn) (f : Fmt) (rm : Rm) (s fzi fzo : Bool) (x : Nat) : Nat × Flags :=
  let a := f.decodeFz fzi x
  let r := trVal g a
  if f = .f32 then
    let e := f.encode .rne s fzo r.1
    let y := (Config.approx g.num (BitVec.ofNat 32 x)).toNat
    if (e.2 &&& flInexact ≠ 0) ∧ (e.2 &&& flOverflow = 0) ∧ withinBound g r.1 y then
      let z := f.encode .rne s fzo (f.decode y)
      (z.1, r.2 ||| e.2 ||| z.2)
    else (e.1, r.2 ||| e.2 ||| infInexact f a r.1)
  else
    let e := f.encode rm s fzo r.1
    (e.1, r.2 ||| e.2)

end Sys2Proof.Machine
end

