-- ==== Sys2Proof/Machine/LaneFloat.lean ====
section
/-! DEFINITION. Floating-point lane words: opcodes 0x01 to 0x12, 0x20 to 0x2F (R113 to R117). -/

namespace Sys2Proof.Machine

/-- What a word computes on one element of each of three operands: bits and flags. -/
abbrev ElemFn := Fmt → Rm → Bool → Bool → Bool → Nat → Nat → Nat → Nat × Flags

/-- An exact operation on values, then `round`, `sat` and fzo (R113). -/
def arith (g : Rm → FVal → FVal → FVal → FVal × Flags) : ElemFn := fun f rm s fzi fzo a b c =>
  let r := g rm (f.decodeFz fzi a) (f.decodeFz fzi b) (f.decodeFz fzi c)
  let e := f.encode rm s fzo r.1
  (e.1, r.2 ||| e.2)

def elAdd : ElemFn := arith (fun rm a b _ => fadd rm a b)
def elSub : ElemFn := arith (fun rm a b _ => fadd rm a (fneg b))
def elMul : ElemFn := arith (fun _ a b _ => fmul a b)
def elFma : ElemFn := arith (fun rm a b c => ffma rm a b c)
def elFms : ElemFn := arith (fun rm a b c => ffma rm a b (fneg c))
def elFnma : ElemFn := arith (fun rm a b c => ffma rm (fneg a) b c)
def elDiv : ElemFn := arith (fun _ a b _ => fdiv a b)
def elSqrt : ElemFn := arith (fun _ a _ _ => fsqrt a)
def elRcp : ElemFn := arith (fun _ a _ _ => fdiv (.fin false 1 0) a)
def elMin : ElemFn := fun f _ _ fzi fzo a b _ => fminmax f fzi fzo false true a b
def elMax : ElemFn := fun f _ _ fzi fzo a b _ => fminmax f fzi fzo true true a b
def elMinp : ElemFn := fun f _ _ fzi fzo a b _ => fminmax f fzi fzo false false a b
def elMaxp : ElemFn := fun f _ _ fzi fzo a b _ => fminmax f fzi fzo true false a b

/-- `min(max(a, b), c)` (R113). -/
def elClamp : ElemFn := fun f _ _ fzi fzo a b c =>
  let r := fminmax f fzi false true true a b
  let q := fminmax f fzi fzo false true r.1 c
  (q.1, r.2 ||| q.2)

/-- Sign bits replaced (R69, R113). -/
def elAbs : ElemFn := fun f _ _ _ _ a _ _ => (a % 2 ^ (f.width - 1), flNone)
def elNeg : ElemFn := fun f _ _ _ _ a _ _ => (a ^^^ 2 ^ (f.width - 1), flNone)
def elCsgn : ElemFn := fun f _ _ _ _ a b _ =>
  (a % 2 ^ (f.width - 1) + b / 2 ^ (f.width - 1) % 2 * 2 ^ (f.width - 1), flNone)

/-- Rounding to an integral value, with the word's saturation; neither inexact nor overflow is raised (R113). -/
def elRint : ElemFn := fun f rm sat fzi fzo a _ _ =>
  let r := frint rm (f.decodeFz fzi a)
  let e := f.encode rm sat fzo r.1
  (e.1, r.2 ||| (e.2 &&& ~~~(flInexact ||| flOverflow)))

/-- The functions of R117. -/
def elTr (g : TrFn) : ElemFn := fun f rm s fzi fzo a _ _ => trFun g f rm s fzi fzo a

/-- `a` elements with flags for each lane. -/
def lanesEl (u : Unit) (w : LA) (f : Fmt) (fn : ElemFn) (l : Nat) : Nat × Flags :=
  let e (x : Sel) : List Nat := elemsOf f.width (elCount w.ty) (u.opVal w.ty w.imm.toNat x l)
  let rs := ((e w.a).zip ((e w.b).zip (e w.c))).map (fun p => fn f (u.effRm w.rnd) w.sat u.fzi u.fzo p.1 p.2.1 p.2.2)
  (joinElems f.width (rs.map (fun r => r.1)), rs.foldl (fun a r => a ||| r.2) flNone)

/-- The registers that a word of `n` value operands reads, and those it writes. -/
def laRegs (w : LA) (n : Nat) : List (Nat × Nat) :=
  selRegs w.dst (tyRegs w.ty) ++ selRegs w.a (tyRegs w.ty) ++ (if 2 ≤ n then selRegs w.b (tyRegs w.ty) else [])
    ++ (if 3 ≤ n then selRegs w.c (tyRegs w.ty) else [])

/-- A floating word of `n` operands that writes values (R113, R116, R117). -/
def floatWord (s : State) (w : LA) (n iv lat : Nat) (fn : ElemFn) : Res :=
  laneWord s w.g (laRegs w n) (fun u i act =>
    match tyFmt w.ty with
    | none => retireL s u i w.m iv lat []
    | some f =>
      let r := (lanesOf act).map (fun l => (l, lanesEl u w f fn l))
      flagGate s u i (laneFlags (r.map (fun e => (e.1, e.2.2)))) (fun v =>
        writeLane s v i w.m act iv lat w.dst (tyRegs w.ty) (r.map (fun e => (e.1, e.2.1)))))

/-- A floating word that writes a mask: bit l is set when every element passes (R114). -/
def floatTest (s : State) (w : LA) (n iv lat : Nat) (fn : Fmt → Bool → Nat → Nat → Bool × Flags) : Res :=
  laneWord s w.g (laRegs w n) (fun u i act =>
    match tyFmt w.ty with
    | none => retireL s u i w.m iv lat []
    | some f =>
      let r := (lanesOf act).map (fun l =>
        let e (x : Sel) : List Nat := elemsOf f.width (elCount w.ty) (u.opVal w.ty w.imm.toNat x l)
        let q := ((e w.a).zip (e w.b)).map (fun p => fn f u.fzi p.1 p.2)
        (l, q.all (fun x => x.1), q.foldl (fun a x => a ||| x.2) flNone))
      flagGate s u i (laneFlags (r.map (fun e => (e.1, e.2.2)))) (fun v =>
        writeMask s v i w.m act iv lat w.dst (maskOf (fun l => r.any (fun e => decide (e.1 = l) && e.2.1)))))

/-- A comparison of two elements (R114). -/
def elCmp (cond : Nat) : Fmt → Bool → Nat → Nat → Bool × Flags := fun f fzi a b =>
  fcompare cond (f.decodeFz fzi a) (f.decodeFz fzi b)

def execLaneAddF (w : LA) (s : State) : Res := floatWord s w 2 1 4 elAdd
def execLaneSubF (w : LA) (s : State) : Res := floatWord s w 2 1 4 elSub
def execLaneMulF (w : LA) (s : State) : Res := floatWord s w 2 1 4 elMul
def execLaneFma (w : LA) (s : State) : Res := floatWord s w 3 1 4 elFma
def execLaneFms (w : LA) (s : State) : Res := floatWord s w 3 1 4 elFms
def execLaneFnma (w : LA) (s : State) : Res := floatWord s w 3 1 4 elFnma
def execLaneMinF (w : LA) (s : State) : Res := floatWord s w 2 1 4 elMin
def execLaneMaxF (w : LA) (s : State) : Res := floatWord s w 2 1 4 elMax
def execLaneMinp (w : LA) (s : State) : Res := floatWord s w 2 1 4 elMinp
def execLaneMaxp (w : LA) (s : State) : Res := floatWord s w 2 1 4 elMaxp
def execLaneAbsF (w : LA) (s : State) : Res := floatWord s w 1 1 4 elAbs
def execLaneNegF (w : LA) (s : State) : Res := floatWord s w 1 1 4 elNeg
def execLaneClamp (w : LA) (s : State) : Res := floatWord s w 3 1 4 elClamp
def execLaneCsgn (w : LA) (s : State) : Res := floatWord s w 2 1 4 elCsgn
def execLaneRint (w : LA) (s : State) : Res := floatWord s w 1 1 4 elRint
def execLaneAddF64 (w : LA) (s : State) : Res := floatWord s w 2 8 12 elAdd
def execLaneSubF64 (w : LA) (s : State) : Res := floatWord s w 2 8 12 elSub
def execLaneMulF64 (w : LA) (s : State) : Res := floatWord s w 2 8 12 elMul
def execLaneFmaF64 (w : LA) (s : State) : Res := floatWord s w 3 8 12 elFma
def execLaneMinF64 (w : LA) (s : State) : Res := floatWord s w 2 8 12 elMin
def execLaneMaxF64 (w : LA) (s : State) : Res := floatWord s w 2 8 12 elMax
def execLaneDivF64 (w : LA) (s : State) : Res := floatWord s w 2 32 64 elDiv
def execLaneSqrtF64 (w : LA) (s : State) : Res := floatWord s w 1 32 64 elSqrt
def execLaneRcp (w : LA) (s : State) : Res := floatWord s w 1 2 12 elRcp
def execLaneRsqrt (w : LA) (s : State) : Res := floatWord s w 1 2 12 (elTr .rsqrt)
def execLaneSqrt (w : LA) (s : State) : Res := floatWord s w 1 2 12 elSqrt
def execLaneEx2 (w : LA) (s : State) : Res := floatWord s w 1 2 12 (elTr .ex2)
def execLaneLg2 (w : LA) (s : State) : Res := floatWord s w 1 2 12 (elTr .lg2)
def execLaneSin (w : LA) (s : State) : Res := floatWord s w 1 2 12 (elTr .sin)
def execLaneCos (w : LA) (s : State) : Res := floatWord s w 1 2 12 (elTr .cos)
def execLaneTanh (w : LA) (s : State) : Res := floatWord s w 1 2 12 (elTr .tanh)
def execLaneDivF32 (w : LA) (s : State) : Res := floatWord s w 2 8 24 elDiv

/-- `cmp` on floating types writes a mask (R114). -/
def execLaneCmpF (w : LA) (s : State) : Res := floatTest s w 2 1 4 (elCmp w.md.toNat)
def execLaneCmpF64 (w : LA) (s : State) : Res := floatTest s w 2 8 12 (elCmp w.md.toNat)

/-- `fcls` reads the raw encoding and raises nothing (R114). -/
def execLaneFcls (w : LA) (s : State) : Res :=
  floatTest s w 1 1 4 (fun f _ a _ => (w.imm.getLsbD (f.classBit a), flNone))

/-- `dot2`: C + A0 * B0 + A1 * B1 exactly, rounded once into FP32 (R115). -/
def elDot2 (f : Fmt) (rm : Rm) (sat fzi fzo : Bool) (a b : List Nat) (c : Nat) : Nat × Flags :=
  let v (l : List Nat) (k : Nat) : FVal := f.decodeFz fzi (l.getD k 0)
  let p0 := fmul (v a 0) (v b 0)
  let p1 := fmul (v a 1) (v b 1)
  let q := fadd rm p0.1 p1.1
  let r := fadd rm (Fmt.decodeFz .f32 fzi c) q.1
  let e := Fmt.encode .f32 rm sat fzo r.1
  (e.1, p0.2 ||| p1.2 ||| q.2 ||| r.2 ||| e.2)

def execLaneDot2 (w : LA) (s : State) : Res :=
  laneWord s w.g (laRegs w 3) (fun u i act =>
    match tyFmt w.ty with
    | none => retireL s u i w.m 1 6 []
    | some f =>
      let r := (lanesOf act).map (fun l => (l, elDot2 f (u.effRm w.rnd) w.sat u.fzi u.fzo
        (elemsOf 16 2 (u.opVal w.ty w.imm.toNat w.a l)) (elemsOf 16 2 (u.opVal w.ty w.imm.toNat w.b l))
        (u.opVal .f32 w.imm.toNat w.c l)))
      flagGate s u i (laneFlags (r.map (fun e => (e.1, e.2.2)))) (fun v =>
        writeLane s v i w.m act 1 6 w.dst 1 (r.map (fun e => (e.1, e.2.1)))))

end Sys2Proof.Machine
end

