-- ==== Sys2Proof/Machine/LaneInt.lean ====
section
/-! DEFINITION. Integer, logic, shift and bit lane words: opcodes 0x30 to 0x3D (R118 to R120). -/

namespace Sys2Proof.Machine

/-- What a word computes on one element: width, signedness, saturation and three elements. -/
abbrev IntFn := Nat → Bool → Bool → Nat → Nat → Nat → Nat

/-- An exact integer result clamped or wrapped (R67). -/
def fitInt (w : Nat) (sgn sat : Bool) (x : Int) : Nat := if sat then clampInt sgn w x else wrapInt w x

def inAdd : IntFn := fun w g s a b _ => fitInt w g s (readInt g w a + readInt g w b)
def inSub : IntFn := fun w g s a b _ => fitInt w g s (readInt g w a - readInt g w b)
def inMul : IntFn := fun w g s a b _ => fitInt w g s (readInt g w a * readInt g w b)
def inMulhi : IntFn := fun w g _ a b _ => wrapInt w (readInt g w a * readInt g w b / (2 ^ w : Int))
def inMad : IntFn := fun w g s a b c => fitInt w g s (readInt g w a * readInt g w b + readInt g w c)
def inMin : IntFn := fun w g _ a b _ => wrapInt w (min (readInt g w a) (readInt g w b))
def inMax : IntFn := fun w g _ a b _ => wrapInt w (max (readInt g w a) (readInt g w b))
def inAnd : IntFn := fun _ _ _ a b _ => a &&& b
def inOr : IntFn := fun _ _ _ a b _ => a ||| b
def inXor : IntFn := fun _ _ _ a b _ => a ^^^ b
def inAndn : IntFn := fun w _ _ a b _ => a &&& (2 ^ w - 1 - b % 2 ^ w)
/-- The count is the low log2(w) bits of the element of b (R119). -/
def inShl : IntFn := fun w _ _ a b _ => a * 2 ^ (b % w) % 2 ^ w
def inShr : IntFn := fun w g _ a b _ => wrapInt w (readInt g w a / (2 ^ (b % w) : Int))
def inAbs : IntFn := fun w _ _ a _ _ => wrapInt w (readInt true w a).natAbs
def inNeg : IntFn := fun w _ _ a _ _ => wrapInt w (-(readInt true w a))

/-- The number of 1 bits among the low `w` of `v`. -/
def popBits (w v : Nat) : Nat :=
  match w with
  | 0 => 0
  | k + 1 => v % 2 + popBits k (v / 2)

/-- Leading zeros of a `w`-bit value; `w` for 0. -/
def clzBits (w v : Nat) : Nat := if v = 0 then w else w - 1 - Nat.log2 v

/-- Trailing zeros of a `w`-bit value; `w` for 0. -/
def ctzBits (w v : Nat) : Nat :=
  match w with
  | 0 => 0
  | k + 1 => if v % 2 = 1 then 0 else 1 + ctzBits k (v / 2)

/-- The low `w` bits in reverse order. -/
def revBits (w v : Nat) : Nat :=
  match w with
  | 0 => 0
  | k + 1 => v % 2 * 2 ^ k + revBits k (v / 2)

def inPopc : IntFn := fun w _ _ a _ _ => popBits w a
def inClz : IntFn := fun w _ _ a _ _ => clzBits w a
def inCtz : IntFn := fun w _ _ a _ _ => ctzBits w a
def inBrev : IntFn := fun w _ _ a _ _ => revBits w a

/-- The elements of an operand. -/
def Unit.opElems (u : Unit) (w : LA) (x : Sel) (l : Nat) : List Nat :=
  elemsOf (elBits w.ty) (elCount w.ty) (u.opVal w.ty w.imm.toNat x l)

/-- The registers of an integer word. -/
def intRegs (w : LA) (n : Nat) : List (Nat × Nat) :=
  selRegs w.dst (tyRegs w.ty) ++ selRegs w.a (tyRegs w.ty) ++ (if 2 ≤ n then selRegs w.b (tyRegs w.ty) else [])
    ++ (if 3 ≤ n then selRegs w.c (tyRegs w.ty) else [])

/-- Issue interval of an integer word: 2 for 64-bit types (R111). -/
def wide (t : LTy) : Bool := decide (tyRegs t = 2)

/-- An integer word of `n` operands; `slow` words have 6 mclk in every type (R111). -/
def intWord (s : State) (w : LA) (n : Nat) (slow : Bool) (fn : IntFn) : Res :=
  laneWord s w.g (intRegs w n) (fun u i act =>
    let e := elBits w.ty
    let vals := (lanesOf act).map (fun l => (l, joinElems e (((u.opElems w w.a l).zip ((u.opElems w w.b l).zip (u.opElems w w.c l))).map
      (fun p => fn e (tySigned w.ty) w.sat p.1 p.2.1 p.2.2))))
    writeLane s u i w.m act (if wide w.ty then 2 else 1) (if slow || wide w.ty then 6 else 4) w.dst (tyRegs w.ty) vals)

def execLaneAddI (w : LA) (s : State) : Res := intWord s w 2 false inAdd
def execLaneSubI (w : LA) (s : State) : Res := intWord s w 2 false inSub
def execLaneMulI (w : LA) (s : State) : Res := intWord s w 2 true inMul
def execLaneMulhi (w : LA) (s : State) : Res := intWord s w 2 true inMulhi
def execLaneMad (w : LA) (s : State) : Res := intWord s w 3 true inMad
def execLaneMinI (w : LA) (s : State) : Res := intWord s w 2 false inMin
def execLaneMaxI (w : LA) (s : State) : Res := intWord s w 2 false inMax
def execLaneAnd (w : LA) (s : State) : Res := intWord s w 2 false inAnd
def execLaneOr (w : LA) (s : State) : Res := intWord s w 2 false inOr
def execLaneXor (w : LA) (s : State) : Res := intWord s w 2 false inXor
def execLaneAndn (w : LA) (s : State) : Res := intWord s w 2 false inAndn
def execLaneShl (w : LA) (s : State) : Res := intWord s w 2 false inShl
def execLaneShr (w : LA) (s : State) : Res := intWord s w 2 false inShr
def execLanePopc (w : LA) (s : State) : Res := intWord s w 1 true inPopc
def execLaneClz (w : LA) (s : State) : Res := intWord s w 1 true inClz
def execLaneCtz (w : LA) (s : State) : Res := intWord s w 1 true inCtz
def execLaneBrev (w : LA) (s : State) : Res := intWord s w 1 true inBrev
def execLaneAbsI (w : LA) (s : State) : Res := intWord s w 1 false inAbs
def execLaneNegI (w : LA) (s : State) : Res := intWord s w 1 false inNeg

/-- An integer comparison by its code in R61. -/
def intCmp (cond : Nat) (a b : Int) : Bool :=
  match cond with
  | 0 => decide (a = b)
  | 1 => decide (a ≠ b)
  | 2 => decide (a < b)
  | 3 => decide (a ≤ b)
  | 4 => decide (b < a)
  | _ => decide (b ≤ a)

/-- `cmp` on integer types: bit l is set when every element passes (R120). -/
def execLaneCmpI (w : LA) (s : State) : Res :=
  laneWord s w.g (selRegs w.a (tyRegs w.ty) ++ selRegs w.b (tyRegs w.ty)) (fun u i act =>
    let e := elBits w.ty
    let ok (l : Nat) : Bool := ((u.opElems w w.a l).zip (u.opElems w w.b l)).all (fun p =>
      intCmp w.md.toNat (readInt (tySigned w.ty) e p.1) (readInt (tySigned w.ty) e p.2))
    writeMask s u i w.m act (if wide w.ty then 2 else 1) (if wide w.ty then 6 else 4) w.dst (maskOf ok))

/-- The byte dot product (R120). -/
def bdotVal (mode a b c : Nat) : Nat :=
  let sa := decide (mode = 1) || decide (mode = 2)
  let sb := decide (mode = 1) || decide (mode = 3)
  wrapInt 32 (((elemsOf 8 4 a).zip (elemsOf 8 4 b)).foldl (fun x p => x + readInt sa 8 p.1 * readInt sb 8 p.2) (c : Int))

def execLaneBdot (w : LA) (s : State) : Res :=
  laneWord s w.g (intRegs w 3) (fun u i act =>
    let v (x : Sel) (l : Nat) : Nat := u.opVal w.ty w.imm.toNat x l
    writeLane s u i w.m act 1 6 w.dst 1 ((lanesOf act).map (fun l => (l, bdotVal w.md.toNat (v w.a l) (v w.b l) (v w.c l)))))

end Sys2Proof.Machine
end

