-- ==== Sys2Proof/Machine/LaneMove.lean ====
section
/-! DEFINITION. Moves, swizzles, polls, reductions and mask lane words: opcodes 0x50 to 0x56 and 0x60 to 0x63 (R124 to
R130). -/

namespace Sys2Proof.Machine

/-- `mov` copies A, also to a mailbox (R124). -/
def execLaneMov (w : LA) (s : State) : Res :=
  laneWord s w.g (selRegs w.dst (tyRegs w.ty) ++ selRegs w.a (tyRegs w.ty)) (fun u i act =>
    writeLane s u i w.m act 1 4 w.dst (tyRegs w.ty) ((lanesOf act).map (fun l => (l, u.opVal w.ty w.imm.toNat w.a l))))

/-- `sel` writes A where mask c is set and B otherwise (R124). -/
def execLaneSel (w : LA) (s : State) : Res :=
  laneWord s w.g (intRegs w 2) (fun u i act =>
    let c := u.maskVal s.free i w.c
    writeLane s u i w.m act 1 4 w.dst (tyRegs w.ty) ((lanesOf act).map (fun l =>
      (l, u.opVal w.ty w.imm.toNat (if c.getLsbD l then w.a else w.b) l))))

/-- The source lane of `lsw` (R125). -/
def swizzle (mode g l x : Nat) : Nat :=
  let base := l - l % g
  match mode with
  | 0 => base + x % g
  | 1 => base + (l + x) % g
  | 2 => l ^^^ (x % g)
  | _ => base + (g - 1) - (l - base)

/-- `lsw`, lane swizzle (R125): the source lane is read whatever its activity. -/
def execLaneLsw (w : LA) (s : State) : Res :=
  let n := tyRegs w.ty
  let mode := w.md.toNat % 4
  let g := 2 ^ (5 - w.md.toNat / 4 % 8)
  laneWord s w.g (selRegs w.dst n ++ selRegs w.a n ++ (if mode = 3 then [] else selRegs w.b 1)) (fun u i act =>
    let r := match w.a with | .v r => r.toNat | _ => 0
    let val (l : Nat) : Nat :=
      let src := swizzle mode g l (u.opVal .b32 w.imm.toNat w.b l % 32)
      u.crossV s.free i r n src
    writeLane s u i w.m act (if wide w.ty then 2 else 1) 6 w.dst n ((lanesOf act).map (fun l => (l, val l))))

/-- `bsel`, byte select (R126). -/
def bselVal (a b c : Nat) : Nat :=
  joinElems 8 ((elemsOf 8 4 c).map (fun x =>
    let y := fld (a + b * 2 ^ 32) (8 * (x % 8)) 8
    match x / 8 % 4 with
    | 0 => y
    | 1 => 0
    | 2 => 0xFF
    | _ => if 128 ≤ y then 0xFF else 0))

def execLaneBsel (w : LA) (s : State) : Res :=
  laneWord s w.g (intRegs w 3) (fun u i act =>
    let v (x : Sel) (l : Nat) : Nat := u.opVal w.ty w.imm.toNat x l
    writeLane s u i w.m act 1 6 w.dst 1 ((lanesOf act).map (fun l => (l, bselVal (v w.a l) (v w.b l) (v w.c l)))))

/-- `poll` over the active lanes (R127). -/
def execLanePoll (w : LA) (s : State) : Res :=
  laneWord s w.g (selRegs w.dst 1 ++ selRegs w.a 1) (fun u i act =>
    let pr : Mask := match w.a with
      | .q _ | .em | .flm => u.maskVal s.free i w.a
      | _ => maskOf (fun l => decide (u.opVal .b32 0 w.a l ≠ 0))
    let hit := lanesOf (act &&& pr)
    let all (b : Bool) : Mask := if b then 0xFFFFFFFF else 0
    let same (v : Nat) : List (Nat × Nat) := (lanesOf act).map (fun l => (l, v))
    if act = 0 then retireL s u i w.m 1 2 []
    else match w.md.toNat with
      | 0 => writeMask s u i w.m act 1 2 w.dst (all (!hit.isEmpty))
      | 1 => writeMask s u i w.m act 1 2 w.dst (all (decide (act &&& ~~~pr = 0)))
      | 2 => writeMask s u i w.m act 1 2 w.dst pr
      | 3 => writeLane s u i w.m act 1 2 w.dst 1 (same hit.length)
      | _ => writeLane s u i w.m act 1 2 w.dst 1 (same (hit.headD 32)))

/-! ## Reductions (R128) -/

/-- One step of a reduction on a type: the combined value and its flags. -/
def combine (t : LTy) (op : Nat) (fzi fzo : Bool) (x y : Nat) : Nat × Flags :=
  let e := elBits t
  let r := ((elemsOf e (elCount t) x).zip (elemsOf e (elCount t) y)).map (fun p =>
    match tyFmt t with
    | some f =>
      (match op with
       | 0 =>
         let a := fadd .rne (f.decodeFz fzi p.1) (f.decodeFz fzi p.2)
         let q := f.encode .rne false fzo a.1
         (q.1, a.2 ||| q.2)
       | 1 => fminmax f fzi fzo false true p.1 p.2
       | _ => fminmax f fzi fzo true true p.1 p.2)
    | none =>
      ((match op with
        | 0 => (p.1 + p.2) % 2 ^ e
        | 1 => inMin e (tySigned t) false p.1 p.2 0
        | 2 => inMax e (tySigned t) false p.1 p.2 0
        | 3 => p.1 &&& p.2
        | 4 => p.1 ||| p.2
        | _ => p.1 ^^^ p.2), flNone))
  (joinElems e (r.map (fun q => q.1)), r.foldl (fun a q => a ||| q.2) flNone)

/-- A node of the reduction tree: its lanes and value. -/
abbrev Node := Option (Mask × Nat)

/-- One level of the tree: nodes combined in pairs, with the flags of each step. -/
def treeLevel (f : Nat → Nat → Nat × Flags) (l : List Node) : List Node × List (Mask × Flags) :=
  match l with
  | a :: b :: t =>
    let r := treeLevel f t
    (match a, b with
     | some (m, x), some (n, y) => (some (m ||| n, (f x y).1) :: r.1, (m ||| n, (f x y).2) :: r.2)
     | some x, none => (some x :: r.1, r.2)
     | none, y => (y :: r.1, r.2))
  | [a] => ([a], [])
  | [] => ([], [])

/-- `n` levels. -/
def treeGo (f : Nat → Nat → Nat × Flags) (n : Nat) (l : List Node) (fl : List (Mask × Flags)) : Node × List (Mask × Flags) :=
  match n with
  | 0 => (l.headD none, fl)
  | k + 1 => let r := treeLevel f l
    treeGo f k r.1 (fl ++ r.2)

/-- The value of an operand with only the elements of its type. -/
def Unit.redVal (u : Unit) (w : LA) (l : Nat) : Nat := joinElems (elBits w.ty) (u.opElems w w.a l)

/-- Issue interval of `red` and `scan` (R111). -/
def redIv (t : LTy) : Nat := if wide t then 4 else 2

/-- `red` (R128). -/
def execLaneRed (w : LA) (s : State) : Res :=
  laneWord s w.g (selRegs w.dst (tyRegs w.ty) ++ selRegs w.a (tyRegs w.ty)) (fun u i act =>
    let leaf (l : Nat) : Node := if act.getLsbD l then some (BitVec.ofNat 32 (2 ^ l), u.redVal w l) else none
    let r := treeGo (combine w.ty w.md.toNat u.fzi u.fzo) 5 ((List.range 32).map leaf) []
    match r.1 with
    | none => retireL s u i w.m (redIv w.ty) 12 []
    | some (_, x) => flagGate s u i r.2 (fun v =>
        writeLane s v i w.m act (redIv w.ty) 12 w.dst (tyRegs w.ty) ((lanesOf act).map (fun l => (l, x)))))

/-- The running prefix: what lane l gets, and the flags of each step with the lanes at or below it. -/
def scanGo (f : Nat → Nat → Nat × Flags) (l : List (Nat × Nat)) (acc : Node) : List (Nat × Nat) × List (Mask × Flags) :=
  match l with
  | [] => ([], [])
  | (k, x) :: t =>
    match acc with
    | none =>
      let r := scanGo f t (some (BitVec.ofNat 32 (2 ^ k), x))
      ((k, x) :: r.1, r.2)
    | some (m, y) =>
      let c := f y x
      let n := m ||| BitVec.ofNat 32 (2 ^ k)
      let r := scanGo f t (some (n, c.1))
      ((k, c.1) :: r.1, (n, c.2) :: r.2)

/-- `scan` (R128). -/
def execLaneScan (w : LA) (s : State) : Res :=
  laneWord s w.g (selRegs w.dst (tyRegs w.ty) ++ selRegs w.a (tyRegs w.ty)) (fun u i act =>
    let r := scanGo (combine w.ty w.md.toNat u.fzi u.fzo) ((lanesOf act).map (fun l => (l, u.redVal w l))) none
    flagGate s u i r.2 (fun v => writeLane s v i w.m act (redIv w.ty) 12 w.dst (tyRegs w.ty) r.1))

/-! ## Mask words (R129, R130) -/

/-- A mask word of two mask operands. -/
def maskWord (s : State) (w : LA) (f : Mask → Mask → Mask) : Res :=
  laneWord s w.g [] (fun u i act =>
    writeMask s u i w.m act 1 2 w.dst (f (u.maskVal s.free i w.a) (u.maskVal (s.free + 128) i w.b)))

def execQand (w : LA) (s : State) : Res := maskWord s w (fun a b => a &&& b)
def execQor (w : LA) (s : State) : Res := maskWord s w (fun a b => a ||| b)
def execQxor (w : LA) (s : State) : Res := maskWord s w (fun a b => a ^^^ b)
def execQandn (w : LA) (s : State) : Res := maskWord s w (fun a b => a &&& ~~~b)

/-- `qmov` (R129). -/
def execQmov (w : LA) (s : State) : Res :=
  laneWord s w.g (selRegs w.a 1) (fun u i act =>
    writeMask s u i w.m act 1 2 w.dst (maskOf (fun l => decide (u.opVal w.ty w.imm.toNat w.a l ≠ 0))))

/-- `qcnt` counts the whole mask (R129). -/
def execQcnt (w : LA) (s : State) : Res :=
  laneWord s w.g (selRegs w.dst 1) (fun u i act =>
    let n := popBits 32 (u.maskVal s.free i w.a).toNat
    writeLane s u i w.m act 1 2 w.dst 1 ((lanesOf act).map (fun l => (l, n))))

/-- `emwr`: `em` AND a of the issuing slot, when the result lands (R130, R22). -/
def execEmwr (w : LA) (s : State) : Res :=
  laneWord s w.g [] (fun u i _ => retireL s u i w.m 1 2 [.em (u.maskVal s.free i w.a)])

end Sys2Proof.Machine
end

