-- ==== Sys2Proof/Machine/MemWords.lean ====
section
/-! DEFINITION. Loads, stores and atomics of both streams: majors 0x1C to 0x22 and L opcodes 0x70 to 0x76 (R137 to R147). -/

namespace Sys2Proof.Machine

/-! ## S words -/

/-- Bytes of an SM type. -/
def mtySize (t : MTy) : Nat :=
  match t with
  | .u8 | .s8 => 1
  | .u16 | .s16 => 2
  | .u32 | .s32 => 4
  | .b64 => 8

/-- Whether an SM type sign-extends. -/
def mtySigned (t : MTy) : Bool :=
  match t with
  | .s8 | .s16 | .s32 => true
  | _ => false

/-- The memory spaces of loads and stores. -/
inductive Space where
  | pad | gsa | hnd
  deriving DecidableEq, Repr

/-- The check of an S access (R137): `kind` of R364, which is also the window kind. -/
def checkS (s : State) (u : Unit) (sp : Space) (a : SReg) (off n kind : Nat) : Chk :=
  let x := (u.rs a).toNat
  match sp with
  | .pad => checkPad s u ((x + off * n) % 2 ^ 24) n kind
  | .gsa => checkGsa s u.who.ctx ((x + off * n) % 2 ^ 32) n kind kind
  | .hnd => checkHnd s u (x % 2 ^ 16) (x / 2 ^ 32 + off * n) n kind

/-- The latency of an immediate S load (R140). -/
def Space.latS (sp : Space) : Nat := match sp with | .hnd => 16 | _ => 6

/-- An S load (R145). -/
def loadS (s : State) (sp : Space) (m : Bool) (d a : SReg) (ty : MTy) (o : Order) (rb : Bool) (off : Nat) : Res :=
  sWord s [d, a] (fun u =>
    checked s u .s [(0, checkS s u sp a off (mtySize ty) 0)] (fun l =>
      let w : LoadW := { m := m, dst := .s d, acq := acqOrd o, rb := rb, act := 1, size := (mtySize ty), sgn := mtySigned ty,
                         lat := sp.latS, gsa := decide (sp = .gsa) }
      if sp = .gsa then tsGate s u .s 0 false .wg l (fun ts => issueLoad s u .s w l ts) else issueLoad s u .s w l (fun t => t)))

/-- An S store (R145). -/
def storeS (s : State) (sp : Space) (m : Bool) (d a : SReg) (ty : MTy) (o : Order) (sc : Scope) (ef : Bool) (off : Nat) : Res :=
  sWord s [d, a] (fun u =>
    checked s u .s [(0, checkS s u sp a off (mtySize ty) 1)] (fun l =>
      let accs := l.map (fun e => (e.1, e.2, (u.rs d).toNat))
      let w : StoreW := { m := m, ef := ef, o := o, sc := sc, act := 0, size := (mtySize ty), lane := false,
                          pad := decide (sp = .pad) }
      if sp = .gsa then tsGate s u .s 1 (relOrd o) sc l (fun ts => issueStore s u .s w accs ts) else localStore s u .s w accs))

def execLdp (m : Bool) (d a : SReg) (ty : MTy) (o : Order) (_sc : Scope) (rb : Bool) (off : BitVec 4) (s : State) : Res :=
  loadS s .pad m d a ty o rb off.toNat
def execStp (m : Bool) (d a : SReg) (ty : MTy) (o : Order) (sc : Scope) (ef : Bool) (off : BitVec 4) (s : State) : Res :=
  storeS s .pad m d a ty o sc ef off.toNat
def execLdg (m : Bool) (d a : SReg) (ty : MTy) (o : Order) (_sc : Scope) (rb : Bool) (off : BitVec 4) (s : State) : Res :=
  loadS s .gsa m d a ty o rb off.toNat
def execStg (m : Bool) (d a : SReg) (ty : MTy) (o : Order) (sc : Scope) (ef : Bool) (off : BitVec 4) (s : State) : Res :=
  storeS s .gsa m d a ty o sc ef off.toNat
def execLdh (m : Bool) (d a : SReg) (ty : MTy) (o : Order) (_sc : Scope) (rb : Bool) (off : BitVec 4) (s : State) : Res :=
  loadS s .hnd m d a ty o rb off.toNat
def execSth (m : Bool) (d a : SReg) (ty : MTy) (o : Order) (sc : Scope) (ef : Bool) (off : BitVec 4) (s : State) : Res :=
  storeS s .hnd m d a ty o sc ef off.toNat

/-- `atom` of the S-stream (R146): `s`d supplies the operand and takes the old value; `cas` compares with `s`d and
writes `s`d+1. -/
def execAtom (m : Bool) (d a : SReg) (op : AtomOp) (w : Bool) (o : Order) (sc : Scope) (pad : Bool) (s : State) : Res :=
  let n := if w then 8 else 4
  let regs := if op = .cas then [d, a, d + 1] else [d, a]
  sWord s regs (fun u =>
    let sp : Space := if pad then .pad else .gsa
    checked s u .s [(0, checkS s u sp a 0 n 2)] (fun l =>
      let v := if op = .cas then u.rs (d + 1) else u.rs d
      let accs := l.map (fun e => ({ lane := e.1, addr := e.2, v := v.toNat % 2 ^ (8 * n),
                                     cmp := (u.rs d).toNat % 2 ^ (8 * n) } : AtomAcc))
      let aw : AtomW := { m := m, op := op, o := o, sc := sc, act := 1, size := n, dst := .s d, lat := 8, lane := false,
                          pad := pad }
      if pad then localAtom s u .s aw accs else tsGate s u .s 2 (relOrd o) sc l (fun ts => issueAtom s u .s aw accs ts)))

/-! ## L words -/

/-- Bytes of a memory type of an L word. -/
def ltySize (t : LTy) : Nat :=
  match t with
  | .u8 | .s8 => 1
  | .u16 | .s16 => 2
  | .b64 | .u64 | .s64 => 8
  | .b128 => 16
  | _ => 4

/-- The check of one lane's access (R137); `h` supplies the handle. -/
def checkL (s : State) (u : Unit) (sp : Space) (w : LM) (h : Sel) (kind l : Nat) : Chk :=
  let x := wrapInt 32 ((u.opVal .b32 0 w.a l : Int) + w.off.toInt)
  let n := ltySize w.ty
  match sp with
  | .pad => checkPad s u (x % 2 ^ 24) n kind
  | .gsa => checkGsa s u.who.ctx x n kind kind
  | .hnd => checkHnd s u (u.opVal .b32 0 h l % 2 ^ 16) x n kind

/-- The checks of a lane word's active lanes. -/
def checksL (s : State) (u : Unit) (sp : Space) (w : LM) (h : Sel) (kind : Nat) (act : Mask) : List (Nat × Chk) :=
  (lanesOf act).map (fun l => (l, checkL s u sp w h kind l))

/-- Issue interval of a lane load or store (R140). -/
def memIv (t : LTy) : Nat := match tyRegs t with | 1 => 1 | 2 => 2 | _ => 4

/-- The latency of an immediate lane access (R140). -/
def Space.latL (sp : Space) : Nat := match sp with | .hnd => 16 | _ => 8

/-- A lane load (R139, R145). -/
def loadL (s : State) (sp : Space) (w : LM) : Res :=
  let n := tyRegs w.ty
  laneWord s w.g (selRegs w.dst n ++ selRegs w.a 1 ++ (if sp = .hnd then selRegs w.b 1 else [])) (fun u i act =>
    let st := slotStrm i
    portAfter (checked s u st (checksL s u sp w w.b 0 act) (fun l =>
      let r := match w.dst with | .v r => r.toNat | _ => 0
      let lw : LoadW := { m := w.m, dst := .v r n, acq := acqOrd w.ord, rb := w.rb, act := act, size := ltySize w.ty,
                          sgn := tySigned w.ty, lat := sp.latL, gsa := decide (sp = .gsa) }
      if sp = .gsa then tsGate s u st 0 false .wg l (fun ts => issueLoad s u st lw l ts) else issueLoad s u st lw l (fun t => t)))
      u.id.core (memIv w.ty))

/-- A lane store (R139, R145). -/
def storeL (s : State) (sp : Space) (w : LM) : Res :=
  let n := tyRegs w.ty
  laneWord s w.g (selRegs w.a 1 ++ selRegs w.b n ++ (if sp = .hnd then selRegs w.c 1 else [])) (fun u i act =>
    let st := slotStrm i
    portAfter (checked s u st (checksL s u sp w w.c 1 act) (fun l =>
      let accs := l.map (fun e => (e.1, e.2, u.opVal w.ty 0 w.b e.1))
      let sw : StoreW := { m := w.m, ef := w.ef, o := w.ord, sc := w.sc, act := act, size := ltySize w.ty, lane := true,
                           pad := decide (sp = .pad) }
      if sp = .gsa then tsGate s u st 1 (relOrd w.ord) w.sc l (fun ts => issueStore s u st sw accs ts)
      else localStore s u st sw accs)) u.id.core (memIv w.ty))

def execLaneLdp (w : LM) (s : State) : Res := loadL s .pad w
def execLaneStp (w : LM) (s : State) : Res := storeL s .pad w
def execLaneLdg (w : LM) (s : State) : Res := loadL s .gsa w
def execLaneStg (w : LM) (s : State) : Res := storeL s .gsa w
def execLaneLdh (w : LM) (s : State) : Res := loadL s .hnd w
def execLaneSth (w : LM) (s : State) : Res := storeL s .hnd w

/-- The op of a lane atomic, in function [31:28] (R61). -/
def lmAtom (fn : BitVec 8) : AtomOp := atomOf (fn.toNat / 16)

/-- The space of a lane atomic, in function [27:26]. -/
def lmSpace (fn : BitVec 8) : Space :=
  match fn.toNat / 4 % 4 with
  | 0 => .gsa
  | 1 => .pad
  | _ => .hnd

/-- `atom` of the lane stream (R146): b supplies the operand, c the compare value of `cas` or the handle. -/
def execLaneAtom (w : LM) (s : State) : Res :=
  let n := tyRegs w.ty
  let sp := lmSpace w.fn
  let op := lmAtom w.fn
  let rc := if op = .cas then selRegs w.c n else if sp = .hnd then selRegs w.c 1 else []
  laneWord s w.g (selRegs w.dst n ++ selRegs w.a 1 ++ selRegs w.b n ++ rc) (fun u i act =>
    let st := slotStrm i
    portAfter (checked s u st (checksL s u sp w w.c 2 act) (fun l =>
      let size := ltySize w.ty
      let accs := l.map (fun e => ({ lane := e.1, addr := e.2, v := u.opVal w.ty 0 w.b e.1 % 2 ^ (8 * size),
                                     cmp := u.opVal w.ty 0 w.c e.1 % 2 ^ (8 * size) } : AtomAcc))
      let r := match w.dst with | .v r => r.toNat | _ => 0
      let aw : AtomW := { m := w.m, op := op, o := w.ord, sc := w.sc, act := act, size := size, dst := .v r n,
                          lat := if sp = .hnd then 20 else 12, lane := true, pad := decide (sp = .pad) }
      if sp = .gsa then tsGate s u st 2 (relOrd w.ord) w.sc l (fun ts => issueAtom s u st aw accs ts)
      else localAtom s u st aw accs)) u.id.core (if sp = .gsa then memIv w.ty else 2))

end Sys2Proof.Machine
end

