-- ==== Sys2Proof/Machine/Rollback.lean ====
section
/-! DEFINITION. Barriers as objects and the rollback shadow: phases and their completion (R149, R150), capture of a
workgroup at its barrier, and return to the shadow (R285, R286). -/

namespace Sys2Proof.Machine

/-! ## Barriers -/

/-- A barrier with no open phase. -/
def Barrier.init : Barrier := { count := 0, arrived := [], phases := 0 }

/-- The three kinds: 0 workgroup, 1 named, 2 die (R149). -/
def barGet (s : State) (u : Unit) (kind idx : Nat) : Barrier :=
  match kind with
  | 0 => match SMap.look s.wgs u.who.wg with | some w => w.bar | none => Barrier.init
  | 1 => match SMap.look s.teams u.who.team with | some t => SMap.get Barrier.init t.nbar idx | none => Barrier.init
  | _ => match SMap.look s.teams u.who.team, SMap.look s.grids u.who.grid with
    | some t, some g => match g.slabs[t.slab]? with
      | some x => x.dbars.getD t.rep Barrier.init
      | none => Barrier.init
    | _, _ => Barrier.init

/-- A barrier replaced. -/
def barSet (s : State) (u : Unit) (kind idx : Nat) (b : Barrier) : State :=
  match kind with
  | 0 => { s with wgs := SMap.upd s.wgs u.who.wg (fun w => { w with bar := b }) }
  | 1 => { s with teams := SMap.upd s.teams u.who.team (fun t => { t with nbar := SMap.set Barrier.init t.nbar idx b }) }
  | _ => match SMap.look s.teams u.who.team with
    | none => s
    | some t => { s with grids := SMap.upd s.grids u.who.grid (fun g =>
        { g with slabs := (List.range g.slabs.length).zip g.slabs |>.map (fun e =>
            if e.1 = t.slab then { e.2 with dbars := e.2.dbars.set t.rep b } else e.2) }) }

/-- The number to which a count of 0 resolves, and the largest count (R149). -/
def barFull (s : State) (u : Unit) (kind : Nat) : Nat :=
  match kind with
  | 0 => match SMap.look s.wgs u.who.wg with | some w => w.warps | none => 1
  | 1 => match SMap.look s.teams u.who.team with | some t => t.nwarps + (if t.lm then 1 else 0) | none => 1
  | _ => match SMap.look s.teams u.who.team, SMap.look s.grids u.who.grid with
    | some t, some g => g.pkt.teams * t.nwarps
    | _, _ => 1

/-! ## The shadow -/

/-- A stream that waits in a wait of the given workgroup phase stands at the word after it. -/
def Unit.passWait (u : Unit) (ph : Nat) : Unit :=
  let hit (p : Option Park) : Bool := match p with | some k => decide (k.why = .barPhase 0 0 ph) | none => false
  let v := if hit u.sS.park then { u with sS := { u.sS with spc := u.sS.spc + 1 } } else u
  let w := if hit v.lS.slot0.park then v.setSlot false { v.lS.slot0 with lpc := v.lS.slot0.lpc + 1 } else v
  if hit w.lS.slot1.park then w.setSlot true { w.lS.slot1 with lpc := w.lS.slot1.lpc + 1 } else w

/-- A unit as the shadow captures it: every result written, every stream at its next word (R285, R277). -/
def Unit.captured (u : Unit) (ph : Nat) : Unit :=
  let v := (u.landEvery).passWait ph
  let w : Unit := { v with trap := { v.trap with due := none } }
  ((w.setPark .s none).setPark .l0 none).setPark .l1 none

/-- The pad bytes of a workgroup. -/
def padBytes (s : State) (w : Wg) : SMap Byte :=
  let a := gsaAt w.core w.padBase
  s.mem.sram.filter (fun e => decide (a ≤ e.1) && decide (e.1 < a + w.padP))

/-- The arrivals of the units of a workgroup that are outstanding at named and die barriers. -/
def arrivalsOf (s : State) (us : List Unit) : List (Nat × Nat × Nat) :=
  us.flatMap (fun u =>
    (List.range 16).filterMap (fun n => if (barGet s u 1 n).arrived.contains (ukey u.id) then some (1, n, ukey u.id) else none)
      ++ (if (barGet s u 2 0).arrived.contains (ukey u.id) then [(2, 0, ukey u.id)] else []))

/-- The units of a workgroup. -/
def wgUnits (s : State) (k : Nat) : List Unit :=
  (s.units.filter (fun e => decide (e.2.who.wg = k) && !e.2.who.isLm)).map (fun e => e.2)

/-- The workgroup's shadow is taken; `ph` is the phase that completes (R150, R285). -/
def capture (s : State) (k ph : Nat) : State :=
  match SMap.look s.wgs k with
  | none => s
  | some w =>
    let us := wgUnits s k
    let sh : Shadow := { units := us.map (fun u => u.captured ph), pad := padBytes s w, arr := arrivalsOf s us }
    { s with
      units := s.units.map (fun (u : Nat × Unit) => if u.2.who.wg = k ∧ !u.2.who.isLm then (u.1, { u.2 with dirty := [] }) else u),
      wgs := SMap.put s.wgs k { w with shadow := some sh, eligible := true, touched := [], rolled := false, mism := false } }

/-- The size of the shadow area for a workgroup's core: 256 KiB by default (R285). -/
def shadowSize (s : State) (w : Wg) : Nat :=
  match SMap.look s.grids w.grid with
  | none => 262144
  | some g => match (SMap.look s.ctxs g.ctx).bind (fun c => SMap.look c.shadows w.core) with
    | some a => a.size
    | none => 262144

/-- The lines of 128 bytes that a workgroup has written since its shadow point, which its shadow area holds: of its pad, and of the registers, queues and
path slots of its warps (R285; DESIGN CHOICE, log 14). -/
def shadowLines (s : State) (w : Wg) : Nat :=
  w.touched.length + (match w.shadow with
    | some sh => (sh.units.map (fun x => match s.unit? x.id with | some u => u.dirty.length | none => 0)).sum
    | none => 0)

/-- Whether the open interval of a workgroup is rollback-eligible (R285). -/
def eligibleNow (s : State) (w : Wg) : Bool :=
  w.eligible && w.shadow.isSome && decide (shadowLines s w * 128 ≤ shadowSize s w)

/-- A unit returned to what the shadow holds of it; results still outstanding since before the shadow point stay
outstanding (R285, R286; DEDUCED, log 14). -/
def Unit.rolledBack (u x : Unit) : Unit :=
  { u with
    sS := x.sS, lS := x.lS, mbVal := x.mbVal, mbCnt := x.mbCnt, lqwSeq := x.lqwSeq, joinSeq := x.joinSeq,
    trap := { x.trap with imp := u.trap.imp, due := u.trap.due.filter (fun d => !d.frame.precise) },
    pend := u.pend.filterMap (fun p => (x.pend.find? (fun q => decide (q.id = p.id))).map (fun q => { p with flip := q.flip })),
    assay := { held := [], sig := 0, at_ := none, strm := .s, since := 0, passed := none, kind := 0,
               counts := x.assay.counts, cseq := u.assay.cseq, bad := false },
    waitS := 0, waitL := 0, mbOld := [], dirty := [] }

/-- An arrival withdrawn; a phase that is left without arrivals is no longer open. -/
def Barrier.withdraw (b : Barrier) (k : Nat) : Barrier :=
  let l := b.arrived.filter (fun j => decide (j ≠ k))
  { b with arrived := l, count := if l.isEmpty then 0 else b.count }

/-- A workgroup returns to its shadow, for an uncorrectable error or else for a mismatch. -/
def rollback (s : State) (k : Nat) (err : Bool) : State :=
  match SMap.look s.wgs k with
  | none => s
  | some w => match w.shadow with
    | none => s
    | some sh =>
      let us := wgUnits s k
      let now := arrivalsOf s us
      let back := now.filter (fun e => !sh.arr.contains e)
      let s1 := back.foldl (fun t e =>
        match us.find? (fun u => decide (ukey u.id = e.2.2)) with
        | some u => barSet t u e.1 e.2.1 ((barGet t u e.1 e.2.1).withdraw e.2.2)
        | none => t) s
      let s2 := us.foldl (fun t u =>
        match sh.units.find? (fun x => decide (x.id = u.id)) with
        | some x => t.setUnit (u.rolledBack x)
        | none => t) s1
      let a := gsaAt w.core w.padBase
      let sram := sh.pad.foldl (fun m e => SMap.set 0 m e.1 e.2) (zeroRange s2.mem.sram a w.padP)
      let w1 := { w with
        bar := { w.bar with count := 0, arrived := [] }, touched := [], rolled := w.rolled || err, mism := w.mism || !err }
      { s2 with mem := { s2.mem with sram := sram }, wgs := SMap.put s2.wgs k w1 }

/-! ## Arrivals -/

/-- The workgroups of units whose named or die barrier phase completed are no longer eligible (R285). -/
def spoilAll (s : State) (l : List Nat) : State :=
  l.foldl (fun t k => match SMap.look t.units k with | some u => spoil t u | none => t) s

/-- A unit's arrival joins the phase; the last one completes it (R149, R150). -/
def arriveBar (s : State) (u : Unit) (kind idx cnt : Nat) : State :=
  let b := barGet s u kind idx
  let n := if b.count = 0 then cnt else b.count
  let l := b.arrived ++ [ukey u.id]
  if l.length < n then barSet s u kind idx { b with count := n, arrived := l }
  else
    let s1 := barSet s u kind idx { count := 0, arrived := [], phases := b.phases + 1 }
    if kind = 0 then capture s1 u.who.wg b.phases else spoilAll s1 l

end Sys2Proof.Machine
end

