-- ==== Sys2Proof/Machine/Sync.lean ====
section
/-! DEFINITION. Fences, barriers, monitors, handles, timelines and the touchstone words of both streams: majors 0x23
to 0x27 and L opcode 0x77 (R148 to R156). -/

namespace Sys2Proof.Machine

/-- A word of a stream retires to the next index with nothing in flight. -/
def retireW (s : State) (u : Unit) (st : Strm) (m : Bool) : Res := .next (s.setUnit (u.done st m []))

/-! ## Fences (R148) -/

/-- A fence: a release waits under the release gate, an acquire until every earlier load of its stream has bound. -/
def fenceW (s : State) (u : Unit) (st : Strm) (m : Bool) (o : Order) (sc : Scope) : Res :=
  let go (v : Unit) : Res := if acqOrd o ∧ loadsHeld v st then parkAt s v st .results else retireW s v st m
  if relOrd o then
    pointGate s u st 0x03 (modesByte sc false o) [] (releaseGate s u st sc (go (u.released sc)))
  else go u

def execFence (m : Bool) (o : Order) (sc : Scope) (s : State) : Res := sWord s [] (fun u => fenceW s u .s m o sc)

/-- A lane word of the fence and barrier opcode: its guard selects the active lanes, and it holds the port (R111). -/
def laneSync (s : State) (w : LM) (regs : List (Nat × Nat)) (k : Unit → Strm → Mask → Res) : Res :=
  laneWord s w.g regs (fun u i act => portAfter (k u (slotStrm i) act) u.id.core 1)

def execLaneFence (w : LM) (s : State) : Res := laneSync s w [] (fun u st _ => fenceW s u st w.m w.ord w.sc)

/-! ## Barriers (R149 to R151) -/

/-- An arrival: it waits for the unit's outstanding one, checks the count, releases where it says so, and joins. -/
def arriveW (s : State) (u : Unit) (st : Strm) (m : Bool) (o : Order) (sc : Scope) (kind idx c : Nat) : Res :=
  let b := barGet s u kind idx
  let full := barFull s u kind
  let n := if c = 0 then full else c
  if b.arrived.contains (ukey u.id) then parkAt s u st (.barPhase (kind + 8) idx b.phases)
  else if full < n then takeTrap s u st 0x2A idx (c % 2 ^ 32) 0 false
  else if b.count ≠ 0 ∧ b.count ≠ n then takeTrap s u st 0x2A idx (b.count * 2 ^ 32 + c % 2 ^ 32) 0 false
  else
    let go (v : Unit) : Res := .next (arriveBar (s.setUnit (v.done st m [])) v kind idx n)
    if relOrd o then
      pointGate s u st 0x04 (modesByte sc false o) [c, idx] (releaseGate s u st sc (go (u.released sc)))
    else go u

/-- The phase that a parked wait of the barrier waits for. -/
def waitingFor (u : Unit) (st : Strm) (kind idx : Nat) : Option Nat :=
  match u.parkOf st with
  | some p => match p.why with
    | .barPhase k i ph => if k = kind ∧ i = idx then some ph else none
    | _ => none
  | none => none

/-- A wait: it parks while the unit's arrival is outstanding in the phase it waits for (R150). -/
def waitW (s : State) (u : Unit) (st : Strm) (m : Bool) (kind idx : Nat) : Res :=
  let b := barGet s u kind idx
  let done_ := match waitingFor u st kind idx with | some ph => decide (ph ≠ b.phases) | none => false
  if b.arrived.contains (ukey u.id) ∧ !done_ then parkAt s u st (.barPhase kind idx b.phases) else retireW s u st m

def execBarArrive (m : Bool) (a : SReg) (o : Order) (sc : Scope) (s : State) : Res :=
  sWord s [a] (fun u => arriveW s u .s m o sc 0 0 (u.rs a).toNat)
def execBarWait (m : Bool) (_o : Order) (_sc : Scope) (s : State) : Res := sWord s [] (fun u => waitW s u .s m 0 0)
def execNbarArrive (m : Bool) (n : BitVec 4) (a : SReg) (o : Order) (sc : Scope) (s : State) : Res :=
  sWord s [a] (fun u => arriveW s u .s m o sc 1 n.toNat (u.rs a).toNat)
def execNbarWait (m : Bool) (n : BitVec 4) (_o : Order) (_sc : Scope) (s : State) : Res :=
  sWord s [] (fun u => waitW s u .s m 1 n.toNat)
def execDbarArrive (m : Bool) (a : SReg) (o : Order) (sc : Scope) (s : State) : Res :=
  sWord s [a] (fun u => arriveW s u .s m o sc 2 0 (u.rs a).toNat)
def execDbarWait (m : Bool) (_o : Order) (_sc : Scope) (s : State) : Res := sWord s [] (fun u => waitW s u .s m 2 0)

/-- A lane barrier word (R151): the divergent-barrier trap, nothing without an active lane, or `k` for the lowest
active lane. -/
def laneBar (s : State) (w : LM) (regs : List (Nat × Nat)) (k : Unit → Strm → Nat → Res) : Res :=
  laneSync s w regs (fun u st act =>
    if u.dual then takeTrap s u st 0x2B 0 w.fn.toNat 0 false
    else match lanesOf act with
      | [] => retireW s u st w.m
      | l :: _ => k u st l)

def execLaneBarArrive (w : LM) (s : State) : Res :=
  laneBar s w (selRegs w.a 1) (fun u st l => arriveW s u st w.m w.ord w.sc 0 0 (u.opVal .b32 0 w.a l))
def execLaneBarWait (w : LM) (s : State) : Res := laneBar s w [] (fun u st _ => waitW s u st w.m 0 0)
def execLaneNbarArrive (w : LM) (s : State) : Res :=
  laneBar s w (selRegs w.a 1 ++ selRegs w.b 1) (fun u st l =>
    arriveW s u st w.m w.ord w.sc 1 (u.opVal .b32 0 w.b l % 16) (u.opVal .b32 0 w.a l))
def execLaneNbarWait (w : LM) (s : State) : Res :=
  laneBar s w (selRegs w.b 1) (fun u st l => waitW s u st w.m 1 (u.opVal .b32 0 w.b l % 16))

/-! ## Monitor and wait (R152) -/

def execMon (m : Bool) (a : SReg) (s : State) : Res :=
  sWord s [a] (fun u =>
    let x := (u.rs a).toNat % 2 ^ 32
    match checkGsa s u.who.ctx x 1 0 0 with
    | .bad c t i => trapS s u c t i
    | .ok _ => retireW s { u with mon := some { addr := x, fired := false } } .s m)

/-- An outcome that the leader hands to its replicas: 1 the word retires, 0 its timeout. -/
def tellReplicas (s : State) (u : Unit) (v : Nat) : State :=
  if u.who.rset ≠ 0 ∧ !u.takes s .s then shareVal s u.who.rset (u.leadKey .s) v else s

/-- The unit after it has taken or given one value of the leader. -/
def Unit.tookLead (u : Unit) : Unit := if u.who.rset = 0 then u else u.bumpLead .s

/-- The monitor-timeout trap (R152). -/
def monTimeout (s : State) (u : Unit) (t : Nat) : Res :=
  trapS s u 0x2C (match u.mon with | some x => x.addr | none => 0) t

/-- `mwait`: a replica other than the leader holds the word until the leader's outcome arrives (R158). -/
def execMwait (m : Bool) (a : SReg) (s : State) : Res :=
  sWord s [a] (fun u =>
    let t := (u.rs a).toNat % 2 ^ 32
    let go (v : Unit) : Res := retireW (tellReplicas s u 1) { v with mon := none } .s m
    if u.takes s .s then
      match leadVal s u.who.rset (u.leadKey .s) with
      | none => parkAt s u .s .leader
      | some v => if v = 1 then go u.tookLead else monTimeout s u.tookLead t
    else
      match u.mon with
      | none => go u.tookLead
      | some x => if x.fired then go u.tookLead else parkAt s u .s (.monitor t))

/-- MONITOR_TIMEOUT: the timeout of the `mwait` at which the warp is parked has passed. A change of the sector in the mclk of the expiry wins
(R347), so the trap comes with the next one. -/
def execMonitorTimeout (u : UnitId) (s : State) : Res :=
  match s.unit? u with
  | none => .next s
  | some v => match v.sS.park with
    | none => .next s
    | some p => match p.why with
      | .monitor t =>
        let unfired : Bool := match v.mon with | some x => !x.fired | none => false
        if unfired = true ∧ t ≠ 0 ∧ p.since + t < s.clk.now ∧ v.trap.due.isNone ∧ v.stopped = false then monTimeout (tellReplicas s v 0) v.tookLead t else .next s
      | _ => .next s

/-! ## Handles (R153, R154) -/

/-- The recipient that a code names: a warp of the issuer's cluster, or its lockmaster; the bits that R153 gives no meaning, [11:7] of a warp's
code and [11:0] of the lockmaster's, are ignored (DESIGN CHOICE, log 86). -/
def recipient (u : Unit) (c : Nat) : Option UnitId :=
  match c / 2 ^ 12 % 16 with
  | 0 => some ⟨u.cluster * 4 + c / 32 % 4, c % 32⟩
  | 1 => some ⟨u.cluster * 4, 32⟩
  | _ => none

/-- The reason for which an `hgive` takes the ownership fault; another recipient code has no reason in R274 and takes 0 (R153; DESIGN CHOICE,
log 86). -/
def giveBad (u : Unit) (h : Option Handle) (g : Nat) (r : Option UnitId) : Option Nat :=
  match h with
  | none => some 0
  | some e => if e.holder ≠ some u.id then some 0 else if e.gen ≠ g then some 1 else if r.isNone then some 0 else none

/-- A cluster's handle entry replaced. -/
def setHandle (s : State) (cl k : Nat) (h : Handle) : State :=
  let c := s.cluster cl
  s.setCluster cl { c with handles := SMap.put c.handles k h }

/-- `hgive` (R153); an offer to a slot without a live warp stands, and a warp of the team placed there later can take it (DESIGN CHOICE,
log 86). -/
def execHgive (m : Bool) (a b : SReg) (s : State) : Res :=
  sWord s [a, b] (fun u =>
    let x := (u.rs a).toNat % 2 ^ 16
    let k := x / 256
    let e := SMap.look (s.cluster u.cluster).handles k
    let r := recipient u ((u.rs b).toNat % 2 ^ 16)
    match giveBad u e (x % 256) r, e with
    | none, some h =>
      roomGate s u .s 1 (cmdGate s u .s 0x0A [(u.rs a).toNat, (u.rs b).toNat] (releaseGate s u .s .cl (
        let s1 := setHandle s u.cluster k { h with holder := none, offer := r, opened := false }
        retireW (spoil s1 u) (u.released .cl) .s m)))
    | why, _ => trapS s u 0x24 x (why.getD 0))

/-- The generation after `g`: 255 is followed by 1. -/
def nextGen (g : Nat) : Nat := if g = 255 then 1 else g + 1

def execHtake (m : Bool) (d a : SReg) (s : State) : Res :=
  sWord s [d, a] (fun u =>
    let k := (u.rs a).toNat / 256 % 256
    let no : Res := retireS s u m 12 [.s d 0]
    match SMap.look (s.cluster u.cluster).handles k with
    | none => no
    | some h =>
      if h.offer = some u.id ∨ (h.opened ∧ h.team = u.who.team) then
        let g := nextGen h.gen
        let s1 := setHandle s u.cluster k { h with gen := g, holder := some u.id, offer := none, opened := false }
        retireS (spoil s1 u) u m 12 [.s d (BitVec.ofNat 64 (k * 256 + g))]
      else no)

/-! ## Timelines (R155) -/

/-- The timeline of a number in the unit's context. -/
def timelineOf (s : State) (ctx n : Nat) : Option Timeline :=
  (SMap.look s.ctxs ctx).bind (fun c => SMap.look c.tls n)

/-- A timeline raised to at least `v`. -/
def raiseTimeline (s : State) (ctx n v : Nat) : State :=
  { s with ctxs := SMap.upd s.ctxs ctx (fun c => { c with tls := SMap.upd c.tls n (fun t => { t with val := max t.val v }) }) }

def execTlw (m : Bool) (a b : SReg) (s : State) : Res :=
  sWord s [a, b] (fun u =>
    let n := (u.rs a).toNat % 4096
    match timelineOf s u.who.ctx n with
    | none => trapS s u 0x2D n 0
    | some t => if (u.rs b).toNat ≤ t.val then retireW s u .s m else parkAt s u .s (.timeline n (u.rs b).toNat))

def execTls (m : Bool) (a b : SReg) (s : State) : Res :=
  sWord s [a, b] (fun u =>
    let n := (u.rs a).toNat % 4096
    match timelineOf s u.who.ctx n with
    | none => trapS s u 0x2D n 0
    | some t =>
      if t.owner ≠ .software then trapS s u 0x2D n 0
      else
        roomGate s u .s 1 (cmdGate s u .s 0x09 [(u.rs a).toNat, (u.rs b).toNat] (releaseGate s u .s .dev (
          let s1 := if u.performs then raiseTimeline s u.who.ctx n (u.rs b).toNat else s
          retireW (spoil s1 u) (u.released .dev) .s m))))

def execTlr (m : Bool) (d a : SReg) (s : State) : Res :=
  sWord s [d, a] (fun u =>
    let n := (u.rs a).toNat % 4096
    match timelineOf s u.who.ctx n with
    | none => trapS s u 0x2D n 0
    | some _ =>
      let key := u.leadKey .s
      if u.who.rset = 0 then .next (issuePend s u .s m 1 (newPend s u .s (.s d) (.tlr n) false 1 none))
      else if !u.takes s .s then
        .next (issuePend s (u.bumpLead .s) .s m 1 (newPend s u .s (.s d) (.tlr n) false 1 (some key)))
      else .next (issuePend s (u.bumpLead .s) .s m 1 (newPend s u .s (.s d) (.late key (some n)) false 1 none)))

/-! ## The touchstone words (R156) -/

/-- The issuing warp's mode, where the touchstone is enabled. -/
def setTsn (s : State) (m : Bool) (mode : Nat) : Res :=
  sWord s [] (fun u =>
    let on_ := match SMap.look s.ctxs u.who.ctx with | some c => c.tsOn | none => false
    if on_ then retireW s { u with tsMode := mode } .s m else retireW s u .s m)

def execTsnOff (m : Bool) (s : State) : Res := setTsn s m 0
def execTsnLog (m : Bool) (s : State) : Res := setTsn s m 1
def execTsnTrap (m : Bool) (s : State) : Res := setTsn s m 2

end Sys2Proof.Machine
end

