-- ==== Sys2Proof/Machine/Tenant.lean ====
section
/-! DEFINITION. Lent memory as hosts meet it: promotion and demotion (R315, R316), the host-line directory and its snoops (R317, R318, R321), host
crashes (R323), links, host accesses (R309, R310, R319, R322), and time messages (R327). -/

namespace Sys2Proof.Machine

/-! ## The access counter, promotion and demotion (R315, R316) -/

/-- A migration started where a frame can be spared: state 3 with a side record that names the destination. -/
def startMigration (s : State) (k p : Nat) (f : Option Nat) : State :=
  match SMap.look s.tenants k, f with
  | some t, some x =>
    let e := t.entry p
    if spareFrame s = false then s else
    let d := entAt 1 x e
    (zeroFrame s d).setTenant k { t.setEntry p (setFld e 61 3 3) with side := SMap.put t.side p (BitVec.ofNat 64 d) }
  | _, _ => s

/-- A host access counted; a page that reaches the hot threshold is promoted to HBM4: one of the far tier migrates there, and a
compressed one is expanded (R315). -/
def countAccess (s : State) (k p : Nat) : State :=
  match SMap.look s.tenants k with
  | none => s
  | some t =>
    let e := t.entry p
    let c := min 255 (fld e 0 8 + 1)
    let e1 := setFld e 0 8 c
    let s1 := s.setTenant k (t.setEntry p e1)
    if c < s.set.hot then s1
    else if entState e1 = 1 ∧ tb e1 59 then startMigration s1 k p (hbmFree s1 4096 4096)
    else if entState e1 = 2 then expandPage s1 k p
    else s1

/-- TSI_AGEING_PERIOD: every counter is halved; a page whose counter stayed below the cold threshold for 8 periods is
demoted, or compressed where it lies in the far tier or there is none. -/
def agePage (s : State) (k p : Nat) : State :=
  match SMap.look s.tenants k with
  | none => s
  | some t =>
    let e := t.entry p
    let n := if fld e 0 8 < s.set.cold then SMap.get 0 t.cold p + 1 else 0
    let e1 := setFld e 0 8 (fld e 0 8 / 2)
    let due := decide (8 ≤ n) && decide (entState e = 1)
    let s1 := s.setTenant k { t.setEntry p e1 with cold := SMap.set 0 t.cold p (if due then 0 else n) }
    if !due then s1
    else if tb e1 59 then packPage s1 k p
    else match farFree s1 4096 4096 with
      | some f => startMigration s1 k p (some f)
      | none => packPage s1 k p

/-- A lent page whose data lie in stack `d` put under way to another place: a plain page to a frame, or compressed where none is free, and
an image whole (R251). -/
def evacPage (s : State) (d k p : Nat) : State :=
  match SMap.look s.tenants k with
  | none => s
  | some t =>
    let v := t.entry p
    if tb v 59 = false ∧ fld v 56 3 = d then
      match entState v, hbmFree s 4096 4096 <|> farFree s 4096 4096 with
      | 1, some f => startMigration s k p (some f)
      | _, _ => packPage s k p
    else s

def execTsiAgeingPeriod (s : State) : Res :=
  if s.clk.now < s.plant.ageAt then .next s
  else
    let s1 := { s with plant := { s.plant with ageAt := s.clk.now + s.set.agePeriodUs * 2000 } }
    .next (s1.tenants.foldl (fun x t => t.2.pages.foldl (fun y e => agePage y t.1 e.1) x) s1)

/-- PAGE_MIGRATION_INSTANT: the entry is rewritten to the destination in one step; lines that read as poison stay so. A page that lands in a stack
that is being evacuated moves on (R251). -/
def execPageMigrationInstant (k p : Nat) (s : State) : Res :=
  match SMap.look s.tenants k with
  | none => .next s
  | some t => match SMap.look t.side p with
    | none => .next s
    | some d =>
      let e := t.entry p
      let data := readN (fun i => physByte s ((entPhys e).add i)) 4096 0
      let s0 := touchRun (touchRun s (entPhys e) 4096) (entPhys d.toNat) 4096
      let s1 := writeDram (cipherRun s0 (entPhys e) 4096) (entPhys d.toNat) data
      let t1 := t.setEntry p (entAt 1 (d.toNat % 2 ^ 60 / 256 * 256) e)
      let s2 := s1.setTenant k { t1 with side := SMap.del t.side p, poison := keepPoison s t p }
      let at_ := fld d.toNat 56 3
      .next (if tb d.toNat 59 = false ∧ s.plant.dies.getD at_ .off = .evacuating then evacPage s2 at_ k p else s2)

/-- COMPRESSED_PAGE_EXPAND: a compressed page becomes plain, with the buffered writes (R313). -/
def execCompressedPageExpand (k p : Nat) (s : State) : Res := .next (expandPage s k p)

/-! ## Snoops (R317, R318) -/

/-- A reader has had what it needed: the next read asks the hosts again (R318). -/
def readDone (s : State) (who : Nat) : State :=
  if s.tenants.any (fun t => t.2.fresh.any (fun e => decide (e.2 = who))) then
    { s with tenants := s.tenants.map (fun (t : Nat × Tenant) => (t.1, { t.2 with fresh := t.2.fresh.filter (fun e => decide (e.2 ≠ who)) })) }
  else s

/-- The add of a completion counter at the home agent, to what it reads or has read; one that meets a poisoned line is not
performed and is logged (R321, R323). -/
def counterAdd (s : State) (q : Nat) (old : Option Nat) : State :=
  match SMap.look s.queues q with
  | none => s
  | some h => match h.desc.tenant, h.desc.ctr with
    | some k, some a => match SMap.look s.tenants k with
      | none => s
      | some t =>
        if linePoison s t (a / 64) then
          writeLog s h.desc.ctx { code := 0x40, kind := 2, grid := 0, wg := 0, core := 0, slot := 0, flags := 0, spc := 0,
                                  lpc := 0, addr := a, info := 0, extra := 0 }
        else
          let v := old.getD (leNat (readN (lentByte s k) 8 a))
          writeLine s k (a / 64) (bytesAt a (leBytes 8 ((v + 1) % 2 ^ 64)))
    | _, _ => s

/-- A completion counter's add, after the snoop its line needs (R318, R321). -/
def counterStart (s : State) (q : Nat) (old : Option Nat) : State :=
  match SMap.look s.queues q with
  | none => s
  | some h => match h.desc.tenant, h.desc.ctr with
    | some k, some a => match SMap.look s.tenants k with
      | none => s
      | some t => match snoopFor t (a / 64) true 0 with
        | some kind => sendSnoop s k (a / 64) kind (.counter q old)
        | none => counterAdd s q old
    | _, _ => s

/-- What the add of a grid's completion counter needs before the grid retires. -/
inductive CtrStep where
  | go
  | wait
  | snoop (t line : Nat) (k : SnpKind)
  | read (v : Nat)
  deriving DecidableEq, Repr

/-- The counter of a queue: its tenant and address. -/
def ctrAt (s : State) (q : Nat) : Option (Nat × Nat) :=
  (SMap.look s.queues q).bind (fun h => h.desc.tenant.bind (fun k => h.desc.ctr.map (fun a => (k, a))))

/-- Whether another device atomic on the counter of a grid is under way: device atomics are atomic among themselves (R231). -/
def ctrBusy (s : State) (gk : Nat) (at_ : Nat × Nat) : Bool :=
  s.grids.any (fun g => decide (g.1 ≠ gk) && g.2.ctr.isSome && decide (g.2.queue.bind (ctrAt s) = some at_))
    || s.fl.snoops.any (fun x => match x.go with | .counter q _ => decide (ctrAt s q = some at_) | _ => false)

/-- On a page not marked for system atomics the counter is read first, and written in a later step without a hold against hosts between
the two (R231); on a marked page, or where there is nothing to read, the add is one step. -/
def ctrStep (s : State) (gk : Nat) (g : Grid) : CtrStep :=
  if g.ctr.isSome then .go
  else if (match g.queue.bind (ctrAt s) with | some x => ctrBusy s gk x | none => false) then .wait
  else match g.queue.bind (fun q => SMap.look s.queues q) with
    | none => .go
    | some h => match h.desc.tenant, h.desc.ctr with
      | some k, some a => match SMap.look s.tenants k with
        | none => .go
        | some t =>
          if tb (t.entry (a / 4096)) 60 || linePoison s t (a / 64) then .go
          else match snoopFor t (a / 64) true (gridWho gk) with
            | some .data => .snoop k (a / 64) .data
            | _ => .read (leNat (readN (lentByte s k) 8 a))
      | _, _ => .go

/-- The tenant address space in which a queue's ring lies: its own tenant's, or its context's. -/
def ringTenant (s : State) (h : HwQueue) : Option Nat :=
  match h.desc.tenant with
  | some t => some t
  | none => (SMap.look s.ctxs h.desc.ctx).bind (fun c => c.tenant)

/-- What a completed snoop lets go on. -/
def snoopGo (s : State) (x : Snoop) : State :=
  match x.go with
  | .counter q old => counterAdd s q old
  | .put l => writeLine s x.tenant x.line l
  | .read _ | .way => s

/-- A snoop completes, with the data of a line that its host held in state E where it returned some (R318). -/
def snoopDone (s : State) (x : Snoop) (data : Option (List Byte)) : State :=
  let s1 := { s with fl := { s.fl with snoops := s.fl.snoops.filter (fun y => decide (y.id ≠ x.id)) } }
  let held : Bool := match SMap.look s.tenants x.tenant with | some t => decide (SMap.look t.dir x.line = some .exclusive) | none => false
  let s2 := match data with
    | some l => if held then writeLine s1 x.tenant x.line (bytesAt (x.line * 64) l) else s1
    | none => s1
  match SMap.look s2.tenants x.tenant with
  | none => s2
  | some t =>
    let t1 := match x.kind, x.go with
      | .cur, .read who => { t with fresh := (x.line, who) :: t.fresh.filter (fun e => decide (e ≠ (x.line, who))) }
      | .cur, _ => t
      | _, _ => { t with dir := SMap.del t.dir x.line }
    snoopGo (s2.setTenant x.tenant t1) x

/-- The bytes of a 64-byte line value. -/
def lineOfBits (d : BitVec 512) : List Byte := leBytes 64 d.toNat

/-- BISNP_RESPONSE. -/
def execBisnpResponse (snp : Nat) (data : Option (BitVec 512)) (s : State) : Res :=
  match s.fl.snoops.find? (fun x => decide (x.id = snp)) with
  | none => .next s
  | some x => .next (snoopDone s x (data.map lineOfBits))

/-! ## Host crashes (R323) -/

/-- A host declared crashed: E lines poisoned, S lines dropped, outstanding snoops completed without data, vectors held. -/
def hostCrash (s : State) (k : Nat) : State :=
  match SMap.look s.tenants k with
  | none => s
  | some t =>
    let bad := t.dir.foldl (fun l e => if e.2 = .exclusive then setAdd l e.1 else l) t.poison
    let s1 := s.setTenant k { t with dir := [], poison := bad, crashed := true, fresh := [] }
    (s1.fl.snoops.filter (fun x => decide (x.tenant = k))).foldl (fun x y => snoopDone x y none) s1

/-- BISNP_TIMEOUT: no response after 50 us. -/
def execBisnpTimeout (snp : Nat) (s : State) : Res :=
  match s.fl.snoops.find? (fun x => decide (x.id = snp)) with
  | none => .next s
  | some x => if x.at_ + 100000 ≤ s.clk.now then .next (hostCrash s x.tenant) else .next s

/-- HOST_LINK_DOWN. -/
def execHostLinkDown (k : Nat) (s : State) : Res :=
  let s1 := hostCrash s k
  .next { s1 with tenants := SMap.upd s1.tenants k (fun t => { t with linkUp := false }) }

/-- HOST_LD_RESET. -/
def execHostLdReset (k : Nat) (s : State) : Res := .next (hostCrash s k)

/-- HOST_LINK_UP: the link is up again, and the held vectors are raised. -/
def execHostLinkUp (k : Nat) (s : State) : Res :=
  match SMap.look s.tenants k with
  | none => .next s
  | some t =>
    let s1 := s.setTenant k { t with linkUp := true, crashed := false, heldVecs := [] }
    .next { s1 with irqs := s1.irqs ++ t.heldVecs.map (fun v => (k, v)) }

/-- MEMORY_ACTIVE_SET: the tenant is lent-active (R324). -/
def execMemoryActiveSet (k : Nat) (s : State) : Res :=
  .next { s with tenants := SMap.upd s.tenants k (fun t => { t with active := true }) }

/-- Whether a committed range may be a decoder's: whole units of 256 MiB within the tenant's space, apart from the others' ranges (R309, R310). -/
def decoderOk (t : Tenant) (r : HdmRange) : Bool :=
  let others := t.decs.filter (fun e => decide (e.1 ≠ r.dec))
  decide (r.dec < 4) && decide (0 < r.size) && decide (r.size % 2 ^ 28 = 0) && decide (r.base % 2 ^ 28 = 0) &&
    decide ((others.map (fun e => e.2.2)).sum + r.size ≤ t.size) &&
    others.all (fun e => decide (r.base + r.size ≤ e.2.1) || decide (e.2.1 + e.2.2 ≤ r.base))

/-- HDM_DECODER_COMMIT: the host commits one of its four decoders with a host range, or releases it (R310, R324). -/
def execHdmDecoderCommit (k : Nat) (r : HdmRange) (commit : Bool) (s : State) : Res :=
  match SMap.look s.tenants k with
  | none => .next s
  | some t =>
    if !commit then .next (s.setTenant k { t with decs := SMap.del t.decs r.dec })
    else if decoderOk t r then .next (s.setTenant k { t with decs := SMap.put t.decs r.dec (r.base, r.size) })
    else .next s

/-- The tenant address behind a host physical address: the committed ranges cover the tenant space in the order of their decoders (R310). -/
def spaceAt (l : SMap (Nat × Nat)) (hpa at_ : Nat) : Option Nat :=
  match l with
  | [] => none
  | (_, b, n) :: t => if b ≤ hpa ∧ hpa < b + n then some (at_ + (hpa - b)) else spaceAt t hpa (at_ + n)

/-- The features of CXL 3.x of which the capability structures of a port tell (R309). -/
inductive CxlFeature where
  | mem | cache | io | logicalDevices | dynamicCapacity | dataPoison | ide | persistentFlush
  deriving DecidableEq, Repr

/-- What the capability structures report as present: every feature of R309's table but those that it marks as not supported.
Configuration space is read by the host and changes nothing. -/
def cxlReports (f : CxlFeature) : Bool :=
  match f with
  | .mem | .io | .logicalDevices | .dataPoison | .persistentFlush => true
  | .cache | .dynamicCapacity | .ide => false

/-- GLOBAL_PERSISTENT_FLUSH: accepted and completed at once (R309). -/
def execGlobalPersistentFlush (_k : Nat) (s : State) : Res := .next { s with host := some .done }

/-- PTM_REQUEST: a port answers as responder, with the time (R309, R327). -/
def execPtmRequest (port : Nat) (s : State) : Res :=
  if port < 4 then .next { s with host := some (.time s.tclk) } else .next s

/-! ## Host accesses (R309, R310, R317, R319, R322) -/

/-- The tenant address that a host access reaches: the link is up, the tenant lent-active, and a committed range covers the address. -/
def hostReaches (t : Tenant) (hpa : Nat) : Option Nat :=
  if t.linkUp && t.active then (spaceAt t.decs hpa 0).bind (fun a => if a < t.size then some a else none) else none

/-- Whether the home agent holds a line against host ownership (R321). -/
def lineHeld (s : State) (k line : Nat) : Bool :=
  s.fl.snoops.any (fun x => decide (x.tenant = k) && decide (x.line = line) && (match x.go with | .counter _ _ => true | _ => false))
    && (match SMap.look s.tenants k with | some t => tb (t.entry (line / 64)) 60 | none => false)

/-- Whether a snoop to a line is outstanding: a host read of it waits for the answer (the BIConflict handshake, R318). -/
def snooped (s : State) (k line : Nat) : Bool := s.fl.snoops.any (fun x => decide (x.tenant = k) && decide (x.line = line))

/-- The lines that fill the set of the directory in which a line would go: none where a way is free, or the line has its own (R317). -/
def dirFull (s : State) (k line : Nat) : List (Nat × Nat) :=
  let l := s.tenants.flatMap (fun t => t.2.dir.map (fun e => (t.1, e.1)))
  if l.length < 16 ∨ l.contains (k, line) then []
  else
    let m := l.filter (fun e => decide (Config.dirSet e.1 e.2 = Config.dirSet k line))
    if m.length < 16 then [] else m

/-- HOST_MEM_READ: the host reads a line and takes it S or E where it asks for it; in a full set of the directory a freely chosen line is first
evicted with BISnpInv (R317). -/
def execHostMemRead (k hpa : Nat) (own : Option Bool) (s : State) : Res :=
  match SMap.look s.tenants k with
  | none => .next s
  | some t0 => match hostReaches t0 hpa with
    | none => .next s
    | some a =>
      let line := a / 64
      let full := if own.isSome then dirFull s k line else []
      if snooped s k line || (own.isSome && lineHeld s k line) then .next s
      else match full with
        | v :: _ =>
          let x := full.getD (Config.freeNat s.free % full.length) v
          .next (sendSnoop { s with free := s.free + 1 } x.1 x.2 .inv .way)
        | [] =>
          let s1 := activate (countAccess s k (a / 4096)) (atHome s (.lent k a))
          let t := (SMap.look s1.tenants k).getD t0
          if linePoison s1 t line then .next { s1.setTenant k { t with events := t.events ++ [line] } with host := some .poison }
          else
            let d := match own with
              | none => t.dir
              | some e => SMap.put t.dir line (if e then .exclusive else .shared)
            .next { s1.setTenant k { t with dir := d } with host := some (.data (BitVec.ofNat 512 (leNat (lineBytes s1 k line)))) }

/-- HOST_MEM_WRITE: the host writes the enabled bytes of a line. -/
def execHostMemWrite (k hpa : Nat) (data : BitVec 512) (be : BitVec 64) (s : State) : Res :=
  match SMap.look s.tenants k with
  | none => .next s
  | some t => match hostReaches t hpa with
    | none => .next s
    | some a =>
      let line := a / 64
      let l := (bytesAt (line * 64) (lineOfBits data)).filter (fun b => be.getLsbD (b.1 % 64))
      let s1 := writeLine (activate (countAccess s k (a / 4096)) (atHome s (.lent k a))) k line l
      .next { s1 with host := some .done }

/-! ## Time (R327) -/

/-- PTP_EVENT_MESSAGE: the chosen source disciplines `tclk`. -/
def execPtpEventMessage (ns : Nat) (s : State) : Res :=
  match s.clk.src with
  | none => .next s
  | some _ =>
    let e := (s.clk.now + s.clk.held) / 2
    .next { s with clk := { s.clk with tOff := (ns + 2 ^ 64 - e % 2 ^ 64) % 2 ^ 64, holdover := false } }

/-- TIME_SOURCE_LOST: holdover from the mclk reference. -/
def execTimeSourceLost (s : State) : Res := .next { s with clk := { s.clk with holdover := true } }

end Sys2Proof.Machine
end

