-- ==== Sys2Proof/Machine/Copy.lean ====
section
/-! DEFINITION. Commands of the copy chapter as the S-stream issues them: copies, scale copies, multicasts, batches and
collectives (R159 to R169, R175), and the work lists (R172 to R174). -/

namespace Sys2Proof.Machine

/-! ## Issue rights (R159) -/

/-- The issue-rights trap, or `k`. -/
def rightsGate (s : State) (u : Unit) (ok : Bool) (major f : Nat) (k : Res) : Res :=
  if ok then k else trapS s u 0x2F 0 (major + f * 256)

/-- Whether the unit is its team's leader: the producer of the workgroup with inteam 0. -/
def teamLeader (u : Unit) : Bool := u.who.producer && decide (fld u.who.wgid.toNat 32 2 = 0)

/-! ## Descriptors (R162, R163) -/

/-- The lowest set bit of a number. -/
def lowBit (n : Nat) : Option Nat := (List.range 64).find? (fun i => tb n i)

/-- The bits of a count, pitch or length below the element size. -/
def lowMask (v es : Nat) : Nat := v % 2 ^ es

/-- `esize` of a copy control word. -/
def ccwEs (c : Nat) : Nat := fld c 46 2
/-- The status register of a copy control word. -/
def ccwSts (c : Nat) : SReg := BitVec.ofNat 6 (fld c 40 6)
/-- The length of a copy control word. -/
def ccwLen (c : Nat) : Nat := c % 2 ^ 32

/-- The offending bits of a copy control word: reserved bits, and the low bits of the length. -/
def ccwBad (c : Nat) : Nat := lowMask (ccwLen c) (ccwEs c) + fld c 32 8 * 2 ^ 32 + fld c 48 16 * 2 ^ 48

/-- The first offence of registers `c`, `c + 1`, … given the offending bits of each: the register and the bit. -/
def descBad (c : Nat) (l : List Nat) : Option (Nat × Nat) :=
  match l with
  | [] => none
  | x :: t => match lowBit x with
    | some b => some (c, b)
    | none => descBad (c + 1) t

/-- The offending bits of the registers of `cp`, `cp2` and `cp3` by their group. -/
def groupBad (l : List Nat) : List Nat :=
  match l with
  | [] => []
  | w :: t =>
    let es := ccwEs w
    ccwBad w :: ((List.range t.length).zip t).map (fun e =>
      if e.1 = 1 ∨ e.1 = 2 ∨ e.1 = 4 ∨ e.1 = 5 then lowMask e.2 es else 0)

/-! ## Endpoints -/

/-- The kinds of endpoint of a copy (R161, R168). -/
inductive EndK where
  | dva | gsa | pad | scale
  deriving DecidableEq, Repr

/-- The endpoint kinds of a direction: destination and source. -/
def dirEnds (d : CopyDir) : EndK × EndK :=
  match d with
  | .d2g => (.gsa, .dva)
  | .g2d => (.dva, .gsa)
  | .g2g => (.gsa, .gsa)
  | .d2d => (.dva, .dva)
  | .d2p => (.pad, .dva)
  | .p2d => (.dva, .pad)

/-- The address that an endpoint takes from its register. -/
def endAddr (k : EndK) (v : Word) : Nat :=
  match k with
  | .dva => v.toNat
  | .gsa => v.toNat % 2 ^ 32
  | .pad => v.toNat % 2 ^ 24
  | .scale => v.toNat % 2 ^ 16

/-- The pads of the replicas of a unit by GSA and size: its own first. -/
def peerPads (s : State) (u : Unit) : List (Nat × Nat) :=
  match SMap.look s.wgs u.who.wg with
  | some w => (u.who.wg :: w.peers.filter (fun k => decide (k ≠ u.who.wg))).filterMap (fun k =>
      (SMap.look s.wgs k).map (fun x => (gsaAt x.core x.padBase, x.padP)))
  | none => []

/-- The clusters of the replicas of a unit's team. -/
def peerCls (s : State) (u : Unit) : List Nat :=
  match SMap.look s.teams u.who.team with
  | some t => u.cluster :: (t.peers.filter (fun k => decide (k ≠ u.who.team))).filterMap (fun k =>
      (SMap.look s.teams k).map (fun x => x.cluster))
  | none => [u.cluster]

/-- The endpoint of a copy that the unit issues. -/
def mkEnd (s : State) (u : Unit) (k : EndK) (v : Word) : Endp :=
  match k with
  | .dva => .dva (endAddr k v % 2 ^ 56)
  | .gsa => .gsa (endAddr k v)
  | .pad => .pad (peerPads s u) (endAddr k v)
  | .scale => .scale (peerCls s u) (endAddr k v)

/-- The first failing byte check over the rows of one GSA endpoint: `n` rows of a plane from `a`. -/
def rowsFail (s : State) (ctx n a pitch len kind : Nat) : Option (Nat × Nat × Nat) :=
  match n with
  | 0 => none
  | k + 1 =>
    match checkGsa s ctx (a % 2 ^ 32) 1 kind kind, checkGsa s ctx ((a + len - 1) % 2 ^ 32) 1 kind kind with
    | .bad c x i, _ => some (c, x, i)
    | _, .bad c x i => some (c, x, i)
    | _, _ => rowsFail s ctx k (a + pitch) pitch len kind

/-- As `rowsFail`, over `n` planes. -/
def planesFail (s : State) (ctx n a pp rows rp len kind : Nat) : Option (Nat × Nat × Nat) :=
  match n with
  | 0 => none
  | k + 1 => match rowsFail s ctx rows a rp len kind with
    | some x => some x
    | none => planesFail s ctx k (a + pp) pp rows rp len kind

/-- The first failing check of a list. -/
def firstFail (l : List (Option (Nat × Nat × Nat))) : Option (Nat × Nat × Nat) := l.findSome? id

/-- Run `k` unless a check failed. -/
def failGate (s : State) (u : Unit) (f : Option (Nat × Nat × Nat)) (k : Res) : Res :=
  match f with
  | some (c, a, i) => trapS s u c a i
  | none => k

/-- Misalignment of an endpoint address. -/
def misEnd (a es kind : Nat) : Option (Nat × Nat × Nat) :=
  if a % 2 ^ es = 0 then none else some (0x22, a, misInfo (2 ^ es) kind)

/-- `dva_check` of an endpoint. -/
def dvaEnd (k : EndK) (v : Word) : Option (Nat × Nat × Nat) :=
  if k = .dva ∧ v.toNat / 2 ^ 56 ≠ 0 then some (0x25, v.toNat, 0) else none

/-! ## Handing a command to its engine -/

/-- Commands outstanding of the unit's replica set. -/
def ownJob (s : State) (u : Unit) (j : Job) : Bool := (replicas s u).any (fun v => decide (j.unit = v.id) && decide (j.wgroup = v.who.wg))
def jobsOf (s : State) (u : Unit) : List Job := s.fl.jobs.filter (ownJob s u)

/-- A command without its endpoints, for a freely chosen one of its die's four barges (R3, R163, log 29). -/
def newJob (s : State) (u : Unit) (src dst : Endp) (c : Nat) : Job :=
  { id := s.fl.seq, unit := u.id, ctx := u.who.ctx, wgroup := u.who.wg, wgNum := u.who.wgid.toNat % 2 ^ 32, warp := u.who.warpid.toNat % 32, grid := u.who.grid, cls := u.who.cls, src := src,
    dst := dst, es := ccwEs c, len := ccwLen c, rows := 1, srp := 0, drp := 0, planes := 1, spp := 0, dpp := 0, recv := [],
    part := 0, coll := none, moved := [], pre := [], batch := none, idx := u.sS.spc, raw := rawAt s u .s,
    die := u.die, barge := Config.freeNat s.free % 4, code := 0, info := 0, seq := s.fl.seq }

/-- A status register's pending result: the leader's, which its replicas take (R303). -/
def statusPend (s : State) (u : Unit) (r : SReg) (what : PWhat) : Option Pend :=
  let key := u.leadKey .s
  if r = 0 then none
  else if u.who.rset = 0 then some (newPend s u .s (.s r) what false 1 none)
  else if u.who.leader then some (newPend s u .s (.s r) what false 1 (some key))
  else some (newPend s u .s (.s r) (.late key none) false 1 none)

/-- A command word retires: its status pending, its job with the engine where the unit performs effects. -/
def handOver (s : State) (u : Unit) (m : Bool) (r : SReg) (j : Job) : State :=
  let v := u.released .dev
  let w := match statusPend s v r (.status j.id) with
    | some p => { (if v.who.rset = 0 then v else v.bumpLead .s) with pend := v.pend ++ [p] }
    | none => v
  let s1 := spoil (s.setUnit (w.done .s m [])) w
  { s1 with free := s1.free + 1, fl := { s1.fl with seq := s1.fl.seq + 1, jobs := if u.performs then s1.fl.jobs ++ [j] else s1.fl.jobs } }

/-- A status register that a command names: the pending-mailbox trap of a handler, a stall on its pending bit, or `k` (R23, R163). -/
def statusGate (s : State) (u : Unit) (r : SReg) (k : Res) : Res :=
  if r = 0 then k
  else match u.mbPend r with
    | some n => trapS s u 0x37 r.toNat n
    | none => if u.sPend r then parkAt s u .s .pendingReg else k

/-- The gates of a command after its checks: the status register, the 64 slots, the compare, and the release (R163, R177). -/
def commandGate (s : State) (u : Unit) (kind : Nat) (ops : List Nat) (r : SReg) (k : Res) : Res :=
  statusGate s u r (
    if 64 ≤ (jobsOf s u).length then parkAt s u .s .copySlots
    else roomGate s u .s 1 (cmdGate s u .s kind ops (releaseGate s u .s .dev k)))

/-- The registers of a group. -/
def groupRegs (c : SReg) (n : Nat) : List SReg := (List.range n).map (fun i => c + BitVec.ofNat 6 i)

/-- The first failing check of a copy of `n` group registers whose endpoints are of the given kinds: its cause, `taddr` and
`tinfo` (R163); rows of no bytes have no first or last byte and are in every window (DEDUCED, log 86). -/
def copyFail (s : State) (u : Unit) (n : Nat) (ends : EndK × EndK) (a b c : SReg) : Option (Nat × Nat × Nat) :=
  let vals := (groupRegs c n).map (fun r => (u.rs r).toNat)
  let w := vals.getD 0 0
  let rows := if n = 1 then 1 else vals.getD 1 0 % 2 ^ 32
  let planes := if n < 7 then 1 else vals.getD 4 0 % 2 ^ 32
  let es := ccwEs w
  let len := ccwLen w
  let da := endAddr ends.1 (u.rs a)
  let sa := endAddr ends.2 (u.rs b)
  let scaleBad := if ends.1 = .scale ∧ es = 3 then 3 * 2 ^ 46 else 0
  let bits := match groupBad vals with | x :: t => (x + scaleBad) :: t | [] => []
  let desc := match descBad c.toNat bits with
    | some (r, k) => some (0x30, r, k)
    | none => if ends.1 = .scale ∧ 65536 < da + len then some (0x30, c.toNat, 64) else none
  let win (k : EndK) (x pp rp kind : Nat) : Option (Nat × Nat × Nat) :=
    if k = .gsa ∧ len ≠ 0 then planesFail s u.who.ctx planes x pp rows rp len kind else none
  firstFail [desc, misEnd da es 4, misEnd sa es 3, dvaEnd ends.1 (u.rs a), dvaEnd ends.2 (u.rs b),
    win ends.1 da (vals.getD 6 0 % 2 ^ 32) (vals.getD 3 0 % 2 ^ 32) 1,
    win ends.2 sa (vals.getD 5 0 % 2 ^ 32) (vals.getD 2 0 % 2 ^ 32) 0]

/-- The command that a copy hands to its barge (R161, R163). -/
def copyJob (s : State) (u : Unit) (n : Nat) (ends : EndK × EndK) (a b c : SReg) : Job :=
  let vals := (groupRegs c n).map (fun r => (u.rs r).toNat)
  { newJob s u (mkEnd s u ends.2 (u.rs b)) (mkEnd s u ends.1 (u.rs a)) (vals.getD 0 0) with
    rows := if n = 1 then 1 else vals.getD 1 0 % 2 ^ 32, planes := if n < 7 then 1 else vals.getD 4 0 % 2 ^ 32,
    srp := vals.getD 2 0 % 2 ^ 32, drp := vals.getD 3 0 % 2 ^ 32,
    spp := vals.getD 5 0 % 2 ^ 32, dpp := vals.getD 6 0 % 2 ^ 32 }

/-- Issue of a copy of `n` group registers whose endpoints are of the given kinds (R163). -/
def copyWord (s : State) (m : Bool) (major f n : Nat) (ends : EndK × EndK) (a b c : SReg) : Res :=
  let g := groupRegs c n
  sWord s (a :: b :: g) (fun u =>
    rightsGate s u u.who.producer major f (
      let vals := g.map (fun r => (u.rs r).toNat)
      let sts := ccwSts (vals.getD 0 0)
      failGate s u (copyFail s u n ends a b c)
        (commandGate s u 0x05 ((u.rs a).toNat :: (u.rs b).toNat :: vals) sts
          (.next (handOver s u m sts (copyJob s u n ends a b c))))))

def execCp (m : Bool) (dir : CopyDir) (a b c : SReg) (s : State) : Res := copyWord s m 0x28 0 1 (dirEnds dir) a b c
def execCp2 (m : Bool) (dir : CopyDir) (a b c : SReg) (s : State) : Res := copyWord s m 0x29 0 4 (dirEnds dir) a b c
def execCp3 (m : Bool) (dir : CopyDir) (a b c : SReg) (s : State) : Res := copyWord s m 0x29 1 7 (dirEnds dir) a b c

/-- `cpsc` (R168): `g` names a GSA source. -/
def execCpsc (m g : Bool) (a b c : SReg) (s : State) : Res :=
  copyWord s m 0x2A 0 1 (.scale, if g then .gsa else .dva) a b c

/-! ## Multicast (R169) -/

/-- A receiver of a multicast: its core, its destination's offset in its own slice, and the offset of its own part in the source. -/
structure Part where
  core : Nat
  off : Nat
  own : Nat
  deriving DecidableEq, Repr

/-- The receivers of a multicast by `S[c+1]` to `S[c+3]`. -/
def receivers (len part mk pl : Nat) : List Part :=
  ((List.range 32).filter (fun i => tb mk i)).map (fun i =>
    { core := fld mk 32 10 + i, off := fld pl 0 22 + i * fld pl 32 22, own := len + i * part })

/-- The destination GSA of a receiver. -/
def Part.gsa (r : Part) : Nat := gsaAt r.core r.off % 2 ^ 32

/-- The first failing check of a receiver of `n` bytes: an offset past its own slice is outside every window (R25, R163). -/
def Part.fail (r : Part) (s : State) (ctx n : Nat) : Option (Nat × Nat × Nat) :=
  if n = 0 then none
  else if 2 ^ 22 ≤ r.off then some (0x23, r.gsa, 1)
  else if 2 ^ 22 ≤ r.off + n - 1 then
    (match rowsFail s ctx 1 r.gsa 0 1 1 with
      | some x => some x
      | none => some (0x23, (r.gsa + n - 1) % 2 ^ 32, 1))
  else rowsFail s ctx 1 r.gsa 0 n 1

/-- Whether every named free-slot counter is nonzero; a poisoned block yields none, so the `cpm` parks until the poison is lifted (R169;
DESIGN CHOICE, log 86). -/
def creditsReady (s : State) (gsa mask : Nat) : Bool :=
  ((List.range 32).filter (fun i => tb mask i)).all (fun i =>
    decide (leNat (readN (homeByte s) 4 (gsa + 4 * i)) ≠ 0) && !(s.mem.badHome.contains (sectorOf (gsa + 4 * i))))

/-- One taken from every named counter, in one step. -/
def takeCredits (s : State) (gsa mask : Nat) : State :=
  writeHome s (((List.range 32).filter (fun i => tb mask i)).flatMap (fun i =>
    bytesAt (gsa + 4 * i) (leBytes 4 (leNat (readN (homeByte s) 4 (gsa + 4 * i)) - 1))))

/-- Whether the S-stream is parked with the given reason. -/
def parkedAs (u : Unit) (w : Why) : Bool := match u.sS.park with | some p => decide (p.why = w) | none => false

/-- CPM_CREDIT_TAKE: the credits of a parked `cpm` are taken in one step (R169). -/
def execCpmCreditTake (u : UnitId) (s : State) : Res :=
  match s.unit? u with
  | none => .next s
  | some v => match v.sS.park with
    | none => .next s
    | some p => match p.why with
      | .credit g k =>
        if creditsReady s g k then
          .next (takeCredits (spoil (s.setUnit (v.setPark .s (some { p with why := .reported }))) v) g k)
        else .next s
      | _ => .next s

/-- The first failing check of a `cpm` (R169). -/
def cpmFail (s : State) (u : Unit) (a b c : SReg) : Option (Nat × Nat × Nat) :=
  let vals := (groupRegs c 4).map (fun r => (u.rs r).toNat)
  let w := vals.getD 0 0
  let es := ccwEs w
  let len := ccwLen w
  let part := vals.getD 1 0 % 2 ^ 32
  let mk := vals.getD 2 0
  let rs := receivers len part mk (vals.getD 3 0)
  let desc := match descBad c.toNat [ccwBad w, lowMask part es, fld mk 32 5 * 2 ^ 32] with
    | some (r, k) => some (0x30, r, k)
    | none => if mk % 2 ^ 32 = 0 then some (0x30, c.toNat + 2, 64) else none
  let mis := rs.findSome? (fun r => misEnd r.gsa es 4)
  let win := rs.findSome? (fun r => r.fail s u.who.ctx (len + part))
  let cred := match checkGsa s u.who.ctx ((u.rs a).toNat % 2 ^ 32) 128 2 2 with | .bad x y z => some (x, y, z) | .ok _ => none
  firstFail [desc, mis, misEnd (u.rs b).toNat es 3, dvaEnd .dva (u.rs b), win, cred]

/-- The command that a `cpm` hands to its barge (R169). -/
def cpmJob (s : State) (u : Unit) (b c : SReg) : Job :=
  let vals := (groupRegs c 4).map (fun r => (u.rs r).toNat)
  let w := vals.getD 0 0
  let part := vals.getD 1 0 % 2 ^ 32
  { newJob s u (.dva ((u.rs b).toNat % 2 ^ 56)) (.gsa 0) w with
    part := part,
    recv := (receivers (ccwLen w) part (vals.getD 2 0) (vals.getD 3 0)).map (fun r => ({ dst := r.gsa, own := r.own } : Recv)) }

def execCpm (m : Bool) (a b c : SReg) (s : State) : Res :=
  let g := groupRegs c 4
  sWord s (a :: b :: g) (fun u =>
    rightsGate s u u.who.producer 0x2B 0 (
      let vals := g.map (fun r => (u.rs r).toNat)
      let sts := ccwSts (vals.getD 0 0)
      let mask := vals.getD 2 0 % 2 ^ 32
      let credit := (u.rs a).toNat % 2 ^ 32
      failGate s u (cpmFail s u a b c)
        (commandGate s u 0x05 ((u.rs a).toNat :: (u.rs b).toNat :: vals) sts (
          if !u.performs ∨ parkedAs u .reported then .next (handOver s u m sts (cpmJob s u b c))
          else if creditsReady s credit mask then
            .next (takeCredits (handOver s u m sts (cpmJob s u b c)) credit mask)
          else parkAt s u .s (.credit credit mask)))))

/-! ## Batches (R166, R167) -/

def execCbat (m : Bool) (c : SReg) (s : State) : Res :=
  sWord s [c] (fun u =>
    rightsGate s u u.who.producer 0x2C 0 (
      let close (n : Nat) (t : State) : Res := retireS t { u.tookLead with lastBatch := n } m 4 [.s c (BitVec.ofNat 64 n)]
      if u.takes s .s then
        match leadVal s u.who.rset (u.leadKey .s) with
        | none => parkAt s u .s .leader
        | some n => close n s
      else
        let n := u.lastBatch + 1
        let jobs := s.fl.jobs.map (fun (j : Job) => if ownJob s u j ∧ j.batch = none then { j with batch := some n } else j)
        close n (tellReplicas { s with fl := { s.fl with jobs := jobs } } u n)))

/-- Whether a batch at or below `n` is incomplete: one of its commands is outstanding, or the leader has not closed it. -/
def batchOpen (s : State) (u : Unit) (n : Nat) : Bool :=
  (jobsOf s u).any (fun j => match j.batch with | some k => decide (k ≤ n) | none => false)
    || (replicas s u).any (fun v => v.who.leader && decide (v.lastBatch < n))

/-- Whether a fault of the unit has been reported that its next instruction boundary takes: a `cwait` does not retire before it (R165, R167, R280). -/
def reportedFault (u : Unit) : Bool := !u.inHandler && u.trap.imp.any (fun e => !e.held)

def execCwait (m : Bool) (a : SReg) (s : State) : Res :=
  sWord s [a] (fun u =>
    let n := (u.rs a).toNat
    if u.lastBatch < n then trapS s u 0x31 n u.lastBatch
    else if batchOpen s u n || reportedFault u then parkAt s u .s (.batch n)
    else retireW s u .s m)

/-! ## Collectives (R175) -/

/-- The descriptor as it is read. -/
def collOf (op : Nat) (l : List Byte) : Coll :=
  let f (o n : Nat) := leNat ((l.drop o).take n)
  { op := op, src := f 0 8, dst := f 8 8, elems := f 16 4, ty := f 20 1, red := f 21 1, group := f 22 2, root := f 24 4,
    tl := f 32 8 % 4096, val := f 40 8 }

/-- The members of a collective's group. -/
def collSize (s : State) (ctx g : Nat) : Option Nat :=
  ((SMap.look s.ctxs ctx).bind (fun c => SMap.look c.groups g)).map (fun l => l.length)

/-- The byte offset of the first field outside its limits; a root of a word other than `.bc` must be 0 (R175; DEDUCED, log 86). -/
def collBad (s : State) (ctx : Nat) (c : Coll) (l : List Byte) : Option Nat :=
  let f (o n : Nat) := leNat ((l.drop o).take n)
  let size := (collSize s ctx c.group).getD 0
  let splits := decide (c.op = 1) || decide (c.op = 4)
  let eng := match timelineOf s ctx c.tl with | some t => decide (t.owner = .engine) | none => false
  (([(0, decide (2 ^ 56 ≤ c.src)), (8, decide (2 ^ 56 ≤ c.dst)),
     (16, decide (c.elems = 0) || (splits && decide (size ≠ 0) && decide (c.elems % size ≠ 0))), (20, decide (c.ty < 5) || decide (11 < c.ty)),
     (21, if c.op ≤ 1 then decide (2 < c.red) else decide (c.red ≠ 0)), (22, (collSize s ctx c.group).isNone),
     (24, if c.op = 3 then decide (size ≤ c.root) else decide (c.root ≠ 0)), (28, decide (f 28 4 ≠ 0)), (32, !eng),
     (48, decide (f 48 16 ≠ 0))] : List (Nat × Bool)).find? (fun e => e.2)).map (fun e => e.1)

/-- A command whose 64 bytes cannot be read: nothing is enqueued, the fault is imprecise, and a named status register
receives its code (R170). -/
def unreadable (s : State) (u : Unit) (m : Bool) (r : SReg) (gsa status : Nat) : State :=
  let v := u.released .dev
  let w := match statusPend s v r (.status s.fl.seq) with
    | some p => { (if v.who.rset = 0 then v else v.bumpLead .s) with pend := v.pend ++ [{ p with vals := [(0, status)] }] }
    | none => v
  let imp : Imp := { code := 0x43, addr := gsa, info := 0, idx := u.sS.spc, strm := .s, raw := rawAt s u .s, act := 0,
                     origWarp := u.who.warpid.toNat % 32, wgNum := u.who.wgid.toNat % 2 ^ 32, other := false, origCode := 0x43, zero := none, zdst := none, held := false, at_ := 0 }
  let s1 := s.setUnit (w.done .s m [])
  let s2 := { s1 with fl := { s1.fl with seq := s1.fl.seq + 1 } }
  if u.performs then impreciseSet s2 u.id u.who.wg u.who.ctx u.who.grid imp else s2

/-- The 64 bytes of a packet or descriptor as the warp reads them. -/
def read64 (s : State) (u : Unit) (a : Nat) : List Byte := readN (seenByte s u .s s.fl.seq) 64 a

/-- Whether a sector of 64 bytes is poisoned. -/
def bad64 (s : State) (u : Unit) (a : Nat) : Bool := sectorBad s u.die a || sectorBad s u.die (a + 32)

/-- `coll.*` (R175). -/
def collWord (s : State) (m : Bool) (op : Nat) (a c : SReg) : Res :=
  sWord s [a] (fun u =>
    rightsGate s u u.who.producer 0x2F op (
      let g := (u.rs a).toNat % 2 ^ 32
      match checkGsa s u.who.ctx g 64 7 0 with
      | .bad x y z => trapS s u x y z
      | .ok _ =>
        let l := read64 s u g
        let d := collOf op l
        let bad := bad64 s u g
        match if bad then none else collBad s u.who.ctx d l with
        | some o => trapS s u 0x33 g o
        | none => commandGate s u 0x06 (g :: (List.range 8).map (fun i => leNat ((l.drop (8 * i)).take 8))) c (
            if bad then .next (unreadable s u m c g (2 ^ 63 + 2 * 2 ^ 56 + g))
            else .next (handOver s u m c { newJob s u (.dva d.src) (.dva d.dst) 0 with coll := some d }))))

def execCollAr (m : Bool) (a c : SReg) (s : State) : Res := collWord s m 0 a c
def execCollRs (m : Bool) (a c : SReg) (s : State) : Res := collWord s m 1 a c
def execCollAg (m : Bool) (a c : SReg) (s : State) : Res := collWord s m 2 a c
def execCollBc (m : Bool) (a c : SReg) (s : State) : Res := collWord s m 3 a c
def execCollAa (m : Bool) (a c : SReg) (s : State) : Res := collWord s m 4 a c

/-! ## Work lists (R172 to R174) -/

/-- A work list of a context. -/
def listOf (s : State) (ctx n : Nat) : Option WorkList := (SMap.look s.ctxs ctx).bind (fun c => SMap.look c.lists n)

/-- A work list replaced. -/
def setList (s : State) (ctx n : Nat) (w : WorkList) : State :=
  { s with ctxs := SMap.upd s.ctxs ctx (fun c => { c with lists := SMap.put c.lists n w }) }

/-- The bytes of an item. -/
def WorkList.itemSize (w : WorkList) : Nat := if w.wide then 8 else 4

/-- Items in a list. -/
def WorkList.items (w : WorkList) : Nat := w.tail - w.head

/-- An item appended. -/
def appendItem (s : State) (ctx n v : Nat) : State :=
  match listOf s ctx n with
  | none => s
  | some w =>
    let a := w.base + w.tail % 2 ^ w.k * w.itemSize
    setList (writeHome s (bytesAt a (leBytes w.itemSize v))) ctx n { w with tail := w.tail + 1 }

/-- Whether each named list has room for all its items. -/
def listsRoom (s : State) (ctx : Nat) (l : List (Nat × Nat)) : Bool :=
  l.all (fun e => match listOf s ctx e.1 with
    | some w => decide (w.items + (l.filter (fun x => decide (x.1 = e.1))).length ≤ 2 ^ w.k)
    | none => false)

/-- `wapp` (R172). -/
def execWapp (w : LA) (s : State) : Res :=
  let n := tyRegs w.ty
  laneWord s w.g (selRegs w.a n ++ selRegs w.b 1) (fun u i act =>
    let st := slotStrm i
    let items := (lanesOf act).map (fun l => (l, u.opVal .b32 0 w.b l % 4096, u.opVal w.ty 0 w.a l % 2 ^ (32 * n)))
    let bad := items.filter (fun e => match listOf s u.who.ctx e.2.1 with
      | some x => decide (x.itemSize ≠ 4 * n)
      | none => true)
    match bad with
    | e :: _ => takeTrap s u st 0x32 e.2.1 0 (maskOf (fun l => bad.any (fun x => decide (x.1 = l)))) false
    | [] =>
      let own := items.flatMap (fun e => entryBytes 0x83 0 (4 * n) e.1 0 e.2.1 (leBytes (4 * n) e.2.2))
      roomGate s u st items.length (compareGate s u st 0x0C (own ++ pointBytes 0x0C 0 st (u.pcOf st) [])
        (releaseGate s u st .dev (
          let l := items.map (fun e => e.2)
          if u.performs ∧ !listsRoom s u.who.ctx l then
            parkAt s u st (.listRoom (match l with | e :: _ => e.1 | [] => 0))
          else
            thenDo (retireL (spoil s u) (u.released .dev) i w.m 1 0 [])
              (fun t => if u.performs then l.foldl (fun x e => appendItem x u.who.ctx e.1 e.2) t else t)))))

/-- The results of a `wtake`: an item and 1, or 0 alone (R173). -/
def takeRes (c : SReg) (item : Option Nat) : List FRes :=
  match item with
  | some v => [.s c (BitVec.ofNat 64 v), .s (c + 1) 1]
  | none => [.s (c + 1) 0]

/-- What a leader tells its replicas of a take: the item and 1, or 0. -/
def tellTake (item : Option Nat) : Nat := match item with | some v => 2 * v + 1 | none => 0

/-- A `wtake` that ends, with an item or with none. -/
def takeDone (s : State) (u : Unit) (m : Bool) (c : SReg) (item : Option Nat) : Res :=
  let s1 := tellReplicas s u (tellTake item)
  retireS (if item.isSome then spoil s1 u else s1) u.tookLead m 8 (takeRes c item)

/-- `wtake` and `wtake.nb` (R173). The words parked at a list are served in order, and another word takes an item that is left beside theirs. -/
def execWtake (m nb : Bool) (a c : SReg) (s : State) : Res :=
  sWord s [a, c, c + 1] (fun u =>
    let n := (u.rs a).toNat % 4096
    match listOf s u.who.ctx n with
    | none => trapS s u 0x32 n 0
    | some w =>
      let rest := w.waiters.filter (fun x => decide (x ≠ u.id))
      if u.takes s .s then
        match leadVal s u.who.rset (u.leadKey .s) with
        | some v => takeDone s u m c (if v % 2 = 1 then some (v / 2) else none)
        | none => parkAt s u .s (.listItem n)
      else if parkedAs u .reported then takeDone (setList s u.who.ctx n { w with waiters := rest }) u m c none
      else if (if w.waiters.contains u.id then 0 < w.items ∧ w.waiters.head? = some u.id else w.waiters.length < w.items) then
        let v := leNat (readN (homeByte s) w.itemSize (w.base + w.head % 2 ^ w.k * w.itemSize))
        takeDone (setList s u.who.ctx n { w with head := w.head + 1, waiters := rest }) u m c (some v)
      else if nb then takeDone s u m c none
      else
        let ws := if w.waiters.contains u.id then w.waiters else w.waiters ++ [u.id]
        parkAt (setList s u.who.ctx n { w with waiters := ws }) u .s (.listItem n))

/-- `qsnc` (R174). -/
def execQsnc (m : Bool) (s : State) : Res :=
  sWord s [] (fun u =>
    if u.takes s .s then
      match leadVal s u.who.rset (u.leadKey .s) with
      | some _ => retireW s u.tookLead .s m
      | none => parkAt s u .s .quiescence
    else if parkedAs u .reported then retireW (tellReplicas s u 1) u.tookLead .s m
    else parkAt s u .s .quiescence)

/-- Whether a warp is parked in `wtake` or `qsnc` with its lane side idle. -/
def Unit.quiet (u : Unit) : Bool :=
  u.laneIdle && (match u.sS.park with
    | some p => match p.why with | .listItem _ => true | .quiescence => true | _ => false
    | none => false)

/-- Whether a grid still has teams to place. -/
def Grid.placing (g : Grid) : Bool :=
  !g.aborted && (!g.started || g.slabs.any (fun x => decide (x.next < g.pkt.teams)))

/-- Whether a context is quiescent (R174). -/
def quiescent (s : State) (ctx : Nat) : Bool :=
  match SMap.look s.ctxs ctx with
  | none => false
  | some c =>
    c.lists.all (fun w => decide (w.2.items = 0)) && c.kids.all (fun l => l.isEmpty)
      && s.queues.all (fun q => decide (q.2.desc.ctx ≠ ctx) || decide (q.2.tail ≤ q.2.head))
      && s.grids.all (fun g => decide (g.2.ctx ≠ ctx) || !g.2.placing)
      && s.teams.all (fun t => !gridOf s ctx t.2.grid || (match t.2.evicted with
        | some e => e.units.all (fun u => u.who.isLm || u.quiet)
        | none => true))
      && s.units.all (fun u => decide (u.2.who.ctx ≠ ctx) || u.2.who.isLm || u.2.quiet)

/-- A quiet warp that performs effects is told of the quiescence. -/
def Unit.report (u : Unit) : Unit :=
  if u.quiet ∧ u.performs then u.setPark .s (u.sS.park.map (fun p => { p with why := .reported })) else u

/-- QUIESCENCE_REPORT: every parked `wtake` of the context ends without an item and every parked `qsnc` retires; for an
evicted team the report is a wake event (R270). -/
def execQuiescenceReport (ctx : Nat) (s : State) : Res :=
  if quiescent s ctx then
    .next { s with
      units := s.units.map (fun (e : Nat × Unit) => if e.2.who.ctx = ctx then (e.1, e.2.report) else e),
      teams := s.teams.map (fun (t : Nat × Team) => if gridOf s ctx t.2.grid then
        (t.1, { t.2 with evicted := t.2.evicted.map (fun e => { e with units := e.units.map Unit.report, woken := true }) }) else t) }
  else .next s

end Sys2Proof.Machine
end

