-- ==== Sys2Proof/Machine/Barge.lean ====
section
/-! DEFINITION. Engines at work: chunks of copies with their translation (R164, R165, R169, R248 to R250, R320), the end of
a copy (R165, R167), page walks, invalidations, and the end of a collective (R175, R176, R268). -/

namespace Sys2Proof.Machine

/-! ## Places of bytes -/

/-- Where a byte of an endpoint lies: global SRAM (one place, or one for each replica), DRAM, or scale memories. -/
inductive Loc where
  | sram (l : List Nat)
  | dram (p : Phys)
  | scale (cls : List Nat) (a : Nat)
  deriving DecidableEq, Repr

/-- The key under which a copy keeps the source byte that it has overwritten. -/
def Loc.key (l : Loc) : Nat :=
  match l with
  | .sram as => 4 * as.headD 0
  | .dram (.hbm a) => 4 * a + 1
  | .dram (.far a) => 4 * a + 2
  | .dram (.lent t a) => 4 * (t * 2 ^ 48 + a) + 3
  | .scale _ a => 4 * (2 ^ 60 + a)

/-- The number of bytes of DRAM that one translated run may span: to the next page or interleave boundary. -/
def runTo (unit a : Nat) : Nat := unit - a % unit

/-- What translating a DVA gives: a place and the bytes to the next boundary, a wait for a walk, or a fault code. -/
inductive Trans where
  | at_ (p : Phys) (span : Nat)
  | walk
  | fault (code : Nat)
  deriving DecidableEq, Repr

/-- The first-level cache of a job's barge (R249). -/
def Job.cache (j : Job) : Nat := 16 + 4 * j.die + j.barge

/-- The outcome of a walk that failed, kept for its requester: 1000 absent, 1001 uncorrectable. -/
def missAt (s : State) (ctx dva : Nat) : Option Tlb :=
  s.fl.tlb.find? (fun x => decide (1000 ≤ x.place) && decide (x.ctx = ctx) && decide (x.dva = dva / 4096 * 4096))

/-- Translation of a DVA by a barge, whose first-level cache is `place` (R247 to R249, R320). -/
def translate (s : State) (place ctx dva : Nat) (wr : Bool) : Trans :=
  if 2 ^ 56 ≤ dva then .fault 1
  else match lentAt s ctx dva wr with
    | some none => .fault 1
    | some (some p) => .at_ p (runTo 64 dva)
    | none => match tlbAt s place ctx dva <|> tlbAt s (shareOf s ctx dva) ctx dva with
      | some x => match leafPlace s x.entry dva wr with
        | .ok p => .at_ p (runTo 4096 dva)
        | .error c => .fault c
      | none => match missAt s ctx dva with
        | some x => .fault (if x.place = 1000 then 1 else 2)
        | none => .walk

/-- Whether a walk that serves a DVA is in flight at its share (R249). -/
def walkAsked (s : State) (ctx dva : Nat) : Bool := s.fl.walks.any (fun w => decide (w.ctx = ctx) && decide (w.dva / 2 ^ 20 = dva / 2 ^ 20))

/-- A walk asked for, unless one that matches is in flight at the share; a share has 32 at most (R249). -/
def askWalk (s : State) (ctx dva : Nat) : State :=
  let k := shareOf s ctx dva
  if walkAsked s ctx dva ∨ 32 ≤ s.fl.walks.countP (fun w => decide (w.share = k)) then s
  else
    let w : Walk := { id := s.fl.seq, share := k, ctx := ctx, dva := dva / 4096 * 4096 }
    { s with fl := { s.fl with walks := s.fl.walks ++ [w], seq := s.fl.seq + 1 } }

/-- PAGE_WALK_COMPLETE (R249). -/
def execPageWalkComplete (id : Nat) (s : State) : Res :=
  match s.fl.walks.find? (fun w => decide (w.id = id)) with
  | none => .next s
  | some w => .next (walkDone s w)

/-- INVALIDATION_COMPLETE: the caches hold no entry of the range; walks of it start again (R250). -/
def execInvalidationComplete (id : Nat) (s : State) : Res :=
  match s.fl.invals.find? (fun v => decide (v.id = id)) with
  | none => .next s
  | some v =>
    let in_ (ctx a n : Nat) : Bool := decide (ctx = v.ctx) && decide (a ≤ v.last) && decide (v.first < a + n)
    .next { s with fl := { s.fl with
      tlb := s.fl.tlb.filter (fun x => !in_ x.ctx x.dva (if x.place < 1000 then pageBytes x.entry else 4096)),
      nodes := s.fl.nodes.filter (fun x => !in_ x.ctx (x.idx * coverage x.level) (coverage x.level)),
      invals := s.fl.invals.filter (fun x => decide (x.id ≠ id)) } }

/-! ## One chunk -/

/-- A run of a job from place `x` in row order: source and destination offsets from their endpoints, and its length in its
row (R163, R164, R169). -/
def jobSpan (j : Job) (x : Nat) : Nat × Nat × Nat :=
  if j.recv.isEmpty then
    let r := x / j.len
    let o := x % j.len
    let p := r / j.rows
    let q := r % j.rows
    (p * j.spp + q * j.srp + o, p * j.dpp + q * j.drp + o, j.len - o)
  else
    let n := j.len + j.part
    let o := x % n
    match j.recv[x / n]? with
    | some r => if o < j.len then (o, r.dst + o, j.len - o) else (r.own + (o - j.len), r.dst + o, n - o)
    | none => (0, 0, 0)

/-- The bytes that a job moves in all. -/
def Job.total (j : Job) : Nat :=
  if j.recv.isEmpty then j.planes * j.rows * j.len else j.recv.length * (j.len + j.part)

/-- What lies between `a` and `b` outside the listed parts. -/
def gaps (a b : Nat) (l : List (Nat × Nat)) : List (Nat × Nat) :=
  match l with
  | [] => if a < b then [(a, b - a)] else []
  | (x, n) :: t => (if a < x then [(a, x - a)] else []) ++ gaps (x + n) b t

/-- A part entered in order of place. -/
def addPart (l : List (Nat × Nat)) (x n : Nat) : List (Nat × Nat) :=
  match l with
  | [] => [(x, n)]
  | (y, m) :: t => if x ≤ y then (x, n) :: (y, m) :: t else (y, m) :: addPart t x n

/-- The parts of a copy that have not moved. -/
def Job.todo (j : Job) : List (Nat × Nat) := gaps 0 j.total j.moved

/-- The n-th free choice, among `m`. -/
def choose (n m : Nat) : Nat := if m ≤ 1 then 0 else Config.freeNat n % m

/-- Where a copy moves next: any element of what has not moved, and the bytes from there to the next part that has (R164,
log 29). -/
def jobPick (s : State) (j : Job) : Nat × Nat :=
  let l := j.todo
  let r := (l[choose s.free l.length]?).getD (0, 0)
  let k := choose (s.free + 1) (r.2 / 2 ^ j.es) * 2 ^ j.es
  (r.1 + k, r.2 - k)

/-- Where offset `o` of an endpoint lies, and how far a run from there may go; or a wait, or a fault with its address. -/
inductive Side where
  | ok (f : Nat → Loc) (span : Nat)
  | wait (ctx dva : Nat)
  | bad (code addr : Nat)

/-- One end of a chunk from offset `o`. -/
def sideAt (s : State) (j : Job) (e : Endp) (o : Nat) (wr : Bool) : Side :=
  match e with
  | .gsa a =>
    let x := (a + o) % 2 ^ 32
    let kind := if wr then 1 else 0
    if Config.sliceBytes ≤ x % 2 ^ 22 ∨ !admitted s j.ctx (gsaCore x) (x % 2 ^ 22) 1 kind then .bad 3 x
    else .ok (fun i => .sram [x + i]) (runTo 4096 x)
  | .pad ps a =>
    let x := match ps with | p :: _ => (a + o) % p.2 | [] => 0
    .ok (fun i => .sram (ps.map (fun p => p.1 + (x + i) % p.2))) (match ps with | p :: _ => p.2 - x | [] => 1)
  | .scale cls a => .ok (fun i => .scale cls (a + o + i)) 65536
  | .dva a => match translate s j.cache j.ctx (a + o) wr with
    | .at_ p n => .ok (fun i => .dram (p.add i)) n
    | .walk => .wait j.ctx (a + o)
    | .fault c => .bad c (a + o)

/-- A byte of a place as the job reads it. -/
def locByte (s : State) (j : Job) (l : Loc) : Byte :=
  match SMap.look j.pre l.key with
  | some b => b.1
  | none => match l with
    | .sram as => dieByte s j.die (as.headD 0)
    | .dram (.lent t a) => lentByte s t a
    | .dram p => physByte s p
    | .scale cls a => match cls with
      | c :: _ => SMap.get 0 (s.cluster c).engine.scale a
      | [] => 0

/-- Whether a place reads as uncorrectable. -/
def locBad (s : State) (j : Job) (l : Loc) : Bool :=
  match l with
  | .sram as => sectorBad s j.die (as.headD 0)
  | .dram (.lent t a) => match SMap.look s.tenants t with | some x => linePoison s x (a / 64) | none => true
  | .dram p => physBad s p
  | .scale _ _ => false

/-- Whether a place lies in a poisoned sector or granule that only a write of the whole of it makes sound (R233, R363). -/
def Loc.poisoned (s : State) (l : Loc) : Bool :=
  match l with
  | .sram as => as.any (fun a => s.mem.badHome.contains (sectorOf a))
  | .dram (.lent _ _) => false
  | .dram p => physBad s p
  | .scale _ _ => false

/-- The keys of the bytes of a place's sector or granule. -/
def Loc.mates (l : Loc) : List Nat :=
  match l with
  | .sram as => (List.range 32).map (fun k => (Loc.sram [as.headD 0 / 32 * 32 + k]).key)
  | .dram (.hbm a) => (List.range 32).map (fun k => (Loc.dram (.hbm (a / 32 * 32 + k))).key)
  | .dram (.far a) => (List.range 64).map (fun k => (Loc.dram (.far (a / 64 * 64 + k))).key)
  | x => [x.key]

/-- The page or interleave unit of the source from which a place of a copy comes: no chunk crosses its boundary (R164). -/
def Job.unit_ (s : State) (j : Job) (y : Nat) : Nat :=
  match j.src with
  | .dva a =>
    let d := a + (jobSpan j y).1
    match walkCached s j.ctx d with
    | .leaf e => if (pteOf e.toNat).tier = 1 then d / 4096 else d / pageBytes e
    | _ => d / 4096
  | _ => 0

/-- Whether a copy writes the byte with a key from one of its places that `ok` admits. -/
def Job.writes (s : State) (j : Job) (ok : Nat → Bool) (key : Nat) : Bool :=
  (List.range j.total).any (fun y => ok y && (match sideAt s j j.dst (jobSpan j y).2.1 true with
    | .ok g _ => decide ((g 0).key = key)
    | _ => false))

/-- Whether one chunk of a copy may write the whole sector or granule of the place to which byte `x` goes, from places that `ok` admits (log 29). -/
def Job.covers (s : State) (j : Job) (ok : Nat → Bool) (x : Nat) (l : Loc) : Bool :=
  l.mates.all (j.writes s (fun y => ok y && decide (j.unit_ s y = j.unit_ s x)))

/-- Whether a destination place is poisoned and the copy writes only a part of its sector or granule (R233, R363). -/
def partBad (s : State) (j : Job) (x : Nat) (l : Loc) : Bool := l.poisoned s && !j.covers s (fun _ => true) x l

/-- The poison of a place's sector or granule lifted. -/
def Loc.lift (s : State) (l : Loc) : State :=
  match l with
  | .sram as => as.foldl (fun t a => clearBad t (sectorOf a)) s
  | .dram (.hbm a) => { s with mem := { s.mem with badHbm := setDel s.mem.badHbm (a / 32) } }
  | .dram (.far a) => { s with mem := { s.mem with badFar := setDel s.mem.badFar (a / 64) } }
  | _ => s

/-- Whether a place of a copy has been moved. -/
def Job.hasMoved (j : Job) (y : Nat) : Bool := j.moved.any (fun p => decide (p.1 ≤ y) && decide (y < p.1 + p.2))

/-- Poison lifted from the sectors and granules of a run that the copy has written whole by now, in whatever pieces. -/
def liftRun (s : State) (j : Job) (g : Nat → Loc) (x n : Nat) : State :=
  (List.range n).foldl (fun t i => if (g i).poisoned t && j.covers t j.hasMoved (x + i) (g i) then (g i).lift t else t) s

/-- A run of bytes written at its place, with the poison it lifts. -/
def writeRun (s : State) (f : Nat → Loc) (l : List Byte) : State :=
  match f 0 with
  | .sram _ =>
    let pairs := (List.range l.length).flatMap (fun i => match f i with
      | .sram as => as.map (fun a => (a, l.getD i 0))
      | _ => [])
    let s1 := writeHome s pairs
    let secs := (pairs.map (fun b => sectorOf b.1)).dedup
    secs.foldl (fun t sec =>
      if (List.range 32).all (fun k => pairs.any (fun b => decide (b.1 = sec * 32 + k))) then clearBad t sec else t) s1
  | .dram (.lent t a) => writeLent s t a l l.length
  | .dram p => writeDram s p l
  | .scale cls a => cls.foldl (fun t c =>
      let x := t.cluster c
      t.setCluster c { x with engine := { x.engine with
        scale := (bytesAt a l).foldl (fun m b => SMap.set 0 m b.1 b.2) x.engine.scale,
        scaleBad := x.engine.scaleBad.filter (fun k => !(decide (a ≤ k) && decide (k < a + l.length))) } }) s

/-- The snoop that a run of a job on lent memory needs first (R318). -/
def runSnoop (s : State) (j : Job) (l : Loc) (wr : Bool) : Option (Nat × Nat × SnpKind) :=
  match l with
  | .dram (.lent t a) => match SMap.look s.tenants t with
    | some x => (snoopFor x (a / 64) wr (jobWho j.id)).map (fun k => (t, a / 64, k))
    | none => none
  | _ => none

/-- The activation that a run on a stack counts (R242, log 16). -/
def actLoc (s : State) (l : Loc) : State := match l with | .dram p => activate s (atHome s p) | _ => s

/-- Whether the bank of a run takes no activation now (R242). -/
def bankHeld (s : State) (l : Loc) : Bool := match l with | .dram p => bankFull s (atHome s p) | _ => false

/-- A job replaced. -/
def setJob (s : State) (j : Job) : State :=
  { s with fl := { s.fl with jobs := s.fl.jobs.map (fun (x : Job) => if x.id = j.id then j else x) } }

/-- A job that met a fault moves nothing more (R165). -/
def jobFault (s : State) (j : Job) (code addr : Nat) : State := setJob s { j with code := code, info := addr }

/-- The outcome of a failed translation is used up with the fault it gave. -/
def dropNegative (s : State) (ctx dva : Nat) : State :=
  { s with fl := { s.fl with tlb := s.fl.tlb.filter (fun x => !(decide (1000 ≤ x.place) && decide (x.ctx = ctx) && decide (x.dva = dva / 4096 * 4096))) } }

/-- Whether the byte of a later row already stands at the place to which byte `x` of the copy goes (R164). -/
def beaten (j : Job) (x : Nat) (l : Loc) : Bool :=
  match SMap.look j.pre l.key with
  | some b => decide (x + 1 < b.2)
  | none => false

/-- The bytes from place `x` moved from `f` to `g`: as many as go to places of one kind, taken by a later row or not. -/
def moveRun (s : State) (j : Job) (f g : Nat → Loc) (x n0 daddr saddr : Nat) : State :=
  let late := beaten j x (g 0)
  let n := ((List.range n0).takeWhile (fun i => beaten j (x + i) (g i) == late)).length
  let j1 := { j with moved := addPart j.moved x n }
  let s0 := readDone { s with free := s.free + 2 } (jobWho j.id)
  if late then setJob s0 j1
  else match (List.range n).find? (fun i => locBad s j (f i)) with
  | some i => jobFault s j 2 (saddr + i)
  | none =>
    let l := (List.range n).map (fun i => locByte s j (f i))
    let old := (List.range n).map (fun i => ((g i).key, locByte s { j with pre := [] } (g i), x + i + 1))
    let bad := (List.range n).find? (fun i => partBad s j (x + i) (g i))
    let s1 := liftRun (actLoc (actLoc (writeRun s0 g l) (f 0)) (g 0)) j1 g x n
    let pre := old.foldl (fun m e => SMap.put m e.1 (((SMap.look m e.1).map (fun b => b.1)).getD e.2.1, e.2.2)) j.pre
    let j2 := { j1 with pre := pre }
    match bad with
    | some i => jobFault s1 j2 2 (daddr + i)
    | none => setJob s1 j2

/-- The DVA or GSA of an endpoint for a fault report (R165); a pad's bytes are named by their GSA (R24). -/
def endAt (e : Endp) (o : Nat) : Nat :=
  match e with
  | .dva a => a + o
  | .gsa a => (a + o) % 2 ^ 32
  | .pad ps a => match ps with
    | p :: _ => p.1 + (a + o) % p.2
    | [] => a + o
  | .scale _ a => a + o

/-- Both ends of a run translated: the barge's first-level cache holds what it used of the shares (R249). -/
def fillEnds (s : State) (j : Job) (d r : Nat) : State :=
  let one (t : State) (e : Endp) (o : Nat) : State := match e with
    | .dva a => tlbFill t j.cache j.ctx (a + o)
    | _ => t
  one (one s j.dst d) j.src r

/-- Whether a copy's next run waits for a walk, a snoop or a bank that has been asked for already. -/
def jobStuck (s : State) (j : Job) : Bool :=
  let sp := jobSpan j (jobPick s j).1
  let sent (x : Option (Nat × Nat × SnpKind)) : Bool := match x with
    | some (t, l, k) => s.fl.snoops.any (fun y => decide (y.tenant = t) && decide (y.line = l) && decide (y.kind = k))
    | none => false
  let asked (c d : Nat) : Bool := walkAsked s c d || decide (32 ≤ s.fl.walks.countP (fun w => decide (w.share = shareOf s c d)))
  match sideAt s j j.dst sp.2.1 true, sideAt s j j.src sp.1 false with
  | .wait c d, .wait c2 d2 => asked c d && asked c2 d2
  | .wait c d, .ok _ _ => asked c d
  | .ok _ _, .wait c d => asked c d
  | .ok g _, .ok f _ => sent (runSnoop s j (g 0) true) || sent (runSnoop s j (f 0) false) || bankHeld s (f 0) || bankHeld s (g 0)
  | _, _ => false

/-- Whether a copy has runs to move. -/
def Job.moving (j : Job) : Bool := j.coll.isNone && decide (j.code = 0) && decide (j.todo ≠ [])

/-- Whether a copy is pre-empted: its barge has a run to move for one of a higher class (R267, R268). -/
def outranked (s : State) (j : Job) : Bool :=
  s.fl.jobs.any (fun k => decide (j.cls < k.cls) && decide (k.die = j.die) && decide (k.barge = j.barge) && k.moving && !jobStuck s k)

/-- BARGE_CHUNK_MOVE: a run of a copy, at most 64 KiB and split at page, tier and interleave boundaries (R164). -/
def execBargeChunkMove (id : Nat) (s : State) : Res :=
  match s.fl.jobs.find? (fun j => decide (j.id = id)) with
  | none => .next s
  | some j =>
    if !j.moving || outranked s j then .next s
    else
      let at_ := jobPick s j
      let sp := jobSpan j at_.1
      match sideAt s j j.dst sp.2.1 true, sideAt s j j.src sp.1 false with
      | .bad c a, _ => .next (jobFault (dropNegative s j.ctx a) j c a)
      | _, .bad c a => .next (jobFault (dropNegative s j.ctx a) j c a)
      | .wait c d, .wait c2 d2 => .next (askWalk (askWalk s c d) c2 d2)
      | .wait c d, _ => .next (askWalk s c d)
      | _, .wait c d => .next (askWalk s c d)
      | .ok g gn, .ok f fn =>
        match runSnoop s j (g 0) true, runSnoop s j (f 0) false with
        | some (t, l, k), _ => .next (sendSnoop s t l k (.read (jobWho id)))
        | none, some (t, l, k) => .next (sendSnoop s t l k (.read (jobWho id)))
        | none, none =>
          if bankHeld s (f 0) || bankHeld s (g 0) then .next s
          else .next (moveRun (fillEnds s j sp.2.1 sp.1) j f g at_.1 (min (min (min sp.2.2 at_.2) 65536) (min gn fn))
            (endAt j.dst sp.2.1) (endAt j.src sp.1))

/-! ## Ends of commands (R165, R167, R176) -/

/-- A status word. -/
def statusWord (code info : Nat) : Nat := 2 ^ 63 + code % 2 ^ 7 * 2 ^ 56 + info % 2 ^ 56

/-- A status word delivered to the register that waits for it; one of an exited warp is dropped. -/
def deliver (s : State) (u : UnitId) (what : PWhat) (v : Nat) : State :=
  match s.unit? u with
  | none => s
  | some x => s.setUnit { x with pend := x.pend.map (fun (p : Pend) => if p.what = what then { p with vals := [(0, v)] } else p) }

/-- The end of a command: the status word, the imprecise fault of one that faulted, and the engine free of it. -/
def endJob (s : State) (j : Job) : State :=
  let s1 := { s with fl := { s.fl with jobs := s.fl.jobs.filter (fun x => decide (x.id ≠ j.id)) } }
  let w := statusWord j.code j.info
  let s2 := deliver s1 j.unit (.status j.id) w
  if j.code = 0 then s2
  else impreciseSet s2 j.unit j.wgroup j.ctx j.grid
    { code := 0x40, addr := j.info, info := w, idx := j.idx, strm := .s, raw := j.raw, act := 0,
      origWarp := j.warp, wgNum := j.wgNum, other := false, origCode := 0x40, zero := none, zdst := none, held := false, at_ := 0 }

/-- COPY_COMPLETE. -/
def execCopyComplete (id : Nat) (s : State) : Res :=
  match s.fl.jobs.find? (fun j => decide (j.id = id)) with
  | none => .next s
  | some j => if j.coll.isNone ∧ (j.code ≠ 0 ∨ j.todo = []) then .next (endJob s j) else .next s

/-- Bytes of an element of a collective's type (R60). -/
def collBytes (ty : Nat) : Nat :=
  match ty with
  | 5 | 6 => 4
  | 7 | 8 | 12 => 8
  | 9 | 10 => 2
  | _ => 4

/-- Elements of a collective's result at one rank. -/
def Coll.outElems (c : Coll) (n : Nat) : Nat :=
  match c.op with
  | 1 => c.elems / n
  | 2 => c.elems * n
  | _ => c.elems

/-- One step of a reduction, op 0 add, 1 min, 2 max: integer add wraps, and a float add rounds RNE, keeps subnormals and raises nothing;
min and max are those of R113 (R176). -/
def collStep (ty red a b : Nat) : Nat :=
  let flt (f : Fmt) : Nat := match red with
    | 0 => (elAdd f .rne false false false a b 0).1
    | 1 => (elMin f .rne false false false a b 0).1
    | _ => (elMax f .rne false false false a b 0).1
  let int (w : Nat) (g : Bool) : Nat := match red with
    | 0 => inAdd w g false a b 0
    | 1 => inMin w g false a b 0
    | _ => inMax w g false a b 0
  match ty with
  | 5 => int 32 false
  | 6 => int 32 true
  | 7 => int 64 false
  | 8 => int 64 true
  | 9 => flt .f16
  | 10 => flt .bf16
  | _ => flt .f32

/-- The reduction of a list in ascending rank order. -/
def collFold (ty red : Nat) (l : List Nat) : Nat :=
  match l with
  | [] => 0
  | x :: t => t.foldl (collStep ty red) x

/-- Element `e` of the result at rank `r` of `n`, from element `i` of rank `q`'s source as `x q i` (R176). -/
def Coll.result (c : Coll) (n r : Nat) (x : Nat → Nat → Nat) (e : Nat) : Nat :=
  let part := c.elems / n
  match c.op with
  | 0 => collFold c.ty c.red ((List.range n).map (fun q => x q e))
  | 1 => collFold c.ty c.red ((List.range n).map (fun q => x q (r * part + e)))
  | 2 => x (e / c.elems) (e % c.elems)
  | 3 => x c.root e
  | _ => x (e / part) (r * part + e % part)

/-- Element `i` of a list of bytes with elements of `z` bytes. -/
def elemAt (z : Nat) (l : List Byte) (i : Nat) : Nat := leNat ((l.drop (i * z)).take z)

/-- An element that another device contributes: free, and the same wherever it is used (log 17). -/
def peerElem (base n z q i : Nat) : Nat :=
  let k := base + 2 * (i * n + q)
  ((Config.freeHalf k).toNat + (Config.freeHalf (k + 1)).toNat * 2 ^ 32) % 2 ^ (8 * z)

/-- The rank of this device in a group (log 17). -/
def myRank (s : State) (ctx g : Nat) : Nat :=
  (((SMap.look s.ctxs ctx).bind (fun c => SMap.look c.groups g)).getD []).idxOf Config.deviceId

/-- The result of a collective of `n` ranks at rank `r`: of one rank it is the source (R176). -/
def collResult (s : State) (c : Coll) (n r : Nat) (src : List Byte) : List Byte :=
  if n ≤ 1 then src
  else
    let z := collBytes c.ty
    let x (q i : Nat) : Nat := if q = r then elemAt z src i else peerElem s.free n z q i
    (List.range (c.outElems n)).flatMap (fun e => leBytes z (c.result n r x e))

/-- The first byte of a piece at a place that lies in a poisoned granule of which the piece covers only a part (R363). -/
def partOf (s : State) (p : Phys) (n : Nat) : Option Nat :=
  match p with
  | .hbm a => (List.range n).find? (fun i => physBad s (p.add i) && (decide (i < (a + i) % 32) || decide (n < i + (32 - (a + i) % 32))))
  | .far a => (List.range n).find? (fun i => physBad s (p.add i) && (decide (i < (a + i) % 64) || decide (n < i + (64 - (a + i) % 64))))
  | .lent _ _ => none

/-- Bytes written at DVAs in pieces within 64 aligned bytes, and the code and the address of the first that fails: a translation fault, or a
part of a poisoned granule, whose bytes are stored (R165, R363); `fuel` bounds the pieces. -/
def putDva (s : State) (ctx dva : Nat) (l : List Byte) (fuel : Nat) : State × Option (Nat × Nat) :=
  match fuel with
  | 0 => (s, none)
  | k + 1 =>
    if l.isEmpty then (s, none)
    else
      let c := 64 - dva % 64
      match dvaPhys s ctx dva true with
      | .error x => (s, some (x, dva))
      | .ok p =>
        let one := l.take c
        let s1 := match p with
          | .lent t a => writeLine s t (a / 64) (bytesAt a one)
          | q => writeDram s q one
        let s2 := activate (useDva s1 ctx dva) (atHome s p)
        match partOf s p one.length with
        | some i => (s2, some (2, dva + i))
        | none => putDva s2 ctx (dva + c) (l.drop c) k

/-- A result of which some elements did not come: each element keeps its old value, untouched, or takes its new one (R176). -/
def putSome (s : State) (base ctx dva z : Nat) (l : List Byte) : State :=
  (List.range (l.length / z)).foldl (fun t e =>
    if Config.freeBool (base + e) then t else (putDva t ctx (dva + e * z) ((l.drop (e * z)).take z) 2).1) s

/-- The first snoop that a collective's access to `n` bytes from a DVA needs (R318). -/
def collSnoop (s : State) (j : Job) (dva n : Nat) (wr : Bool) : Option (Nat × Nat × SnpKind) :=
  (List.range ((n + 63) / 64)).findSome? (fun i => match dvaPhys s j.ctx (dva + 64 * i) wr with
    | .ok p => runSnoop s j (.dram p) wr
    | .error _ => none)

/-- The snoop that a collective waits for. -/
def Job.collWait (s : State) (j : Job) (c : Coll) : Option (Nat × Nat × SnpKind) :=
  let n := (collSize s j.ctx c.group).getD 1
  collSnoop s j c.src (c.elems * collBytes c.ty) false <|> collSnoop s j c.dst (c.outElems n * collBytes c.ty) true

/-- Whether a collective of a higher class is outstanding (R268). -/
def collOutranked (s : State) (j : Job) : Bool := s.fl.jobs.any (fun k => k.coll.isSome && decide (j.cls < k.cls))

/-- COLLECTIVE_COMPLETE: the result is written, the timeline takes its value by max, and the status word is written; where a fabric path to a
member is lost, the result is partial and the code 4, with the destination's DVA for its info (DESIGN CHOICE, log 17: no address is at fault) (R165, R176). -/
def execCollectiveComplete (id : Nat) (lost : Bool) (s : State) : Res :=
  match s.fl.jobs.find? (fun j => decide (j.id = id)) with
  | none => .next s
  | some j => match j.coll with
    | none => .next s
    | some c =>
      if collOutranked s j then .next s
      else match j.collWait s c with
        | some (t, l, k) => .next (sendSnoop s t l k (.read (jobWho id)))
        | none =>
          let n := (collSize s j.ctx c.group).getD 1
          let z := collBytes c.ty
          let s0 := touchDva (readDone s (jobWho id)) j.ctx c.src (c.elems * z)
          match readRun s j.ctx c.src (c.elems * z) with
          | .error (code, a) => .next (endJob s0 { j with code := code, info := a })
          | .ok src =>
            let new := collResult s c n (myRank s j.ctx c.group) src
            let s1 := { s0 with free := s0.free + (if n ≤ 1 ∧ !lost then 0 else 2 * n * c.elems + new.length) }
            if lost then .next (endJob (putSome s1 s0.free j.ctx c.dst z new) { j with code := 4, info := c.dst })
            else
              let r := putDva s1 j.ctx c.dst new new.length
              match r.2 with
              | some (code, a) => .next (endJob r.1 { j with code := code, info := a })
              | none => .next (endJob (raiseTimeline r.1 j.ctx c.tl c.val) j)

/-! ## Which events are due -/

/-- The event of a job that is due, none where the job waits. -/
def jobTurn (s : State) (j : Job) : Option Instr :=
  match j.coll with
  | some c =>
    let sent : Bool := match j.collWait s c with
      | some (t, l, k) => s.fl.snoops.any (fun y => decide (y.tenant = t) && decide (y.line = l) && decide (y.kind = k))
      | none => false
    if sent || collOutranked s j then none else some (Instr.collectiveComplete j.id (decide (16 ≤ s.plant.deadLinks.length)))
  | none =>
    if j.code ≠ 0 ∨ j.todo = [] then some (Instr.copyComplete j.id)
    else if jobStuck s j || outranked s j then none
    else some (Instr.bargeChunkMove j.id)

def dueJob (s : State) : Option Instr := s.fl.jobs.findSome? (jobTurn s)

def dueWalk (s : State) : Option Instr := s.fl.walks.head?.map (fun w => Instr.pageWalkComplete w.id)

def dueInval (s : State) : Option Instr := s.fl.invals.head?.map (fun v => Instr.invalidationComplete v.id)

def dueSnoop (s : State) : Option Instr :=
  s.fl.snoops.findSome? (fun x => if x.at_ + 100000 ≤ s.clk.now then some (Instr.bisnpTimeout x.id) else none)

def dueBank (s : State) : Option Instr :=
  s.plant.banks.findSome? (fun e => if s.set.level ≤ e.2 then
    some (Instr.refreshMgmtIssue (e.1 / 32768) (e.1 / 1024 % 32) (e.1 % 1024)) else none)

def dueCredit (s : State) : Option Instr :=
  s.units.findSome? (fun e => match e.2.sS.park with
    | some p => match p.why with
      | .credit g k => if creditsReady s g k then some (Instr.cpmCreditTake e.2.id) else none
      | _ => none
    | none => none)

def dueQuiet (s : State) : Option Instr :=
  s.ctxs.findSome? (fun c =>
    if s.units.any (fun e => decide (e.2.who.ctx = c.1) && e.2.quiet) && quiescent s c.1 then some (Instr.quiescenceReport c.1)
    else none)

/-- The first event of the engines that is due, in a fixed order (log 1). -/
def engineDue (s : State) : Option Instr :=
  dueWalk s <|> dueInval s <|> dueSnoop s <|> dueBank s <|> dueCredit s <|> dueJob s <|> dueQuiet s

end Sys2Proof.Machine
end

