-- ==== Sys2Proof/Machine/Launch.lean ====
section
/-! DEFINITION. Launch packets and lading lists, their checks (R49, R256, R257), the `launch` word (R170, R171), and the
hardware queues with their doorbells and scanner (R253 to R255, R259, R260). -/

namespace Sys2Proof.Machine

/-! ## Reading through translation -/

/-- What a scanner or distributor reads: bytes, a snoop that must be answered first, or the address of a fault. -/
inductive Seen where
  | ok (l : List Byte)
  | snoop (t line : Nat) (k : SnpKind)
  | bad (a : Nat)
  deriving DecidableEq, Repr

/-- The byte that requester `who` reads at a place; a fault names the address `a` of the read. -/
def seeAt (s : State) (who a : Nat) (p : Phys) : Seen :=
  match p with
  | .lent t x => (match SMap.look s.tenants t with
    | none => .bad a
    | some y =>
      if y.size ≤ x then .bad a
      else match snoopFor y (x / 64) false who with
        | some k => .snoop t (x / 64) k
        | none => if placeBad s p then .bad a else .ok [placeByte s p])
  | _ => if placeBad s p then .bad a else .ok [placeByte s p]

/-- One byte at a DVA (R245, R320). -/
def seeByte (s : State) (who ctx dva : Nat) : Seen :=
  match dvaPhys s ctx dva false with
  | .ok p => seeAt s who dva p
  | .error _ => .bad dva

/-- `n` bytes upward from `a`, each read by `f`. -/
def seeAll (f : Nat → Seen) (n a : Nat) : Seen :=
  match n with
  | 0 => .ok []
  | k + 1 => match f a with
    | .ok l => match seeAll f k (a + 1) with
      | .ok r => .ok (l ++ r)
      | x => x
    | x => x

/-! ## The packet (R256) -/

/-- The fields of 64 packet bytes. -/
def packetOf (l : List Byte) : Packet :=
  let w (n : Nat) := leNat ((l.drop (4 * n)).take 4)
  let d (n : Nat) := leNat ((l.drop (8 * n)).take 8)
  { sbase := w 0, lbase := w 1, sentry := fld (w 2) 0 20, warps := fld (w 2) 20 5, producer := fld (w 2) 25 5,
    wgs := fld (w 2) 30 2, slen := fld (w 3) 0 20, mtl := fld (w 3) 20 12, lmentry := fld (w 4) 0 20,
    energy := fld (w 4) 20 3, cls := fld (w 4) 23 2, redund := fld (w 4) 25 2, slabs := fld (w 4) 27 3,
    lm := tb (w 4) 30, llen := fld (w 5) 0 20, ladn := fld (w 5) 20 5, mtk := fld (w 5) 25 4, pad := fld (w 6) 0 22,
    bufsz := fld (w 6) 22 4, bufn := fld (w 6) 26 2, teams := fld (w 7) 0 16, maxrun := fld (w 7) 16 12,
    lading := d 4, deadline := w 10, wtl := fld (w 11) 0 12, ctl := fld (w 11) 12 12, wen := tb (w 11) 24,
    cen := tb (w 11) 25, wval := d 6, cval := d 7,
    reserved := tb (w 4) 31 || decide (fld (w 5) 29 3 ≠ 0) || decide (fld (w 6) 28 4 ≠ 0)
      || decide (fld (w 7) 28 4 ≠ 0) || decide (fld (w 11) 26 6 ≠ 0) }

/-- One lading record (R49). -/
def ladingOf (l : List Byte) : Lading :=
  { src := leNat (l.take 8), dst := leNat ((l.drop 8).take 4), size := leNat ((l.drop 12).take 3),
    kind := leNat ((l.drop 15).take 1) }

/-- The records of a list. -/
def ladingsOf (n : Nat) (l : List Byte) : List Lading :=
  match n with
  | 0 => []
  | k + 1 => ladingOf l :: ladingsOf k (l.drop 16)

/-- A record that makes the packet take rcode 5 (R49), or whose source is no DVA (R27). -/
def Lading.bad (x : Lading) : Bool :=
  decide (2 ^ 56 ≤ x.src) || decide (2 ≤ x.kind) || decide (x.size = 0) || decide (3145728 < x.size) || decide (x.size % 4 ≠ 0)
    || decide (x.dst % 4 ≠ 0)

/-- The pad bytes reserved: the declared size rounded up to a power of two of at least 256 (R24). -/
def padOf (n : Nat) : Nat := if n ≤ 256 then 256 else 2 ^ (Nat.log2 (n - 1) + 1)

/-- The weight of an energy class (R263). -/
def weightOf (c : Nat) : Nat := [1, 2, 3, 4, 6, 8, 12, 16].getD c 16

/-- The energy charge of a workgroup of the packet (R263). -/
def Packet.charge (p : Packet) : Nat := weightOf p.energy * (p.warps + 1)

/-- Bytes of one cluster buffer of the packet. -/
def Packet.bufBytes (p : Packet) : Nat := if p.bufsz = 0 then 0 else 256 * 2 ^ (p.bufsz - 1)

/-- Whether an image breaks R9 or crosses its slice. -/
def imageBad (base len width align : Nat) : Bool :=
  decide (base % align ≠ 0) || decide (Config.sliceBytes < base % 2 ^ 22 + len * width)

/-- Whether timeline `n` of a context is owned as `ok` says. -/
def tlOwned (s : State) (ctx n : Nat) (ok : TlOwner → Bool) : Bool :=
  match timelineOf s ctx n with
  | some t => ok t.owner
  | none => false

/-- The first failing check of R257 in the order of its reason codes; `lads` none where the list cannot be read. -/
def packetCheck (s : State) (ctx : Nat) (p : Packet) (lads : Option (List Lading)) : Option Nat :=
  if p.reserved then some 1
  else if imageBad p.sbase p.slen 4 4 || imageBad p.lbase p.llen 12 16 || decide (p.slen ≤ p.sentry)
      || (p.lm && decide (p.slen ≤ p.lmentry)) then some 2
  else if p.teams = 0 ∨ p.warps < p.producer then some 3
  else if 2097152 < p.pad ∨ p.bufsz = 15 ∨ s.set.budget < p.charge then some 4
  else if 16 < p.ladn ∨ 2 ^ 56 ≤ p.lading ∨ (lads.getD []).any Lading.bad then some 5
  else if (p.wen && (timelineOf s ctx p.wtl).isNone)
      || (p.cen && !tlOwned s ctx p.ctl (fun o => decide (o = .software)))
      || (p.lm && (decide (4095 < p.mtl + 2 ^ p.mtk - 1) ||
          !(List.range (2 ^ p.mtk)).all (fun i => tlOwned s ctx (p.mtl + i) (fun o => decide (o = .engine))))) then some 6
  else if p.redund = 3 ∨ (p.redund = 1 ∧ 3 < p.slabs) ∨ (p.redund = 2 ∧ 1 < p.slabs) then some 7
  else if (match SMap.look s.ctxs ctx with | some c => c.resetting | none => true) then some 8
  else if lads.isNone then some 9
  else none

/-- The lading list of a packet as it reads now; nothing is read where rcode 5 already applies. -/
def readLads (s : State) (who ctx : Nat) (p : Packet) : Seen :=
  if 16 < p.ladn ∨ 2 ^ 56 ≤ p.lading then .ok [] else seeAll (seeByte s who ctx) (16 * p.ladn) p.lading

/-- The activations that reading it counts (R242). -/
def touchLads (s : State) (ctx : Nat) (p : Packet) : State :=
  if 16 < p.ladn ∨ 2 ^ 56 ≤ p.lading then s else touchDva s ctx p.lading (16 * p.ladn)

/-- A grid made from a packet that passed its checks, not yet started (R261). -/
def newGrid (ctx num depth : Nat) (parent queue : Option Nat) (p : Packet) (lads : List Lading) (enq : Nat) : Grid :=
  { ctx := ctx, num := num, depth := depth, parent := parent, queue := queue, pkt := p, lads := lads, enq := enq,
    order := 0, started := false, slabs := [], aborted := false, missed := false, kids := 0, ctr := none }

/-- The next grid number of a context, which wraps at 2^32 (R18). -/
def takeNum (s : State) (ctx : Nat) : State × Nat :=
  match SMap.look s.ctxs ctx with
  | some c => ({ s with ctxs := SMap.put s.ctxs ctx { c with nextGrid := (c.nextGrid + 1) % 2 ^ 32 } }, c.nextGrid)
  | none => (s, 0)

/-! ## The launch word (R170, R171) -/

/-- A child packet put into its class's queue, and one more child counted at its parent (R171, R253). -/
def addChild (s : State) (u : Unit) (p : Packet) (lads : List Lading) : State × Nat :=
  let r := takeNum s u.who.ctx
  let x : Child := { pkt := p, lads := lads, depth := fld u.who.gridid.toNat 32 4 + 1, parent := u.who.grid,
                     enq := s.tclk, num := r.2 }
  let s1 : State := { r.1 with
    ctxs := SMap.upd r.1.ctxs u.who.ctx (fun c => { c with kids := c.kids.set p.cls (c.kids.getD p.cls [] ++ [x]) }),
    grids := SMap.upd r.1.grids u.who.grid (fun g => { g with kids := g.kids + 1 }) }
  (s1, r.2)

/-- The child packets of a class that wait in a context. -/
def kidsOf (s : State) (ctx cls : Nat) : List Child :=
  match SMap.look s.ctxs ctx with
  | some c => c.kids.getD cls []
  | none => []

/-- The outcome of a launch that performs: the machine, the code and the info of its status word (R165, R170). -/
def launchRun (s : State) (u : Unit) (p : Packet) (lads : Option (List Lading)) : State × Nat × Nat :=
  if 10 ≤ fld u.who.gridid.toNat 32 4 then (s, 1, 0)
  else match packetCheck s u.who.ctx p lads with
    | some rc => (s, 2, rc * 2 ^ 32)
    | none =>
      if 256 ≤ (kidsOf s u.who.ctx p.cls).length then (s, 3, 0)
      else
        let r := addChild s u p (lads.getD [])
        (r.1, 0, r.2)

/-- A launch retires with the outcome of the performing unit; a failure without a status register is imprecise. -/
def launchDone (s : State) (u : Unit) (m : Bool) (c : SReg) (code info : Nat) : State :=
  let w := statusWord code info
  let v := u.released .dev
  let x := match statusPend s v c (.launch s.fl.seq) with
    | some p => { (if v.who.rset = 0 then v else v.bumpLead .s) with
        pend := v.pend ++ [if u.performs then { p with vals := [(0, w)] } else p] }
    | none => v
  let s1 := spoil (s.setUnit (x.done .s m [])) x
  let s2 := { s1 with fl := { s1.fl with seq := s1.fl.seq + 1 } }
  if u.performs ∧ code ≠ 0 ∧ c = 0 then
    impreciseSet s2 u.id u.who.wg u.who.ctx u.who.grid
      { code := 0x41, addr := 0, info := w, idx := u.sS.spc, strm := .s, raw := rawAt s u .s, act := 0,
        origWarp := u.who.warpid.toNat % 32, wgNum := u.who.wgid.toNat % 2 ^ 32, other := false, origCode := 0x41, zero := none, zdst := none, held := false, at_ := 0 }
  else s2

/-- `launch` (R170). -/
def execLaunch (m : Bool) (a c : SReg) (s : State) : Res :=
  sWord s [a] (fun u =>
    rightsGate s u (teamLeader u) 0x2D 0 (
      let g := (u.rs a).toNat % 2 ^ 32
      match checkGsa s u.who.ctx g 64 7 0 with
      | .bad x y z => trapS s u x y z
      | .ok _ =>
        let l := read64 s u g
        let p := packetOf l
        statusGate s u c (
          roomGate s u .s 1 (cmdGate s u .s 0x07 (g :: (List.range 8).map (fun i => leNat ((l.drop (8 * i)).take 8)))
            (releaseGate s u .s .dev (
              if bad64 s u g then .next (unreadable s u m c g (statusWord 2 (9 * 2 ^ 32)))
              else if !u.performs then .next (launchDone s u m c 0 0)
              else match readLads s (unitWho u.id) u.who.ctx p with
                | .snoop t line k => parkAt (sendSnoop s t line k (.read (unitWho u.id))) u .s .results
                | r =>
                  let lads : Option (List Lading) := match r with | .ok l => some (ladingsOf p.ladn l) | _ => none
                  let o := launchRun (readDone (touchLads s u.who.ctx p) (unitWho u.id)) u p lads
                  .next (launchDone o.1 u m c o.2.1 o.2.2)))))))

/-! ## Doorbells (R254, R255) -/

/-- The queue with index `i` of a tenant: the doorbell BAR of a tenant reaches only its own (R310). -/
def tenantQueue (s : State) (t i : Nat) : Option (Nat × HwQueue) :=
  s.queues.find? (fun e => decide (e.2.desc.tenant = some t) && decide (e.2.tidx = i))

/-- What a read of 8 bytes of a tenant's doorbell BAR gives (R254). -/
def barRead (s : State) (t off : Nat) : Word :=
  match tenantQueue s t (off / 64) with
  | none => 0
  | some (_, h) => match off % 64 with
    | 0 => BitVec.ofNat 64 h.tail
    | 8 => BitVec.ofNat 64 h.head
    | 16 => h.stat
    | _ => 0

/-- A queue's vector raised for the tenant it is bound to. -/
def queueVec (s : State) (h : HwQueue) : State :=
  match h.desc.tenant with
  | some t => raiseVec s t h.desc.vector
  | none => s

/-- A write of `qtail` at a doorbell of a tenant's BAR. -/
def execQtailWrite (b : BellAt) (v : Word) (s : State) : Res :=
  match tenantQueue s b.tenant b.idx with
  | none => .next s
  | some (q, h) =>
    let r := h.tailTo v.toNat s.tclk
    let s1 := setQueue s q r.1
    .next (if r.2 then queueVec s1 h else s1)

/-- The bits of `qstat` that a write of 1 clears: err skips the packet at head and resumes; ovf is cleared. -/
def HwQueue.clearStat (h : HwQueue) (v : Word) : HwQueue :=
  let skip := v.getLsbD 0 && h.stat.getLsbD 0
  { h with
    stat := h.stat &&& ~~~(v &&& 3),
    head := if skip then h.head + 1 else h.head,
    enqs := if skip then h.enqs.filter (fun e => decide (h.head + 1 < e.1)) else h.enqs }

/-- A write of `qstat` at a doorbell of a tenant's BAR. -/
def execQstatWrite (b : BellAt) (v : Word) (s : State) : Res :=
  match tenantQueue s b.tenant b.idx with
  | none => .next s
  | some (q, h) => .next (setQueue s q (h.clearStat v))

/-- Every other offset of a doorbell BAR ignores writes. -/
def execDoorbellOtherWrite (_t _off : Nat) (_v : Word) (s : State) : Res := .next s

/-! ## The scanner (R253, R259, R260) -/

/-- The 64 bytes of packet `i` of a ring. -/
def ringRead (s : State) (who : Nat) (h : HwQueue) (i : Nat) : Seen :=
  let a := h.desc.ring + i % 2 ^ h.desc.k * 64
  if h.desc.ringDva then seeAll (seeByte s who h.desc.ctx) 64 a
  else match ringTenant s h with
    | some t => seeAll (fun x => seeAt s who x (.lent t x)) 64 a
    | none => .bad a

/-- The activation that reading it counts (R242). -/
def touchRing (s : State) (h : HwQueue) (i : Nat) : State :=
  let a := h.desc.ring + i % 2 ^ h.desc.k * 64
  if h.desc.ringDva then touchDva s h.desc.ctx a 64
  else match ringTenant s h with
    | some t => activate s (atHome s (.lent t a))
    | none => s

/-- The packet at the head of a queue: its context, the packet or none where it cannot be read, its enqueue time and,
for a child, the rest of what its launch fixed. -/
structure Head where
  ctx : Nat
  pkt : Option Packet
  enq : Nat
  kid : Option Child
  deriving DecidableEq, Repr

/-- The time at which the tail that covers packet `i` was accepted (R259). -/
def enqTime (h : HwQueue) (i : Nat) : Nat :=
  match h.enqs.find? (fun e => decide (i < e.1)) with
  | some e => e.2
  | none => 0

/-- Whether a grid that the queue has given still waits to start (R261). -/
def waiting (s : State) (src : QSrc) : Bool :=
  s.grids.any (fun g => !g.2.started && (match src with
    | .hw q => decide (g.2.queue = some q)
    | .child c k => decide (g.2.queue = none) && decide (g.2.ctx = c) && decide (g.2.pkt.cls = k)))

/-- What stands at the head of a queue. -/
inductive HeadAt where
  | none
  | snoop (t line : Nat) (k : SnpKind)
  | some (h : Head)
  deriving DecidableEq, Repr

/-- The head of a queue that is not stopped. -/
def headOf (s : State) (src : QSrc) : HeadAt :=
  if waiting s src then .none
  else match src with
    | .child c k => match kidsOf s c k with
      | x :: _ => .some { ctx := c, pkt := Option.some x.pkt, enq := x.enq, kid := Option.some x }
      | [] => .none
    | .hw q => match SMap.look s.queues q with
      | Option.none => .none
      | Option.some h =>
        let crashed : Bool := match h.desc.tenant.bind (fun t => SMap.look s.tenants t) with | Option.some t => t.crashed | Option.none => false
        if h.tail ≤ h.head ∨ (h.stat &&& 5) ≠ 0 ∨ crashed = true then .none
        else match ringRead s (queueWho q) h h.head with
          | .ok l => .some { ctx := h.desc.ctx, pkt := Option.some (packetOf l), enq := enqTime h h.head, kid := Option.none }
          | .bad _ => .some { ctx := h.desc.ctx, pkt := Option.none, enq := enqTime h h.head, kid := Option.none }
          | .snoop t a k => .snoop t a k

/-- Whether a head packet is ready: its wait-on timeline holds its value (R259). A packet that names no allocated
timeline, or cannot be read, is ready, and is then rejected. -/
def Head.ready (s : State) (h : Head) : Bool :=
  match h.pkt with
  | none => true
  | some p => !p.wen || (match timelineOf s h.ctx p.wtl with | some t => decide (p.wval ≤ t.val) | none => true)

/-- The class of a head packet. -/
def Head.cls (h : Head) : Nat := match h.pkt with | some p => p.cls | none => 0

/-- The place of a queue in the round-robin order: child queues follow the hardware queues. -/
def srcKey (src : QSrc) : Nat := match src with | .hw q => q | .child c k => 65536 + c * 4 + k

/-- Every queue of the package. -/
def allSrcs (s : State) : List QSrc :=
  s.queues.map (fun q => QSrc.hw q.1) ++ s.ctxs.flatMap (fun c => (List.range 4).map (fun k => QSrc.child c.1 k))

/-- The ready heads, with their queues. -/
def readyHeads (s : State) : List (QSrc × Head) :=
  (allSrcs s).filterMap (fun q => match headOf s q with
    | .some h => if h.ready s then some (q, h) else none
    | _ => none)

/-- The class that the scanner serves next among those with a ready head: one that has seen 60 starts of others, else the
highest (R260). -/
def classNext (s : State) (l : List (QSrc × Head)) : Option Nat :=
  let has := (List.range 4).filter (fun c => l.any (fun e => decide (e.2.cls = c)))
  let due := has.filter (fun c => decide (c < 3) && decide (60 ≤ SMap.get 0 s.sch.starve c))
  match leastBy (fun c => 1000000 - SMap.get 0 s.sch.starve c) due with
  | some c => some c
  | none => has.getLast?

/-- The queue whose head the scanner takes next (R260). -/
def scanPick (s : State) : Option QSrc :=
  let l := readyHeads s
  match classNext s l with
  | none => none
  | some c =>
    let m := l.filter (fun e => decide (e.2.cls = c))
    if c = 3 then
      (leastBy (fun e => (e.2.enq + (match e.2.pkt with | some p => p.deadline | none => 0)) * 2 ^ 20 + srcKey e.1) m).map (fun e => e.1)
    else
      let last := SMap.look s.sch.lastQ c
      let after := m.filter (fun e => match last with | some k => decide (k < srcKey e.1) | none => true)
      (leastBy (fun e => srcKey e.1) (if after.isEmpty then m else after)).map (fun e => e.1)

/-- The place in the rotation after a packet of class `c` has been taken from a queue (R260). -/
def served (s : State) (src : QSrc) (c : Nat) : State :=
  { s with sch := { s.sch with lastQ := SMap.put s.sch.lastQ c (srcKey src) } }

/-- A host queue's packet rejected with a reason code (R257). -/
def rejectHead (s : State) (q rc : Nat) : State :=
  match SMap.look s.queues q with
  | none => s
  | some h => queueVec (setQueue s q { h with stat := BitVec.ofNat 64 (h.stat.toNat % 8 ||| 1 + rc * 256) }) h

/-- A grid entered in the table of grids. -/
def addGrid (s : State) (g : Grid) : State :=
  { s with grids := SMap.put s.grids s.nextKey g, nextKey := s.nextKey + 1 }

/-- The packet at the head of queue `q`, and its list, have been read. -/
def seenAll (s : State) (q : Nat) (p : Packet) : State :=
  let s1 := match SMap.look s.queues q with
    | some h => touchLads (touchRing s h h.head) h.desc.ctx p
    | none => s
  readDone s1 (queueWho q)

/-- The head of a hardware queue taken: rejected, or made a grid that waits to start. -/
def takeHw (s : State) (q : Nat) (h : Head) : State :=
  match h.pkt with
  | none => rejectHead (served s (.hw q) h.cls) q 9
  | some p => match readLads s (queueWho q) h.ctx p with
    | .snoop t line k => sendSnoop s t line k (.read (queueWho q))
    | r =>
      let lads : Option (List Lading) := match r with | .ok l => some (ladingsOf p.ladn l) | _ => none
      let s1 := seenAll (served s (.hw q) h.cls) q p
      match packetCheck s h.ctx p lads with
      | some rc => rejectHead s1 q rc
      | none =>
        let n := takeNum s1 h.ctx
        addGrid n.1 (newGrid h.ctx n.2 0 none (some q) p (lads.getD []) h.enq)

/-- Who reads the packets of a queue. -/
def srcWho (src : QSrc) : Nat := match src with | .hw q => queueWho q | .child _ _ => queueWho 65536

/-- QUEUE_PACKET_TAKE: the scanner takes the head that R260 puts first. -/
def execQueuePacketTake (src : QSrc) (s : State) : Res :=
  match headOf s src with
  | .none => .next s
  | .snoop t line k => .next (sendSnoop s t line k (.read (srcWho src)))
  | .some h =>
    if scanPick s = some src then
      match src, h.kid with
      | .hw q, _ => .next (takeHw s q h)
      | .child c _, some x =>
        .next (addGrid (served s src h.cls) (newGrid c x.num x.depth (some x.parent) none x.pkt x.lads x.enq))
      | .child _ _, none => .next s
    else .next s

end Sys2Proof.Machine
end

