-- ==== Sys2Proof/Machine/Grid.lean ====
section
/-! DEFINITION. Starting grids, placing teams and staging them, and the end of warps, teams and grids (R28, R105, R154, R235,
R258, R260 to R265, R283, R291). -/

namespace Sys2Proof.Machine

/-! ## Starting a grid (R261) -/

/-- The free warp slots of a die. -/
def freeSlots (s : State) (d : Nat) : Nat :=
  4096 - (s.units.filter (fun e => decide (dieOf e.2.id.core = d) && !e.2.who.isLm)).length

/-- Started slabs that a die distributor holds: those with a team still to place (log 18). -/
def slabsHeld (s : State) (d : Nat) : Nat :=
  (s.grids.flatMap (fun g =>
    if g.2.started && !g.2.aborted then
      g.2.slabs.filter (fun x => decide (x.next < g.2.pkt.teams) && x.dies.contains d)
    else [])).length

/-- Whether a compute die takes work (R251). -/
def dieOn (s : State) (d : Nat) : Bool := decide (s.plant.dies.getD d .off = .on)

/-- The dies with the most free slots among `l`, ties to the lower number: `n` of them, best first. -/
def bestDies (s : State) (n : Nat) (l : List Nat) : List Nat :=
  match n with
  | 0 => []
  | k + 1 => match leastBy (fun d => 4096 - freeSlots s d) l with
    | some d => d :: bestDies s k (l.filter (fun x => decide (x ≠ d)))
    | none => []

/-- The die offsets of the replicas of a redundancy mode (R290). -/
def repOffs (mode : Nat) : List Nat := match mode with | 1 => [0, 4] | 2 => [0, 3, 5] | _ => [0]

/-- The dies of each slab of a grid, one for each replica (R261, R290). -/
def diesFor (s : State) (p : Packet) : Option (List (List Nat)) :=
  let n := p.slabs + 1
  if p.redund = 0 then
    let c := bestDies s n ((List.range 8).filter (dieOn s))
    if c.length = n then some (((List.range 8).filter c.contains).map (fun d => [d])) else none
  else
    let at_ (d : Nat) : List (List Nat) := (List.range n).map (fun i => (repOffs p.redund).map (fun o => (d + i + o) % 8))
    let ok := (List.range 8).filter (fun d => (at_ d).all (fun l => l.all (dieOn s)))
    (leastBy (fun d => 40000 - ((at_ d).flatten.map (freeSlots s)).sum) ok).map at_

/-- The head of the grid's queue is used up when the grid starts. -/
def popHead (s : State) (g : Grid) : State :=
  match g.queue with
  | some q => match SMap.look s.queues q with
    | some h => setQueue s q { h with head := h.head + 1, enqs := h.enqs.filter (fun e => decide (h.head + 1 < e.1)) }
    | none => s
  | none => { s with ctxs := SMap.upd s.ctxs g.ctx (fun c =>
      { c with kids := c.kids.set g.pkt.cls ((c.kids.getD g.pkt.cls []).drop 1) }) }

/-- Whether a class has a ready packet: at the head of a queue, or taken and waiting to start (R260, R261). -/
def classReady (s : State) (k : Nat) : Bool :=
  (readyHeads s).any (fun e => decide (e.2.cls = k)) || s.grids.any (fun g => !g.2.started && decide (g.2.pkt.cls = k))

/-- The class below deadline that must start next so that each receives one of every 64 starts: the longest waiting of those with a ready packet that
have waited 60 (R260). -/
def starving (s : State) : Option Nat :=
  leastBy (fun c => 1000000 - SMap.get 0 s.sch.starve c)
    ((List.range 3).filter (fun c => decide (60 ≤ SMap.get 0 s.sch.starve c) && classReady s c))

/-- A start of a grid of class `c` counted against the other classes with a ready packet (R260). -/
def countStart (s : State) (c : Nat) : State :=
  let st := (List.range 3).foldl (fun m k =>
    SMap.set 0 m k (if k = c ∨ classReady s k = false then 0 else SMap.get 0 m k + 1)) s.sch.starve
  { s with sch := { s.sch with starve := st } }

/-- The dies of a grid that can start now: every die that it needs has a free entry, and no other class must come first (R260, R261). -/
def startDies (s : State) (g : Grid) : Option (List (List Nat)) :=
  if g.started then none
  else if (match starving s with | some c => decide (c ≠ g.pkt.cls) | none => false) then none
  else match diesFor s g.pkt with
    | some l => if l.all (fun x => x.all (fun d => decide (slabsHeld s d < 128))) then some l else none
    | none => none

/-- GRID_START. -/
def execGridStart (k : Nat) (s : State) : Res :=
  match SMap.look s.grids k with
  | none => .next s
  | some g => match startDies s g with
    | none => .next s
    | some l =>
      let slabs := l.map (fun d => ({ dies := d, next := 0, dbars := List.replicate d.length Barrier.init } : SlabAt))
      let s1 := popHead (countStart s g.pkt.cls) g
      .next { s1 with
        grids := SMap.put s1.grids k { g with started := true, slabs := slabs, order := s1.sch.order },
        sch := { s1.sch with order := s1.sch.order + 1 } }

/-! ## Room on a cluster (R235, R258, R262, R263) -/

/-- The pads on a core that copies still read or write. -/
def jobPads (s : State) (core : Nat) : List (Nat × Nat) :=
  let of (e : Endp) : List (Nat × Nat) := match e with | .pad ps _ => ps | _ => []
  ((s.fl.jobs.flatMap (fun j => of j.src ++ of j.dst)).filter (fun p => decide (gsaCore p.1 = core))).map (fun p =>
    (p.1 % 2 ^ 22, p.1 % 2 ^ 22 + p.2))

/-- The parts of a core's slice that are not free space: window entries, shadow areas, pads, those of copies that outlive their workgroup with them
(log 29), and buffers. -/
def usedOn (s : State) (core : Nat) : List (Nat × Nat) :=
  (s.windows.filter (fun e => decide (e.1 / 16 = core))).map (fun e => (e.2.base * 4096, (e.2.limit + 1) * 4096))
    ++ s.ctxs.filterMap (fun c => (SMap.look c.2.shadows core).map (fun a => (a.off, a.off + a.size)))
    ++ (s.wgs.filter (fun w => decide (w.2.core = core))).map (fun w => (w.2.padBase, w.2.padBase + w.2.padP))
    ++ jobPads s core
    ++ ((s.cluster (clusterOf core)).handles.filter (fun h => decide (gsaCore h.2.base = core))).map (fun h =>
        (h.2.base % 2 ^ 22, h.2.base % 2 ^ 22 + h.2.size))

/-- The lowest base from `b` up, aligned to `size`, of a free run of `size` bytes; `fuel` bounds the runs skipped. -/
def freeBase (used : List (Nat × Nat)) (size fuel b : Nat) : Option Nat :=
  match fuel with
  | 0 => none
  | f + 1 =>
    if Config.sliceBytes < b + size then none
    else match used.find? (fun r => decide (r.1 < b + size) && decide (b < r.2)) with
      | none => some b
      | some r => freeBase used size f ((r.2 + size - 1) / size * size)

/-- The lowest base for `size` bytes on a core beside the runs `extra`. -/
def roomOn (s : State) (core size : Nat) (extra : List (Nat × Nat × Nat)) : Option Nat :=
  let used := usedOn s core ++ (extra.filter (fun e => decide (e.1 = core))).map (fun e => (e.2.1, e.2.1 + e.2.2))
  freeBase used size (used.length + 1) 0

/-- Warps on a core and the charges of its workgroups (R263). -/
def coreWarps (s : State) (core : Nat) : Nat :=
  (s.units.filter (fun e => decide (e.2.id.core = core) && !e.2.who.isLm)).length
def coreLoad (s : State) (core : Nat) : Nat :=
  ((s.wgs.filter (fun w => decide (w.2.core = core))).map (fun w => w.2.charge)).sum

/-- Cores for `n` more workgroups of a team on a cluster, with their pad bases, beside those in `acc` (R262). -/
def placeWgs (s : State) (p : Packet) (cl n : Nat) (acc : List (Nat × Nat)) : Option (List (Nat × Nat)) :=
  match n with
  | 0 => some acc
  | k + 1 =>
    let spot := (List.range 4).findSome? (fun i =>
      let core := cl * 4 + i
      let mine := (acc.filter (fun e => decide (e.1 = core))).length
      if coreWarps s core + (mine + 1) * (p.warps + 1) ≤ 32 ∧ coreLoad s core + (mine + 1) * p.charge ≤ s.set.budget then
        (roomOn s core (padOf p.pad) (acc.map (fun e => (e.1, e.2, padOf p.pad)))).map (fun b => (core, b))
      else none)
    match spot with
    | some x => placeWgs s p cl k (acc ++ [x])
    | none => none

/-- GSAs for `n` more cluster buffers (R235, R258). -/
def placeBufs (s : State) (size cl n : Nat) (extra : List (Nat × Nat × Nat)) (acc : List Nat) : Option (List Nat) :=
  match n with
  | 0 => some acc
  | k + 1 =>
    match (List.range 4).findSome? (fun i => (roomOn s (cl * 4 + i) size extra).map (fun b => (cl * 4 + i, b))) with
    | some x => placeBufs s size cl k (extra ++ [(x.1, x.2, size)]) (acc ++ [gsaAt x.1 x.2])
    | none => none

/-- A place for a team: its cluster, the core and pad base of each workgroup, and its buffers. -/
structure Spot where
  cluster : Nat
  wgs : List (Nat × Nat)
  bufs : List Nat
  deriving DecidableEq, Repr

/-- The teams resident on clusters. -/
def residentTeams (s : State) : List Team :=
  (s.teams.filter (fun t => t.2.evicted.isNone)).map (fun t => t.2)

/-- Whether the resources of a cluster that a team holds alone are free, and the cluster is open to the context (R258,
R262, R268, R331). -/
def clusterOpen (s : State) (g : Grid) (mtl cl nb : Nat) : Bool :=
  let p := g.pkt
  let on := (residentTeams s).filter (fun t => decide (t.cluster = cl))
  !s.preempts.any (fun r => decide (r.ctx = g.ctx) && r.clusters.contains cl)
    && (!p.lm || (!on.any (fun t => t.lm) && (s.unit? ⟨cl * 4, 32⟩).isNone &&
        !(residentTeams s).any (fun t => t.lm && decide (t.mtl = mtl) && gridOf s g.ctx t.grid)))
    && (decide (nb = 0) || (s.cluster cl).handles.isEmpty)

/-- Whether a cluster has started: after a power-up those of a die start in turn, 1 us apart, and the dies 0.5 us from one another (R342). -/
def clusterUp (s : State) (cl : Nat) : Bool :=
  match s.plant.upAt with
  | none => true
  | some t => decide (t + clDie cl * 1000 + cl % 32 * 2000 ≤ s.wall)

/-- A place on a cluster for `nw` workgroups and `nb` buffers of a team of the grid. -/
def spotOn (s : State) (g : Grid) (mtl nw nb cl : Nat) : Option Spot :=
  if clusterUp s cl && clusterOpen s g mtl cl nb then
    match placeWgs s g.pkt cl nw [] with
    | none => none
    | some ws =>
      (placeBufs s g.pkt.bufBytes cl nb (ws.map (fun e => (e.1, e.2, padOf g.pkt.pad))) []).map (fun b =>
        { cluster := cl, wgs := ws, bufs := b })
  else none

/-- The place on the lowest cluster of a die on which the team can be placed (R262). -/
def spotOnDie (s : State) (g : Grid) (mtl nw nb d : Nat) : Option Spot :=
  (List.range 32).findSome? (fun i => spotOn s g mtl nw nb (d * 32 + i))

/-- A place on each of the dies, or none (R291). -/
def spotsOn (s : State) (g : Grid) (mtl nw nb : Nat) (dies : List Nat) : Option (List Spot) :=
  match dies with
  | [] => some []
  | d :: t => match spotOnDie s g mtl nw nb d, spotsOn s g mtl nw nb t with
    | some x, some l => some (x :: l)
    | _, _ => none

/-- The cluster buffers of a team of the packet (R256). -/
def Packet.bufs (p : Packet) : Nat := if p.bufsz = 0 then 0 else p.bufn + 1

/-- The flat index of team `j` of slab `i`, and its matrix timeline (R258). -/
def teamFlat (p : Packet) (i j : Nat) : Nat := i * p.teams + j
def teamMtl (p : Packet) (flat : Nat) : Nat := p.mtl + flat % 2 ^ p.mtk

/-! ## Building a team -/

/-- The lowest free warp slot of a core. -/
def freeSlot (s : State) (core : Nat) : Nat :=
  ((List.range 32).find? (fun i => (s.unit? ⟨core, i⟩).isNone)).getD 0

/-- A unit at its first word: every register zero (R8), `fpmode` as R15 gives it at launch. -/
def newUnit (id : UnitId) (who : Ident) (pc ts age : Nat) : Unit :=
  { id := id, who := who, sS := { spc := pc, s := [], p := [], kst := [], fly := [], marked := false, park := none },
    lS := { v := [], q := [], slot0 := Slot.idle, slot1 := Slot.idle, queue := [], running := none, turn := false },
    mbVal := [], mbCnt := [], fpmode := 1,
    trap := { tcause := 0, taddr := 0, tinfo := 0, tspc := 0, tlpc := 0, tpath := 0, flm := 0, saved := none, due := none, imp := [],
              sup := false },
    pend := [], mon := none, tags := [], lqwSeq := 0, joinSeq := 0, lastBatch := 0, tsMode := ts, tsInterval := 0,
    tsPairs := [], tsOver := false, tsScope := .wg,
    assay := { held := [], sig := 0, at_ := none, strm := .s, since := 0, passed := none, kind := 0, counts := [], cseq := 0, bad := false },
    age := age, ageS := age, waitS := 0, waitL := 0, yieldTo := 0, stopped := false, outvoted := false, code := [],
    mbOld := [], dirty := [] }

/-- The place of a team that is being built: its grid, slab, index in the slab, replica, keys, and the cores that its
leader reads (R20, R258). -/
structure Build where
  gk : Nat
  g : Grid
  slab : Nat
  j : Nat
  rep : Nat
  tk : Nat
  rs : Nat
  spot : Spot
  lead : Spot
  deriving DecidableEq, Repr

/-- The identity registers of warp `i` of workgroup `w` (R18, R258), or of the lockmaster. -/
def Build.ident (b : Build) (w i : Nat) (isLm : Bool) : Ident :=
  let p := b.g.pkt
  let flat := teamFlat p b.slab b.j
  let nw := p.warps + 1
  let wg := (flat * (p.wgs + 1) + w) % 2 ^ 32 + w * 2 ^ 32
  { ctx := b.g.ctx, grid := b.gk, team := b.tk, wg := if isLm then b.tk else b.tk + 1 + w, isLm := isLm,
    producer := if isLm then true else decide (i = p.producer), leader := decide (b.rep = 0), cls := p.cls,
    rset := if p.redund = 0 then 0 else b.rs + (if isLm then (p.wgs + 1) * nw else w * nw + i), rep := b.rep,
    rmode := BitVec.ofNat 64 p.redund, warpid := if isLm then 0 else BitVec.ofNat 64 (i + p.warps * 32),
    wgid := BitVec.ofNat 64 wg, teamid := BitVec.ofNat 64 flat, dieid := BitVec.ofNat 64 (b.slab + p.slabs * 8),
    gridid := BitVec.ofNat 64 (b.g.num + b.g.depth * 2 ^ 32 + b.g.ctx * 2 ^ 36),
    coreid := BitVec.ofNat 64 (if isLm then b.lead.cluster * 4 else (b.lead.wgs.getD w (0, 0)).1),
    sbase := p.sbase, slen := p.slen, lbase := p.lbase, llen := p.llen }

/-- A unit made resident. -/
def addUnit (s : State) (id : UnitId) (who : Ident) (pc : Nat) : State :=
  let ts := match SMap.look s.ctxs who.ctx with | some c => c.tsStart | none => 0
  let s1 := s.setUnit (newUnit id who pc ts s.sch.age)
  { s1 with sch := { s1.sch with age := s1.sch.age + 1 } }

/-- Workgroup `w` of the team made resident: its pad, of zeros (R24), and its warps on the lowest free slots. -/
def Build.addWg (b : Build) (s : State) (w : Nat) (peers : List Nat) : State :=
  let p := b.g.pkt
  let at_ := b.spot.wgs.getD w (0, 0)
  let x : Wg := { grid := b.gk, team := b.tk, core := at_.1, warps := p.warps + 1, padBase := at_.2, padP := padOf p.pad, charge := p.charge, bar := Barrier.init,
                  shadow := none, eligible := true, touched := [], rolled := false, mism := false, staged := decide (p.ladn = 0),
                  peers := peers }
  let s1 := zeroPad { s with wgs := SMap.put s.wgs (b.tk + 1 + w) x } x
  let s2 := (List.range (p.warps + 1)).foldl (fun t i =>
    addUnit t ⟨at_.1, freeSlot t at_.1⟩ (b.ident w i false) p.sentry) s1
  if p.ladn = 0 then capture s2 (b.tk + 1 + w) 0 else s2

/-- The handle entries of the team's buffers: indices from 0, generation 1, held by the team's leader warp (R258). -/
def Build.addBufs (b : Build) (s : State) : State :=
  let lead := (s.units.find? (fun e => decide (e.2.who.wg = b.tk + 1) && e.2.who.producer)).map (fun e => e.2.id)
  (List.range b.spot.bufs.length).foldl (fun t i =>
    setHandle (freeRun t (b.spot.bufs.getD i 0) b.g.pkt.bufBytes) b.spot.cluster i
      { team := b.tk, base := b.spot.bufs.getD i 0, size := b.g.pkt.bufBytes, gen := 1, holder := lead, offer := none, opened := false }) s

/-- One replica of a team made resident on its cluster, with a zero engine whose first word takes the timeline's value plus
1 (R178, R180). -/
def Build.run (b : Build) (s : State) (peers : List Nat) : State :=
  let p := b.g.pkt
  let flat := teamFlat p b.slab b.j
  let n := p.wgs + 1
  let v0 := match timelineOf s b.g.ctx (teamMtl p flat) with | some x => x.val | none => 0
  let t : Team := { grid := b.gk, slab := b.slab, j := b.j, die := clDie b.spot.cluster,
                    cluster := b.spot.cluster, rep := b.rep, wgs := (List.range n).map (fun w => b.tk + 1 + w), lm := p.lm,
                    mtl := teamMtl p flat, mnum := v0, nbar := [], peers := peers, nwarps := n * (p.warps + 1),
                    evicted := none }
  let s1 := { s with teams := SMap.put s.teams b.tk t }
  let s2 := (List.range n).foldl (fun x w => b.addWg x w (peers.map (fun k => k + 1 + w))) s1
  let s3 := b.addBufs s2
  if p.lm then
    let c := s3.cluster b.spot.cluster
    addUnit (s3.setCluster b.spot.cluster { c with engine := { Engine.init with doneNum := v0 } })
      ⟨b.spot.cluster * 4, 32⟩ (b.ident 0 0 true) p.lmentry
  else s3

/-- A team of a slab made resident at the places given, one for each replica. -/
def buildTeam (s : State) (gk : Nat) (g : Grid) (slab j : Nat) (spots : List Spot) : State :=
  let n := g.pkt.wgs + 2
  let k0 := s.nextKey
  let rs := k0 + spots.length * n
  let peers := (List.range spots.length).map (fun r => k0 + r * n)
  let lead := spots.headD { cluster := 0, wgs := [], bufs := [] }
  let s1 := { s with nextKey := rs + (g.pkt.wgs + 1) * (g.pkt.warps + 1) + 1 }
  (List.range spots.length).foldl (fun t r =>
    ({ gk := gk, g := g, slab := slab, j := j, rep := r, tk := k0 + r * n, rs := rs, spot := spots.getD r lead,
       lead := lead } : Build).run t peers) s1

/-! ## Placing the next team (R262, R270, R291) -/

/-- Whether an evicted team that has been woken stands before new teams of class `c` on the die (R270). -/
def wokenBefore (s : State) (woken : Team → Bool) (d c : Nat) : Bool :=
  s.teams.any (fun t => t.2.evicted.isSome && decide (t.2.die = d) && woken t.2 &&
    (match SMap.look s.grids t.2.grid with | some g => decide (c ≤ g.pkt.cls) | none => false))

/-- The place of the next team of slab `i`, where there is one. -/
def nextSpot (s : State) (woken : Team → Bool) (g : Grid) (i : Nat) : Option (List Spot) :=
  match g.slabs[i]? with
  | none => none
  | some x =>
    if !g.started || g.aborted || decide (g.pkt.teams ≤ x.next) || x.dies.any (fun d => wokenBefore s woken d g.pkt.cls) then
      none
    else spotsOn s g (teamMtl g.pkt (teamFlat g.pkt i x.next)) (g.pkt.wgs + 1) g.pkt.bufs x.dies

/-- A slab with one more team placed. -/
def bumpSlab (g : Grid) (i : Nat) : Grid :=
  { g with slabs := (List.range g.slabs.length).zip g.slabs |>.map (fun e =>
      if e.1 = i then { e.2 with next := e.2.next + 1 } else e.2) }

/-- The first slab of a grid whose next team can be placed, with its places. -/
def placeable (s : State) (woken : Team → Bool) (g : Grid) : Option (Nat × List Spot) :=
  (List.range g.slabs.length).findSome? (fun i => (nextSpot s woken g i).map (fun l => (i, l)))

/-- A deadline grid's pre-emption requests end when its team is placed. -/
def dropRequests (s : State) (gk : Nat) : State :=
  { s with preempts := s.preempts.filter (fun r => decide (r.for_ ≠ some gk)) }

/-- The next team of slab `i` of a grid placed. -/
def placeTeam (s : State) (gk : Nat) (g : Grid) (i : Nat) (l : List Spot) : State :=
  let j := match g.slabs[i]? with | some x => x.next | none => 0
  let s1 := buildTeam s gk g i j l
  dropRequests { s1 with grids := SMap.put s1.grids gk (bumpSlab g i) } gk

/-! ## Leaving (R105, R154, R235, R265, R283) -/

/-- The buffers that a leaving unit holds or was offered become open (R154). -/
def openHandles (s : State) (u : Unit) : State :=
  let c := s.cluster u.cluster
  s.setCluster u.cluster { c with handles := c.handles.map (fun (h : Nat × Handle) =>
    if h.2.holder = some u.id ∨ h.2.offer = some u.id then
      (h.1, { h.2 with holder := none, offer := none, opened := true })
    else h) }

/-- A leaving warp's untaken entries pass to the next lowest live warp of its workgroup; with none, and for a
lockmaster, the context is reset (R283). -/
def passEntries (s : State) (u : Unit) : State :=
  u.trap.imp.foldl (fun t e => match if u.who.isLm then none else lowestLive t u.who.wg with
    | some v => pushImp t v (if e.code = 0x44 then { e with zero := none, zdst := none }
        else { e with code := 0x44, origCode := e.code, other := true, zero := none, zdst := none, held := false })
    | none => unattributable t u.id u.who.ctx u.who.grid e) s

/-- The arrivals of a leaving warp in phases that are open stay in their count, but are no other warp's that takes its slot (R105, R150). -/
def leaveBars (s : State) (u : Unit) : State :=
  let gone := s.nextKey * 64 + 63
  let one (t : State) (k i : Nat) : State :=
    let b := barGet t u k i
    if b.arrived.contains (ukey u.id) then
      barSet t u k i { b with arrived := b.arrived.map (fun x => if x = ukey u.id then gone else x) }
    else t
  { (one ((List.range 16).foldl (fun t i => one t 1 i) (one s 0 0)) 2 0) with nextKey := s.nextKey + 1 }

/-- Running pre-emption requests whose clusters hold no workgroup of their context have completed (R331). -/
def settlePreempts (s : State) : State :=
  let held (r : Preempt) : Bool := s.wgs.any (fun w => gridOf s r.ctx w.2.grid && r.clusters.contains (clusterOf w.2.core))
  { s with preempts := s.preempts.map (fun (r : Preempt) => if r.running && !held r then { r with running := false } else r) }

/-- A workgroup without warps retires: its pad returns to the free space, and is zeroed before a later workgroup gets it (R235). -/
def retireWg (s : State) (k : Nat) : State :=
  match SMap.look s.wgs k with
  | none => s
  | some _ =>
    if (wgUnits s k).isEmpty then
      { s with wgs := SMap.del s.wgs k }
    else s

/-- A team whose workgroups and lockmaster are gone leaves its cluster; its buffers are freed (R154, R235), and matrix
words without a granted pass are dropped with its engine state (R105, log 21). -/
def retireTeam (s : State) (k : Nat) : State :=
  match SMap.look s.teams k with
  | none => s
  | some t =>
    if t.evicted.isSome || s.wgs.any (fun w => decide (w.2.team = k)) || s.units.any (fun e => decide (e.2.who.team = k)) then s
    else
      let s1 := freeBufs s t.cluster k
      let s2 := if t.lm then clearEngine s1 t.cluster else s1
      { s2 with teams := SMap.del s2.teams k }

/-- A lockmaster that leaves before the word of a pending migration's instant is issued discards that migration: the
table's state returns to 1 (R202). -/
def dropMigs (s : State) (u : Unit) : State :=
  if u.who.isLm then
    let c := s.cluster u.cluster
    let n := match SMap.look s.teams u.who.team with | some t => t.mnum | none => 0
    let gone := c.engine.migs.filter (fun m => decide (n < m.2))
    let s1 := gone.foldl (fun t m => writeHome t [(m.1 + 34, 1)]) s
    s1.setCluster u.cluster { c with engine := { c.engine with migs := c.engine.migs.filter (fun m => decide (m.2 ≤ n)) } }
  else s

/-- A unit leaves: its entries pass on, its buffers open, its slot is free, and what it leaves empty retires. -/
def leave (s : State) (u : Unit) : State :=
  let s2 := leaveLists (openHandles ((leaveBars (dropMigs s u) u).dropUnit u.id) u) u.who.ctx u.id
  settlePreempts (retireTeam (retireWg (passEntries s2 u) u.who.wg) u.who.team)

/-- Whether something that `exit` waits for is outstanding: a load or atomic, its own or its leader's, that has neither come nor reported its fault
(R105), or an entry of the imprecise queue, which is taken at the `exit` (R281). -/
def exitHeld (u : Unit) : Bool :=
  u.pend.any Pend.unbound || (!u.inHandler && u.trap.imp.any (fun e => !e.held))

/-- `exit` (R105): it waits as `lqw`, so that the operations of every run come before its release. -/
def execExit (_m : Bool) (s : State) : Res :=
  sWord s [] (fun u =>
    let v : Unit := { u with lqwSeq := s.fl.seq }
    if !u.laneIdle then parkAt s u .s .laneIdle
    else if !u.sS.fly.isEmpty then parkAt s u .s .written
    else if exitHeld u then parkAt s u .s .results
    else pointGate s u .s 0x08 0 [] (releaseGate s v .s .dev (.next (leave (spoil s v) (v.released .dev)))))

/-! ## Staging (R44, R49, R262) -/

/-- What staging a workgroup's list gives: the machine with the whole list written, or with the records before the one that fails. -/
inductive Staged where
  | ok (s : State)
  | snoop (t line : Nat) (k : SnpKind)
  | bad (a : Nat) (s : State)

/-- The records of a list staged in order for the workgroups of the replicas. A GSA record's whole range passes `gsa_check` where one window
entry admits it (log 80). -/
def stageAll (s : State) (who ctx : Nat) (ws : List Wg) (l : List Lading) : Staged :=
  match l with
  | [] => .ok s
  | r :: t =>
    let padOk := decide (r.kind = 1) || ws.all (fun w => decide (r.dst + r.size ≤ w.padP))
    let gsaOk := decide (r.kind = 0) || (decide (r.dst % 2 ^ 22 + r.size ≤ Config.sliceBytes) &&
      admitted s ctx (gsaCore r.dst) (r.dst % 2 ^ 22) r.size 1)
    if !padOk || !gsaOk then .bad r.dst s
    else match seeAll (seeByte s who ctx) r.size r.src with
      | .snoop k line x => .snoop k line x
      | .bad a => .bad a s
      | .ok bytes =>
        let ends := if r.kind = 1 then [r.dst] else ws.map (fun w => gsaAt w.core (w.padBase + r.dst))
        stageAll (writeRun (touchDva s ctx r.src r.size) (fun i => .sram (ends.map (fun a => a + i))) bytes) who ctx ws t

/-- A grid aborted at staging: no further team is placed, and the log records the fault (R262). -/
def abortGrid (s : State) (gk : Nat) (g : Grid) (a : Nat) : State :=
  let r : LogRec := { code := 0, kind := 8, grid := g.num, wg := 0, core := 0, slot := 0, flags := 0, spc := 0, lpc := 0,
                      addr := a, info := 0, extra := 0 }
  writeLog { s with grids := SMap.put s.grids gk { g with aborted := true } } g.ctx r

/-- LADING_STAGE: the list of a workgroup, and of its replicas, is staged before its first word; a workgroup whose
staging fails never executes a word and leaves its core (R262; log 19). -/
def execLadingStage (k : Nat) (s : State) : Res :=
  match SMap.look s.wgs k with
  | none => .next s
  | some w =>
    if w.staged then .next s
    else match SMap.look s.grids w.grid with
      | none => .next s
      | some g =>
        let ws := w.peers.filterMap (fun j => SMap.look s.wgs j)
        match stageAll s (gridWho w.grid) g.ctx ws g.lads with
        | .snoop t line x => .next (sendSnoop s t line x (.read (gridWho w.grid)))
        | .bad a s0 =>
          .next (w.peers.foldl (fun t j => (wgUnits t j).foldl leave t) (abortGrid (readDone s0 (gridWho w.grid)) w.grid g a))
        | .ok s0 =>
          let s1 := readDone s0 (gridWho w.grid)
          let s2 := { s1 with wgs := s1.wgs.map (fun (e : Nat × Wg) =>
            if w.peers.contains e.1 then (e.1, { e.2 with staged := true }) else e) }
          .next (w.peers.foldl (fun t j => capture t j 0) s2)

/-! ## The end of a grid (R260, R265) -/

/-- Whether a grid can retire. -/
def canRetire (s : State) (k : Nat) (g : Grid) : Bool :=
  g.started && (g.aborted || g.slabs.all (fun x => decide (g.pkt.teams ≤ x.next)))
    && !s.teams.any (fun t => decide (t.2.grid = k)) && !s.fl.jobs.any (fun j => decide (j.grid = k)) && decide (g.kids = 0)

/-- A grid retires: its completion timeline, its queue's vector and counter, and its parent's count of children. -/
def retireGrid (s : State) (k : Nat) (g : Grid) : State :=
  let s1 := dropRequests { s with grids := SMap.del s.grids k } k
  let s2 := if g.pkt.cen && !g.aborted then raiseTimeline s1 g.ctx g.pkt.ctl g.pkt.cval else s1
  let s3 := match g.queue.bind (fun q => (SMap.look s2.queues q).map (fun h => (q, h))) with
    | some (q, h) => counterStart (if h.desc.raise then queueVec s2 h else s2) q g.ctr
    | none => s2
  match g.parent with
  | some p => { s3 with grids := SMap.upd s3.grids p (fun x => { x with kids := x.kids - 1 }) }
  | none => s3

/-- What was read of the counter of a grid that ends. -/
def ctrRead (s : State) (k : Nat) (g : Grid) (v : Nat) : State :=
  readDone { s with grids := SMap.put s.grids k { g with ctr := some v } } (gridWho k)

/-- The time at which a deadline grid is due. -/
def Grid.due (g : Grid) : Nat := g.enq + g.pkt.deadline

/-- Whether a deadline grid has missed its deadline unrecorded. -/
def missDue (s : State) (g : Grid) : Bool := decide (g.pkt.cls = 3) && !g.missed && decide (g.due < s.tclk)

/-- The miss of a grid's deadline recorded, with the grid number and the overrun in ns. -/
def logMiss (s : State) (k : Nat) (g : Grid) : State :=
  if missDue s g then
    let r : LogRec := { code := 0, kind := 5, grid := g.num, wg := 0, core := 0, slot := 0, flags := 0, spc := 0, lpc := 0,
                        addr := 0, info := 0, extra := s.tclk - g.due }
    writeLog { s with grids := SMap.put s.grids k { g with missed := true } } g.ctx r
  else s

/-- DEADLINE_MISS: the miss is logged and the grid runs on (R260). -/
def execDeadlineMiss (k : Nat) (s : State) : Res :=
  match SMap.look s.grids k with
  | none => .next s
  | some g => .next (logMiss s k g)

/-- GRID_RETIRE: on a page not marked for system atomics, the first such event reads the completion counter (R231). A grid that is late by now
has its miss recorded first (R260). -/
def execGridRetire (k : Nat) (s : State) : Res :=
  match SMap.look s.grids k with
  | none => .next s
  | some g =>
    if canRetire s k g then
      match ctrStep s k g with
      | .wait => .next s
      | .go => .next (retireGrid (logMiss s k g) k g)
      | .snoop t line x => .next (sendSnoop s t line x (.read (gridWho k)))
      | .read v => .next (ctrRead s k g v)
    else .next s

end Sys2Proof.Machine
end

