-- ==== Sys2Proof/Machine/Evict.lean ====
section
/-! DEFINITION. Pre-emption (R268), eviction and re-admission of parked teams (R270, R271), the end of a context reset
(R272), the wait-for table (R273), and which of the scheduler's events are due. -/

namespace Sys2Proof.Machine

/-! ## Wake events (R270) -/

/-- The parks that a wake event of R270 ends. -/
def wakeKind (w : Why) : Bool :=
  match w with
  | .monitor _ | .barPhase _ _ _ | .timeline _ _ | .batch _ | .listItem _ | .quiescence | .compare => true
  | _ => false

/-- Whether what a parked unit waits for has happened. -/
def wakeNow (s : State) (u : Unit) (p : Park) : Bool :=
  match p.why with
  | .monitor t => (match u.mon with | some m => m.fired | none => true) || (decide (t ≠ 0) && decide (p.since + t ≤ s.clk.now))
  | .barPhase k i ph => decide (k % 8 ≠ 0) && decide ((barGet s u (k % 8) i).phases ≠ ph)
  | .timeline n v => (match timelineOf s u.who.ctx n with | some t => decide (v ≤ t.val) | none => true)
  | .batch n => !batchOpen s u n
  | .listItem n => (match listOf s u.who.ctx n with
      | some w => decide (0 < w.items) && decide (w.waiters.head? = some u.id)
      | none => true)
  | .reported => true
  | _ => false

/-- The parks of a unit's live streams. -/
def parksOf (u : Unit) : List Park :=
  let l (x : Slot) : List Park := if x.live then x.park.toList else []
  u.sS.park.toList ++ l u.lS.slot0 ++ l u.lS.slot1

/-- Whether an evicted team has been woken (R270, R271). -/
def woken (s : State) (t : Team) : Bool :=
  match t.evicted with
  | none => false
  | some e => e.woken || e.units.any (fun u => (parksOf u).any (wakeNow s u))

/-! ## Which placement comes next (R260, R262) -/

/-- TEAM_PLACE: the next team of a grid is placed whole, unless none of its slabs has a place for one. -/
def execTeamPlace (k : Nat) (s : State) : Res :=
  match SMap.look s.grids k with
  | none => .next s
  | some g => match placeable s (woken s) g with
    | some (i, l) => .next (placeTeam s k g i l)
    | none => .next s

/-- Started grids with a team still to place, in the order of R260: class, then start. -/
def placingGrids (s : State) : List (Nat × Grid) :=
  let l := s.grids.filter (fun g => g.2.started && g.2.placing)
  (List.range 4).reverse.flatMap (fun c =>
    let m := l.filter (fun g => decide (g.2.pkt.cls = c))
    (m.map (fun g => g.2.order)).mergeSort.filterMap (fun o => m.find? (fun g => decide (g.2.order = o))))

/-! ## Pre-emption (R268) -/

/-- Microseconds in mclk. -/
def usMclk (n : Nat) : Nat := n * 2000

/-- The timer of a request: the largest declared run of the resident workgroups, or the timeout (R268). -/
def preemptLimit (s : State) (ctx : Nat) (cls : List Nat) : Nat :=
  let runs := (s.wgs.filter (fun w => gridOf s ctx w.2.grid && cls.contains (clusterOf w.2.core))).map (fun w =>
    match SMap.look s.grids w.2.grid with | some g => g.pkt.maxrun | none => 0)
  if runs.all (fun r => decide (0 < r)) then usMclk (runs.foldl max 0) else s.set.preempt

/-- A request entered; it completes at once where no workgroup stands in its way. -/
def addPreempt (s : State) (ctx : Nat) (cls : List Nat) (for_ : Option Nat) : State :=
  let r : Preempt := { id := s.nextKey, for_ := for_, ctx := ctx, clusters := cls, at_ := s.clk.now,
                       limit := preemptLimit s ctx cls, running := true, wasReset := false }
  settlePreempts { s with preempts := s.preempts ++ [r], nextKey := s.nextKey + 1 }

/-- The residents of a cluster. -/
def residents (s : State) (cl : Nat) : List Unit :=
  (s.units.filter (fun e => decide (clusterOf e.2.id.core = cl) && !e.2.who.isLm)).map (fun e => e.2)

/-- The cluster of a die that a deadline grid asks for: among those with residents of another context, the one whose
residents are of the lowest class, ties to the one whose oldest resident is youngest (R268; log 20). -/
def preemptCluster (s : State) (g : Grid) (d : Nat) : Option Nat :=
  let l := ((List.range 32).map (fun i => d * 32 + i)).filter (fun cl => (residents s cl).any (fun u => decide (u.who.ctx ≠ g.ctx)))
  leastBy (fun cl =>
    let r := residents s cl
    ((r.map (fun u => u.who.cls)).foldl max 0) * 2 ^ 64 + (2 ^ 63 - (r.map (fun u => u.age)).foldl min (2 ^ 63))) l

/-- The dies, of those that the replicas of a grid's first unplaced team need, on which there is no place for it and none has been asked for. -/
def diesShort (s : State) (k : Nat) (g : Grid) : List Nat :=
  match (List.range g.slabs.length).zip g.slabs |>.find? (fun x => decide (x.2.next < g.pkt.teams)) with
  | none => []
  | some (i, x) => x.dies.filter (fun d =>
      (spotOnDie s g (teamMtl g.pkt (teamFlat g.pkt i x.next)) (g.pkt.wgs + 1) g.pkt.bufs d).isNone
        && !s.preempts.any (fun r => decide (r.for_ = some k) && r.clusters.any (fun cl => decide (clDie cl = d))))

/-- The cluster that a deadline grid asks for now: it is started and cannot be placed, on every die that it needs (R268, R291, R308). -/
def requestDue (s : State) (k : Nat) (g : Grid) : Option Nat :=
  if g.pkt.cls = 3 ∧ g.started ∧ g.placing ∧ (placeable s (woken s) g).isNone then
    (diesShort s k g).findSome? (preemptCluster s g)
  else none

/-- DEADLINE_PREEMPT_REQUEST: one request for each other context on the chosen cluster. -/
def execDeadlinePreemptRequest (k : Nat) (s : State) : Res :=
  match SMap.look s.grids k with
  | none => .next s
  | some g => match requestDue s k g with
    | none => .next s
    | some cl =>
      let cs := (((residents s cl).map (fun u => u.who.ctx)).filter (fun c => decide (c ≠ g.ctx))).dedup
      .next (cs.foldl (fun t c => addPreempt t c [cl] (some k)) s)

/-- A context reset with a record of kind 10 and its reason (R272, R288). -/
def resetWith (s : State) (ctx reason : Nat) : State :=
  let r : LogRec := { code := 0, kind := 10, grid := 0, wg := 0, core := 0, slot := 0, flags := 0, spc := 0, lpc := 0,
                      addr := 0, info := 0, extra := reason }
  resetCtx (writeLog s ctx r) ctx

/-- PREEMPT_TIMER_EXPIRE: the context that has not left the clusters in time is reset alone (R268). -/
def execPreemptTimerExpire (id : Nat) (s : State) : Res :=
  match s.preempts.find? (fun r => decide (r.id = id)) with
  | none => .next s
  | some r => if r.running ∧ r.at_ + r.limit ≤ s.clk.now then .next (settlePreempts (resetWith s r.ctx 0)) else .next s

/-- CONTEXT_RESET_DONE: packets of the context are accepted again (R257, R272). -/
def execContextResetDone (ctx : Nat) (s : State) : Res :=
  .next { s with ctxs := SMap.upd s.ctxs ctx (fun c => { c with resetting := false }) }

/-! ## Eviction (R270) -/

/-- The units of a team. -/
def teamUnits (s : State) (k : Nat) : List Unit :=
  (s.units.filter (fun e => decide (e.2.who.team = k))).map (fun e => e.2)

/-- Whether a unit has been parked for longer than the threshold, on waits that a wake event ends. -/
def longParked (s : State) (u : Unit) : Bool :=
  let old (p : Park) : Bool := decide (p.since + s.set.evict < s.clk.now)
  let lane (x : Slot) : Bool := !x.live || (match x.park with
    | some p => old p && (wakeKind p.why || decide (p.why = .join))
    | none => false)
  (match u.sS.park with
    | some p => old p && (wakeKind p.why || decide (p.why = .laneIdle) || decide (p.why = .pendingReg) ||
        decide (p.why = .queueFull))
    | none => false)
  && lane u.lS.slot0 && lane u.lS.slot1 && (parksOf u).any (fun p => wakeKind p.why)
  && u.pend.all (fun p => match p.what with | .mailbox _ => true | _ => false)
  && u.trap.imp.isEmpty && !u.stopped && !u.outvoted && u.tags.isEmpty

/-- Whether nothing of a team is outstanding that forbids its eviction: copies and collectives, also of its warps that have exited, matrix words,
stores, atomics, and poison in its pads and buffers. -/
def teamClear (s : State) (k : Nat) (t : Team) : Bool :=
  let ids := (teamUnits s k).map (fun u => u.id)
  let mine (j : Job) : Bool := decide (j.wgroup = k) || t.wgs.contains j.wgroup
  let runs := (s.wgs.filter (fun w => decide (w.2.team = k))).map (fun w => (gsaAt w.2.core w.2.padBase, w.2.padP))
    ++ ((s.cluster t.cluster).handles.filter (fun h => decide (h.2.team = k))).map (fun h => (h.2.base, h.2.size))
  !s.fl.jobs.any mine && !s.fl.stores.any (fun p => match p.unit with | some i => ids.contains i | none => false)
    && !s.fl.atoms.any (fun p => ids.contains p.unit)
    && (!t.lm || ((s.cluster t.cluster).engine.queue.isEmpty && (s.cluster t.cluster).engine.resv.isEmpty))
    && !s.mem.badHome.any (fun x => runs.any (fun r => decide (r.1 ≤ x * 32) && decide (x * 32 < r.1 + r.2)))

/-- Whether a replica set of the team has reached its compare (R306). -/
def comparing (s : State) (k : Nat) : Bool :=
  (teamUnits s k).any (fun u => decide (u.who.rset ≠ 0) && (replicas s u).all (fun v => v.assay.at_.isSome))

/-- Whether a team may be evicted: an equal or higher class waits for a place on its die, and it has long been parked. -/
def evictable (s : State) (k : Nat) (t : Team) : Bool :=
  match SMap.look s.grids t.grid with
  | none => false
  | some g =>
    let dies := t.peers.filterMap (fun j => (SMap.look s.teams j).map (fun x => x.die))
    decide (s.set.evict ≠ 0) && (match SMap.look s.ctxs g.ctx with | some c => c.evictDva.isSome | none => false)
      && t.peers.all (fun j => match SMap.look s.teams j with
          | some x => x.evicted.isNone && !(teamUnits s j).isEmpty && (teamUnits s j).all (longParked s) && teamClear s j x
              && !comparing s j
          | none => false)
      && (placingGrids s).any (fun w => decide (w.1 ≠ t.grid) && decide (g.pkt.cls ≤ w.2.pkt.cls) &&
          (placeable s (woken s) w.2).isNone && w.2.slabs.any (fun x => decide (x.next < w.2.pkt.teams) && x.dies.any dies.contains))
      && t.peers.contains k

/-- The name under which a unit of an evicted team is known: it keeps its die. -/
def virtualId (k : Nat) (u : UnitId) : UnitId := ⟨1024 * (k + 1) + dieOf u.core * 128 + u.core % 4, u.slot⟩

/-- A unit's name changed, with what it holds under that name. -/
def Unit.rename (u : Unit) (f : UnitId → UnitId) : Unit := { u with id := f u.id }

/-- A key of the table of units under new names. -/
def keyTo (f : UnitId → UnitId) (k : Nat) : Nat := ukey (f ⟨k / 64, k % 64⟩)

/-- A barrier under new names. -/
def Barrier.rename (b : Barrier) (f : UnitId → UnitId) : Barrier := { b with arrived := b.arrived.map (keyTo f) }

/-- A shadow under new names, its pad moved by `add` after `sub`. -/
def Shadow.move (x : Shadow) (f : UnitId → UnitId) (sub add : Nat) : Shadow :=
  { units := x.units.map (fun (u : Unit) => u.rename f), pad := x.pad.map (fun e => (e.1 - sub + add, e.2)),
    arr := x.arr.map (fun e => (e.1, e.2.1, keyTo f e.2.2)) }

/-- A workgroup under new names, moved from the GSA `sub` of its pad to `add`. -/
def Wg.move (w : Wg) (f : UnitId → UnitId) (sub add : Nat) : Wg :=
  { w with bar := w.bar.rename f, shadow := w.shadow.map (fun x => x.move f sub add),
           touched := w.touched.map (fun n => n - sub / 128 + add / 128) }

/-- The bytes of a run of a slice, keyed from its start. -/
def runBytes (s : State) (a n : Nat) : SMap Byte :=
  (s.mem.sram.filter (fun e => decide (a ≤ e.1) && decide (e.1 < a + n))).map (fun e => (e.1 - a, e.2))

/-- Such bytes put back. -/
def putBytes (s : State) (a : Nat) (m : SMap Byte) : State :=
  { s with mem := { s.mem with sram := m.foldl (fun x e => SMap.set 0 x (a + e.1) e.2) s.mem.sram } }

/-- A handle under new names. -/
def Handle.rename (h : Handle) (f : UnitId → UnitId) : Handle := { h with holder := h.holder.map f, offer := h.offer.map f }

/-- A stamp of the touchstone under new names. -/
def Stamp.rename (x : Stamp) (f : UnitId → UnitId) : Stamp :=
  { x with writer := keyTo f x.writer, reps := x.reps.map (fun e => (e.1, keyTo f e.2)) }

/-- The pairs that a unit keeps under new names (R156). -/
def Unit.renamePairs (f : UnitId → UnitId) (u : Unit) : Unit := { u with tsPairs := u.tsPairs.map (fun e => (keyTo f e.1, e.2)) }

/-- The names of a team's units changed where others keep them: its die barrier, the waiters of work lists, and the touchstone's stamps and pairs. -/
def renameOutside (s : State) (t : Team) (ctx : Nat) (f : UnitId → UnitId) : State :=
  { s with
    units := s.units.map (fun (u : Nat × Unit) => (u.1, u.2.renamePairs f)),
    teams := s.teams.map (fun (x : Nat × Team) => (x.1, { x.2 with evicted := x.2.evicted.map (fun e => { e with units := e.units.map (Unit.renamePairs f) }) })),
    grids := SMap.upd s.grids t.grid (fun g => { g with slabs := (List.range g.slabs.length).zip g.slabs |>.map (fun e =>
      if e.1 = t.slab then { e.2 with dbars := e.2.dbars.set t.rep ((e.2.dbars.getD t.rep Barrier.init).rename f) } else e.2) }),
    ctxs := SMap.upd s.ctxs ctx (fun c => { c with stamps := c.stamps.map (fun x => (x.1, x.2.rename f)), lists := c.lists.map (fun (l : Nat × WorkList) =>
      (l.1, { l.2 with waiters := l.2.waiters.map f })) }) }

/-- The bytes that an eviction writes at a context's save area: their number and contents are free (R270, log 39). -/
def writeSave (s : State) (ctx : Nat) : State :=
  match (SMap.look s.ctxs ctx).bind (fun c => c.evictDva) with
  | none => s
  | some a =>
    let w := writeDva s ctx a ((List.range (Config.saveSize s.free)).map (Config.staleByte s.free))
    { s with free := s.free + 1, mem := w.mem, plant := w.plant, tenants := w.tenants, fl := w.fl }

/-- One team written to its save area: its state leaves the cluster whole (R270). -/
def evictOne (s : State) (k : Nat) : State :=
  match SMap.look s.teams k with
  | none => s
  | some t =>
    let us := teamUnits s k
    let ctx := match us with | u :: _ => u.who.ctx | [] => 0
    let f (i : UnitId) : UnitId := if us.any (fun u => decide (u.id = i)) then virtualId k i else i
    let ws := s.wgs.filter (fun w => decide (w.2.team = k))
    let c := s.cluster t.cluster
    let hs := c.handles.filter (fun h => decide (h.2.team = k))
    let hold (u : Unit) : Unit :=
      let v := u.rename f
      if v.assay.at_.isSome then { v with assay := { v.assay with since := s.clk.now - v.assay.since } } else v
    let e : Evicted :=
      { units := us.map hold,
        wgs := ws.map (fun w => (w.1, w.2.move f (gsaAt w.2.core w.2.padBase) 0)),
        pads := ws.map (fun w => (w.1, runBytes s (gsaAt w.2.core w.2.padBase) w.2.padP)),
        handles := hs.map (fun h => (h.1, h.2.rename f)), bufs := hs.map (fun h => (h.1, runBytes s h.2.base h.2.size)),
        engine := if t.lm then c.engine else Engine.init,
        dArr := us.filterMap (fun u => if (barGet s u 2 0).arrived.contains (ukey u.id) then some (ukey (f u.id)) else none),
        woken := false }
    let t1 := { t with evicted := some e, nbar := t.nbar.map (fun b => (b.1, b.2.rename f)) }
    let s2 := freeBufs s t.cluster k
    let s3 := if t.lm then clearEngine s2 t.cluster else s2
    let s4 := { s3 with
      units := s3.units.filter (fun u => decide (u.2.who.team ≠ k)),
      wgs := s3.wgs.filter (fun w => decide (w.2.team ≠ k)),
      teams := SMap.put s3.teams k t1 }
    writeSave (renameOutside s4 t ctx f) ctx

/-- EVICT_TEAM: every replica of the team is evicted (R291). -/
def execEvictTeam (k : Nat) (s : State) : Res :=
  match SMap.look s.teams k with
  | none => .next s
  | some t => if evictable s k t then .next (settlePreempts (t.peers.foldl evictOne s)) else .next s

/-! ## Re-admission (R270, R152) -/

/-- Results whose latencies have long ended: they are written at once on whatever cluster the unit comes to. -/
def landSoon (l : List Fly) : List Fly := l.map (fun x => { x with due := 0 })

/-- A unit made resident again under its new name. An `mwait` retires as if its monitor had fired (R152); `coreid` is that
of its new core in a simplex launch, and the leader's at launch otherwise (R301). -/
def readmitUnit (s : State) (u : Unit) (tk : Nat) (cl core slot : Nat) : State :=
  let fired : Bool := match u.sS.park with | some p => (match p.why with | .monitor _ => true | _ => false) | none => false
  let v := { u with
    id := ⟨core, slot⟩, age := s.sch.age, ageS := s.sch.age, sS := { u.sS with fly := landSoon u.sS.fly },
    lS := { u.lS with slot0 := { u.lS.slot0 with fly := landSoon u.lS.slot0.fly }, slot1 := { u.lS.slot1 with fly := landSoon u.lS.slot1.fly } },
    mon := if fired then u.mon.map (fun m => { m with fired := true }) else u.mon,
    who := { u.who with team := tk, coreid := if u.who.rset = 0 then BitVec.ofNat 64 (if u.who.isLm then cl * 4 else core) else u.who.coreid },
    assay := if u.assay.at_.isSome then { u.assay with since := s.clk.now - u.assay.since } else u.assay }
  let s1 := s.setUnit v
  { s1 with sch := { s1.sch with age := s1.sch.age + 1 } }

/-- The new names of an evicted team's units at a spot. -/
def newNames (s : State) (e : Evicted) (x : Spot) : List (UnitId × UnitId) :=
  let step (acc : List (UnitId × UnitId)) (u : Unit) : List (UnitId × UnitId) :=
    if u.who.isLm then acc ++ [(u.id, ⟨x.cluster * 4, 32⟩)]
    else
      let core := ((((e.wgs.zip x.wgs).find? (fun p => decide (p.1.1 = u.who.wg))).map (fun p => p.2.1))).getD 0
      let slot := ((List.range 32).find? (fun i =>
        (s.unit? ⟨core, i⟩).isNone && !acc.any (fun a => decide (a.2 = ⟨core, i⟩)))).getD 0
      acc ++ [(u.id, ⟨core, slot⟩)]
  e.units.foldl step []

/-- One replica of an evicted team made resident at a spot. -/
def readmitOne (s : State) (k : Nat) (x : Spot) : State :=
  match SMap.look s.teams k with
  | none => s
  | some t => match t.evicted with
    | none => s
    | some e =>
      let names := newNames s e x
      let f (i : UnitId) : UnitId := match names.find? (fun a => decide (a.1 = i)) with | some a => a.2 | none => i
      let ctx := match e.units with | u :: _ => u.who.ctx | [] => 0
      let done (u : Unit) : Bool := e.dArr.contains (ukey u.id) && !(barGet s u 2 0).arrived.contains (ukey u.id)
      let spoiled := (e.units.filter done).map (fun u => u.who.wg)
      let t1 := { t with cluster := x.cluster, evicted := none, nbar := t.nbar.map (fun b => (b.1, b.2.rename f)) }
      let s1 := renameOutside { s with teams := SMap.put s.teams k t1 } t ctx f
      let s2 := (e.wgs.zip x.wgs).foldl (fun m p =>
        let a := gsaAt p.2.1 p.2.2
        let w := { p.1.2.move f 0 a with core := p.2.1, padBase := p.2.2, eligible := p.1.2.eligible && !spoiled.contains p.1.1 }
        putBytes (zeroPad { m with wgs := SMap.put m.wgs p.1.1 w } w) a (((e.pads.find? (fun q => decide (q.1 = p.1.1))).map (fun q => q.2)).getD [])) s1
      let s3 := (e.handles.zip x.bufs).foldl (fun m h =>
        putBytes (setHandle (freeRun m h.2 h.1.2.size) x.cluster h.1.1 { h.1.2.rename f with base := h.2 }) h.2
          (((e.bufs.find? (fun q => decide (q.1 = h.1.1))).map (fun q => q.2)).getD [])) s2
      let s4 := if t.lm then s3.setCluster x.cluster { s3.cluster x.cluster with engine := e.engine } else s3
      e.units.foldl (fun m u => let i := f u.id; readmitUnit m (u.renamePairs f) k x.cluster i.core i.slot) s4

/-- The places to which a woken team can return, on the dies it left. -/
def readmitSpots (s : State) (t : Team) : Option (List Spot) :=
  match SMap.look s.grids t.grid with
  | none => none
  | some g =>
    let live (w : Nat) : Bool := match t.evicted with | some e => e.wgs.any (fun x => decide (x.1 = w)) | none => false
    let n := (t.wgs.filter live).length
    let h := match t.evicted with | some e => e.handles.length | none => 0
    spotsOn s g t.mtl n h (t.peers.filterMap (fun j => (SMap.look s.teams j).map (fun x => x.die)))

/-- TEAM_READMIT: a woken team returns to its dies, with every replica. -/
def execTeamReadmit (k : Nat) (s : State) : Res :=
  match SMap.look s.teams k with
  | none => .next s
  | some t =>
    if t.evicted.isSome && t.peers.any (fun j => match SMap.look s.teams j with | some x => woken s x | none => false) then
      match readmitSpots s t with
      | some l => .next ((t.peers.zip l).foldl (fun m p => readmitOne m p.1 p.2) s)
      | none => .next s
    else .next s

/-! ## The wait-for table (R273) -/

/-- Every unit of the package, resident or evicted. -/
def everyUnit (s : State) : List Unit :=
  s.units.map (fun e => e.2) ++ s.teams.flatMap (fun t => match t.2.evicted with | some e => e.units | none => [])

/-- The units that take part in a barrier of a unit. -/
def participants (s : State) (u : Unit) (kind : Nat) : List Unit :=
  (everyUnit s).filter (fun v => match kind with
    | 0 => decide (v.who.wg = u.who.wg) && !v.who.isLm
    | 1 => decide (v.who.team = u.who.team)
    | _ => !v.who.isLm && decide (v.who.grid = u.who.grid) && (match SMap.look s.teams u.who.team, SMap.look s.teams v.who.team with
      | some a, some b => decide (a.slab = b.slab) && decide (a.rep = b.rep)
      | _, _ => false))

/-- Whether the die slab of a unit has teams still to place. -/
def slabOpen (s : State) (u : Unit) : Bool :=
  match SMap.look s.teams u.who.team with
  | none => false
  | some t => match SMap.look s.grids t.grid with
    | none => false
    | some g => !g.aborted && (match g.slabs[t.slab]? with | some x => decide (x.next < g.pkt.teams) | none => false)

/-- The packets of a context that are queued: in its child queues and its rings. -/
def queuedPackets (s : State) (ctx : Nat) : List Packet :=
  ((List.range 4).flatMap (fun c => kidsOf s ctx c)).map (fun x => x.pkt)
    ++ s.queues.flatMap (fun q => if q.2.desc.ctx = ctx then
        (List.range (q.2.tail - q.2.head)).filterMap (fun i => match ringRead s (queueWho q.1) q.2 (q.2.head + i) with
          | .ok l => some (packetOf l)
          | _ => none)
      else [])

/-- Whether a launch will signal the timeline. -/
def Packet.signals (p : Packet) (n : Nat) : Bool := p.cen && decide (p.ctl = n)

/-- Whether a team of the launch may run an engine with the timeline. -/
def Packet.drives (p : Packet) (n : Nat) : Bool := p.lm && decide (p.mtl ≤ n) && decide (n < p.mtl + 2 ^ p.mtk)

/-- The tile halves that pass `i` of a matrix word reads. -/
def MKind.halves (k : MKind) (i : Nat) : List Nat :=
  match k with
  | .mma _ a b ta tb_ _ => (if a.isNone then [ta + i] else []) ++ (if b.isNone then [tb_ + i] else [])
  | _ => []

/-- Whether a word drains to the buffer. -/
def MKind.toBuffer (k : MKind) : Bool := match k with | .mdrn _ none _ _ => true | _ => false

/-- The passes of a word. -/
def MKind.passes (k : MKind) : Nat := match k with | .mma _ _ _ _ _ w => fld w.toNat 44 4 + 1 | _ => 1

/-- The objects that the next pass of a word uses (R193). -/
def MWord.passObjs (w : MWord) : List Nat := (if w.kind.toBuffer then [8] else []) ++ w.kind.halves w.done

/-- The objects that a word still has to use (R193). -/
def MWord.objects (w : MWord) : List Nat :=
  (if w.kind.toBuffer then [8] else [])
    ++ (List.range (w.kind.passes - w.done)).flatMap (fun i => w.kind.halves (w.done + i))

/-- The reservations before which the next pass of a word does not begin: posted on an object that it uses, before the word, and not released
(R193). -/
def passHeld (e : Engine) (w : MWord) : List Resv :=
  e.resv.filter (fun r => w.passObjs.contains r.obj && decide (r.arr < w.arr))

/-- The name under which the wait-for table keeps the next pass of a cluster's engine. -/
def passId (cl : Nat) : UnitId := ⟨cl * 4, 33⟩

/-- What a park waits on: the object's number, the agents that may signal it, and whether no signaller can come. -/
structure WaitOn where
  obj : Nat
  who : List UnitId
  dead : Bool
  deriving DecidableEq, Repr

/-- The wait-for entry of a pass that is parked on a reservation (R207): the warps that hold it. -/
def passWait (s : State) (cl : Nat) : Option WaitOn :=
  let e := (s.cluster cl).engine
  match e.queue with
  | [] => none
  | w :: _ => match passHeld e w with
    | [] => none
    | r :: t => some { obj := r.obj, who := (r :: t).map (fun x => x.unit), dead := false }

/-- What the engine's words on a cluster wait on: its next pass, or the lockmaster that is still to issue one. -/
def engineAgents (s : State) (cl : Nat) : List UnitId :=
  if (s.cluster cl).engine.queue.isEmpty then [⟨cl * 4, 32⟩] else [passId cl]

/-- The wait-for entry of a park that can be part of a cycle (R273, R295). -/
def waitOn (s : State) (u : Unit) (p : Park) : Option WaitOn :=
  match p.why with
  | .barPhase k i ph =>
    let b := barGet s u (k % 8) i
    if b.phases = ph then
      let m := (participants s u (k % 8)).filter (fun v => !b.arrived.contains (ukey v.id))
      some { obj := i, who := m.map (fun v => v.id), dead := decide (m.length + b.arrived.length < b.count) && !(decide (k % 8 = 2) && slabOpen s u) }
    else none
  | .timeline n v => match timelineOf s u.who.ctx n with
    | some t =>
      if t.owner = .software ∧ t.val < v then
        let gs := s.grids.filter (fun g => decide (g.2.ctx = u.who.ctx) && g.2.pkt.signals n)
        let m := (everyUnit s).filter (fun x => gs.any (fun g => decide (g.1 = x.who.grid)))
        some { obj := n, who := m.map (fun x => x.id), dead := gs.isEmpty && !(queuedPackets s u.who.ctx).any (fun q => q.signals n) }
      else if t.owner = .engine ∧ t.val < v then
        let ts := s.teams.filter (fun x => x.2.lm && decide (x.2.mtl = n) && gridOf s u.who.ctx x.2.grid)
        let coming := s.grids.any (fun g => decide (g.2.ctx = u.who.ctx) && (!g.2.started || g.2.placing) && g.2.pkt.drives n)
          || (queuedPackets s u.who.ctx).any (fun q => q.drives n)
        some { obj := n, who := (ts.filter (fun x => x.2.evicted.isNone)).flatMap (fun x => engineAgents s x.2.cluster), dead := ts.isEmpty && !coming }
      else none
    | none => none
  | .mxQueue | .mxDone _ => some { obj := match (s.cluster u.cluster).engine.queue with | w :: _ => w.num | [] => 0,
                                   who := [passId u.cluster], dead := false }
  | .grant obj =>
    let e := (s.cluster u.cluster).engine
    match e.resv.find? (fun r => decide (r.obj = obj) && decide (r.unit = u.id)) with
    | some r =>
      if e.queue.any (fun w => decide (w.arr < r.arr) && w.objects.contains obj) then
        some { obj := obj, who := [⟨u.cluster * 4, 32⟩, passId u.cluster], dead := false }
      else none
    | none => none
  | .compare => some { obj := 0, who := ((everyUnit s).filter (fun v => decide (v.who.rset = u.who.rset) && v.assay.at_.isNone)).map (fun v => v.id),
                       dead := false }
  | _ => none

/-- The wait-for entries of a unit: one for each stream that is parked. -/
def waitsOf (s : State) (u : Unit) : List WaitOn := (parksOf u).filterMap (waitOn s u)

/-- The unit of an agent; none for a pass. -/
def agentUnit (s : State) (i : UnitId) : Option Unit := (everyUnit s).find? (fun u => decide (u.id = i))

/-- Every agent of the table: units, and passes of engines. -/
def agents (s : State) : List UnitId := (everyUnit s).map (fun u => u.id) ++ s.clusters.map (fun c => passId c.1)

/-- What an agent waits on. -/
def waitsAt (s : State) (i : UnitId) : List WaitOn :=
  if i.slot = 33 then (passWait s (i.core / 4)).toList
  else match agentUnit s i with
    | some u => waitsOf s u
    | none => []

/-- The agents that an agent waits for. -/
def waitNext (s : State) (i : UnitId) : List UnitId := (waitsAt s i).flatMap (fun w => w.who)

/-- The cycles of waits that go on from a path that began at its lowest member `i` and stands at `x`, each member once; `fuel` bounds their
length. -/
def cyclesFrom (s : State) (i : UnitId) (fuel : Nat) (path : List UnitId) (x : UnitId) : List (List UnitId) :=
  match fuel with
  | 0 => []
  | n + 1 => (waitNext s x).dedup.flatMap (fun y =>
      if y = i then [path]
      else if path.contains y ∨ ukey y < ukey i then []
      else cyclesFrom s i n (path ++ [y]) y)

/-- The grid and context of the team whose engine runs on a cluster. -/
def engineGrid (s : State) (cl : Nat) : Option Grid :=
  ((residentTeams s).find? (fun t => t.lm && decide (t.cluster = cl))).bind (fun t => SMap.look s.grids t.grid)

/-- A record about a parked agent written to its context's log (R273, R288); a pass stands under its lockmaster's place. -/
def logAgent (s : State) (at_ : State) (i : UnitId) (kind extra : Nat) : State :=
  let obj := match waitsAt at_ i with | w :: _ => w.obj | [] => 0
  match agentUnit at_ i with
  | some u => writeLog s u.who.ctx (unitRec u .s 0 kind obj 0 extra)
  | none => match engineGrid at_ (i.core / 4) with
    | some g => writeLog s g.ctx { code := 0, kind := kind, grid := g.num, wg := 0, core := i.core, slot := 32, flags := 0, spc := 0, lpc := 0,
                                   addr := obj, info := 0, extra := extra }
    | none => s

/-- The records of a cycle: its first member with the count, then one record for each member, of which at most 16 are recorded. -/
def logCycle (s : State) (c : List UnitId) : State :=
  match c.take 16 with
  | [] => s
  | i :: t => (i :: t).foldl (fun x j => logAgent x s j 9 0) (logAgent s s i 6 (t.length + 1))

/-- Every cycle, each from its lowest member. -/
def cycles (s : State) : List (List UnitId) := (agents s).flatMap (fun i => cyclesFrom s i (agents s).length [i] i)

/-- A workgroup whose charge no core can admit is recorded as waiting without a signaller (R263, R273). -/
def logBudget (s : State) : State :=
  s.grids.foldl (fun t g => if g.2.started && g.2.placing && decide (s.set.budget < g.2.pkt.charge) then
    writeLog t g.2.ctx { code := 0, kind := 7, grid := g.2.num, wg := 0, core := 0, slot := 0, flags := 0, spc := 0, lpc := 0,
                         addr := g.2.pkt.charge, info := 0, extra := 0 } else t) s

/-- WAIT_FOR_WALK: cycles of waits and waits without a possible signaller are logged; no context is reset. -/
def execWaitForWalk (s : State) : Res :=
  let s1 := (cycles s).foldl logCycle s
  let dead := (everyUnit s).filter (fun u => (waitsOf s u).any (fun w => w.dead))
  let s2 := logBudget (dead.foldl (fun t u => logAgent t s u.id 7 0) s1)
  .next { s2 with sch := { s2.sch with walkAt := s.clk.now + 20000000 } }

/-! ## Which events are due -/

/-- The accepted grid that starts next of those that can: of the highest class, deadline grids by their deadline, others in the order in which
the scanner took them (R260). -/
def dueStart (s : State) : Option Instr :=
  let l := s.grids.filter (fun g => (startDies s g.2).isSome)
  let top := (l.map (fun g => g.2.pkt.cls)).foldl max 0
  (leastBy (fun (g : Nat × Grid) => if top = 3 then g.2.due * 2 ^ 20 + (match g.2.queue with | some q => q | none => 65536) else 0)
    (l.filter (fun g => decide (g.2.pkt.cls = top)))).map (fun g => Instr.gridStart g.1)

def duePlace (s : State) : Option Instr :=
  (placingGrids s).findSome? (fun g => if (placeable s (woken s) g.2).isSome then some (Instr.teamPlace g.1) else none)

/-- Whether a snoop has been sent and not answered. -/
def snoopSent (s : State) (t l : Nat) (k : SnpKind) : Bool :=
  s.fl.snoops.any (fun x => decide (x.tenant = t) && decide (x.line = l) && decide (x.kind = k))

/-- Whether the staging of a workgroup can go on now. -/
def stageReady (s : State) (w : Wg) : Bool :=
  match SMap.look s.grids w.grid with
  | none => false
  | some g => match stageAll s (gridWho w.grid) g.ctx (w.peers.filterMap (fun j => SMap.look s.wgs j)) g.lads with
    | .snoop t l k => !snoopSent s t l k
    | _ => true

def dueStage (s : State) : Option Instr :=
  s.wgs.findSome? (fun w => if !w.2.staged && stageReady s w.2 then some (Instr.ladingStage w.1) else none)

def dueRetire (s : State) : Option Instr :=
  s.grids.findSome? (fun g => if canRetire s g.1 g.2 && (match ctrStep s g.1 g.2 with
    | .snoop t l k => !snoopSent s t l k | .wait => false | _ => true) then some (Instr.gridRetire g.1) else none)

def dueMiss (s : State) : Option Instr :=
  s.grids.findSome? (fun g => if missDue s g.2 then some (Instr.deadlineMiss g.1) else none)

def dueRequest (s : State) : Option Instr :=
  s.grids.findSome? (fun g => if (requestDue s g.1 g.2).isSome then some (Instr.deadlinePreemptRequest g.1) else none)

def dueTimer (s : State) : Option Instr :=
  s.preempts.findSome? (fun r => if r.running && decide (r.at_ + r.limit ≤ s.clk.now) then some (Instr.preemptTimerExpire r.id) else none)

def dueReset (s : State) : Option Instr :=
  s.ctxs.findSome? (fun c => if c.2.resetting then some (Instr.contextResetDone c.1) else none)

def dueReadmit (s : State) : Option Instr :=
  s.teams.findSome? (fun t => if t.2.evicted.isSome && woken s t.2 && (readmitSpots s t.2).isSome then some (Instr.teamReadmit t.1) else none)

def dueEvict (s : State) : Option Instr :=
  s.teams.findSome? (fun t => if evictable s t.1 t.2 then some (Instr.evictTeam t.1) else none)

/-- Whether taking the head of a queue can go on now. -/
def takeReady (s : State) (src : QSrc) : Bool :=
  match headOf s src with
  | .some h => (match h.kid, h.pkt with
    | none, some p => (match readLads s (srcWho src) h.ctx p with | .snoop t l k => !snoopSent s t l k | _ => true)
    | _, _ => true)
  | .snoop t l k => !snoopSent s t l k
  | .none => false

/-- The head that the scanner takes next, or whose packet needs a snoop first. -/
def dueTake (s : State) : Option Instr :=
  match (allSrcs s).find? (fun q => match headOf s q with | .snoop t l k => !snoopSent s t l k | _ => false) with
  | some q => some (.queuePacketTake q)
  | none => match scanPick s with
    | some q => if takeReady s q then some (.queuePacketTake q) else none
    | none => none

/-- The first event of the scheduler that is due, in a fixed order (log 1). -/
def gridDue (s : State) : Option Instr :=
  dueReset s <|> dueMiss s <|> dueRetire s <|> dueTimer s <|> dueReadmit s <|> dueStage s <|> dueStart s <|> duePlace s
    <|> dueRequest s <|> dueEvict s <|> dueTake s <|> (if s.sch.walkAt ≤ s.clk.now then some .waitForWalk else none)

end Sys2Proof.Machine
end

