-- ==== Sys2Proof/Machine/MemEvents.lean ====
section
/-! DEFINITION. Events of results and of the memory system: results written (R22, R85, R111, R21), imprecise traps taken
(R280, R281), home serialization, acknowledgements and their loss (R236 to R239), atomics at their place (R147), storage
errors (R336) and bank refresh (R242). -/

namespace Sys2Proof.Machine

/-! ## Results -/

/-- Whether a stream waits for its fixed-latency results, at a marker or at a word that needs them written, and all of them are due at
the pulse count `now`. Without such a wait a result stays out of sight of every later word, however late that word comes (R22, R85). -/
def Unit.written (u : Unit) (st : Strm) (now : Nat) : Bool :=
  let at_ (m : Bool) (l : List Fly) : Bool :=
    (m || (match u.parkOf st with | some p => decide (p.why = .written) && !l.isEmpty | none => false))
      && l.all (fun f => decide (f.due ≤ now))
  match st with
  | .s => at_ u.sS.marked u.sS.fly
  | .l0 => at_ u.lS.slot0.marked u.lS.slot0.fly
  | .l1 => at_ u.lS.slot1.marked u.lS.slot1.fly

/-- The results of a stream written, in the order of issue. -/
def Unit.landOf (u : Unit) (st : Strm) : Unit :=
  match st with
  | .s => u.landS
  | .l0 => u.landSlot false
  | .l1 => u.landSlot true

/-- FIXED_RESULT_WRITE: the results that a stream waits for are written once their latencies have ended (R22). -/
def execFixedResultWrite (u : UnitId) (st : Strm) (s : State) : Res :=
  match s.unit? u with
  | none => .next s
  | some v => if v.written st (pulses s u.core) then .next (s.setUnit (v.landOf st)) else .next s

/-- VARIABLE_RESULT_ARRIVE (R21). -/
def execVariableResultArrive (u : UnitId) (id : Nat) (s : State) : Res :=
  match s.unit? u with
  | none => .next s
  | some v => match v.pend.find? (fun p => decide (p.id = id)) with
    | none => .next s
    | some p => if pendReady s v p then .next (arrive s v p) else .next s

/-- The oldest entry of the imprecise queue that is not held for a release (R280); one that arrived in this mclk waits, behind any precise trap
of the mclk (R281). -/
def Unit.nextImp (u : Unit) (now : Nat) : Option Imp := u.trap.imp.find? (fun e => !e.held && decide (e.at_ < now))

/-- IMPRECISE_TRAP_TAKE: a trap whose entry waits for results is entered, or, outside a handler and at a boundary of the S-stream, the
oldest entry of the imprecise queue is taken (R280, R281). -/
def execImpreciseTrapTake (u : UnitId) (s : State) : Res :=
  match s.unit? u with
  | none => .next s
  | some v =>
    if v.stopped then .next s
    else if v.trap.due.isSome then finishTrap s v
    else match v.nextImp s.clk.now with
      | none => .next s
      | some e => if v.inHandler || v.committed then .next s else takeImp s v .s e

/-! ## The home slice (R237 to R239) -/

/-- The slice that homes a store and its writing die, as one key. -/
def PStore.path (p : PStore) : Nat := gsaCore (p.sector * 32) * 8 + p.die

/-- Whether a home has room for the number of a store: it keeps 64 for each die, and drops none of a store that may still be retransmitted, since it
would apply that store twice (R239, R210; DEDUCED, log 32). -/
def seqRoom (s : State) (p : PStore) : Bool :=
  decide (p.die = p.home) || (match (SMap.get [] s.mem.recent p.path)[63]? with
    | some q => !s.fl.stores.any (fun x => decide (x.seq = q))
    | none => true)

/-- Whether the home can apply a store now. -/
def storeReady (s : State) (p : PStore) : Bool := !p.applied && p.out && onTheWay s p && linked s p.die p.home && seqRoom s p

/-- The store with a sequence number. -/
def storeAt (s : State) (q : Nat) : Option PStore := s.fl.stores.find? (fun p => decide (p.seq = q))

/-- A store gone from the machine with its mirror tags; the next one of its die and sector is sent, and stores that waited in their queues
for an entry or a way may leave (R238, R213). -/
def dropStore (s : State) (p : PStore) : State :=
  let l := s.fl.stores.filter (fun q => decide (q.seq ≠ p.seq))
  let s1 := { s with
    fl := { s.fl with stores := l },
    units := s.units.map (fun (e : Nat × Unit) => (e.1, { e.2 with tags := e.2.tags.filter (fun t => decide (t ≠ p.seq)) })) }
  sendOut ((((l.filter (fun q => !q.sent)).filterMap (fun q => q.unit)).dedup).foldl releaseStores s1)

/-- An imprecise fault of a store word, or of an atomic's write-back, whose word has retired. A write-back that met poison while the atomic's result is
still out keeps the lane pending in every replica; once the result has come, its destination in the lane is written 0 at the trap entry (R233, R283). -/
def storeImp (s : State) (p : PStore) (code addr info : Nat) (held : Bool) : State :=
  match p.unit.bind (fun i => s.unit? i) with
  | none => s
  | some u =>
    match (if held then none else p.back).bind (fun b => (u.pend.find? (fun q => decide (q.id = b.1) && decide (q.bad = 0))).map (fun q => (q, b.2.2))) with
    | some (q, l) =>
      let vals := q.vals.filter (fun e => decide (e.1 ≠ l))
      arriveBad s u q vals vals (BitVec.ofNat 32 (2 ^ l)) addr info
    | none => impreciseSet s u.id u.who.wg u.who.ctx u.who.grid
        { storeFault u p code addr info with
          zdst := if held then none else p.back.map (fun b => (b.2.1, BitVec.ofNat 32 (2 ^ b.2.2))), held := held }

/-- A home notes the sequence number of a store from another die: the 64 most recent of each die are kept (R239). -/
def noteSeq (s : State) (p : PStore) : State :=
  if p.die = p.home then s
  else
    let l := (p.seq :: SMap.get [] s.mem.recent p.path).take 64
    { s with mem := { s.mem with recent := SMap.put s.mem.recent p.path l } }

/-- HOME_WRITE_SERIALIZE: the home applies a store; a whole sector lifts poison, and a part of a poisoned sector faults; an atomic's
write-back to one is not performed (R233, R237). A store to its own die is complete with that (R211). -/
def execHomeWriteSerialize (seq : Nat) (s : State) : Res :=
  match storeAt s seq with
  | none => .next s
  | some p =>
    if storeReady s p then
      let bad := s.mem.badHome.contains p.sector && !p.full
      let s1 := noteSeq (if bad && p.via.isSome then s else writeHome s p.bytes) p
      let s2 := if p.full then clearBad s1 p.sector else s1
      let s3 := if bad then storeImp s2 p 0x43 p.low (if p.via.isNone then 1 else 2) false else s2
      if p.die = p.home then .next (dropStore s3 p)
      else
        let l := s3.fl.stores.map (fun (q : PStore) => if q.seq = seq then { q with applied := true } else q)
        .next { s3 with fl := { s3.fl with stores := l } }
    else .next s

/-- ACK_ARRIVE: the writer's die learns that its store is visible everywhere (R211, R238). -/
def execAckArrive (seq : Nat) (s : State) : Res :=
  match storeAt s seq with
  | none => .next s
  | some p =>
    if p.applied && !p.lostAck && decide (p.retrans < 4) && linked s p.die p.home then .next (dropStore s p) else .next s

/-- Whether a store's acknowledgement is overdue: 1 us after it was sent (R239). -/
def ackLate (s : State) (p : PStore) : Bool :=
  decide (p.die ≠ p.home) && onTheWay s p && decide (p.sentAt + 2000 ≤ s.clk.now)

/-- ACK_RETRANSMIT_TIMEOUT: a retransmission, at most three, of which the home applies none again; after the third the sector is marked in-doubt and
poisoned in the writer's mirror (R239, R143). -/
def execAckRetransmitTimeout (seq : Nat) (s : State) : Res :=
  match storeAt s seq with
  | none => .next s
  | some p =>
    if ackLate s p then
      let l := s.fl.stores.map (fun (q : PStore) =>
        if q.seq = seq then { q with retrans := q.retrans + 1, sentAt := s.clk.now } else q)
      let s1 := { s with fl := { s.fl with stores := l } }
      if p.retrans < 3 then .next s1
      else
        let k := p.die * 2 ^ 27 + p.sector
        .next { s1 with mem := { s1.mem with badMir := setAdd s1.mem.badMir k, doubt := setAdd s1.mem.doubt k } }
    else .next s

/-- POISON_NOTICE: the home and every mirror poison the sector, marked in-doubt (R143), the store and its tags leave every buffer, and the ack-loss
trap of its warp is armed (R239, R353). -/
def execPoisonNotice (seq : Nat) (s : State) : Res :=
  match storeAt s seq with
  | none => .next s
  | some p =>
    if 4 ≤ p.retrans then
      let s1 := dropStore { s with mem := { s.mem with badHome := setAdd s.mem.badHome p.sector,
                                                       doubt := setAdd s.mem.doubt (8 * 2 ^ 27 + p.sector) } } p
      .next (storeImp s1 p 0x42 p.low 0 true)
    else .next s

/-- Whether an atomic can reach its place. -/
def atomLinked (s : State) (a : PAtom) : Bool :=
  match a.place with
  | .slice => a.accs.all (fun e => linked s a.die (gsaDie e.addr))
  | _ => true

/-- REMOTE_ATOMIC_PERFORM (R147). -/
def execRemoteAtomicPerform (seq : Nat) (s : State) : Res :=
  match s.fl.atoms.find? (fun a => decide (a.seq = seq)) with
  | none => .next s
  | some a => if atomReady s a && atomLinked s a then .next (performAtom s a) else .next s

/-- AQUEDUCT_PATH_DOWN (R236). -/
def execAqueductPathDown (a b : Nat) (k : PathKind) (s : State) : Res :=
  .next { s with paths := { s.paths with down := if s.paths.down.contains (a, b, k) then s.paths.down else (a, b, k) :: s.paths.down } }

/-! ## Storage errors (R336) -/

/-- A cluster's engine changed. -/
def onEngine (s : State) (cl : Nat) (f : Engine → Engine) : State :=
  let c := s.cluster cl
  s.setCluster cl { c with engine := f c.engine }

/-- SRAM_UNCORRECTABLE: an uncorrectable error of a storage array. In global SRAM, a die mirror, HBM4 or the far tier it
poisons its granule (R233, R363); an accumulator's tile is marked with the checksum fault and the pair of elements is free
(R203); an assay buffer's next compare is a mismatch (R299); every line of a tenant that a directory or map-cache entry covers is
poisoned (R319). -/
def execSramUncorrectable (e : ErrAt) (s : State) : Res :=
  .next (match e with
    | .home k => { s with mem := { s.mem with badHome := setAdd s.mem.badHome k } }
    | .mirror d k => { s with mem := { s.mem with badMir := setAdd s.mem.badMir (d % 8 * 2 ^ 27 + k % 2 ^ 27) } }
    | .hbm g => { s with mem := { s.mem with badHbm := setAdd s.mem.badHbm g } }
    | .far g => { s with mem := { s.mem with badFar := setAdd s.mem.badFar g } }
    | .tile cl b => onEngine s cl (fun x =>
        { x with oBad := (List.range 8).foldl (fun l i => setAdd l (b % 131072 / 8 * 8 + i)) x.oBad })
    | .scale cl b => onEngine s cl (fun x =>
        { x with scaleBad := (List.range 8).foldl (fun l i => setAdd l (b % 65536 / 8 * 8 + i)) x.scaleBad })
    | .acc cl k =>
      let a := k % 131072 / 2 * 2
      let s1 := onEngine s cl (fun x =>
        { x with marks := setAdd x.marks (a / 16384),
                 acc := SMap.set 0 (SMap.set 0 x.acc a (Config.freeHalf s.free)) (a + 1) (Config.freeHalf (s.free + 1)) })
      { s1 with free := s1.free + 2 }
    | .assay u => match s.unit? u with
      | some v => s.setUnit { v with assay := { v.assay with bad := true } }
      | none => s
    | .line t l => { s with tenants := SMap.upd s.tenants t (fun x => { x with poison := setAdd x.poison l }) }
    | .mapEntry t p => { s with tenants := SMap.upd s.tenants t (fun x =>
        { x with poison := (List.range 64).foldl (fun l i => setAdd l (p * 64 + i)) x.poison }) })

/-- REGISTER_UNCORRECTABLE: an uncorrectable error in a register or pad line: rollback of the workgroup where the interval
is eligible and has not been rolled back, context-fatal 0x0053 elsewhere and on a lockmaster (R286). -/
def execRegisterUncorrectable (u : UnitId) (s : State) : Res :=
  match s.unit? u with
  | none => .next s
  | some v => match SMap.look s.wgs v.who.wg with
    | none => .next (contextFatal s v .s 0x53 0 0 0 0)
    | some w =>
      if v.who.isLm || !eligibleNow s w || w.rolled then .next (contextFatal s v .s 0x53 0 0 0 0)
      else .next (writeLog (rollback s v.who.wg true) v.who.ctx (unitRec v .s 0 3 0 0 0))

/-- PATROL_SCRUB: a corrected error changes no visible state and is counted (R336). -/
def execPatrolScrub (corrected : Bool) (s : State) : Res :=
  .next { s with plant := { s.plant with corrected := s.plant.corrected + (if corrected then 1 else 0) } }

/-! ## Banks (R242) -/

/-- The counter of a bank lowered by the level L, to 0 at the least. -/
def lowerBank (s : State) (k : Nat) : State :=
  { s with plant := { s.plant with banks := SMap.set 0 s.plant.banks k (SMap.get 0 s.plant.banks k - s.set.level) } }

/-- BANK_REFRESH: a refresh that covers the bank. -/
def execBankRefresh (stack channel bank : Nat) (s : State) : Res := .next (lowerBank s (bankKey stack channel bank))

/-- REFRESH_MGMT_ISSUE: the controller's command once the counter has reached L. -/
def execRefreshMgmtIssue (stack channel bank : Nat) (s : State) : Res :=
  let k := bankKey stack channel bank
  .next (if s.set.level ≤ SMap.get 0 s.plant.banks k then lowerBank s k else s)

/-- STACK_CRITICAL_TEMP: the stack goes into self-refresh and every context is frozen in place (R243). -/
def execStackCriticalTemp (stack : Nat) (s : State) : Res :=
  .next { s with plant := { s.plant with hotStacks := setAdd s.plant.hotStacks (stack % 8), frozen := true } }

/-- STACK_THERMAL_CLEAR: the signal has been clear for 1 ms; contexts resume when no stack is hot and no checkpoint
holds them (R243, R338). -/
def execStackThermalClear (stack : Nat) (s : State) : Res :=
  let l := setDel s.plant.hotStacks (stack % 8)
  .next { s with plant := { s.plant with hotStacks := l, frozen := !l.isEmpty || s.plant.ckpt.isSome } }

/-! ## Which events are due -/

/-- The streams of a unit whose results are to be written. -/
def Unit.fixedDue (u : Unit) (now : Nat) : Option Strm := [Strm.s, .l0, .l1].find? (fun st => u.written st now)

/-- Whether the unit's `mwait` has timed out: a change of its sector in the mclk of the expiry comes first (R347). -/
def Unit.monDue (u : Unit) (now : Nat) : Bool :=
  match u.sS.park with
  | some p => match p.why with
    | .monitor t => u.trap.due.isNone && decide (t ≠ 0) && decide (p.since + t < now) && (match u.mon with | some x => !x.fired | none => false)
    | _ => false
  | none => false

/-- The first due event of each kind. -/
def dueFixed (s : State) : Option Instr :=
  s.units.findSome? (fun e => (e.2.fixedDue (pulses s e.2.id.core)).map (fun st => Instr.fixedResultWrite e.2.id st))

def dueVariable (s : State) : Option Instr :=
  s.units.findSome? (fun e => (e.2.pend.find? (fun p => pendReady s e.2 p)).map (fun p =>
    Instr.variableResultArrive e.2.id p.id))

def dueStore (s : State) : Option Instr :=
  s.fl.stores.findSome? (fun p =>
    if storeReady s p then some (Instr.homeWriteSerialize p.seq)
    else if p.applied && !p.lostAck && decide (p.retrans < 4) && linked s p.die p.home then some (Instr.ackArrive p.seq)
    else if 4 ≤ p.retrans then some (Instr.poisonNotice p.seq)
    else if ackLate s p then some (Instr.ackRetransmitTimeout p.seq) else none)

def dueAtom (s : State) : Option Instr :=
  s.fl.atoms.findSome? (fun x =>
    if atomReady s x && atomLinked s x then some (Instr.remoteAtomicPerform x.seq) else none)

def dueUnit (s : State) : Option Instr :=
  s.units.findSome? (fun x =>
    if x.2.stopped then none
    else if x.2.trap.due.isSome then (if x.2.settled then some (Instr.impreciseTrapTake x.2.id) else none)
    else if (x.2.nextImp s.clk.now).isSome && !x.2.inHandler && !x.2.committed then some (Instr.impreciseTrapTake x.2.id) else none)

def dueMonitor (s : State) : Option Instr :=
  s.units.findSome? (fun x => if !x.2.stopped && x.2.monDue s.clk.now then some (Instr.monitorTimeout x.2.id) else none)

/-- The first event of results and memory that is due, in a fixed order (log 1). -/
def memDue (s : State) : Option Instr :=
  dueFixed s <|> dueVariable s <|> dueMonitor s <|> dueStore s <|> dueAtom s <|> dueUnit s

end Sys2Proof.Machine
end

