-- ==== Sys2Proof/Machine/Matrix.lean ====
section
/-! DEFINITION. The lockmaster's matrix words as they issue (R180 to R192, R198 to R202) and the lane words that feed and
drain the engine (R193 to R197). -/

namespace Sys2Proof.Machine

/-! ## Descriptors (R183 to R185) -/

/-- An SRAM operand's descriptor pair. -/
structure Desc where
  base : Nat
  rp : Nat
  tp : Nat
  rot : Nat
  rsv : Bool
  deriving DecidableEq, Repr

def descOf (d0 d1 : Word) : Desc :=
  { base := fld d0.toNat 0 32, rp := fld d0.toNat 32 20, tp := fld d1.toNat 0 32, rot := fld d1.toNat 32 4,
    rsv := decide (fld d0.toNat 52 12 ≠ 0) || decide (fld d1.toNat 36 28 ≠ 0) }

/-- Whether bytes `lo` to `hi` lie within one slice of cluster `cl`. -/
def inSlice (cl lo hi : Nat) : Bool :=
  decide (gsaCore lo = gsaCore hi) && decide (clusterOf (gsaCore lo) = cl) && decide (hi % 2 ^ 22 < Config.sliceBytes)

/-- The code of the first failing check of a list in ascending order of code. -/
def firstCode (l : List (Bool × Nat)) : Option Nat := (l.find? (fun e => e.1)).map (fun e => e.2)

/-- The last byte of an operand of `n` + 1 passes of 128 lines of `lb` bytes. -/
def Desc.last (d : Desc) (lb n : Nat) : Nat := d.base + n * d.tp + 127 * d.rp + lb - 1

/-- The code that an SRAM operand takes; `fix` forbids a tile pitch, `flat` also a rotation. -/
def Desc.bad (d : Desc) (cl lb n : Nat) (fix flat : Bool) : Option Nat :=
  firstCode [(!inSlice cl d.base (d.last lb n), 3),
    (decide (d.base % 16 ≠ 0) || decide (d.rp % 16 ≠ 0) || decide (d.tp % 16 ≠ 0), 4),
    (decide (8 ≤ d.rot) || (fix && decide (d.tp ≠ 0)) || (flat && decide (d.rot ≠ 0)), 5), (d.rsv, 8)]

/-- The bytes of an operand that `gsa_check` looks at: the first and the last of every line. -/
def Desc.ends (d : Desc) (lb n : Nat) : List Nat :=
  (List.range (n + 1)).flatMap (fun i => (List.range 128).flatMap (fun x =>
    [d.base + i * d.tp + x * d.rp, d.base + i * d.tp + x * d.rp + lb - 1]))

/-- The fields of a format block (R184). -/
structure FmtB where
  afmt : Nat
  abl : Nat
  asa : Nat
  bfmt : Nat
  bbl : Nat
  bsa : Nat
  passes : Nat
  rsv : Bool
  deriving DecidableEq, Repr

def fmtBOf (w : Nat) : FmtB :=
  { afmt := fld w 0 4, abl := fld w 4 2, asa := fld w 6 16, bfmt := fld w 22 4, bbl := fld w 26 2, bsa := fld w 28 16,
    passes := fld w 44 4, rsv := decide (fld w 48 16 ≠ 0) }

/-- Elements of a line by format (R179). -/
def kOf (f : Nat) : Nat := match f with | 0 => 64 | 4 => 256 | _ => 128

/-- The width class of a format (R184). -/
def wclass (f : Nat) : Nat := match f with | 0 => 16 | 4 => 4 | _ => 8

/-- Elements of a block of code `bl`. -/
def blen (bl : Nat) : Nat := 8 * 2 ^ bl

/-- Whether a block length does not fit the format. -/
def blBad (f bl : Nat) : Bool := decide (f = 0) != decide (bl = 0)

/-- Whether an operand's scales reach 65,536. -/
def scaleOver (f bl sa n : Nat) : Bool := decide (f ≠ 0) && decide (bl ≠ 0) && decide (65536 < sa + (n + 1) * 128 * (kOf f / blen bl))

/-! ## The split table (R198) -/

/-- The header of a split table. -/
structure Tab where
  dva : Nat
  hot : Nat
  f : Nat
  h : Nat
  fmt : Nat
  strict : Bool
  age : Nat
  margin : Nat
  count : Nat
  owner : Nat
  state : Nat
  rsv : Bool
  deriving DecidableEq, Repr

/-- The header read at a GSA. -/
def tabOf (rd : Nat → Byte) (g : Nat) : Tab :=
  let n (o k : Nat) := leNat (readN rd k (g + o))
  { dva := n 0 8, hot := n 8 4, f := n 12 4, h := n 16 4, fmt := n 20 1, strict := tb (n 21 1) 0, age := n 22 1,
    margin := n 24 4, count := n 28 4, owner := n 32 2, state := n 34 1,
    rsv := decide (n 21 1 / 2 ≠ 0) || decide (n 23 1 ≠ 0) || decide (n 35 1 ≠ 0) || decide (n 48 16 ≠ 0) }

/-- Bytes of a row of 128 elements. -/
def Tab.rowBytes (t : Tab) : Nat := if t.fmt = 0 then 256 else 128

/-- Whether a header field lies outside its limits, for an owner cluster; of the W formats only 4, since code 1 has those
above it (R185; DEDUCED, log 47). -/
def Tab.out (t : Tab) (cl : Nat) : Bool :=
  decide (2 ^ 56 ≤ t.dva) || decide (t.dva % 64 ≠ 0) || decide (t.f = 0) || decide (65536 < t.f) || decide (t.f < t.h)
    || decide (t.fmt = 4) || decide (31 < t.age) || !inSlice cl t.hot (t.hot + t.h * t.rowBytes - (if t.h = 0 then 0 else 1))

/-- The place of an entry. -/
def entryAt (g k : Nat) : Nat := g + 64 + 16 * k

/-- Whether row `k` is hot, flagged non-finite, its counter, stack, scale and slot. -/
structure Row where
  count : Nat
  hot : Bool
  nonfin : Bool
  stack : Nat
  scale : Nat
  slot : Nat
  deriving DecidableEq, Repr

def rowOf (rd : Nat → Byte) (g k : Nat) : Row :=
  let n (o w : Nat) := leNat (readN rd w (entryAt g k + o))
  { count := n 0 4, hot := tb (n 4 1) 0, nonfin := tb (n 4 1) 1, stack := n 5 1 % 8, scale := n 6 1, slot := n 8 4 }

/-- Whether the hot entries of a table are not exactly H with distinct slots below H (R199). -/
def rowsBad (rd : Nat → Byte) (g : Nat) (t : Tab) : Bool :=
  let l := ((List.range t.f).map (rowOf rd g)).filter (fun r => r.hot)
  decide (l.length ≠ t.h) || l.any (fun r => decide (t.h ≤ r.slot)) || decide ((l.map (fun r => r.slot)).dedup.length ≠ l.length)

/-- What a word needs of a split table: a registration to its cluster, one with no migration pending, or a table that
may be registered. -/
inductive TabUse where
  | use | mig | reg
  deriving DecidableEq, Repr

/-- Whether the header of a table can be read in a slice of the cluster. -/
def tabSeen (cl g : Nat) : Bool := inSlice cl g (g + 63)

/-- The code that a split table takes; a W format of 4 takes code 10, one above it code 1 (R185; DEDUCED, log 47). -/
def tabBad (rd : Nat → Byte) (cl g : Nat) (need : TabUse) : Option Nat :=
  let seen := tabSeen cl g
  let t := tabOf rd g
  let whole := seen && (decide (t.f = 0) || decide (65536 < t.f) || inSlice cl g (g + 64 + 16 * t.f - 1))
  let reg := decide (t.state = 1) || decide (t.state = 2)
  firstCode [(seen && decide (4 < t.fmt), 1), (!whole, 3), (decide (g % 64 ≠ 0) || (seen && decide (t.hot % 16 ≠ 0)), 4),
    (t.rsv, 8),
    (t.out cl || (match need with
      | .reg => (reg && decide (t.owner ≠ cl)) || rowsBad rd g t
      | _ => !reg || decide (t.owner ≠ cl)), 10),
    (decide (t.state = 2) && decide (need ≠ .use), 11)]

/-! ## Issue (R180, R181) -/

/-- The cluster whose slices a matrix word may name: the issuing cluster, or in replicas the leader's at launch, which
their equal registers name (R20; DEDUCED, log 23). -/
def Unit.mxCluster (u : Unit) : Nat := clusterOf u.who.coreid.toNat

/-- The engine of a unit's cluster. -/
def engineOf (s : State) (u : Unit) : Engine := (s.cluster u.cluster).engine

/-- The number of the word whose completion the lockmaster waits for. -/
def Unit.mxWait (u : Unit) : Option Nat :=
  match u.sS.park with
  | some p => match p.why with
    | .mxDone n => some n
    | _ => none
  | none => none

/-- A matrix word: only a lockmaster runs it (R207); it parks while the queue holds 8 words. -/
def mxWord (s : State) (regs : List SReg) (k : Unit → Res) : Res :=
  sWord s regs (fun u =>
    if !u.who.isLm then trapS s u 0x12 25 (rawAt s u .s)
    else if 8 ≤ (engineOf s u).queue.length ∧ u.mxWait = none then parkAt s u .s .mxQueue
    else k u)

/-- The first failing byte of a list; `win` 0 read, 1 write. -/
def winFail (s : State) (ctx : Nat) (l : List (Nat × Nat)) : Option (Nat × Nat × Nat) :=
  l.findSome? (fun e => match checkGsa s ctx e.1 1 e.2 e.2 with | .bad c a i => some (c, a, i) | .ok _ => none)

/-- The first failing check of a word in the order of R185: each field with its code, then the windows. -/
def mxFail (s : State) (u : Unit) (l : List (Nat × Option Nat)) (win : List (Nat × Nat)) : Option (Nat × Nat × Nat) :=
  match l.findSome? (fun e => e.2.map (fun c => (c, e.1))) with
  | some (c, f) => some (0x34, 0, c + f * 256)
  | none => winFail s u.who.ctx win

/-- The number of the next matrix word of a unit's team. -/
def nextNum (s : State) (u : Unit) : Nat := match SMap.look s.teams u.who.team with | some t => t.mnum + 1 | none => 1

/-- The place of an arrival in the sequence of a cluster: in one mclk the lockmaster first, then the warps by core and slot (R193). -/
def arrKey (s : State) (u : Unit) : Nat := s.clk.now * 256 + (if u.who.isLm then 0 else u.id.core % 4 * 32 + u.id.slot + 1)

/-- A word appended to the queue under the team's next number (R180). -/
def pushWord (s : State) (u : Unit) (kind : MKind) : State :=
  let n := nextNum s u
  let w : MWord := { num := n, seq := s.fl.seq, kind := kind, arr := arrKey s u, done := 0, idx := u.sS.spc, raw := rawAt s u .s }
  let s1 := onEngine s u.cluster (fun x => { x with queue := x.queue ++ [w] })
  { s1 with teams := SMap.upd s1.teams u.who.team (fun t => { t with mnum := n }), fl := { s1.fl with seq := s1.fl.seq + 1 } }

/-- A word issues and the lockmaster goes on. -/
def mxIssue (s : State) (u : Unit) (m : Bool) (kind : MKind) : Res :=
  let s1 := pushWord s u kind
  .next (s1.setUnit (u.done .s m []))

/-- Whether a word is a drain. -/
def MKind.isDrain (k : MKind) : Bool := match k with | .mdrn _ _ _ _ => true | _ => false

/-- A word issues and the lockmaster parks until its effect is complete; then its status is written, 4 mclk later, or
the tile checksum trap of a marked tile is taken (R181, R182, R191). -/
def mxAwait (s : State) (u : Unit) (m : Bool) (t : Nat) (c : SReg) (kind : MKind) (issue : Res → Res) : Res :=
  match u.mxWait with
  | some n => match (engineOf s u).doneStat with
    | some (k, st) =>
      if k = n then
        if tb st.toNat 17 ∧ kind.isDrain then
          trapS s (u.setPark .s none) 0x36 t st.toNat
        else retireS s u m 4 [.s c st]
      else parkAt s u .s (.mxDone n)
    | none => parkAt s u .s (.mxDone n)
  | none => issue (parkAt (pushWord s u kind) u .s (.mxDone (nextNum s u)))

/-! ## The words (R186 to R192) -/

/-- A pair of registers read, where the operand is one. -/
def pairOf (u : Unit) (o : MOp) : Option (Word × Word) :=
  match o with
  | .sram r => some (u.rs r, u.rs (r + 1))
  | .tile _ _ => none

/-- The registers that an operand reads. -/
def opRegsOf (o : MOp) : List SReg := match o with | .sram r => [r, r + 1] | .tile _ _ => []

/-- The index of an operand's tile half: two for each tile. -/
def tileOf (o : MOp) : Nat := match o with | .tile n h => n.toNat * 2 + h.toNat | .sram _ => 0

/-- Whether an operand is a tile half, and whether it is `.h1`. -/
def isTile (o : MOp) : Bool := match o with | .tile _ _ => true | .sram _ => false
def isH1 (o : MOp) : Bool := match o with | .tile _ h => h | .sram _ => false

/-- The first failing check of an `mma`: the matrix-descriptor fault or a window fault (R185, R188). -/
def mmaFail (s : State) (u : Unit) (a b : MOp) (c : SReg) : Option (Nat × Nat × Nat) :=
  let f := fmtBOf (u.rs c).toNat
  let n := f.passes
  let fb := firstCode [(decide (4 < f.afmt) || decide (4 < f.bfmt), 1),
    (decide (wclass f.afmt ≠ wclass f.bfmt) || blBad f.afmt f.abl || blBad f.bfmt f.bbl, 2),
    (scaleOver f.afmt f.abl f.asa n || scaleOver f.bfmt f.bbl f.bsa n, 6),
    ((isTile a || isTile b) && (decide (1 < n) || (decide (n = 1) && (isH1 a || isH1 b))), 7), (f.rsv, 8)]
  let bad (o : MOp) : Option Nat := (pairOf u o).bind (fun p => (descOf p.1 p.2).bad u.mxCluster 128 n false false)
  let win (o : MOp) : List (Nat × Nat) := match pairOf u o with
    | some p => ((descOf p.1 p.2).ends 128 n).map (fun x => (x, 0))
    | none => []
  mxFail s u [(2, fb), (0, bad a), (1, bad b)] (win a ++ win b)

/-- `mma` (R188). -/
def execMma (m : Bool) (t : BitVec 3) (a b : MOp) (c : SReg) (s : State) : Res :=
  mxWord s (opRegsOf a ++ opRegsOf b ++ [c]) (fun u =>
    failGate s u (mmaFail s u a b c)
      (mxIssue s u m (.mma t.toNat (pairOf u a) (pairOf u b) (tileOf a) (tileOf b) (u.rs c))))

/-- `mzero` (R187). -/
def execMzero (m : Bool) (t : BitVec 3) (s : State) : Res := mxWord s [] (fun u => mxIssue s u m (.mzero t.toNat))

/-- Twice the bytes of an element of a drain format (R190). -/
def es2 (f : Nat) : Nat := match f with | 0 => 8 | 1 => 4 | 5 => 1 | _ => 2

/-- The fields of a drain control (R190): format, block length, clear, scale GSA, reserved bits. -/
structure DrainC where
  fmt : Nat
  bl : Nat
  zr : Bool
  sgsa : Nat
  rsv : Bool
  deriving DecidableEq, Repr

def drainOf (w : Nat) : DrainC :=
  { fmt := fld w 32 4, bl := fld w 36 2, zr := tb w 38, sgsa := fld w 0 32, rsv := decide (fld w 39 25 ≠ 0) }

/-- The descriptor pair of a drain to SRAM; none for `a` 0, the drain buffer (R190). -/
def drainPair (u : Unit) (a : SReg) : Option (Word × Word) := if a = 0 then none else some (u.rs a, u.rs (a + 1))

/-- The first failing check of an `mdrn` (R185, R190). -/
def mdrnFail (s : State) (u : Unit) (a b : SReg) : Option (Nat × Nat × Nat) :=
  let d := drainOf (u.rs b).toNat
  let pair := drainPair u a
  let scaled := decide (2 ≤ d.fmt) && decide (d.fmt ≤ 5) && decide (d.bl ≠ 0) && decide (a ≠ 0)
  let row := 128 / blen d.bl
  let dc := firstCode [(scaled && !inSlice u.mxCluster d.sgsa (d.sgsa + 128 * row - 1), 3), (d.rsv, 8),
    (decide (5 < d.fmt) || (decide (d.fmt < 2) != decide (d.bl = 0)), 9)]
  let lb := 64 * es2 d.fmt
  let bad := pair.bind (fun p => (descOf p.1 p.2).bad u.mxCluster lb 0 true false)
  let win := (match pair with | some p => ((descOf p.1 p.2).ends lb 0).map (fun x => (x, 1)) | none => [])
    ++ (if scaled then (List.range 128).flatMap (fun x => [(d.sgsa + x * row, 1), (d.sgsa + x * row + row - 1, 1)]) else [])
  mxFail s u [(1, dc), (0, bad)] win

/-- `mdrn` (R190, R191, R206): `a` 0 is the drain buffer. A drain to SRAM in a redundant launch is a release. -/
def execMdrn (m : Bool) (t : BitVec 3) (a b c : SReg) (s : State) : Res :=
  mxWord s ((if a = 0 then [] else [a, a + 1]) ++ [b, c]) (fun u =>
    let pair := drainPair u a
    let ops := [(u.rs a).toNat, (u.rs (a + 1)).toNat, (u.rs b).toNat]
    mxAwait s u m t.toNat c (.mdrn t.toNat pair (u.rs b) u.performs) (fun go =>
      failGate s u (mdrnFail s u a b) (
        if pair.isSome ∧ u.who.rset ≠ 0 then
          roomGate s u .s 1 (cmdGate s u .s 0x0B ops (releaseGate s u .s .dev go))
        else go)))

/-- The first failing check of an `mspl` (R185, R200). -/
def msplFail (s : State) (u : Unit) (a b c : SReg) : Option (Nat × Nat × Nat) :=
  let f := fmtBOf (u.rs c).toNat
  let g := (u.rs b).toNat % 2 ^ 32
  let rd (x : Nat) : Byte := seenByte s u .s s.fl.seq x
  let cl := u.mxCluster
  let tab := tabOf rd g
  let seen := tabSeen cl g && decide (tab.fmt ≤ 3)
  let fb := firstCode [(decide (4 < f.afmt), 1),
    (decide (f.afmt = 4) || decide (f.abl ≠ 0) || (seen && decide (wclass f.afmt ≠ wclass tab.fmt)), 2),
    (decide (f.bfmt ≠ 0) || decide (f.bbl ≠ 0) || decide (f.bsa ≠ 0) || decide (f.passes ≠ 0), 5),
    (decide (f.afmt ≠ 0) && decide (65536 < f.asa + 128), 6), (f.rsv, 8)]
  let d := descOf (u.rs a) (u.rs (a + 1))
  let lb := max 1 ((if seen then min tab.f 65536 else 1) * (if f.afmt = 0 then 2 else 1))
  mxFail s u [(255, if u.who.rset = 0 then none else some 12), (2, fb), (0, d.bad cl lb 0 true true), (1, tabBad rd cl g .use)]
    ((d.ends lb 0).map (fun x => (x, 0)))

/-- `mspl` (R200). -/
def execMspl (m : Bool) (t : BitVec 3) (a b c : SReg) (s : State) : Res :=
  mxWord s [a, a + 1, b, c] (fun u =>
    failGate s u (msplFail s u a b c)
      (mxIssue s u m (.mspl t.toNat (u.rs a) (u.rs (a + 1)) ((u.rs b).toNat % 2 ^ 32) (u.rs c))))

/-- The first failing check of a split-table word at GSA `g` (R185, R199). -/
def tabFail (s : State) (u : Unit) (g : Nat) (need : TabUse) : Option (Nat × Nat × Nat) :=
  mxFail s u [(255, if u.who.rset = 0 then none else some 12), (0, tabBad (fun x => seenByte s u .s s.fl.seq x) u.mxCluster g need)] []

/-- A split-table word of major 0x33: its checks, then `k` at the table's GSA. -/
def tabWord (s : State) (regs : List SReg) (a : SReg) (need : TabUse) (k : Unit → Nat → Res) : Res :=
  mxWord s regs (fun u =>
    let g := (u.rs a).toNat % 2 ^ 32
    failGate s u (tabFail s u g need) (k u g))

/-- `mrow.mig`: the state becomes 2 with the instant max(S[b], n) at issue (R181, R202). -/
def execMrowMig (m : Bool) (a b : SReg) (s : State) : Res :=
  tabWord s [a, b] a .mig (fun u g =>
    let e := max (u.rs b).toNat (nextNum s u)
    let s1 := onEngine s u.cluster (fun x => { x with migs := x.migs ++ [(g, e)] })
    thenDo (mxIssue s1 u m (.mrowMig g e)) (fun t => writeHome t (bytesAt (g + 34) [2] ++ bytesAt (g + 40) (leBytes 8 e))))

/-- `mrow.reg`: state 0 is written at issue, over any earlier state (R199). -/
def execMrowReg (m : Bool) (a : SReg) (s : State) : Res :=
  tabWord s [a] a .reg (fun u g => thenDo (mxIssue s u m (.mrowReg g)) (fun t => writeHome t (bytesAt (g + 34) [0])))

/-- `mage` (R201). -/
def execMage (m halve : Bool) (a b : SReg) (s : State) : Res :=
  tabWord s [a, b] a .use (fun u g => mxIssue s u m (.mage g ((u.rs b).toNat % 32) halve))

/-- The `mchk` words (R192). -/
def execMchkRd (m : Bool) (t : BitVec 3) (c : SReg) (s : State) : Res :=
  mxWord s [c] (fun u => mxAwait s u m t.toNat c (.mchkRd t.toNat) (fun go => go))
def execMchkClr (m : Bool) (t : BitVec 3) (s : State) : Res := mxWord s [] (fun u => mxIssue s u m (.mchkClr t.toNat))
def execMchkInj (m : Bool) (t : BitVec 3) (a : SReg) (s : State) : Res :=
  mxWord s [a] (fun u => mxIssue s u m (.mchkInj t.toNat ((u.rs a).toNat % 2 ^ 15)))

/-- The fields of an `msl`: offset, source and length (R189). -/
def mslArgs (u : Unit) (a b c : SReg) : Nat × Nat × Nat :=
  ((u.rs a).toNat % 2 ^ 16, (u.rs b).toNat % 2 ^ 32, (u.rs c).toNat % 2 ^ 17)

/-- The first failing check of an `msl` (R185, R189). -/
def mslFail (s : State) (u : Unit) (a b c : SReg) : Option (Nat × Nat × Nat) :=
  let x := mslArgs u a b c
  let some_ := decide (x.2.2 ≠ 0)
  mxFail s u [(1, firstCode [(some_ && !inSlice u.mxCluster x.2.1 (x.2.1 + x.2.2 - 1), 3)]),
      (2, firstCode [(decide (65536 < x.1 + x.2.2), 13)])]
    (if some_ then [(x.2.1, 0), (x.2.1 + x.2.2 - 1, 0)] else [])

/-- `msl` (R189). -/
def execMsl (m : Bool) (a b c : SReg) (s : State) : Res :=
  mxWord s [a, b, c] (fun u =>
    let x := mslArgs u a b c
    failGate s u (mslFail s u a b c) (mxIssue s u m (.msl x.1 x.2.1 x.2.2)))

/-! ## Lane words (R193 to R197) -/

/-- The matrix-feed fault. -/
def feedFault (s : State) (u : Unit) (st : Strm) (code : Nat) : Res := takeTrap s u st 0x35 0 code 0 false

/-- Whether the unit's team runs a lockmaster program. -/
def hasEngine (s : State) (u : Unit) : Bool := match SMap.look s.teams u.who.team with | some t => t.lm | none => false

/-- The reservation of a unit on an object. -/
def resvOf (s : State) (u : Unit) (obj : Nat) : Option Resv :=
  (engineOf s u).resv.find? (fun r => decide (r.obj = obj) && decide (r.unit = u.id))

/-- The object that a modifier names: a tile half, or 8 for the drain buffer (R194). -/
def xObj (md : Nat) : Nat := if md % 2 = 1 then 8 else fld md 2 2 * 2 + fld md 4 1

/-- `xreq.fill` and `xreq.drain` (R194). -/
def execXreqReserve (w : LA) (s : State) : Res :=
  laneWord s w.g [] (fun u i act =>
    let st := slotStrm i
    let obj := xObj w.md.toNat
    if act = 0 then retireL s u i w.m 1 0 []
    else if !hasEngine s u then feedFault s u st 1
    else if u.dual then feedFault s u st 5
    else if (resvOf s u obj).isSome then feedFault s u st 4
    else if 16 ≤ (engineOf s u).resv.length then parkAt s u st .resvRoom
    else
      let r : Resv := { obj := obj, unit := u.id, prio := fld w.md.toNat 5 2, arr := arrKey s u, granted := false }
      retireL (spoil (onEngine s u.cluster (fun x => { x with resv := x.resv ++ [r] })) u) u i w.m 1 0 [])

/-- `xreq.fillrel` and `xreq.drainrel` (R194): a drain release waits until the reads have returned. A reservation that is posted and not granted
is not held (R197). -/
def execXreqRelease (w : LA) (s : State) : Res :=
  laneWord s w.g [] (fun u i act =>
    let st := slotStrm i
    let obj := xObj w.md.toNat
    if act = 0 then retireL s u i w.m 1 0 []
    else if !hasEngine s u then feedFault s u st 1
    else if u.dual then feedFault s u st 5
    else if !(match resvOf s u obj with | some r => r.granted | none => false) then feedFault s u st 3
    else if obj = 8 ∧ !(u.slot i).fly.isEmpty then parkAt s u st .results
    else
      retireL (spoil (onEngine s u.cluster (fun x =>
        { x with resv := x.resv.filter (fun r => !(decide (r.obj = obj) && decide (r.unit = u.id))) })) u) u i w.m 1 0 [])

/-- The issue interval of a feed or a read by its bytes (R140). -/
def feedIv (n : Nat) : Nat := n / 4

/-- A lane word on an object: the feed faults, the misalignment trap with kind `kind`, the wait for the grant, and `k`. -/
def feedGate (s : State) (u : Unit) (i : Bool) (obj n kind : Nat) (offs : List (Nat × Nat)) (k : Res) : Res :=
  let st := slotStrm i
  let bad := offs.filter (fun e => decide (e.2 % n ≠ 0))
  if !hasEngine s u then feedFault s u st 1
  else match resvOf s u obj with
    | none => feedFault s u st 2
    | some r => match (bad.map (fun e => e.2)) with
      | x :: t => takeTrap s u st 0x22 (t.foldl min x) (misInfo n kind) (maskOf (fun l => bad.any (fun e => decide (e.1 = l)))) false
      | [] => if r.granted then k else parkAt s u st (.grant obj)

/-- `xfeed` (R195). -/
def execXfeed (w : LA) (s : State) : Res :=
  let n := tyRegs w.ty
  laneWord s w.g (selRegs w.a n ++ selRegs w.b 1) (fun u i act =>
    let obj := fld w.md.toNat 0 2 * 2 + fld w.md.toNat 2 1
    let l := (lanesOf act).map (fun x => (x, u.opVal .b32 w.imm.toNat w.b x % 2 ^ 14))
    feedGate s u i obj (4 * n) 5 l (
      let bytes := l.flatMap (fun e => bytesAt (obj * 16384 + e.2) (leBytes (4 * n) (u.opVal w.ty 0 w.a e.1)))
      let s1 := onEngine s u.cluster (fun x => { x with
        o := bytes.foldl (fun y e => SMap.set 0 y e.1 e.2) x.o,
        oBad := x.oBad.filter (fun k => !bytes.any (fun e => decide (e.1 = k))) })
      retireL (spoil s1 u) u i w.m (feedIv (4 * n)) 0 []))

/-- `xread` (R196). -/
def execXread (w : LA) (s : State) : Res :=
  let n := tyRegs w.ty
  laneWord s w.g (selRegs w.dst n ++ selRegs w.a 1) (fun u i act =>
    let l := (lanesOf act).map (fun x => (x, u.opVal .b32 w.imm.toNat w.a x % 2 ^ 17))
    feedGate s u i 8 (4 * n) 6 l (
      let rd (x : Nat) : Byte := if x < 0x10400 then SMap.get 0 (engineOf s u).drain x else 0
      let vals := l.map (fun e => (e.1, leNat (readN rd (4 * n) e.2)))
      match w.dst with
      | .v r => retireL (spoil s u) u i w.m (feedIv (4 * n)) 12 (vRes r.toNat n act vals)
      | _ => retireL (spoil s u) u i w.m (feedIv (4 * n)) 12 []))

end Sys2Proof.Machine
end

