-- ==== Sys2Proof/Machine/MatrixRun.lean ====
section
/-! DEFINITION. The matrix engine at work: passes with their checksum (R80 to R83, R188), drains (R190, R191), the split
product and its table (R198 to R203), scale loads (R189), reservations (R193), and the order of words (R180, R205). -/

namespace Sys2Proof.Machine

/-! ## Products (R80) -/

/-- The element format of a code (R184). -/
def fmtOfCode (f : Nat) : Fmt :=
  match f with | 0 => .bf16 | 1 => .e4m3 | 2 => .e5m2 | 3 => .mk8 | _ => .e2m1

/-- The elements of a line of bytes, lowest first (R68, R179). -/
def lineElems (f : Nat) (l : List Byte) : List FVal :=
  match f with
  | 0 => (List.range (l.length / 2)).map (fun i => Fmt.bf16.decode (leNat ((l.drop (2 * i)).take 2)))
  | 4 => l.flatMap (fun b => [Fmt.e2m1.decode (b.toNat % 16), Fmt.e2m1.decode (b.toNat / 16)])
  | _ => l.map (fun b => (fmtOfCode f).decode b.toNat)

/-- An element under an E8M0 scale: 0xFF makes it NaN (R72). -/
def scaledBy (sc : Nat) (v : FVal) : FVal :=
  if sc = 255 then .nan false
  else match v with
    | .fin s m e => .fin s m (e + sc - 127)
    | x => x

/-- The exact product; `fast` gives +0 for a zero first factor (R200). -/
def product (fast : Bool) (a b : FVal) : FVal := if fast && a.isZero then .fin false 0 0 else (fmul a b).1

/-! ## The pass sum (R81, R82) -/

/-- The sum of one element's products: resolved by R80, or `w` units of 2^`k` with the sticky bit, whether a product is +0,
and the exponent of the step of an injected fault (R192). -/
inductive Sum where
  | special (bits : Nat)
  | exact (w : Int) (k : Int) (sticky plus : Bool) (step : Int)
  deriving DecidableEq, Repr

/-- The largest exponent of the nonzero products. -/
def topExp (l : List FVal) : Option Int :=
  l.foldl (fun acc v => match v with
    | .fin _ m e => if m = 0 then acc else (match acc with
      | some x => some (max x (expOf m e))
      | none => some (expOf m e))
    | _ => acc) none

/-- The smallest unit of the nonzero products. -/
def lowUnit (l : List FVal) : Int :=
  (l.foldl (fun (acc : Option Int) v => match v with
    | .fin _ m e => if m = 0 then acc else (match acc with | some x => some (min x e) | none => some e)
    | _ => acc) none).getD 0

/-- A product as a multiple of 2^`u`, truncated toward zero, and whether a bit was lost. -/
def unitsOf (u : Int) (v : FVal) : Int × Bool :=
  match v with
  | .fin s m e =>
    if u ≤ e then (sgnInt s (m * 2 ^ (e - u).toNat), false)
    else (sgnInt s (m / 2 ^ (u - e).toNat), decide (m % 2 ^ (u - e).toNat ≠ 0))
  | _ => (0, false)

/-- Whether a value is +0. -/
def isPlus0 (v : FVal) : Bool := match v with | .fin s m _ => !s && decide (m = 0) | _ => false

/-- The sum of the products of an element; `bf` is the BF16 window (R81). -/
def sumOf (bf : Bool) (l : List FVal) : Sum :=
  if l.any FVal.isNan then .special 0x7FC00000
  else
    let pos := l.any (fun v => decide (v = .inf false))
    let neg := l.any (fun v => decide (v = .inf true))
    if pos && neg then .special 0x7FC00000
    else if pos then .special 0x7F800000
    else if neg then .special 0xFF800000
    else
      let plus := l.any isPlus0
      match topExp l with
      | none => .exact 0 (-149) false plus (-149)
      | some e =>
        let u := if bf then e - 71 else lowUnit l
        let r := l.foldl (fun (acc : Int × Bool) v => let x := unitsOf u v; (acc.1 + x.1, acc.2 || x.2)) (0, false)
        .exact r.1 u r.2 plus (e - 71)

/-- The sum with 2^`k2` times `x` added. -/
def Sum.plus (w : Sum) (x : Int) (k2 : Int) : Sum :=
  match w with
  | .exact a k s p st =>
    let u := min k k2
    .exact (a * (2 : Int) ^ (k - u).toNat + x * (2 : Int) ^ (k2 - u).toNat) u s p st
  | y => y

/-- `pass_round()` (R82): the FP32 bits of the pass result. -/
def passRound (w : Sum) : Nat :=
  match w with
  | .special b => b
  | .exact a k sticky plus st =>
    if a = 0 then (if sticky || plus then 0 else 0x80000000)
    else
      let b := if sticky then (Sum.exact a k sticky plus st).plus (if a < 0 then -1 else 1) (st - 2) else .exact a k sticky plus st
      match b with
      | .exact c u _ _ _ => (Fmt.f32.encode .rne false false (.fin (decide (c < 0)) c.natAbs u)).1
      | .special y => y

/-! ## The checksum (R83, R192) -/

/-- An injected fault: row, column, and its step. -/
structure Shift where
  row : Nat
  col : Nat
  step : Int
  deriving DecidableEq, Repr

/-- The sum at a place. -/
def sumAt (g : List (List Sum)) (r c : Nat) : Sum := (g.getD r []).getD c (.special 0)

/-- Whether a sum was resolved by R80. -/
def Sum.isSpecial (w : Sum) : Bool := match w with | .special _ => true | _ => false

/-- The faults that an armed injection adds to a pass. -/
def shiftsOf (g : List (List Sum)) (j : Option Inject) : List Shift :=
  match j with
  | none => []
  | some x =>
    let one (r c : Nat) : List Shift := match sumAt g r c with
      | .exact _ _ _ _ st => [{ row := r, col := c, step := st }]
      | .special _ => []
    one x.row x.col ++ (if x.two then one ((x.row + 1) % 128) ((x.col + 1) % 128) else [])

/-- What the comparison of a pass finds: nothing, one element to correct by minus a step, or a fault. -/
inductive Check where
  | clean
  | correct (row col : Nat) (step : Int)
  | fault
  deriving DecidableEq, Repr

/-- The comparison of R83: the rows and columns that a fault makes differ, without those that hold a special element. -/
def checkOf (g : List (List Sum)) (l : List Shift) : Check :=
  let rowOk (r : Nat) : Bool := !(g.getD r []).any Sum.isSpecial
  let colOk (c : Nat) : Bool := !g.any (fun x => (x.getD c (.special 0)).isSpecial)
  let rows := l.filter (fun x => rowOk x.row)
  let cols := l.filter (fun x => colOk x.col)
  match rows, cols with
  | [], [] => .clean
  | [a], [b] => if a.step = b.step then .correct a.row b.col a.step else .fault
  | _, _ => .fault

/-- A grid with one element changed. -/
def changeAt (g : List (List Sum)) (r c : Nat) (f : Sum → Sum) : List (List Sum) :=
  g.modify r (fun row => row.modify c f)

/-- A pass as it is accumulated: the sums, whether it was corrected, and whether it marks the tile. -/
def checked83 (g : List (List Sum)) (j : Option Inject) : List (List Sum) × Bool × Bool :=
  let l := shiftsOf g j
  let g1 := l.foldl (fun x e => changeAt x e.row e.col (fun w => w.plus 1 e.step)) g
  match checkOf g l with
  | .clean => (g1, false, false)
  | .correct r c st => (changeAt g1 r c (fun w => w.plus (-1) st), true, false)
  | .fault => (g1, false, true)

/-! ## Tiles -/

/-- The FP32 bits of an accumulator element. -/
def Engine.at_ (e : Engine) (t r c : Nat) : Nat := (SMap.get 0 e.acc (t * 16384 + r * 128 + c)).toNat

/-- An accumulator tile replaced by a function of its elements. -/
def Engine.mapTile (e : Engine) (t : Nat) (f : Nat → Nat → Nat → Nat) : Engine :=
  let keys := List.range 16384
  let vals := keys.filterMap (fun k =>
    let v := f (k / 128) (k % 128) (e.at_ t (k / 128) (k % 128))
    if v = 0 then none else some (t * 16384 + k, BitVec.ofNat 32 v))
  { e with acc := e.acc.filter (fun x => decide (x.1 < t * 16384)) ++ vals
      ++ e.acc.filter (fun x => decide (t * 16384 + 16384 ≤ x.1)) }

/-- A tile as `mzero` leaves it (R187). -/
def Engine.zeroTile (e : Engine) (t : Nat) : Engine :=
  let e1 := e.mapTile t (fun _ _ _ => 0)
  { e1 with corr := SMap.set 0 e1.corr t 0, marks := setDel e1.marks t }

/-- A tile whose operands were uncorrectable: marked, its values free (R203, log 9). -/
def spoilTile (s : State) (cl t : Nat) : State :=
  let n := s.free
  let s1 := onEngine s cl (fun e =>
    { (e.mapTile t (fun r c _ => (Config.freeHalf (n + r * 128 + c)).toNat)) with
      marks := setAdd e.marks t, inj := SMap.del e.inj t })
  { s1 with free := s1.free + 16384 }

/-- One pass on a tile: the checksum, and the accumulation of every element (R82, R83). -/
def applyPass (s : State) (cl t : Nat) (g : List (List Sum)) : State :=
  onEngine s cl (fun e =>
    let r := checked83 g (SMap.look e.inj t)
    let rows := r.1.map (fun row => row.map passRound)
    let e1 := e.mapTile t (fun i j old => accAdd .f32 old ((rows.getD i []).getD j 0))
    { e1 with
      corr := if r.2.1 then SMap.set 0 e1.corr t (min 65535 (SMap.get 0 e1.corr t + 1)) else e1.corr,
      marks := if r.2.2 then setAdd e1.marks t else e1.marks, inj := SMap.del e1.inj t })

/-- The sums of a pass: lines of A by lines of B. -/
def gridSums (bf fast : Bool) (a b : List (List FVal)) : List (List Sum) :=
  a.map (fun x => b.map (fun y => sumOf bf (List.zipWith (product fast) x y)))

/-! ## Operands of a pass (R179, R183, R184) -/

/-- The address of byte `b` of line `x` of pass `i` of an SRAM operand whose lines hold `lb` bytes. -/
def Desc.byteAt (d : Desc) (lb i x b : Nat) : Nat :=
  let nch := lb / 16
  d.base + i * d.tp + x * d.rp + (if nch = 0 then b else (b / 16 + d.rot * x) % nch * 16 + b % 16)

/-- A line of an operand as read by the engine of a cluster, and whether all of it is sound. -/
structure LineIn where
  bytes : List Byte
  ok : Bool
  deriving DecidableEq, Repr

/-- Line `x` of pass `i` of an operand: a tile half, or an SRAM operand. -/
def lineIn (s : State) (cl : Nat) (p : Option (Word × Word)) (half i x : Nat) : LineIn :=
  match p with
  | none =>
    let e := (s.cluster cl).engine
    let k := (half + i) * 16384 + 128 * x
    { bytes := readN (SMap.get 0 e.o) 128 k, ok := !e.oBad.any (fun b => decide (k ≤ b) && decide (b < k + 128)) }
  | some (d0, d1) =>
    let d := descOf d0 d1
    let at_ := (List.range 128).map (fun b => d.byteAt 128 i x b)
    { bytes := at_.map (dieByte s (clDie cl)), ok := !at_.any (sectorBad s (clDie cl)) }

/-- The scales of a line: one for each block, or none for BF16; the addresses read. -/
def scaleAddrs (f bl sa i x : Nat) : List Nat :=
  if f = 0 then []
  else let n := kOf f / blen bl; (List.range n).map (fun b => sa + i * 128 * n + x * n + b)

/-- The elements of a line under their scales. -/
def scaledLine (e : Engine) (f bl sa i x : Nat) (l : List Byte) : List FVal :=
  let sc := (scaleAddrs f bl sa i x).map (fun a => (SMap.get 0 e.scale a).toNat)
  let v := lineElems f l
  if f = 0 then v else (List.range v.length).map (fun k => scaledBy (sc.getD (k / blen bl) 127) (v.getD k (.fin false 0 0)))

/-- Whether any scale of a line is uncorrectable. -/
def scalesBad (e : Engine) (l : List Nat) : Bool := l.any (fun a => e.scaleBad.contains a)

/-- Pass `i` of an `mma` (R188, R203). -/
def mmaPass (s : State) (cl t : Nat) (a b : Option (Word × Word)) (ta tb_ : Nat) (w : Word) (i : Nat) : State :=
  let f := fmtBOf w.toNat
  let e := (s.cluster cl).engine
  let la := (List.range 128).map (fun x => lineIn s cl a ta i x)
  let lb := (List.range 128).map (fun x => lineIn s cl b tb_ i x)
  let ad := (List.range 128).flatMap (fun x => scaleAddrs f.afmt f.abl f.asa i x ++ scaleAddrs f.bfmt f.bbl f.bsa i x)
  if la.any (fun l => !l.ok) || lb.any (fun l => !l.ok) || scalesBad e ad then spoilTile s cl t
  else
    let va := (List.range 128).map (fun x => scaledLine e f.afmt f.abl f.asa i x ((la.map (fun l => l.bytes)).getD x []))
    let vb := (List.range 128).map (fun x => scaledLine e f.bfmt f.bbl f.bsa i x ((lb.map (fun l => l.bytes)).getD x []))
    applyPass s cl t (gridSums (decide (f.afmt = 0)) false va vb)

/-! ## Drains (R190, R191) -/

/-- The status word of a tile (R191). -/
def tileStatus (e : Engine) (t : Nat) (nan fault : Bool) : Word :=
  BitVec.ofNat 64 (2 ^ 63 + (if fault then 2 ^ 17 else 0) + (if nan then 2 ^ 16 else 0) + SMap.get 0 e.corr t)

/-- A row as a drain converts it: its bytes, its scales, and whether some value is NaN. -/
structure RowOut where
  bytes : List Byte
  scales : List Nat
  nan : Bool
  deriving DecidableEq, Repr

/-- Codes packed into bytes; E2M1 two to a byte. -/
def packCodes (f : Nat) (l : List Nat) : List Byte :=
  match f with
  | 0 => l.flatMap (leBytes 4)
  | 1 => l.flatMap (leBytes 2)
  | 5 => (List.range (l.length / 2)).map (fun i => BitVec.ofNat 8 (l.getD (2 * i) 0 + l.getD (2 * i + 1) 0 * 16))
  | _ => l.flatMap (leBytes 1)

/-- The format of drain code 2 to 5. -/
def drainFmt (f : Nat) : Fmt := match f with | 2 => .e4m3 | 3 => .e5m2 | 4 => .mk8 | _ => .e2m1

/-- A row of tile t converted. -/
def drainRow (e : Engine) (t x : Nat) (d : DrainC) : RowOut :=
  let row := (List.range 128).map (fun j => e.at_ t x j)
  match d.fmt with
  | 0 => { bytes := packCodes 0 row, scales := [], nan := row.any (fun v => (Fmt.f32.decode v).isNan) }
  | 1 =>
    let l := row.map (fun v => (Fmt.bf16.encode .rne false false (Fmt.f32.decode v)).1)
    { bytes := packCodes 1 l, scales := [], nan := l.any (fun v => (Fmt.bf16.decode v).isNan) }
  | f =>
    let n := blen d.bl
    let bs := (List.range (128 / n)).map (fun b => mxScale (drainFmt f) (((row.drop (b * n)).take n).map Fmt.f32.decode))
    let codes := bs.flatMap (fun b => b.2)
    { bytes := packCodes f codes, scales := bs.map (fun b => b.1),
      nan := bs.any (fun b => decide (b.1 = 255)) || codes.any (fun c => ((drainFmt f).decode c).isNan) }

/-- A drain of an unmarked tile: rows and scales to their destination, then the clear of `zr`. -/
def drainTile (s : State) (cl t : Nat) (dst : Option (Word × Word)) (ctl : Word) (write : Bool) : State × Word :=
  let d := drainOf ctl.toNat
  let e := (s.cluster cl).engine
  let rows := (List.range 128).map (fun x => (x, drainRow e t x d))
  let lb := 64 * es2 d.fmt
  let per := 128 / blen d.bl
  let st := tileStatus e t (rows.any (fun r => r.2.nan)) false
  let s1 := match dst with
    | none => onEngine s cl (fun x => { x with drain := rows.foldl (fun m r =>
        let m1 := (bytesAt (r.1 * lb) r.2.bytes).foldl (fun y b => SMap.set 0 y b.1 b.2) m
        (bytesAt (0x10000 + r.1 * per) (r.2.scales.map (BitVec.ofNat 8))).foldl (fun y b => SMap.set 0 y b.1 b.2) m1) x.drain })
    | some (d0, d1) =>
      if write then
        let q := descOf d0 d1
        rows.foldl (fun u r => writeHome u ((List.range lb).map (fun b => (q.byteAt lb 0 r.1 b, r.2.bytes.getD b 0))
            ++ bytesAt (d.sgsa + r.1 * per) (r.2.scales.map (BitVec.ofNat 8)))) s
      else s
  (if d.zr then onEngine s1 cl (fun x => x.zeroTile t) else s1, st)

/-! ## The copy-fault trap of a matrix word (R165, R205) -/

/-- The lockmaster of a cluster. -/
def lockmaster (s : State) (cl : Nat) : Option Unit := s.unit? ⟨cl * 4, 32⟩

/-- The imprecise copy-fault trap raised against the lockmaster: code 1 or 2, and the DVA or GSA in info. -/
def matrixFault (s : State) (cl : Nat) (w : MWord) (code addr : Nat) : State :=
  match s.teams.find? (fun t => t.2.evicted.isNone && t.2.lm && decide (t.2.cluster = cl)) with
  | none => s
  | some (k, t) =>
    let ctx := match SMap.look s.grids t.grid with | some g => g.ctx | none => 0
    impreciseSet s ⟨cl * 4, 32⟩ k ctx t.grid
      { code := 0x40, addr := addr % 2 ^ 56, info := statusWord code addr, idx := w.idx, strm := .s, raw := w.raw, act := 0,
        origWarp := 0, wgNum := 0, other := false, origCode := 0x40, zero := none, zdst := none, held := false, at_ := 0 }

/-! ## Scale loads (R189) -/

/-- `msl` in its turn: bytes of sectors that are poisoned become uncorrectable scales. -/
def runMsl (s : State) (cl : Nat) (w : MWord) (off src len : Nat) : State :=
  let d := clDie cl
  let l := (List.range len).map (fun i => (off + i, dieByte s d (src + i), sectorBad s d (src + i)))
  let s1 := onEngine s cl (fun e => { e with
    scale := l.foldl (fun m b => SMap.set 0 m b.1 b.2.1) e.scale,
    scaleBad := l.foldl (fun m b => if b.2.2 then setAdd m b.1 else setDel m b.1) e.scaleBad })
  match l.find? (fun b => b.2.2) with
  | some b => matrixFault s1 cl w 2 (src + (b.1 - off))
  | none => s1

/-! ## Cold rows (R199, R200, R202) -/

/-- What reading a cold row gives: its stack and bytes, or a copy-fault code. -/
inductive Cold where
  | row (stack : Nat) (bytes : List Byte)
  | fail (code : Nat)
  deriving DecidableEq, Repr

/-- The translation cache of the weir unit at a byte of HBM4: one for each channel of a stack (R249). -/
def weirPlace (a : Nat) : Nat := 64 + 32 * (a / 2 ^ 36) + (Config.channelOf (a / 4096)).toNat

/-- Whether a cached leaf is that of the weir unit whose rows it leads to. -/
def weirHas (s : State) (ctx dva : Nat) (x : Tlb) : Bool :=
  decide (64 ≤ x.place) && decide (x.place < 1000) && decide (x.ctx = ctx) && decide (x.dva ≤ dva) && decide (dva < x.dva + pageBytes x.entry)
    && (match leafAt s x.entry dva with | some (.hbm a) => decide (weirPlace a = x.place) | _ => false)

/-- The leaf by which a weir unit reaches a DVA: its own, or the share's (R249). -/
def weirLeaf (s : State) (ctx dva : Nat) : WalkRes :=
  match s.fl.tlb.find? (weirHas s ctx dva) with
  | some x => .leaf x.entry
  | none => walkCached s ctx dva

/-- Whether the stack of a byte of HBM4 is one whose weir units work: that of a die in service (R252). -/
def weirOn (s : State) (a : Nat) : Bool := match s.plant.dies.getD (a / 2 ^ 36) .off with | .memoryOnly | .off => false | _ => true

/-- The byte of HBM4 in which lent data lie; none for a page without data, or in the far tier (R312, R320). -/
def lentHbm (s : State) (t x : Nat) : Option Nat :=
  match SMap.look s.tenants t, atHome s (.lent t x) with
  | some y, .hbm a => if entData (y.entry (x / 4096)) then some a else none
  | _, _ => none

/-- The stack and the place of a DVA as a weir unit finds it, or a copy-fault code: only HBM4 of a die in service, and a lent range by way of its home
(R199, R251, R320). -/
def weirAt (s : State) (ctx dva : Nat) : Except Nat (Nat × Phys) :=
  match lentAt s ctx dva false with
  | some (some (.lent t x)) =>
    if placeBad s (.lent t x) then .error 2
    else match lentHbm s t x with
      | some a => if weirOn s a then .ok (a / 2 ^ 36, .lent t x) else .error 1
      | none => .error 1
  | some _ => .error 1
  | none => match weirLeaf s ctx dva with
    | .absent => .error 1
    | .bad => .error 2
    | .leaf e => match leafAt s e dva with
      | some (.hbm a) =>
        if !leafOkFor e false || taggedFrame s (.hbm a) || !weirOn s a then .error 1
        else if physBad s (.hbm a) then .error 2
        else .ok (a / 2 ^ 36, .hbm a)
      | _ => .error 1

/-- A cold row of `n` bytes read whole: every byte in one stack. -/
def readCold (s : State) (ctx dva n : Nat) : Cold :=
  match (List.range n).foldl (fun (acc : Except Nat (List (Nat × Phys))) i => match acc with
      | .error c => .error c
      | .ok l => match weirAt s ctx (dva + i) with
        | .error c => .error c
        | .ok a => .ok (a :: l)) (.ok []) with
  | .error c => .fail c
  | .ok l =>
    let st := match l with | x :: _ => x.1 | [] => 0
    if l.all (fun x => decide (x.1 = st)) then .row st (l.reverse.map (fun x => placeByte s x.2)) else .fail 1

/-- A leaf entered in the cache of the weir unit that has missed it, through the share's. -/
def weirFill (s : State) (ctx dva a : Nat) : State :=
  if s.fl.tlb.any (weirHas s ctx dva) then s
  else tlbFill (useDva s ctx dva) (weirPlace a) ctx dva

/-- The activations that a row read counts, and the translations that it leaves cached (R242, R249). -/
def rowActivated (s : State) (ctx dva n : Nat) : State :=
  (List.range (n / 64)).foldl (fun t i => match weirAt t ctx (dva + i * 64) with
    | .ok (_, .hbm a) => activate (weirFill t ctx (dva + i * 64) a) (.hbm a)
    | .ok (_, p) => activate t (atHome t p)
    | .error _ => useDva t ctx (dva + i * 64)) s

/-- The DVA of row `k`. -/
def Tab.rowDva (t : Tab) (k : Nat) : Nat := t.dva + k * t.rowBytes

/-- Whether a row holds a NaN or an infinity. -/
def rowNonfin (f : Nat) (l : List Byte) : Bool :=
  (lineElems f l).any (fun v => match v with | .fin _ _ _ => false | _ => true)

/-- The context of the team on a cluster. -/
def matrixCtx (s : State) (cl : Nat) : Nat :=
  match (residentTeams s).find? (fun t => t.lm && decide (t.cluster = cl)) with
  | some t => (match SMap.look s.grids t.grid with | some g => g.ctx | none => 0)
  | none => 0

/-- The rows of a table as the engine reads them. -/
def rowsOf (s : State) (cl g : Nat) (t : Tab) : List (Nat × Row) :=
  (List.range (min t.f 65536)).map (fun k => (k, rowOf (dieByte s (clDie cl)) g k))

/-- The flag byte of an entry. -/
def flagByte (hot nonfin : Bool) : Byte := (if hot then 1 else 0) + (if nonfin then 2 else 0)

/-- Registration of the rows from `k` on, in ascending order; none where a row cannot be read, with its code and row. -/
def registerRows (s : State) (cl g ctx : Nat) (t : Tab) (rows : List (Nat × Row)) : State × Option (Nat × Nat) :=
  match rows with
  | [] => (s, none)
  | (k, r) :: rest =>
    match readCold s ctx (t.rowDva k) t.rowBytes with
    | .fail c => (s, some (c, k))
    | .row st l =>
      let s1 := rowActivated s ctx (t.rowDva k) t.rowBytes
      let s2 := writeHome s1 ([(entryAt g k + 4, flagByte r.hot (rowNonfin t.fmt l)), (entryAt g k + 5, BitVec.ofNat 8 st)]
        ++ (if r.hot then bytesAt (t.hot + r.slot * t.rowBytes) l else []))
      registerRows s2 cl g ctx t rest

/-- `mrow.reg` in its turn (R199). -/
def runReg (s : State) (cl : Nat) (w : MWord) (g : Nat) : State :=
  let ctx := matrixCtx s cl
  let t := tabOf (dieByte s (clDie cl)) g
  let r := registerRows s cl g ctx t (rowsOf s cl g t)
  match r.2 with
  | some (c, k) => matrixFault (writeHome r.1 [(g + 34, 0)]) cl w c (t.rowDva k)
  | none => writeHome r.1 (bytesAt (g + 28) (leBytes 4 0) ++ bytesAt (g + 32) (leBytes 2 cl) ++ [(g + 34, 1)])

/-- Every counter of a table halved (R201). -/
def halveCounters (s : State) (cl g : Nat) (t : Tab) : State :=
  writeHome s ((rowsOf s cl g t).flatMap (fun r => bytesAt (entryAt g r.1) (leBytes 4 (r.2.count / 2))))

/-- `mage` in its turn (R201). -/
def runMage (s : State) (cl g a : Nat) (halve : Bool) : State :=
  let s1 := writeHome s [(g + 22, BitVec.ofNat 8 a)]
  if halve then halveCounters s1 cl g (tabOf (dieByte s1 (clDie cl)) g) else s1

/-! ## Migration (R202) -/

/-- A list sorted by insertion. -/
def sortBy {α : Type} (le : α → α → Bool) (l : List α) : List α :=
  l.foldr (fun x acc => acc.takeWhile (fun y => !le x y) ++ x :: acc.dropWhile (fun y => !le x y)) []

/-- The pairs that a migration swaps, as decided before any copy. -/
def migPairs (m : Nat) (cold hot : List (Nat × Row)) : List ((Nat × Row) × (Nat × Row)) :=
  (List.zip cold hot).takeWhile (fun p => decide (p.2.2.count + m < p.1.2.count))

/-- One pair of a migration: the promoted row is read whole before its slot is written, and a failing read leaves both rows
as they were. The second part counts the pairs completed. -/
def migPair (cl g ctx : Nat) (t : Tab) (w : MWord) (acc : State × Nat) (p : (Nat × Row) × (Nat × Row)) : State × Nat :=
  let s := acc.1
  let k := p.1.1
  match readCold s ctx (t.rowDva k) t.rowBytes with
  | .fail c => (matrixFault s cl w c (t.rowDva k), acc.2)
  | .row st l =>
    let slot := p.2.2.slot
    let s1 := rowActivated s ctx (t.rowDva k) t.rowBytes
    (writeHome s1 ([(entryAt g k + 4, flagByte true (rowNonfin t.fmt l)), (entryAt g k + 5, BitVec.ofNat 8 st)]
        ++ bytesAt (entryAt g k + 8) (leBytes 4 slot) ++ [(entryAt g p.2.1 + 4, flagByte false p.2.2.nonfin)]
        ++ bytesAt (t.hot + slot * t.rowBytes) l), acc.2 + 1)

/-- The migration of a table at its instant. -/
def migrate (s : State) (cl : Nat) (w : MWord) (g : Nat) : State :=
  let t := tabOf (dieByte s (clDie cl)) g
  let rows := rowsOf s cl g t
  let cold := sortBy (fun a b => decide (b.2.count < a.2.count) || (decide (a.2.count = b.2.count) && decide (a.1 ≤ b.1)))
    (rows.filter (fun r => !r.2.hot))
  let hot := sortBy (fun a b => decide (a.2.count < b.2.count) || (decide (a.2.count = b.2.count) && decide (b.1 ≤ a.1)))
    (rows.filter (fun r => r.2.hot))
  let r := (migPairs t.margin cold hot).foldl (migPair cl g (matrixCtx s cl) t w) (s, 0)
  writeHome r.1 ([(g + 34, 1)] ++ bytesAt (g + 36) (leBytes 4 r.2))

/-- The migrations whose instant the completion of word n reaches. -/
def runMigs (s : State) (cl : Nat) (w : MWord) : State :=
  let due := (s.cluster cl).engine.migs.filter (fun m => decide (m.2 ≤ w.num))
  let s1 := onEngine s cl (fun e => { e with migs := e.migs.filter (fun m => decide (w.num < m.2)) })
  due.foldl (fun t m => if homeByte t (m.1 + 34) = 2 then migrate t cl w m.1 else t) s1

/-! ## The split product (R200, R201, R203) -/

/-- FP32 addition of two values that may be absent (R128). -/
def addAbsent (a b : Option Nat) : Option Nat :=
  match a, b with
  | some x, some y => some (accAdd .f32 x y)
  | some x, none => some x
  | none, y => y

/-- The tree over eight stacks. -/
def tree8 (p : List (Option Nat)) : Option Nat :=
  let x (i : Nat) : Option Nat := p.getD i none
  addAbsent (addAbsent (addAbsent (x 0) (x 1)) (addAbsent (x 2) (x 3))) (addAbsent (addAbsent (x 4) (x 5)) (addAbsent (x 6) (x 7)))

/-- One more product of a stack: the first is rounded, and later ones are added exactly and rounded. A first product beyond FP32 is rounded to
infinity, as IEEE 754 rounds (R200; DEDUCED, log 86). -/
def coldStep (acc : Option Nat) (p : FVal) : Option Nat :=
  match acc with
  | none => some (Fmt.f32.encode .rne false false p).1
  | some y => some (Fmt.f32.encode .rne false false (fadd .rne (Fmt.f32.decode y) p).1).1

/-- The activation operand: its elements under their line scales, and whether all of it is sound. -/
def activations (s : State) (cl : Nat) (d : Desc) (f : FmtB) (n : Nat) : List (List FVal) × Bool :=
  let e := (s.cluster cl).engine
  let lb := n * (if f.afmt = 0 then 2 else 1)
  let at_ (x : Nat) : List Nat := (List.range lb).map (fun b => d.base + x * d.rp + b)
  ((List.range 128).map (fun x =>
      let v := lineElems f.afmt ((at_ x).map (dieByte s (clDie cl)))
      if f.afmt = 0 then v else v.map (scaledBy (SMap.get 0 e.scale (f.asa + x)).toNat)),
    !(List.range 128).any (fun x => (at_ x).any (sectorBad s (clDie cl)) || (decide (f.afmt ≠ 0) && e.scaleBad.contains (f.asa + x))))

/-- A weight row with its scale. -/
def weights (fmt scale : Nat) (l : List Byte) : List FVal :=
  if fmt = 0 then lineElems 0 l else (lineElems fmt l).map (scaledBy scale)

/-- The value of line t at row k. -/
def xAt (x : List (List FVal)) (t k : Nat) : FVal := (x.getD t []).getD k (.fin false 0 0)

/-- The hot part: chunks of K used hot rows, one pass each; a poisoned slot spoils the tile. -/
def hotPart (s : State) (cl t : Nat) (tab : Tab) (x : List (List FVal)) (rows : List (Nat × Row)) : State :=
  let K := kOf tab.fmt
  let fast := !tab.strict
  (List.range ((rows.length + K - 1) / K)).foldl (fun u c =>
    let ch := (rows.drop (c * K)).take K
    let at_ (r : Nat × Row) : List Nat := (List.range tab.rowBytes).map (fun b => tab.hot + r.2.slot * tab.rowBytes + b)
    if ch.any (fun r => (at_ r).any (sectorBad u (clDie cl))) then spoilTile u cl t
    else
      let ws := ch.map (fun r => weights tab.fmt r.2.scale ((at_ r).map (dieByte u (clDie cl))))
      let pad := List.replicate (K - ch.length) (FVal.fin false 0 0)
      let a := (List.range 128).map (fun l => ch.map (fun r => xAt x l r.1) ++ pad)
      let b := (List.range 128).map (fun j => ws.map (fun w => w.getD j (.fin false 0 0)) ++ pad)
      applyPass u cl t (gridSums (decide (tab.fmt = 0)) fast a b)) s

/-- A cold row as its weir unit multiplies it: its stack and values; one that cannot be read is NaN throughout, on the
stack that its entry names (R203). -/
def coldRow (s : State) (ctx : Nat) (tab : Tab) (r : Nat × Row) : Nat × List FVal × Option Nat :=
  match readCold s ctx (tab.rowDva r.1) tab.rowBytes with
  | .row _ l => (r.2.stack, weights tab.fmt r.2.scale l, none)
  | .fail c => (r.2.stack, List.replicate 128 (.nan false), some c)

/-- The cold partials of an element, one for each stack. -/
def coldParts (x : List (List FVal)) (use : Nat → Nat × Row → Bool) (cold : List ((Nat × Row) × Nat × List FVal))
    (t j : Nat) : List (Option Nat) :=
  (List.range 8).map (fun st => cold.foldl (fun acc c =>
    if c.2.1 = st ∧ use t c.1 then coldStep acc (fmul (xAt x t c.1.1) (c.2.2.getD j (.fin false 0 0))).1 else acc) none)

/-- Whether line `l` uses row `r`: its activation is not zero, or the table is strict and the row not finite (R200). -/
def useAt (tab : Tab) (x : List (List FVal)) (l : Nat) (r : Nat × Row) : Bool := !(xAt x l r.1).isZero || (tab.strict && r.2.nonfin)

/-- Whether any line uses a row. -/
def rowUsed (tab : Tab) (x : List (List FVal)) (r : Nat × Row) : Bool := (List.range 128).any (fun l => useAt tab x l r)

/-- The rows that the weir units read for a word as its turn comes, by DVA and length: used cold rows, rows that are registered, and with the last
pass the cold rows of tables that a migration of this instant may promote (R199, R200, R202). -/
def wordRows (s : State) (cl : Nat) (w : MWord) : List (Nat × Nat) :=
  let at_ (g : Nat) (ok : Tab → Nat × Row → Bool) : List (Nat × Nat) :=
    let t := tabOf (dieByte s (clDie cl)) g
    ((rowsOf s cl g t).filter (ok t)).map (fun r => (t.rowDva r.1, t.rowBytes))
  (match w.kind with
    | .mspl _ d0 d1 g f => at_ g (fun t r => !r.2.hot && rowUsed t (activations s cl (descOf d0 d1) (fmtBOf f.toNat) (min t.f 65536)).1 r)
    | .mrowReg g => at_ g (fun _ _ => true)
    | _ => [])
  ++ ((s.cluster cl).engine.migs.filter (fun m => decide (m.2 ≤ w.num))).flatMap (fun m => at_ m.1 (fun _ r => !r.2.hot))

/-- The requester of the snoops of a cluster's engine. -/
def engineWho (cl : Nat) : Nat := jobWho (2 ^ 60 + cl)

/-- The snoop that a word's rows in lent memory need before it is performed (R318, R320). -/
def wordSnoop (s : State) (cl : Nat) (w : MWord) : Option (Nat × Nat × SnpKind) :=
  let ctx := matrixCtx s cl
  if (match SMap.look s.ctxs ctx with | some c => c.maps.isEmpty | none => true) then none
  else (wordRows s cl w).findSome? (fun r => (List.range (r.2 / 64)).findSome? (fun i => match lentAt s ctx (r.1 + 64 * i) false with
    | some (some (.lent t x)) => (SMap.look s.tenants t).bind (fun y => (snoopFor y (x / 64) false (engineWho cl)).map (fun k => (t, x / 64, k)))
    | _ => none))

/-- `mspl` in its turn (R200, R201). -/
def runMspl (s : State) (cl : Nat) (w : MWord) (t : Nat) (d0 d1 : Word) (g : Nat) (fmt : Word) : State :=
  let ctx := matrixCtx s cl
  let f := fmtBOf fmt.toNat
  let tab := tabOf (dieByte s (clDie cl)) g
  let rows := rowsOf s cl g tab
  let act := activations s cl (descOf d0 d1) f (min tab.f 65536)
  let x := act.1
  let fired (l : Nat) (r : Nat × Row) : Bool := !(xAt x l r.1).isZero
  let s1 := hotPart s cl t tab x (rows.filter (fun r => r.2.hot && rowUsed tab x r))
  let cold := (rows.filter (fun r => !r.2.hot && rowUsed tab x r)).map (fun r => (r, coldRow s1 ctx tab r))
  let s2 := cold.foldl (fun u c => rowActivated u ctx (tab.rowDva c.1.1) tab.rowBytes) s1
  let s3 := (cold.filter (fun c => c.2.2.2.isSome)).foldl (fun u c => matrixFault u cl w (c.2.2.2.getD 1) (tab.rowDva c.1.1)) s2
  let parts := cold.map (fun c => (c.1, c.2.1, c.2.2.1))
  let s4 := onEngine s3 cl (fun e => e.mapTile t (fun l j old => match tree8 (coldParts x (useAt tab x) parts l j) with
    | some c => accAdd .f32 old c
    | none => old))
  let s5 := if act.2 then s4 else spoilTile s4 cl t
  let ups := (rows.filter (fun r => (List.range 128).any (fun l => fired l r))).flatMap (fun r =>
    bytesAt (entryAt g r.1) (leBytes 4 (min (2 ^ 32 - 1) (r.2.count + 1))))
  let n := (tab.count + 1) % 2 ^ 32
  let s6 := writeHome s5 (ups ++ bytesAt (g + 28) (leBytes 4 n))
  if n % 2 ^ tab.age = 0 then halveCounters s6 cl g tab else s6

/-! ## Words in their turn (R180, R193, R205) -/

/-- The words that issue matrix passes: a droop freeze holds them (R341). -/
def MKind.passing (k : MKind) : Bool :=
  match k with
  | .mma _ _ _ _ _ _ | .mspl _ _ _ _ _ => true
  | _ => false

/-- Whether an operation that the lockmaster issued before a word is not performed: a store, its own or one that its replica set has committed, an
atomic, or a load that has not come (R181, R298). -/
def lmBehind (s : State) (cl : Nat) (w : MWord) : Bool :=
  let id : UnitId := ⟨cl * 4, 32⟩
  s.fl.stores.any (fun p => decide (p.unit = some id) && !p.applied && decide (p.seq < w.seq))
    || s.fl.atoms.any (fun p => decide (p.unit = id) && decide (p.seq < w.seq))
    || (match s.unit? id with
      | some u => u.pend.any (fun p => p.unbound && decide (p.id < w.seq)) || s.fl.stores.any (fun p => !p.applied && p.precedes u .s w.seq)
      | none => false)

/-- Whether the next pass of a word may begin: no droop freeze holds it, no earlier reservation stands on what it uses, and
the lockmaster's earlier operations are performed (R181, R193, R341). -/
def wordReady (s : State) (cl : Nat) (w : MWord) : Bool :=
  !(w.kind.passing && decide (s.clk.now < (s.cluster cl).pulse.freezeTo)) && (passHeld (s.cluster cl).engine w).isEmpty && !lmBehind s cl w

/-- The effect of one pass of a word, or of a word without passes, with its status. -/
def perform (s : State) (cl : Nat) (w : MWord) : State × Word :=
  let e := (s.cluster cl).engine
  match w.kind with
  | .mma t a b ta tb_ f => (mmaPass s cl t a b ta tb_ f w.done, 0)
  | .mzero t => (onEngine s cl (fun x => x.zeroTile t), 0)
  | .mdrn t dst ctl wr =>
    if e.marks.contains t then (s, tileStatus e t false true) else drainTile s cl t dst ctl wr
  | .mspl t d0 d1 g f => (runMspl s cl w t d0 d1 g f, 0)
  | .mrowMig _ _ => (s, 0)
  | .mrowReg g => (runReg s cl w g, 0)
  | .mage g a h => (runMage s cl g a h, 0)
  | .mchkRd t => (s, tileStatus e t false (e.marks.contains t))
  | .mchkClr t => (onEngine s cl (fun x => { x with corr := SMap.set 0 x.corr t 0, marks := setDel x.marks t }), 0)
  | .mchkInj t p =>
    (onEngine s cl (fun x => { x with inj := SMap.put x.inj t { row := fld p 0 7, col := fld p 7 7, two := tb p 14 } }), 0)
  | .msl off src len => (runMsl s cl w off src len, 0)

/-- The timeline of a team on the cluster after its engine has completed a word: the number that the engines of all its
replicas have reached (R180, R206). -/
def tellTimeline (s : State) (cl : Nat) : State :=
  match (residentTeams s).find? (fun t => t.lm && decide (t.cluster = cl)) with
  | none => s
  | some t =>
    let all := (t.peers.filterMap (fun k => SMap.look s.teams k)).map (fun p => (s.cluster p.cluster).engine.doneNum)
    let n := all.foldl min (s.cluster cl).engine.doneNum
    raiseTimeline s (matrixCtx s cl) t.mtl n

/-- The end of word n: it leaves the queue, its number and status stand, migrations of its instant run, and the timeline
follows. -/
def completeWord (s : State) (cl : Nat) (w : MWord) (st : Word) : State :=
  let s1 := onEngine s cl (fun e => { e with
    queue := e.queue.filter (fun x => decide (x.num ≠ w.num)), doneNum := w.num,
    doneStat := match w.kind with
      | .mdrn _ _ _ _ => some (w.num, st)
      | .mchkRd _ => some (w.num, st)
      | _ => e.doneStat })
  tellTimeline (runMigs s1 cl w) cl

/-- MATRIX_WORD_PERFORM: the oldest queued word, one pass of it for `mma` (R180, R188). -/
def execMatrixWordPerform (cl : Nat) (s : State) : Res :=
  match (s.cluster cl).engine.queue with
  | [] => .next s
  | w :: _ =>
    if wordReady s cl w then
      match wordSnoop s cl w with
      | some (t, l, k) => .next (sendSnoop s t l k (.read (engineWho cl)))
      | none =>
      let r := perform (readDone s (engineWho cl)) cl w
      if w.done + 1 < w.kind.passes then
        .next (onEngine r.1 cl (fun e => { e with
          queue := e.queue.map (fun (x : MWord) => if x.num = w.num then { x with done := x.done + 1 } else x) }))
      else .next (completeWord r.1 cl w r.2)
    else .next s

/-! ## Reservations (R193) -/

/-- Whether a reservation can be granted, once the mclk of its arrival has passed. -/
def grantable (e : Engine) (now : Nat) (r : Resv) : Bool :=
  !r.granted && decide (r.arr < now * 256) && !e.resv.any (fun q => decide (q.obj = r.obj) && q.granted)
    && !e.queue.any (fun w => decide (w.arr < r.arr) && w.objects.contains r.obj)

/-- The reservation that the arbiter grants on an object: the highest priority, then the oldest. -/
def nextGrant (e : Engine) (now obj : Nat) : Option Resv :=
  (e.resv.filter (fun r => decide (r.obj = obj) && grantable e now r)).foldl (fun (acc : Option Resv) r =>
    match acc with
    | none => some r
    | some b => if b.prio < r.prio ∨ (b.prio = r.prio ∧ r.arr < b.arr) then some r else some b) none

/-- RESERVATION_GRANT. -/
def execReservationGrant (cl obj : Nat) (s : State) : Res :=
  match nextGrant (s.cluster cl).engine s.clk.now obj with
  | none => .next s
  | some r => .next (onEngine s cl (fun e => { e with
      resv := e.resv.map (fun (x : Resv) => if x.obj = r.obj ∧ x.arr = r.arr then { x with granted := true } else x) }))

/-- The next matrix event that is due. -/
def matrixDue (s : State) : Option Instr :=
  s.clusters.findSome? (fun c =>
    match (List.range 9).find? (fun o => (nextGrant c.2.engine s.clk.now o).isSome) with
    | some o => some (Instr.reservationGrant c.1 o)
    | none => match c.2.engine.queue with
      | w :: _ =>
        if wordReady s c.1 w && !(match wordSnoop s c.1 w with | some (t, l, k) => snoopSent s t l k | none => false) then
          some (Instr.matrixWordPerform c.1)
        else none
      | [] => none)

end Sys2Proof.Machine
end

