-- ==== Sys2Proof/Machine/Replica.lean ====
section
/-! DEFINITION. Compares of replicas: their outcomes (R295, R298), the commit of held stores, mismatch and rollback
(R299), outvotes (R300, R301), and their records (R307). -/

namespace Sys2Proof.Machine

/-! ## Replica sets -/

/-- The units of a replica set by replica number. -/
def setUnits (s : State) (set : Nat) : List Unit :=
  let l := (s.units.filter (fun e => decide (e.2.who.rset = set))).map (fun e => e.2)
  (List.range 3).flatMap (fun r => l.filter (fun u => decide (u.who.rep = r)))

/-- The replicas of a launch: 2 in duplex, 3 in triplex (R20). -/
def Unit.ways (u : Unit) : Nat := u.who.rmode.toNat + 1

/-- The signature that a replica brings to a compare: the fold of its own entries, and of the compare word if it has
arrived (R296). -/
def Unit.finalSig (u : Unit) : Word :=
  match u.assay.at_ with
  | some b => sigBytes u.assay.sig b
  | none => u.assay.sig

/-- Whether a replica has parked at a compare. -/
def Unit.arrived (u : Unit) : Bool := u.assay.at_.isSome

/-- Whether every replica of a set has parked at a compare. -/
def setReady (l : List Unit) : Bool :=
  match l with
  | [] => false
  | u :: _ => decide (l.length = u.ways) && l.all Unit.arrived

/-- Whether the compare timeout of a set has passed, counted from its first arrival (R295); a compare whose word the leader has still to perform
is not over, and none follows it before (DEDUCED, log 53). -/
def setLate (s : State) (l : List Unit) : Bool :=
  match l with
  | [] => false
  | u :: _ => decide (l.length = u.ways) && !l.all Unit.arrived && !l.any (fun v => v.who.leader && v.owesWord)
      && l.any (fun v => v.arrived && decide (v.assay.since + s.set.compare ≤ s.clk.now))

/-! ## Commit (R298) -/

/-- The held entries of one store word as parts in the store queue, committed at place `cseq`: its place in the order of issue is kept. -/
def heldParts (cseq : Nat) (u : Unit) (l : List Held) : List PStore :=
  match l with
  | [] => []
  | h :: _ =>
    let m := (l.flatMap (fun x => x.data)).foldl (fun (t : SMap Byte) b => SMap.put t b.1 b.2) []
    let secs := sectorsOf m
    (List.range secs.length).map (fun k =>
      let part := m.filter (fun b => decide (sectorOf b.1 = secs.getD k 0))
      { seq := h.word + k, die := u.die, unit := some u.id, strm := h.strm, lqSeq := h.lqSeq, ef := h.ef,
        bytes := part, full := decide (part.length = 32), idx := h.idx, raw := h.raw, act := h.act,
        applied := false, sent := false, out := false, sentAt := 0, retrans := 0, lostAck := false, ord := 0, rset := u.who.rset, cseq := cseq,
        via := none, back := none })

/-- Held entries grouped by their words, in issue order. -/
def heldWords (l : List Held) : List (List Held) :=
  ((l.map (fun h => h.word)).dedup).map (fun w => l.filter (fun h => decide (h.word = w)))

/-- The touchstone at held stores that are performed (R156, R158). -/
def stampHeld (s : State) (u : Unit) : State :=
  match SMap.look s.ctxs u.who.ctx with
  | some c => if c.tsOn then putStamps s u.who.ctx (tsStamp s u false false .wg) (u.assay.held.flatMap (fun h => h.data.map (fun b => b.1))) else s
  | none => s

/-- The leader's held stores put into its store queue. -/
def commitHeld (s0 : State) (u : Unit) : State := let s := stampHeld s0 u; queueStores s u.id ((heldWords u.assay.held).flatMap (heldParts s.fl.seq u))

/-- A replica after an agreeing compare: its entries discarded, its signature 0, its compare word free to go on. An outstanding load keeps the
bytes that earlier entries held for it (R293). -/
def Unit.agreed (seq : Nat) (u : Unit) : Unit :=
  let own (p : Pend) : List (Nat × Byte) := ((u.assay.held.filter (fun h => decide (h.word < p.id))).flatMap (fun h => h.data)).reverse ++ p.own
  { u with
    pend := u.pend.map (fun p => if p.unbound then { p with own := own p } else p),
    assay := { u.assay with held := [], sig := 0, at_ := none, passed := some (u.assay.strm, u.assay.kind), cseq := seq, bad := false } }

/-- Units replaced. -/
def putUnits (s : State) (l : List Unit) : State := l.foldl (fun t u => t.setUnit u) s

/-! ## Records (R307) -/

/-- The record of a compare. -/
def compareRec (s : State) (l : List Unit) (a b : Word) (event minority : Nat) (moved late : Bool) : State :=
  match l.find? (fun u => u.who.leader) with
  | none => s
  | some u => writeLog s u.who.ctx (unitRec u u.assay.strm 0 4 a.toNat b.toNat
      (event + minority * 4 + (if moved then 16 else 0) + (if late then 32 else 0)))

/-! ## Mismatch (R299) -/

/-- The workgroups of the replicas of a set. -/
def setWgs (l : List Unit) : List Nat := (l.map (fun u => u.who.wg)).dedup

/-- The values handed out in a rolled-back interval are taken afresh by the re-execution. -/
def dropLead (s : State) (w : Nat) : State :=
  (wgUnits s w).foldl (fun t u =>
    if u.who.rset ≠ 0 ∧ u.who.leader then
      { t with fl := { t.fl with lead := t.fl.lead.filter (fun e =>
          decide (e.1 ≠ u.who.rset) || decide (e.2.1 / 4 < SMap.get 0 u.assay.counts (e.2.1 % 4))) } }
    else t) s

/-- The signatures of two replicas, the lower-numbered first. -/
def sigPair (a b : Unit) : Word × Word := if a.who.rep < b.who.rep then (a.finalSig, b.finalSig) else (b.finalSig, a.finalSig)

/-- A mismatch of the replicas `l`, whose first two are a and b: rollback of every replica of the workgroup where the interval
is eligible and has not been rolled back, and context-fatal elsewhere. -/
def mismatch (s : State) (l : List Unit) (a b : Unit) (late : Bool) : State :=
  let ws := setWgs l
  let ok := ws.all (fun k => match SMap.look s.wgs k with
    | some w => eligibleNow s w && !w.mism
    | none => false)
  let p := sigPair a b
  if ok then
    let s1 := compareRec s l p.1 p.2 (if l.length = 3 then 3 else 1) 3 false late
    ws.foldl (fun t k => dropLead (rollback t k false) k) s1
  else resetCtx (compareRec s l p.1 p.2 2 3 false late) a.who.ctx

/-! ## Agreement and outvote (R298, R300, R301) -/

/-- The units of a list changed in place. -/
def updUnits (s : State) (l : List Unit) (f : Unit → Unit) : State :=
  l.foldl (fun t u => { t with units := SMap.upd t.units (ukey u.id) f }) s

/-- The leader commits, and the replicas of `l` go on. -/
def commitAll (s : State) (l : List Unit) : State :=
  let s1 := match l.find? (fun u => u.who.leader) with | some u => commitHeld s u | none => s
  updUnits s1 l (Unit.agreed s.fl.seq)

/-- A replica that loses the leadership. -/
def Unit.dethroned (u : Unit) : Unit := { u with who := { u.who with leader := false } }

/-- A replica that becomes the leader: a value that it waits for and that the old leader `z` has neither handed out nor under way it brings
itself (R301). -/
def Unit.crowned (u : Unit) (s : State) (z : Unit) : Unit :=
  let gone (n : Nat) : Bool := (leadVal s u.who.rset n).isNone && !z.pend.any (fun p => decide (p.share = some n))
  { u with
    who := { u.who with leader := true },
    pend := u.pend.map (fun p => match p.what with
      | .leader n (.load accs size sgn) => if gone n then { p with what := .ldg accs size sgn, share := some n } else p
      | .leader n .tclk => if gone n then { p with what := .tclk, share := some n } else p
      | .late n (some tl) => if gone n then { p with what := .tlr tl, share := some n } else p
      | _ => p) }

/-- A minority replica stopped, its buffer empty. -/
def Unit.minority (u : Unit) : Unit :=
  { u with outvoted := true, assay := { u.assay with held := [], sig := 0, at_ := none, passed := none, bad := false } }

/-- An outvote of `z` by `x` and `y`, `x` the lower-numbered: leadership passes to `x` where `z` held it, the majority commits,
and `z` stops until it is overwritten; at `exit` nothing is copied and `z` leaves too. -/
def outvote (s : State) (x y z : Unit) (late : Bool) : State :=
  let moved := z.who.leader
  let x1 := if moved then x.crowned s z else x
  let s1 := if moved then updUnits (updUnits s [x] (fun u => u.crowned s z)) [z] Unit.dethroned else s
  let p := sigPair z x
  let s2 := compareRec s1 [x1, y] p.1 p.2 0 z.who.rep moved late
  let s3 := commitAll s2 [x1, y]
  if x.assay.kind = 8 then leave s3 ((s3.unit? z.id).getD z) else updUnits s3 [z] Unit.minority

/-- The outcome of a compare; a replica that has not parked differs (R295, R298), and an uncorrectable error of a buffer is a mismatch (R336). -/
def compareSet (s : State) (l : List Unit) (late : Bool) : State :=
  let eq (x y : Unit) : Bool := x.arrived && y.arrived && decide (x.finalSig = y.finalSig)
  match l with
  | [a, b] => if eq a b && !a.assay.bad && !b.assay.bad then commitAll s l else mismatch s l a b late
  | [a, b, c] =>
    if a.assay.bad || b.assay.bad || c.assay.bad then mismatch s l a b late
    else if eq a b && eq b c then commitAll s l
    else if eq a b then outvote s a b c late
    else if eq a c then outvote s a c b late
    else if eq b c then outvote s b c a late
    else mismatch s l a b late
  | _ => s

/-- REPLICA_COMPARE: every replica has parked. -/
def execReplicaCompare (set : Nat) (s : State) : Res :=
  let l := setUnits s set
  if set ≠ 0 ∧ setReady l then .next (compareSet s l false) else .next s

/-- COMPARE_TIMEOUT. -/
def execCompareTimeout (set : Nat) (s : State) : Res :=
  let l := setUnits s set
  if set ≠ 0 ∧ setLate s l then .next (compareSet s l true) else .next s

/-! ## The copy of an outvote (R300) -/

/-- The replica from which a minority is overwritten: the majority replica that is not the leader. -/
def sourceOf (s : State) (z : Unit) : Option Unit :=
  (setUnits s z.who.rset).find? (fun u => decide (u.id ≠ z.id) && !u.who.leader)

/-- Whether a stream of a source that owes its compare word may go on: that word's stream alone, so that the source resumes with an empty buffer,
or both where the word waits for a handler's return. -/
def Unit.mayFinish (u : Unit) (st : Strm) : Bool :=
  match u.assay.passed with
  | some e => decide (e.1 = st)
  | none => u.owesWord

/-- Whether two warps are of one workgroup. -/
def sameWg (a b : Unit) : Bool := !a.who.isLm && !b.who.isLm && decide (a.who.wg = b.who.wg)

/-- Whether a unit stays at its boundary while a copy runs: the minority, the source once it has executed the compare word,
and the other warps of their workgroups. -/
def heldForCopy (s : State) (u : Unit) (st : Strm) : Bool :=
  let zs := (s.units.filter (fun e => e.2.outvoted)).map (fun e => e.2)
  let src := zs.filterMap (sourceOf s)
  if src.any (fun y => decide (y.id = u.id)) && u.mayFinish st then false
  else zs.any (fun z => decide (z.id = u.id) || sameWg z u) || src.any (fun y => decide (y.id = u.id) || sameWg y u)

/-- Whether the source's pending results have landed; a mailbox of a run that is stopped with it is copied as it waits. Results that are due and
still out of sight (R22) are copied as they stand. -/
def copyReady (s : State) (y : Unit) : Bool :=
  let due (l : List Fly) : Bool := l.all (fun f => decide (f.due ≤ pulses s y.id.core))
  !y.owesWord && due y.sS.fly && due y.lS.slot0.fly && due y.lS.slot1.fly
    && y.pend.all (fun p => match p.what with | .mailbox _ => true | _ => false)

/-- Results in flight that are due. -/
def landed (l : List Fly) : List Fly := l.map (fun f => { f with due := 0 })

/-- The minority overwritten with the source's state. -/
def Unit.overwritten (z y : Unit) : Unit :=
  { y with
    sS := { y.sS with fly := landed y.sS.fly },
    lS := { y.lS with slot0 := { y.lS.slot0 with fly := landed y.lS.slot0.fly }, slot1 := { y.lS.slot1 with fly := landed y.lS.slot1.fly } },
    id := z.id, who := z.who, tags := z.tags, age := z.age, ageS := z.ageS, waitS := 0, waitL := 0, yieldTo := z.yieldTo,
    outvoted := false, code := z.code,
    assay := { y.assay with at_ := none, passed := none } }

/-- The source workgroup's pad copied into the minority's. -/
def copyPad (s : State) (z y : Unit) : State :=
  match SMap.look s.wgs z.who.wg, SMap.look s.wgs y.who.wg with
  | some a, some b =>
    let src := gsaAt b.core b.padBase
    let dst := gsaAt a.core a.padBase
    let s1 := putBytes { s with mem := { s.mem with sram := zeroRange s.mem.sram dst a.padP } } dst (runBytes s src b.padP)
    { s1 with wgs := SMap.upd s1.wgs z.who.wg (fun w => { w with touched := b.touched }) }
  | _, _ => s

/-- The stopped minority of a set whose copy can be made, with its source. -/
def copyDue (s : State) (set : Nat) : Option (Unit × Unit) :=
  (setUnits s set).findSome? (fun z => if z.outvoted then (match sourceOf s z with
    | some y => if copyReady s y then some (z, y) else none
    | none => none) else none)

/-- OUTVOTE_COMPLETE. -/
def execOutvoteComplete (set : Nat) (s : State) : Res :=
  match copyDue s set with
  | none => .next s
  | some (z, y) => .next ((copyPad s z y).setUnit (z.overwritten y))

/-- The next event of a replica set that is due. -/
def replicaDue (s : State) : Option Instr :=
  ((s.units.filter (fun e => decide (e.2.who.rset ≠ 0) && decide (e.2.who.rep = 0))).map (fun e => e.2.who.rset)).findSome? (fun k =>
    let l := setUnits s k
    if setReady l then some (Instr.replicaCompare k)
    else if setLate s l then some (Instr.compareTimeout k)
    else if (copyDue s k).isSome then some (Instr.outvoteComplete k) else none)

end Sys2Proof.Machine
end

