-- ==== Sys2Proof/Machine/Plant.lean ====
section
/-! DEFINITION. Fabric, reliability, power and reset: evacuation of a die (R251, R252), ingress records (R328), fabric packets
and dead links (R333, R334), checkpoints (R337 to R339), pulse patterns, droops and safeguards (R340 to R343), and the resets,
power-up and life cycle (R325, R326, R344, R345). -/

namespace Sys2Proof.Machine

/-! ## Pages as sets of bytes (R246, R248) -/

/-- The listed bytes of a page, by offset. -/
def pageCells (s : State) (e : Pte) : List (Nat × Byte) :=
  s.mem.hbm.filterMap (fun c => (pageOff e (.hbm c.1)).map (fun o => (o, c.2)))
    ++ s.mem.far.filterMap (fun c => (pageOff e (.far c.1)).map (fun o => (o, c.2)))

/-- The offsets of the 32-byte units of a page that are poisoned (R363). -/
def pageBads (s : State) (e : Pte) : List Nat :=
  s.mem.badHbm.filterMap (fun g => pageOff e (.hbm (g * 32)))
    ++ (s.mem.badFar.filterMap (fun g => pageOff e (.far (g * 64)))).flatMap (fun o => [o, o + 32])

/-- A unit of a page poisoned. -/
def markUnit (s : State) (e : Pte) (o : Nat) : State :=
  match leafPhys s e o with
  | some (.hbm a) => { s with mem := { s.mem with badHbm := setAdd s.mem.badHbm (a / 32) } }
  | some (.far a) => { s with mem := { s.mem with badFar := setAdd s.mem.badFar (a / 64) } }
  | _ => s

/-- A byte of a page written, with no effect on poison. -/
def putPageByte (s : State) (e : Pte) (b : Nat × Byte) : State :=
  match leafPhys s e b.1 with
  | some (.hbm a) => { s with mem := { s.mem with hbm := SMap.set 0 s.mem.hbm a b.2 } }
  | some (.far a) => { s with mem := { s.mem with far := SMap.set 0 s.mem.far a b.2 } }
  | _ => s

/-- The page of a leaf with the given bytes, all others zero, and the given units poisoned. -/
def fillPage (s : State) (e : Pte) (cells : List (Nat × Byte)) (bads : List Nat) : State :=
  let m := { s.mem with
    hbm := s.mem.hbm.filter (fun c => (pageOff e (.hbm c.1)).isNone),
    far := s.mem.far.filter (fun c => (pageOff e (.far c.1)).isNone),
    badHbm := s.mem.badHbm.filter (fun g => (pageOff e (.hbm (g * 32))).isNone),
    badFar := s.mem.badFar.filter (fun g => (pageOff e (.far (g * 64))).isNone) }
  bads.foldl (fun t o => markUnit t e o) (cells.foldl (fun t b => putPageByte t e b) { s with mem := m })

/-! ## Evacuation (R251, R252) -/

/-- The table and the level at which a walk of a DVA meets its leaf. -/
def leafTable (s : State) (level : Nat) (p : Phys) (dva : Nat) : Option (Phys × Nat) :=
  let at_ := p.add ((levelIdx level dva).1 * 8)
  let e := pteOf (leNat (readN (fun i => physByte s (at_.add i)) 8 0))
  if !e.valid then none
  else if e.leaf then some (p, level)
  else match level with
    | 0 => none
    | l + 1 => match tableAt s e (levelIdx l dva).2 with
      | none => none
      | some q => leafTable s l q dva

/-- The entries of its table that a page of size n covers (R246). -/
def coverOf (n : Nat) : Nat := 4 ^ (if n < 4 then n else if n < 10 then n - 4 else n - 10)

/-- Every entry that covers the page of a DVA rewritten. -/
def writeLeaves (s : State) (ctx dva n : Nat) (v : BitVec 64) : State :=
  match (rootTable s ctx).bind (fun p => leafTable s 3 p dva) with
  | none => s
  | some (p, level) =>
    let k := coverOf n
    let i := (levelIdx level dva).1 / k * k
    (List.range k).foldl (fun t j => writeDram (activate t (p.add ((i + j) * 8))) (p.add ((i + j) * 8)) (leBytes 8 v.toNat)) s

/-- An invalidation begun (R250). -/
def beginInval (s : State) (ctx first last : Nat) (moved : Option (BitVec 64 × BitVec 64)) : State :=
  let v : Inval := { id := s.fl.seq, moved := moved, ctx := ctx, first := first, last := last }
  { s with fl := { s.fl with invals := s.fl.invals ++ [v], seq := s.fl.seq + 1 } }

/-- Whether a leaf names a stack. -/
def Pte.onStack (e : Pte) (k : Nat) : Bool := decide (e.tier ≤ 1) && tb e.smask k

/-- Whether a new leaf may replace an old one when die `d` is evacuated: valid, the same page and permissions, off the die's
stack, on stacks in service, inside its tier, and at a place that nothing takes. -/
def moveOk (s : State) (d : Nat) (old new : Pte) : Bool :=
  new.valid && new.leaf && !new.rsv && decide (new.tier ≤ 2) && decide (new.size = old.size) && decide (new.rd = old.rd) && decide (new.wr = old.wr)
    && !new.onStack d && (stacksOf new.smask).all (dieOn s)
    && (leafPhys s new 0).isSome && (leafExtents new).all (fun x => !(usedExtents s).any x.meets)

/-- Whether die `d` is being evacuated. -/
def evacuating (s : State) (d : Nat) : Bool := decide (s.plant.dies.getD d .off = .evacuating)

/-- Whether lent pages are on their way out of stack `d`, or still into it: they leave before the device pages (R251). -/
def lentLeaving (s : State) (d : Nat) : Bool :=
  let on (e : BitVec 64) : Bool := !tb e.toNat 59 && decide (fld e.toNat 56 3 = d)
  s.tenants.any (fun t => t.2.pages.any (fun e => decide (entState e.2.toNat = 3) && on e.2) || t.2.side.any (fun e => on e.2))

/-- Whether a page that has left stack `d` may still be reached through its old entry (R250, R251). -/
def pageLeaving (s : State) (d : Nat) : Bool :=
  s.fl.invals.any (fun v => match v.moved with | some m => (pteOf m.1.toNat).onStack d | none => false)

/-- Whether the move of a context's page at a DVA is not complete. -/
def pageMoving (s : State) (ctx dva : Nat) : Bool :=
  s.fl.invals.any (fun v => v.moved.isSome && decide (v.ctx = ctx) && decide (v.first ≤ dva) && decide (dva ≤ v.last))

/-- PAGE_EVACUATION_INSTANT: the page stands at its new place, its entries are rewritten, and an invalidation of it begins, until whose end
a write through the old entry reaches both places (R251). -/
def execPageEvacuationInstant (d ctx dva : Nat) (entry : BitVec 64) (s : State) : Res :=
  match walk s ctx dva with
  | .leaf e =>
    let o := pteOf e.toNat
    let n := pteOf entry.toNat
    if evacuating s d && !lentLeaving s d && o.onStack d && moveOk s d o n && !pageMoving s ctx dva then
      let sz := pageBytes e
      let base := dva / sz * sz
      let s1 := fillPage (touchPage (touchPage s o) n) n (pageCells s o) (pageBads s o)
      .next (beginInval (writeLeaves s1 ctx dva o.size entry) ctx base (base + sz - 1) (some (e, entry)))
    else .next s
  | _ => .next s

/-- Whether lent pages lie in stack `d`. -/
def lentOn (s : State) (d : Nat) : Bool :=
  (lentEntries s).any (fun e => entData e && !tb e 59 && decide (fld e 56 3 = d))

/-- The leaves of a context that name stack `d`. -/
def leavesOn (s : State) (d ctx : Nat) : List (Nat × BitVec 64) :=
  (tablesOf s ctx).leaves.filter (fun x => (pteOf x.2.toNat).onStack d)

/-- Whether a context has a page or a table on stack `d`. -/
def ctxOnStack (s : State) (d ctx : Nat) : Bool :=
  !(leavesOn s d ctx).isEmpty || (tablesOf s ctx).tables.any (fun p => match p.1 with | .hbm a => decide (a / 2 ^ 36 = d) | _ => false)

/-- The contexts that lose memory with die `d`: those with a window in its slices or a team on it, and those that own a page or
a table left on its stack. -/
def losers (s : State) (d : Nat) : List Nat :=
  (s.ctxs.map (fun c => c.1)).filter (fun c =>
    s.windows.any (fun w => decide (w.2.ctx = c) && decide (dieOf (w.1 / 16) = d))
      || s.teams.any (fun t => gridOf s c t.2.grid && decide (t.2.die = d))
      || ctxOnStack s d c)

/-- The frames of a context's pages that are left on the stack released: their entries are absent, and its cached translations
of them are dropped. -/
def releasePages (s : State) (d ctx : Nat) : State :=
  (leavesOn s d ctx).foldl (fun t x =>
    let u := writeLeaves t ctx x.1 (pteOf x.2.toNat).size 0
    { u with fl := { u.fl with tlb := u.fl.tlb.filter (fun y => !(decide (y.ctx = ctx) && (pteOf y.entry.toNat).onStack d)),
                               nodes := u.fl.nodes.filter (fun y => !(decide (y.ctx = ctx) && (pteOf y.entry.toNat).onStack d)) } }) s

/-- A die without power: its stack and slices hold nothing, its windows are gone and its fabric port is a dead link (R332). -/
def dieOff (s : State) (d : Nat) : State :=
  let gone (a : Nat) : Bool := decide (gsaDie a = d)
  { s with
    mem := { s.mem with
      sram := s.mem.sram.filter (fun c => !gone c.1), hbm := s.mem.hbm.filter (fun c => decide (c.1 / 2 ^ 36 ≠ d)),
      badHome := s.mem.badHome.filter (fun k => !gone (k * 32)),
      badMir := s.mem.badMir.filter (fun k => !gone (k % 2 ^ 27 * 32) && decide (k / 2 ^ 27 ≠ d)),
      doubt := s.mem.doubt.filter (fun k => !gone (k % 2 ^ 27 * 32) && decide (k / 2 ^ 27 ≠ d)),
      badHbm := s.mem.badHbm.filter (fun g => decide (g * 32 / 2 ^ 36 ≠ d)) },
    windows := s.windows.filter (fun w => decide (dieOf (w.1 / 16) ≠ d)),
    plant := { s.plant with dies := s.plant.dies.set d .off, deadLinks := setAdd s.plant.deadLinks (8 + d) } }

/-- EVACUATION_END: the die is off, or memory-only where lent pages stay on its stack; contexts that lose memory are reset with
reason 2 (R252). -/
def execEvacuationEnd (d : Nat) (s : State) : Res :=
  if evacuating s d && !lentLeaving s d && !pageLeaving s d then
    let l := losers s d
    let s1 := l.foldl (fun t c => resetWith (releasePages t d c) c 2) s
    if lentOn s d then .next { s1 with plant := { s1.plant with dies := s1.plant.dies.set d .memoryOnly } }
    else .next (dieOff s1 d)
  else .next s

/-! ## Ingress channels (R328) -/

/-- The slots that a record of `len` payload bytes takes. -/
def recSlots (len : Nat) : Nat := (16 + len + 63) / 64

/-- The consumer index, read when a record arrives. -/
def Channel.consumer (s : State) (c : Channel) : Option Nat :=
  if c.desc.cDva then (readDva s c.desc.ctx c.desc.cidx 8).map leNat
  else if (List.range 8).any (fun i => sectorBad s (gsaDie c.desc.cidx) (c.desc.cidx + i)) then none
  else some (leNat (readN (homeByte s) 8 c.desc.cidx))

/-- The 16-byte header. -/
def recHeader (stamp len src flags seq : Nat) : List Byte :=
  leBytes 8 stamp ++ leBytes 2 len ++ leBytes 1 src ++ leBytes 1 flags ++ leBytes 4 seq

/-- `n` slots written from slot `w` of the ring on. -/
def putSlots (s : State) (c : Channel) (w n : Nat) (l : List Byte) : State :=
  match n with
  | 0 => s
  | k + 1 =>
    let a := c.desc.ring + w % 2 ^ c.desc.k * 64
    let one := (List.range 64).map (fun i => l.getD i 0)
    let s1 := if c.desc.ringDva then writeDva s c.desc.ctx a one else writeHome s (bytesAt a one)
    putSlots s1 c (w + 1) k (l.drop 64)

/-- Whether the ring has room for a record of `n` slots. -/
def Channel.room (s : State) (c : Channel) (n : Nat) : Bool :=
  match c.consumer s with
  | some x => decide (c.w + n ≤ x + 2 ^ c.desc.k)
  | none => false

/-- A record written, or dropped and counted where the ring lacks room. -/
def ingress (s : State) (ch : Nat) (r : InRec) : State :=
  match SMap.look s.channels ch with
  | none => s
  | some c =>
    let n := recSlots r.payload.length
    let s0 := if c.desc.cDva then touchDva s c.desc.ctx c.desc.cidx 8 else s
    if c.room s0 n then
      let flags := (if s.clk.holdover then 1 else 0) + (if c.gap then 2 else 0)
      let s1 := putSlots s0 c c.w n (recHeader r.stamp r.payload.length r.src flags c.seq ++ r.payload)
      let s2 := { s1 with channels := SMap.put s1.channels ch { c with w := c.w + n, seq := c.seq + 1, gap := false } }
      raiseTimeline s2 c.desc.ctx c.desc.tl (c.seq + 1)
    else { s0 with channels := SMap.put s0.channels ch { c with dropped := (c.dropped + 1) % 2 ^ 64, gap := true } }

/-- The snoop that the write of `n` slots from slot `w` on needs, where the ring lies in lent memory (R318). -/
def slotSnoop (s : State) (who : Nat) (c : Channel) (w n : Nat) : Option (Nat × Nat × SnpKind) :=
  if c.desc.ringDva then
    (List.range n).findSome? (fun i => match dvaPhys s c.desc.ctx (c.desc.ring + (w + i) % 2 ^ c.desc.k * 64) true with
      | .ok (.lent t a) => (SMap.look s.tenants t).bind (fun x => (snoopFor x (a / 64) true who).map (fun k => (t, a / 64, k)))
      | _ => none)
  else none

/-- The snoop that a record of `n` slots needs before it is written: for the read of the consumer index, then for its slots (R318). -/
def chanSnoop (s : State) (ch : Nat) (c : Channel) (n : Nat) : Option (Nat × Nat × SnpKind) :=
  let slots := if c.room s n then slotSnoop s (chanWho ch) c c.w n else none
  if c.desc.cDva then
    match seeByte s (chanWho ch) c.desc.ctx c.desc.cidx with
    | .snoop t l k => some (t, l, k)
    | _ => slots
  else slots

/-- The records that stand at a channel written in order, up to one that needs a snoop; `fuel` bounds them. -/
def drainChan (s : State) (ch fuel : Nat) : State :=
  match fuel, SMap.look s.channels ch with
  | n + 1, some c => match c.inq with
    | [] => s
    | r :: t => match chanSnoop s ch c (recSlots r.payload.length) with
      | some x => sendSnoop s x.1 x.2.1 x.2.2 (.read (chanWho ch))
      | none => drainChan (readDone (ingress { s with channels := SMap.put s.channels ch { c with inq := t } } ch r) (chanWho ch)) ch n
  | _, _ => s

/-- A record comes to a channel: its stamp is the time of its first flit. -/
def arriveRec (s : State) (ch : Nat) (r : InRec) : State :=
  match SMap.look s.channels ch with
  | none => s
  | some c => drainChan { s with channels := SMap.put s.channels ch { c with inq := c.inq ++ [r] } } ch (c.inq.length + 1)

/-- The fabric ports whose link is alive (R332, R334). -/
def livePorts (s : State) : List Nat := (List.range 16).filter (fun p => !s.plant.deadLinks.contains p)

/-- Whether a record may come to a channel from a source: a live fabric port for a traffic class, and for a window the CXL port of its tenant, whose link
is up (R328, R332). -/
def srcOk (s : State) (c : Channel) (src : Nat) : Bool :=
  match c.desc.window with
  | none => (livePorts s).contains src
  | some (t, _) => match SMap.look s.tenants t with
    | some x => x.linkUp && decide (src = 16 + x.port)
    | none => false

/-- INGRESS_RECORD: a frame of the channel's class, or a posted write into its window. With no payload it is the channel's own turn to go on with the
records that stand at it, after a snoop (log 24). -/
def execIngressRecord (ch src : Nat) (payload : List (BitVec 8)) (s : State) : Res :=
  match SMap.look s.channels ch with
  | none => .next s
  | some c =>
    if payload = [] then .next (drainChan s ch c.inq.length)
    else if decide (payload.length ≤ 4096) && srcOk s c src then .next (arriveRec s ch { stamp := s.tclk, src := src, payload := payload })
    else .next s

/-- The turn of a channel at which records stand whose snoop has been answered. -/
def dueChan (s : State) : Option Instr :=
  s.channels.findSome? (fun c =>
    if c.2.inq.isEmpty || s.fl.snoops.any (fun x => decide (x.go = .read (chanWho c.1))) then none else some (.ingressRecord c.1 0 []))

/-! ## Fabric packets (R333, R334) -/

/-- A packet delivered to the channels of its class, with the time and the port at which it came. -/
def deliverPacket (s : State) (cls : Nat) (p : HeldPkt) : State :=
  (s.channels.filter (fun c => c.2.desc.window.isNone && decide (c.2.desc.cls = cls))).foldl (fun t c =>
    arriveRec t c.1 { stamp := p.stamp, src := p.port, payload := p.payload }) s

/-- Held packets delivered while the next in order is there; `fuel` bounds them. -/
def drainFlow (s : State) (f : FabricFlow) (fuel : Nat) : State × FabricFlow :=
  match fuel with
  | 0 => (s, f)
  | n + 1 => match f.held.find? (fun p => decide (p.seq = f.next)) with
    | none => (s, f)
    | some p =>
      drainFlow (deliverPacket s f.cls p) { f with next := f.next + 1, held := f.held.filter (fun q => decide (q.seq ≠ p.seq)) } n

/-- The packets of a stream from the next due to the last that has come: those for which its source has used credit. -/
def FabricFlow.span (f : FabricFlow) : Nat := (f.held.map (fun p => p.seq + 1 - f.next)).foldl max 0

/-- Whether a packet may come: over a live link, from a device of the fabric, with a payload of 1 to 4,096 bytes, new, and within its source's credit of
256 packets over all classes (R333, R334). -/
def packetOk (s : State) (f : FabricFlow) (seq : Nat) (payload : List Byte) : Bool :=
  let others := s.plant.flows.filter (fun x => decide (x.src = f.src) && decide (x.cls ≠ f.cls))
  !(livePorts s).isEmpty && decide (f.src < 2 ^ 18) && decide (payload ≠ []) && decide (payload.length ≤ 4096)
    && decide (f.next ≤ seq) && !f.held.any (fun p => decide (p.seq = seq))
    && decide ((others.map FabricFlow.span).sum + max f.span (seq + 1 - f.next) ≤ 256)

/-- FABRIC_PACKET_RECEIVE: packets of one source and class are delivered in the order of their numbers, each once; a packet comes by any live port
(log 24). -/
def execFabricPacketReceive (src cls seq : Nat) (payload : List (BitVec 8)) (s : State) : Res :=
  let mine (f : FabricFlow) : Bool := decide (f.src = src) && decide (f.cls = cls)
  let f := (s.plant.flows.find? mine).getD { src := src, cls := cls, next := 0, held := [] }
  if packetOk s f seq payload then
    let l := livePorts s
    let p : HeldPkt := { seq := seq, stamp := s.tclk, port := l.getD (Config.freeNat s.free % l.length) 0, payload := payload }
    let r := drainFlow { s with free := s.free + 1 } { f with held := f.held ++ [p] } 257
    .next { r.1 with plant := { r.1.plant with flows := r.2 :: r.1.plant.flows.filter (fun x => !mine x) } }
  else .next s

/-- LINK_DEAD: the link leaves every routing table (R334). -/
def execLinkDead (port : Nat) (s : State) : Res :=
  if port < 16 then .next { s with plant := { s.plant with deadLinks := setAdd s.plant.deadLinks port } } else .next s

/-- Whether no fabric path is left. -/
def fabricDead (s : State) : Bool := (livePorts s).isEmpty

/-! ## Checkpoint (R337 to R339) -/

/-- Bytes of global SRAM, of HBM4 and of device memory in all. -/
def sramTotal : Nat := 1024 * Config.sliceBytes
def hbmTotal : Nat := 8 * Config.stackBytes
def imageTotal (s : State) : Nat := sramTotal + hbmTotal + (if s.far then Config.farBytes else 0)

/-- The blocks of a checkpoint: those of device memory, then at least one for the device state of each context (R337; log 84). -/
def ckptBlocks (s : State) : Nat := (imageTotal s + (2 ^ 20 - 1)) / 2 ^ 20 + (s.ctxs.map (fun c => Config.stateBlocks c.1 + 1)).sum

/-- The place of byte `i` of the image: a GSA, a byte of DRAM, or none in the device state. -/
inductive ImageAt where
  | sram (a : Nat)
  | dram (p : Phys)
  | device
  deriving DecidableEq, Repr

def imageAt (s : State) (i : Nat) : ImageAt :=
  if i < sramTotal then .sram (gsaAt (i / Config.sliceBytes) (i % Config.sliceBytes))
  else if i < sramTotal + hbmTotal then
    .dram (.hbm (hbmKey ((i - sramTotal) / Config.stackBytes) ((i - sramTotal) % Config.stackBytes)))
  else if i < imageTotal s then .dram (.far (i - sramTotal - hbmTotal))
  else .device

/-- Byte `i` of the image. A lent frame holds ciphertext and the form of the device state is not given: both are free (log 9). -/
def imageByte (s : State) (i : Nat) : Byte :=
  let open_ := (Config.freeHalf (s.free + i)).extractLsb' 0 8
  match imageAt s i with
  | .sram a => homeByte s a
  | .dram p => if taggedFrame s p then open_ else physByte s p
  | .device => open_

/-- Whether the 32-byte unit at byte `i` of the image is poisoned. -/
def unitBad (s : State) (i : Nat) : Bool :=
  match imageAt s i with
  | .sram a => s.mem.badHome.contains (sectorOf a)
  | .dram p => physBad s p
  | .device => false

/-- `n` bytes of the image folded from byte `i` on (R29). -/
def foldImage (s : State) (n i : Nat) (sig : Word) : Word :=
  match n with
  | 0 => sig
  | k + 1 => foldImage s k (i + 1) (sigBytes sig [imageByte s i])

/-- The poisoned units among `n` from byte `i` of the image on. -/
def markImage (s : State) (n i : Nat) : List Nat :=
  match n with
  | 0 => []
  | k + 1 => (if unitBad s i then [i / 32] else []) ++ markImage s k (i + 32)

/-- Whether every path to the safe tier of a checkpoint is lost (R334, R339). -/
def pathLost (s : State) (c : Ckpt) : Bool := fabricDead s && (match c.tier with | .fabric _ => true | _ => false)

/-- A checkpoint over: the freeze ends unless a stack is hot, and the command's status stands. -/
def endCkpt (s : State) (rc : Rc) : State :=
  { s with plant := { s.plant with ckpt := none, frozen := !s.plant.hotStacks.isEmpty },
           mgmt := some { rc := rc, out := [] } }

/-- CHECKPOINT_BLOCK: the next block of 1 MiB with its CRC and its poisoned sectors. -/
def execCheckpointBlock (s : State) : Res :=
  match s.plant.ckpt with
  | none => .next s
  | some c =>
    let a := c.blocks * 2 ^ 20
    if pathLost s c then .next (endCkpt s .mediaFailure)
    else if ckptBlocks s ≤ c.blocks then .next s
    else
    let c1 := { c with blocks := c.blocks + 1, crc := foldImage s (2 ^ 20) a 0, marks := markImage s 32768 a }
    .next { s with plant := { s.plant with ckpt := some c1 } }

/-- CHECKPOINT_END: every block of device memory and of the contexts' device state has been streamed. -/
def execCheckpointEnd (s : State) : Res :=
  match s.plant.ckpt with
  | none => .next s
  | some c =>
    if pathLost s c then .next (endCkpt s .mediaFailure)
    else if ckptBlocks s ≤ c.blocks then .next (endCkpt s .success)
    else .next s

/-- How the stream of a checkpoint goes on. -/
def streamNext (s : State) : Option Instr :=
  s.plant.ckpt.map (fun c => if ckptBlocks s ≤ c.blocks then .checkpointEnd else .checkpointBlock)

/-- SAFE_TIER_PATH_LOSS (R339). -/
def execSafeTierPathLoss (s : State) : Res :=
  match s.plant.ckpt with
  | none => .next s
  | some _ => .next (endCkpt s .mediaFailure)

/-! ## Pulse patterns (R340, R341) -/

/-- A cluster's pulse register changed. -/
def onPulse (s : State) (cl : Nat) (f : Pulse → Pulse) : State :=
  let c := s.cluster cl
  s.setCluster cl { c with pulse := f c.pulse }

/-- The kept pulses of a pattern. -/
def kept (p : BitVec 16) : Nat := ((List.range 16).filter (fun i => p.getLsbD i)).length

/-- The pattern on the way from `p` to `t` with `n` kept pulses: the pulses common to both, then the lowest of `t`. -/
def partWay (p t : BitVec 16) (n : Nat) : BitVec 16 :=
  (List.range 16).foldl (fun q i => if t.getLsbD i && !q.getLsbD i && decide (kept q < n) then q ||| BitVec.ofNat 16 (2 ^ i) else q) (p &&& t)

/-- Whether a cluster's pattern is held by a safeguard against a raise: no refresh of the watchdog since, or its die at trip
1 (R343). -/
def heldDown (s : State) (cl : Nat) : Bool := (s.cluster cl).pulse.safe || s.plant.thermal1.contains (clDie cl)

/-- PULSE_PATTERN_WRITE: frz is taken; a pattern of 0, or a raise that a safeguard holds, is ignored; any other pattern becomes the
target that the next frame boundary takes up. -/
def execPulsePatternWrite (cl : Nat) (v : BitVec 32) (s : State) : Res :=
  if 256 ≤ cl then .next s
  else
    let t := v.extractLsb' 0 16
    let p := (s.cluster cl).pulse
    let take : Bool := decide (t ≠ 0) && !(heldDown s cl && decide (kept p.pat < kept t))
    .next (onPulse s cl (fun x => { x with frz := v.extractLsb' 16 10, target := if take then t else x.target }))

/-- Whether a pattern takes effect whole: one with no more kept pulses, or a safeguard's (R340, R343). -/
def Pulse.whole (p : Pulse) : Bool := decide (kept p.target ≤ kept p.pat) || p.safe

/-- Whether a cluster's pattern takes its next step at this mclk: a frame boundary, and for an added pulse 1 us since the
last. -/
def rampDue (p : Pulse) (now : Nat) : Bool :=
  decide (p.pat ≠ p.target) && decide (now % 16 = 0) && (p.whole || decide (p.rampAt ≤ now))

/-- A pattern after its step at a frame boundary: whole, or with one kept pulse more. -/
def Pulse.ramped (p : Pulse) (now : Nat) : Pulse :=
  if !rampDue p now then p
  else if p.whole then p.setPat now p.target
  else { p.setPat now (partWay p.pat p.target (kept p.pat + 1)) with rampAt := now + 2000 }

/-- PATTERN_RAMP_STEP: the step of a cluster's pattern at a frame boundary. -/
def execPatternRampStep (cl : Nat) (s : State) : Res :=
  if rampDue (s.cluster cl).pulse s.clk.now then .next (onPulse s cl (fun p => p.ramped s.clk.now)) else .next s

/-- DROOP_DETECT: no matrix pass and no L word of opcodes 0x01 to 0x2F for the next frz mclk. -/
def execDroopDetect (cl : Nat) (s : State) : Res :=
  if 256 ≤ cl then .next s else .next (onPulse s cl (fun p => { p with freezeTo := max p.freezeTo (s.clk.now + p.frz.toNat) }))

/-- DROOP_FREEZE_END. -/
def execDroopFreezeEnd (cl : Nat) (s : State) : Res :=
  if (s.cluster cl).pulse.freezeTo ≠ 0 ∧ (s.cluster cl).pulse.freezeTo ≤ s.clk.now then .next (onPulse s cl (fun p => { p with freezeTo := 0 }))
  else .next s

/-! ## Safeguards (R343) -/

/-- Clusters set to 0x5555 by a safeguard: the next frame boundary takes it whole (R340, R343). -/
def throttle (s : State) (l : List Nat) : State :=
  l.foldl (fun t cl => onPulse t cl (fun p => { p with target := 0x5555, safe := true }.ramped s.clk.now)) s

/-- The clusters of a die. -/
def dieClusters (d : Nat) : List Nat := (List.range 32).map (fun i => d * 32 + i)

/-- CURRENT_COMPARATOR_TRIP. -/
def execCurrentComparatorTrip (d : Nat) (s : State) : Res := if d < 8 then .next (throttle s (dieClusters d)) else .next s

/-- THERMAL_TRIP_1. -/
def execThermalTrip1 (d : Nat) (s : State) : Res :=
  if d < 8 then
    let s1 := throttle s (dieClusters d)
    .next { s1 with plant := { s1.plant with thermal1 := setAdd s1.plant.thermal1 d } }
  else .next s

/-- THERMAL_TRIP_1_CLEAR. -/
def execThermalTrip1Clear (d : Nat) (s : State) : Res :=
  .next { s with plant := { s.plant with thermal1 := setDel s.plant.thermal1 d } }

/-- THERMAL_TRIP_2: power is removed. -/
def execThermalTrip2 (d : Nat) (s : State) : Res :=
  if d < 8 then .next { s with plant := { s.plant with powered := false, memrdy := [] } } else .next s

/-- POWER_WATCHDOG_EXPIRE: 10 ms without a refresh revert every cluster, and the power firmware restarts from its image. -/
def execPowerWatchdogExpire (s : State) : Res :=
  if s.plant.watchdog + 20000000 ≤ s.wall then
    let s1 := throttle s (List.range 256)
    .next { s1 with plant := { s1.plant with watchdog := s.wall } }
  else .next s

/-- POWER_WATCHDOG_REFRESH: patterns that a safeguard set may be raised again. -/
def execPowerWatchdogRefresh (s : State) : Res :=
  .next { s with
    clusters := s.clusters.map (fun (c : Nat × Cluster) => (c.1, { c.2 with pulse := { c.2.pulse with safe := false } })),
    plant := { s.plant with watchdog := s.wall } }

/-! ## Resets and power-up (R325, R326, R344, R345) -/

/-- A tenant after its TSI state is cleared: its maps, directory, keys, counters and buffer; its host sees the link down. -/
def Tenant.cleared (t : Tenant) : Tenant :=
  { t with pages := [], side := [], cold := [], dir := [], poison := [], comp := [], wbuf := [], fresh := [], key := none, decs := [],
           active := false, linkUp := false, crashed := true, heldVecs := [], events := [] }

/-- A reset of the TSI island: frames keep their contents, which are ciphertext without a key; device pages and contexts stand. -/
def tsiReset (s : State) : State :=
  let s1 := s.tenants.foldl (fun x t => cipherAll x t.2) s
  { s1 with tenants := s1.tenants.map (fun (t : Nat × Tenant) => (t.1, t.2.cleared)), fl := { s1.fl with snoops := [] } }

/-- Whether any tenant is lent-active (R324). -/
def anyActive (s : State) : Bool := s.tenants.any (fun t => t.2.active)

/-- A lent page that an evacuation has under way out of stack `d` stays where it is (R344). -/
def Tenant.stay (t : Tenant) (gone : Nat → Bool) : Tenant :=
  let back (e : Nat) : Bool := decide (entState e = 3) && !tb e 59 && gone (fld e 56 3)
  { t with
    side := t.side.filter (fun e => !back (t.entry e.1)),
    pages := t.pages.map (fun (e : Nat × BitVec 64) => if back e.2.toNat then (e.1, BitVec.ofNat 64 (setFld e.2.toNat 61 3 1)) else e) }

/-- The machine after a warm reset: memories, mirrors, poison, tenants, settings and link training stand (R344, R325). -/
def warmed (s : State) : State :=
  { s with
    cur := ⟨0, 0⟩, curS := .s,
    fl := { State.reset.fl with seq := s.fl.seq, snoops := s.fl.snoops },
    paths := { s.paths with holds := [], loss := [] },
    units := [], wgs := [], teams := [], grids := [], clusters := [], windows := [], ctxs := [], queues := [], preempts := [],
    channels := [],
    tenants := s.tenants.map (fun (t : Nat × Tenant) => (t.1, t.2.stay (evacuating s))),
    plant := { s.plant with
      dies := s.plant.dies.map (fun d => if d = .evacuating then .on else d), ckpt := none,
      frozen := !s.plant.hotStacks.isEmpty },
    sch := { State.reset.sch with walkAt := s.clk.now + 20000000 } }

/-- The machine after a cold reset: everything at its reset value, with the module's fittings, time, life-cycle state and the
configuration of its tenants (R344, R345). -/
def colded (s : State) : State :=
  { State.reset with
    far := s.far, agenda := s.agenda, free := s.free, clk := { s.clk with holdover := false, src := none },
    plant := { State.reset.plant with life := s.plant.life, watchdog := s.wall, ageAt := s.clk.now + 20000000 },
    sch := { State.reset.sch with walkAt := s.clk.now + 20000000 },
    tenants := s.tenants.map (fun (t : Nat × Tenant) => (t.1, t.2.cleared)) }

/-- A tenant as power-up restores it: every page in state 0, its key unwrapped, its ranges committed, and lent-active (R326). A tenant whose
host has committed none gets one for its whole space (log 45). -/
def Tenant.restored (t : Tenant) : Tenant :=
  { t.cleared with key := t.nvKey, decs := if t.decs.isEmpty then [(0, 0, t.size)] else t.decs, active := true, linkUp := true, crashed := false }

/-- MODULE_POWER_UP: after a removal of power; each tenant is made lent-active, and the `MEMRDY` output of its port asserted (R326). The FED and the memory
controllers are up with it, and the clusters start in turn (R342, log 54). -/
def execModulePowerUp (s : State) : Res :=
  if s.plant.powered then .next s
  else
    let c := colded s
    .next { c with tenants := s.tenants.map (fun (t : Nat × Tenant) => (t.1, t.2.restored)),
                   plant := { c.plant with upAt := some s.wall, memrdy := (s.tenants.map (fun t => t.2.port)).dedup } }

/-- TSI_SUPPLY_CYCLE. -/
def execTsiSupplyCycle (s : State) : Res := .next (tsiReset s)

/-! ## Which events are due -/

/-- The next event of the plant that is due. -/
def plantDue (s : State) : Option Instr :=
  if (match s.plant.ckpt with | some c => pathLost s c | none => false) then some .safeTierPathLoss
  else if s.plant.watchdog + 20000000 ≤ s.wall then some .powerWatchdogExpire
  else if s.plant.ageAt ≤ s.clk.now then some .tsiAgeingPeriod
  else s.clusters.findSome? (fun c =>
    if c.2.pulse.freezeTo ≠ 0 ∧ c.2.pulse.freezeTo ≤ s.clk.now then some (Instr.droopFreezeEnd c.1) else none) <|> dueChan s

end Sys2Proof.Machine
end

