-- ==== Sys2Proof/Machine/Mgmt.lean ====
section
/-! DEFINITION. The management command set (R329 to R331, R339, R352, R361 and the rules of its table), and the trap of a word
that is not an instruction. A command leaves its return code and its output in `State.mgmt`; one that fails changes nothing else. -/

namespace Sys2Proof.Machine

/-! ## Replies and rights (R329) -/

/-- A command's return code and output. -/
def reply (s : State) (rc : Rc) (out : List Nat) : Res := .next { s with mgmt := some { rc := rc, out := out } }

/-- A command that took effect. -/
def ok (s : State) : Res := reply s .success []
/-- Invalid Input: nothing changes. -/
def invalid (s : State) : Res := reply s .invalidInput []
/-- Busy: nothing changes. -/
def busy (s : State) : Res := reply s .busy []

/-- A command of the owner alone (log 25). -/
def ownerOnly (s : State) (by_ : Issuer) (k : Res) : Res :=
  match by_ with
  | .owner => k
  | .tenant _ => reply s .unsupported []

/-- Whether an issuer may name what belongs to tenant `t`, or to none. -/
def may (by_ : Issuer) (t : Option Nat) : Bool :=
  match by_ with
  | .owner => true
  | .tenant x => decide (t = some x)

/-- A command on a context: it exists, is the issuer's, and is not being reset. -/
def onCtx (s : State) (by_ : Issuer) (ctx : Nat) (k : Ctx → Res) : Res :=
  match SMap.look s.ctxs ctx with
  | none => invalid s
  | some c => if !may by_ c.tenant then invalid s else if c.resetting then busy s else k c

/-- A command on a tenant. -/
def onTenant (s : State) (by_ : Issuer) (t : Nat) (k : Tenant → Res) : Res :=
  match SMap.look s.tenants t with
  | none => invalid s
  | some x => if may by_ (some t) then k x else invalid s

/-- A command that takes effect where `b` holds. -/
def okIf (s : State) (b : Bool) (s1 : State) : Res := if b then ok s1 else invalid s

/-- A context replaced. -/
def setCtx (s : State) (ctx : Nat) (c : Ctx) : State := { s with ctxs := SMap.put s.ctxs ctx c }

/-! ## Tenants (R310 to R315, R321, R323, R324) -/

/-- Bytes of HBM4 in service and of the far tier. -/
def capacity (s : State) : Nat :=
  ((List.range 8).filter (fun d => decide (s.plant.dies.getD d .off ≠ .off))).length * Config.stackBytes
    + (if s.far then Config.farBytes else 0)

/-- The bytes that the runs of a list take together. -/
def unionLen (l : List Extent) : Nat :=
  let key (e : Extent) : Nat := (if e.far then 2 ^ 60 else e.stack * 2 ^ 50) + e.at_
  ((sortBy (fun a b => decide (key a ≤ key b)) l).foldl (fun (acc : Nat × Nat) e =>
    (acc.1 + (key e + e.len - max acc.2 (key e)), max acc.2 (key e + e.len))) (0, 0)).1

/-- Bytes lent to tenants. -/
def lentTotal (s : State) : Nat := (s.tenants.map (fun t => t.2.size)).sum

/-- TENANT_CREATE: the full lent size is reserved beside what is lent and what device pages take. -/
def execTenantCreate (by_ : Issuer) (t size queues port : Nat) (s : State) : Res :=
  ownerOnly s by_ (
    let x : Tenant := { size := size, queues := queues, port := port, pages := [], side := [], cold := [], dir := [], poison := [],
                        comp := [], wbuf := [], fresh := [], key := none, nvKey := none, decs := [], active := false, linkUp := true,
                        crashed := false, heldVecs := [], events := [] }
    okIf s (decide (t < 16) && (SMap.look s.tenants t).isNone && decide (0 < size) && decide (size % 2 ^ 28 = 0) &&
        decide (size ≤ 2 ^ 41) && decide (port < 4) && decide ((s.tenants.map (fun e => e.2.queues)).sum + queues ≤ 65536) &&
        decide (lentTotal s + unionLen (devExtents s) + size ≤ capacity s))
      (s.setTenant t x))

/-- A queue removed; its grids run on without it. -/
def dropQueue (s : State) (q : Nat) : State :=
  { s with queues := SMap.del s.queues q,
           grids := s.grids.map (fun (g : Nat × Grid) => if g.2.queue = some q then (g.1, { g.2 with queue := none }) else g) }

/-- A context destroyed with everything of its own: its windows are cleared (R330) and its clusters open again (R331). -/
def destroyCtx (s : State) (ctx : Nat) : State :=
  let s1 := resetCtx s ctx
  { s1 with
    ctxs := SMap.del s1.ctxs ctx,
    windows := s1.windows.filter (fun w => decide (w.2.ctx ≠ ctx)),
    queues := s1.queues.filter (fun q => decide (q.2.desc.ctx ≠ ctx)),
    channels := s1.channels.filter (fun c => decide (c.2.desc.ctx ≠ ctx)),
    preempts := s1.preempts.filter (fun r => decide (r.ctx ≠ ctx)),
    fl := { s1.fl with tlb := s1.fl.tlb.filter (fun x => decide (x.ctx ≠ ctx)), nodes := s1.fl.nodes.filter (fun x => decide (x.ctx ≠ ctx)), walks := s1.fl.walks.filter (fun x => decide (x.ctx ≠ ctx)),
                       invals := s1.fl.invals.filter (fun x => decide (x.ctx ≠ ctx)) } }

/-- A tenant withdrawn: its contexts, queues and key go, and its frames are released as ciphertext. -/
def dropTenant (s0 : State) (t : Nat) : State :=
  let s := match SMap.look s0.tenants t with | some x => cipherAll s0 x | none => s0
  let cs := (s.ctxs.filter (fun c => decide (c.2.tenant = some t))).map (fun c => c.1)
  let s1 := cs.foldl destroyCtx s
  let qs := (s1.queues.filter (fun q => decide (q.2.desc.tenant = some t))).map (fun q => q.1)
  let s2 := qs.foldl dropQueue s1
  { s2 with tenants := SMap.del s2.tenants t,
            channels := s2.channels.filter (fun c => match c.2.desc.window with | some w => decide (w.1 ≠ t) | none => true),
            fl := { s2.fl with snoops := s2.fl.snoops.filter (fun x => decide (x.tenant ≠ t)) } }

/-- TENANT_WITHDRAW: refused while a decoder is committed, unless forced; a forced one first poisons the host-held lines. -/
def execTenantWithdraw (by_ : Issuer) (t : Nat) (force : Bool) (s : State) : Res :=
  ownerOnly s by_ (onTenant s by_ t (fun x =>
    if x.decs.isEmpty then ok (dropTenant s t)
    else if force then ok (dropTenant (hostCrash s t) t)
    else invalid s))

/-- A tenant under another key pair: what was written under the old one deciphers to free bytes (R314, log 9). -/
def rekey (s : State) (t : Nat) (x : Tenant) (key : Nat) : State :=
  let s1 := if x.pages.isEmpty then s else cipherAll { s with free := s.free + 1 } x
  let comp := (x.pages.filter (fun e => decide (entState e.2.toNat = 2))).foldl (fun m e =>
    writeAll m (bytesAt (e.1 * 4096) ((List.range 4096).map (Config.staleByte s.free)))) x.comp
  s1.setTenant t { x with key := some key, nvKey := some key, comp := comp }

/-- LOAD_KEY: the key pair that the wrapped key unwraps to, kept with the tenant's configuration; Invalid Input where the unwrap fails its
integrity check (R314, R326, log 83). -/
def execLoadKey (by_ : Issuer) (t wrapped : Nat) (s : State) : Res :=
  ownerOnly s by_ (onTenant s by_ t (fun x => match Config.keyUnwrap wrapped with
    | none => invalid s
    | some key => if x.key = some key then ok (s.setTenant t { x with nvKey := some key }) else ok (rekey s t x key)))

/-- Tenant pages from `first` to `last` with their mark set or cleared. -/
def markPages (x : Tenant) (first n : Nat) (mark : Bool) : Tenant :=
  match n with
  | 0 => x
  | k + 1 => markPages (x.setEntry first (setFld (x.entry first) 60 1 (if mark then 1 else 0))) (first + 1) k mark

/-- SET_SYSAT_MARK. -/
def execSetSysatMark (by_ : Issuer) (t first last : Nat) (mark : Bool) (s : State) : Res :=
  onTenant s by_ t (fun x =>
    okIf s (decide (first ≤ last) && decide (last * 4096 < x.size)) (s.setTenant t (markPages x first (last - first + 1) mark)))

/-- READ_TENANT_MAP. -/
def execReadTenantMap (by_ : Issuer) (t first count : Nat) (s : State) : Res :=
  onTenant s by_ t (fun x =>
    if (first + count) * 4096 ≤ x.size then reply s .success ((List.range count).map (fun i => x.entry (first + i))) else invalid s)

/-- SET_AGEING: the period in us, from 1 ms to 10 s, and the thresholds. -/
def execSetAgeing (by_ : Issuer) (periodUs hot cold : Nat) (s : State) : Res :=
  ownerOnly s by_ (okIf s (decide (1000 ≤ periodUs) && decide (periodUs ≤ 10000000) && decide (hot ≤ 255) && decide (cold ≤ 255))
    { s with set := { s.set with agePeriodUs := periodUs, hot := hot, cold := cold } })

/-- DECLARE_HOST_CRASHED. -/
def execDeclareHostCrashed (by_ : Issuer) (t : Nat) (s : State) : Res :=
  ownerOnly s by_ (onTenant s by_ t (fun _ => ok (hostCrash s t)))

/-! ## Contexts and translation (R245, R250, R310, R320) -/

/-- A context at its creation. -/
def newCtx (tenant : Option Nat) : Ctx :=
  { tenant := tenant, root := 0, tls := [], lists := [], groups := [], handler := none, saveOff := none, shadows := [],
    log := none, lost := 0, evictDva := none, tsOn := false, tsStart := 0, stamps := [], raceLog := [], debug := false,
    kids := [[], [], [], []], nextGrid := 0, maps := [], resetting := false }

/-- CONTEXT_CREATE. -/
def execContextCreate (by_ : Issuer) (ctx : Nat) (tenant : Option Nat) (s : State) : Res :=
  let there : Bool := match tenant with | some t => (SMap.look s.tenants t).isSome | none => true
  match SMap.look s.ctxs ctx with
  | some c => if may by_ c.tenant && c.resetting then busy s else invalid s
  | none => okIf s (decide (ctx < 256) && may by_ tenant && there) (setCtx s ctx (newCtx tenant))

/-- CONTEXT_DESTROY. -/
def execContextDestroy (by_ : Issuer) (ctx : Nat) (s : State) : Res := onCtx s by_ ctx (fun _ => ok (destroyCtx s ctx))

/-- Whether a root pointer keeps the limits of R245. -/
def rootOk (s : State) (r : BitVec 64) : Bool :=
  let e := pteOf r.toNat
  e.valid && !e.leaf && decide (e.size = 0) && !e.rsv && decide (e.frame % 8 = 0) && (tableAt s e 32768).isSome

/-- SET_PAGE_TABLE_ROOT. -/
def execSetPageTableRoot (by_ : Issuer) (ctx : Nat) (root : BitVec 64) (s : State) : Res :=
  onCtx s by_ ctx (fun c => okIf s (rootOk s root) (setCtx s ctx { c with root := root }))

/-- INVALIDATE_RANGE: the invalidation begins; it completes later (R250). -/
def execInvalidateRange (by_ : Issuer) (ctx first last : Nat) (s : State) : Res :=
  onCtx s by_ ctx (fun _ => okIf s (decide (first ≤ last) && decide (last < 2 ^ 56)) (beginInval s ctx first last none))

/-- MAP_LENT_RANGE: a range of the bound tenant's addresses at a range of DVAs. -/
def execMapLentRange (by_ : Issuer) (ctx dva addr len : Nat) (wr : Bool) (s : State) : Res :=
  onCtx s by_ ctx (fun c =>
    let size := match c.tenant.bind (fun t => SMap.look s.tenants t) with | some t => t.size | none => 0
    okIf s (decide (dva % 4096 = 0) && decide (addr % 4096 = 0) && decide (len % 4096 = 0) && decide (0 < len) &&
        decide (dva + len ≤ 2 ^ 56) && decide (addr + len ≤ size))
      (setCtx s ctx { c with maps := (dva, addr, len, wr) :: c.maps }))

/-! ## Queues (R253, R254, R321) -/

/-- The lowest index of a tenant that no queue of it takes, or 0 for a queue bound to none. -/
def freeIndex (s : State) (tenant : Option Nat) : Option Nat :=
  match tenant with
  | none => some 0
  | some t => match SMap.look s.tenants t with
    | none => none
    | some x => (List.range x.queues).find? (fun i => !s.queues.any (fun q => decide (q.2.desc.tenant = some t) && decide (q.2.tidx = i)))

/-- Whether one window of a context admits a doorbell block for read and write. -/
def bellOk (s : State) (ctx g : Nat) : Bool :=
  decide (g % 64 = 0) && decide (g < 2 ^ 32) && s.windows.any (fun w => decide (w.1 / 16 = gsaCore g) &&
    w.2.admits ctx (g % 2 ^ 22) 64 0 && w.2.admits ctx (g % 2 ^ 22) 64 1)

/-- Whether a descriptor keeps the limits of R253, R254 and R321. -/
def descOk (s : State) (d : QueueDesc) : Bool :=
  let size := match d.tenant.bind (fun t => SMap.look s.tenants t) with | some t => t.size | none => 0
  decide (4 ≤ d.k) && decide (d.k ≤ 16) && decide (d.ring % 64 = 0) && decide (d.vector < 2048)
    && (if d.ringDva then decide (d.ring + 2 ^ d.k * 64 ≤ 2 ^ 56) else d.tenant.isSome && decide (d.ring + 2 ^ d.k * 64 ≤ size))
    && (match d.tenant with | some t => (SMap.look s.tenants t).isSome | none => bellOk s d.ctx d.bell)
    && (match d.ctr with | some a => d.tenant.isSome && decide (a % 8 = 0) && decide (a + 8 ≤ size) | none => true)

/-- QUEUE_CREATE: a new queue, whose index within its tenant is returned; the same command on a queue that stands as it names clears
`qstat`.rst, and for a queue bound to no tenant also err and ovf (R254, R272). -/
def execQueueCreate (by_ : Issuer) (q : Nat) (desc : QueueDesc) (s : State) : Res :=
  onCtx s by_ desc.ctx (fun c =>
    let rights : Bool := may by_ c.tenant && (match desc.tenant with | some t => may by_ (some t) | none => true)
    match SMap.look s.queues q with
    | some h =>
      if rights ∧ h.desc = desc then
        let h1 := { h with stat := h.stat &&& ~~~4 }
        reply (setQueue s q (if desc.tenant.isNone then h1.clearStat 3 else h1)) .success [h.tidx]
      else invalid s
    | none => match freeIndex s desc.tenant with
      | none => invalid s
      | some i =>
        if rights ∧ q < 65536 ∧ descOk s desc then
          reply (setQueue s q { desc := desc, tidx := i, head := 0, tail := 0, stat := 0, enqs := [] }) .success [i]
        else invalid s)

/-- QUEUE_DESTROY. -/
def execQueueDestroy (by_ : Issuer) (q : Nat) (s : State) : Res :=
  match SMap.look s.queues q with
  | none => invalid s
  | some h => onCtx s by_ h.desc.ctx (fun _ => ok (dropQueue s q))

/-! ## Objects of a context (R155, R156, R172, R175, R270, R275, R285, R288) -/

/-- ALLOCATE_TIMELINES: at value 0. -/
def execAllocateTimelines (by_ : Issuer) (ctx first count : Nat) (engine : Bool) (s : State) : Res :=
  onCtx s by_ ctx (fun c =>
    let ns := (List.range count).map (fun i => first + i)
    let t : Timeline := { owner := if engine then .engine else .software, val := 0 }
    okIf s (decide (0 < count) && decide (first + count ≤ 4096) && ns.all (fun n => (SMap.look c.tls n).isNone))
      (setCtx s ctx { c with tls := ns.foldl (fun m n => SMap.put m n t) c.tls }))

/-- CREATE_WORK_LIST. -/
def execCreateWorkList (by_ : Issuer) (ctx list base k die : Nat) (wide : Bool) (s : State) : Res :=
  onCtx s by_ ctx (fun c =>
    let n := if wide then 8 else 4
    let w : WorkList := { base := base, k := k, wide := wide, die := die, head := 0, tail := 0, waiters := [] }
    okIf s (decide (list < 4096) && (SMap.look c.lists list).isNone && decide (die < 8) && decide (base < 2 ^ 32) &&
        decide (base % n = 0) && decide (base % 2 ^ 22 + 2 ^ k * n ≤ Config.sliceBytes))
      (setCtx s ctx { c with lists := SMap.put c.lists list w }))

/-- DEFINE_COLLECTIVE_GROUP: the member devices in rank order. -/
def execDefineCollectiveGroup (by_ : Issuer) (ctx group : Nat) (members : List Nat) (s : State) : Res :=
  onCtx s by_ ctx (fun c =>
    okIf s (decide (group < 65536) && !members.isEmpty && members.all (fun m => decide (m < 2 ^ 18)))
      (setCtx s ctx { c with groups := SMap.put c.groups group members }))

/-- SET_SUPERVISOR_HANDLER: both images follow R9. -/
def execSetSupervisorHandler (by_ : Issuer) (ctx : Nat) (h : Handler) (s : State) : Res :=
  onCtx s by_ ctx (fun c =>
    okIf s (!imageBad h.sbase h.slen 4 4 && !imageBad h.lbase h.llen 12 16 && decide (h.entry < h.slen))
      (setCtx s ctx { c with handler := some h }))

/-- SET_TRAP_SAVE_AREA: 33 KiB of every slice. -/
def execSetTrapSaveArea (by_ : Issuer) (ctx off : Nat) (s : State) : Res :=
  onCtx s by_ ctx (fun c =>
    okIf s (decide (off + 33792 ≤ Config.sliceBytes)) (setCtx s ctx { c with saveOff := some off }))

/-- SET_SHADOW_AREA: a run of one core's slice. -/
def execSetShadowArea (by_ : Issuer) (ctx core off size : Nat) (s : State) : Res :=
  onCtx s by_ ctx (fun c =>
    okIf s (decide (core < 1024) && decide (0 < size) && decide (off % 128 = 0) && decide (off + size ≤ Config.sliceBytes))
      (setCtx s ctx { c with shadows := SMap.put c.shadows core { off := off, size := size } }))

/-- SET_FAULT_LOG: a ring of 2^k records. -/
def execSetFaultLog (by_ : Issuer) (ctx dva k : Nat) (s : State) : Res :=
  onCtx s by_ ctx (fun c =>
    okIf s (decide (6 ≤ k) && decide (k ≤ 16) && decide (dva + 2 ^ k * 64 ≤ 2 ^ 56))
      (setCtx s ctx { c with log := some { dva := dva, k := k, seq := 0 } }))

/-- SET_EVICTION_SAVE_AREA. -/
def execSetEvictionSaveArea (by_ : Issuer) (ctx dva : Nat) (s : State) : Res :=
  onCtx s by_ ctx (fun c => okIf s (decide (dva < 2 ^ 56)) (setCtx s ctx { c with evictDva := some dva }))

/-- TOUCHSTONE_ENABLE: modes 0 off, 1 log, 2 trap. -/
def execTouchstoneEnable (by_ : Issuer) (ctx mode : Nat) (s : State) : Res :=
  onCtx s by_ ctx (fun c => okIf s (decide (mode ≤ 2)) (setCtx s ctx { c with tsOn := true, tsStart := mode }))

/-! ## Debug (R103, R287, R352, R361) -/

/-- DEBUG_ATTACH. -/
def execDebugAttach (by_ : Issuer) (ctx : Nat) (s : State) : Res :=
  onCtx s by_ ctx (fun c => ok (setCtx s ctx { c with debug := true }))

/-- Acknowledgements that an injection takes, no longer taken (R352). -/
def dropLoss (s : State) : State :=
  { s with fl := { s.fl with stores := s.fl.stores.map (fun (p : PStore) => { p with lostAck := false }) }, paths := { s.paths with loss := [] } }

/-- DEBUG_DETACH: the context's stopped warps run on (log 27), and with it holds and injections end. -/
def execDebugDetach (by_ : Issuer) (ctx : Nat) (s : State) : Res :=
  onCtx s by_ ctx (fun c =>
    let s0 := setCtx s ctx { c with debug := false }
    let s1 := sendOut (dropLoss { s0 with paths := { s0.paths with holds := [] } })
    ok { s1 with
      units := s1.units.map (fun (u : Nat × Unit) => if u.2.who.ctx = ctx then (u.1, { u.2 with stopped := false }) else u) })

/-- DEBUG_RESUME: a stopped warp goes on at its recorded indices, with its replicas (R287, R305). -/
def execDebugResume (u : UnitId) (s : State) : Res :=
  match s.unit? u with
  | none => .next s
  | some v => .next ((replicas s v).foldl (fun t x => { t with units := SMap.upd t.units (ukey x.id) (fun y => { y with stopped := false }) }) s)

/-- A debug sub-command: the context is debug-attached. -/
def onDebug (s : State) (by_ : Issuer) (ctx : Nat) (k : Res) : Res := onCtx s by_ ctx (fun c => if c.debug then k else invalid s)

/-- AQUEDUCT_HOLD. -/
def execAqueductHold (by_ : Issuer) (ctx a b : Nat) (s : State) : Res :=
  onDebug s by_ ctx (okIf s (decide (a < 8) && decide (b < 8))
    { s with paths := { s.paths with holds := if s.paths.holds.contains (a, b) then s.paths.holds else (a, b) :: s.paths.holds } })

/-- AQUEDUCT_UNHOLD. -/
def execAqueductUnhold (by_ : Issuer) (ctx a b : Nat) (s : State) : Res :=
  onDebug s by_ ctx (okIf s (decide (a < 8) && decide (b < 8))
    (sendOut { s with paths := { s.paths with holds := s.paths.holds.filter (fun h => decide (h ≠ (a, b))) } }))

/-- INJECT_ACKLOSS. -/
def execInjectAckloss (by_ : Issuer) (ctx die sector : Nat) (s : State) : Res :=
  onDebug s by_ ctx (okIf s (decide (die < 8) && decide (sector < 2 ^ 27))
    { s with paths := { s.paths with loss := s.paths.loss ++ [(die, sector)] } })

/-- Whether a register and a bit of it exist. -/
def flipOk (r : FlipReg) (bit : Nat) : Bool :=
  match r with
  | .s n => decide (n < 64) && decide (bit < 64)
  | .v n l => decide (n < 128) && decide (l < 32) && decide (bit < 32)
  | .p n => decide (n < 8) && decide (bit < 1)
  | .q n => decide (n < 8) && decide (bit < 32)

/-- The place of a register's bit in a pending result, where the register is pending. -/
def Pend.covers (p : Pend) (r : FlipReg) (bit : Nat) : Option (Nat × Nat) :=
  match r, p.dst with
  | .s n, .s d => if d.toNat = n ∧ !p.saved then some (0, bit) else none
  | .v n l, .v d k => if d ≤ n ∧ n < d + k then some (l, (n - d) * 32 + bit) else none
  | _, _ => none

/-- A bit of a register inverted, at once or when its pending bit clears. -/
def Unit.flip (u : Unit) (r : FlipReg) (bit : Nat) : Unit :=
  match u.pend.find? (fun p => (p.covers r bit).isSome) with
  | some x => { u with pend := u.pend.map (fun (p : Pend) => if p.id = x.id then { p with flip := p.flip ++ (p.covers r bit).toList } else p) }
  | none => match r with
    | .s n => u.flipS (BitVec.ofNat 6 n) bit
    | .v n l => u.flipV n l bit
    | .p n => u.wp (BitVec.ofNat 3 n) (!u.rp (BitVec.ofNat 3 n))
    | .q n => if n = 0 then u
        else { u with lS := { u.lS with q := SMap.set 0 u.lS.q n (u.rq (BitVec.ofNat 3 n) ^^^ BitVec.ofNat 32 (2 ^ bit)) } }

/-- REPLICA_FLIP; Busy while the replica has still to execute a word whose compare has agreed (DEDUCED, log 53). -/
def execReplicaFlip (by_ : Issuer) (ctx : Nat) (u : UnitId) (r : FlipReg) (bit : Nat) (s : State) : Res :=
  onDebug s by_ ctx (match s.unit? u with
    | none => invalid s
    | some v =>
      let good := decide (v.who.ctx = ctx) && v.stopped && flipOk r bit
      if good && v.owesWord then busy s else okIf s good (s.setUnit (v.flip r bit)))

/-! ## Reset, poison, windows, pre-emption (R233, R268, R272, R330, R331, R363) -/

/-- RESET_CONTEXT. -/
def execResetContext (by_ : Issuer) (ctx : Nat) (s : State) : Res := onCtx s by_ ctx (fun _ => ok (resetWith s ctx 1))

/-- Whether a page of the context holds a byte of DRAM. -/
def pageHolds (s : State) (ctx : Nat) (p : Phys) : Bool := (tablesOf s ctx).leaves.any (fun l => (pageOff (pteOf l.2.toNat) p).isSome)

/-- Whether an issuer may clear poison at a place for a context: the owner anywhere, a tenant where the context has a window or a page. -/
def clearOk (s : State) (by_ : Issuer) (ctx : Nat) (e : ErrAt) : Bool :=
  match by_ with
  | .owner => true
  | .tenant _ => match e with
    | .home k => s.windows.any (fun w => decide (w.1 / 16 = gsaCore (k * 32)) && decide (w.2.ctx = ctx) &&
        decide (w.2.base * 4096 ≤ k * 32 % 2 ^ 22) && decide (k * 32 % 2 ^ 22 + 32 ≤ (w.2.limit + 1) * 4096))
    | .hbm g => pageHolds s ctx (.hbm (g * 32))
    | .far g => pageHolds s ctx (.far (g * 64))
    | _ => false

/-- CLEAR_POISON: a poisoned sector of global SRAM, or a poisoned granule of DRAM, becomes zero and sound. -/
def execClearPoison (by_ : Issuer) (ctx : Nat) (e : ErrAt) (s : State) : Res :=
  onCtx s by_ ctx (fun _ =>
    if !clearOk s by_ ctx e then invalid s
    else match e with
      | .home k => okIf s (s.mem.badHome.contains k || s.mem.badMir.any (fun m => decide (m % 2 ^ 27 = k)))
          (clearBad (writeHome s (bytesAt (k * 32) (List.replicate 32 0))) k)
      | .hbm g => okIf s (s.mem.badHbm.contains g) (writeDram s (.hbm (g * 32)) (List.replicate 32 0))
      | .far g => okIf s (s.mem.badFar.contains g) (writeDram s (.far (g * 64)) (List.replicate 64 0))
      | _ => invalid s)

/-- The runs of a slice that no window may cover: pads, cluster buffers, shadow areas. -/
def guarded (s : State) (core : Nat) : List (Nat × Nat) :=
  s.ctxs.filterMap (fun c => (SMap.look c.2.shadows core).map (fun a => (a.off, a.off + a.size)))
    ++ (s.wgs.filter (fun w => decide (w.2.core = core))).map (fun w => (w.2.padBase, w.2.padBase + w.2.padP))
    ++ jobPads s core
    ++ ((s.cluster (clusterOf core)).handles.filter (fun h => decide (gsaCore h.2.base = core))).map (fun h =>
        (h.2.base % 2 ^ 22, h.2.base % 2 ^ 22 + h.2.size))

/-- Whether an issuer may touch a window entry as it stands. -/
def entryMine (s : State) (by_ : Issuer) (core idx : Nat) : Bool :=
  match SMap.look s.windows (winKey core idx) with
  | none => true
  | some w => match SMap.look s.ctxs w.ctx with
    | some c => may by_ c.tenant
    | none => true

/-- The GSAs at which the operands of a matrix word begin. -/
def MKind.bases (k : MKind) : List Nat :=
  let of (o : Option (Word × Word)) : List Nat := o.toList.map (fun p => (descOf p.1 p.2).base)
  match k with
  | .mma _ a b _ _ _ => of a ++ of b
  | .mdrn _ d _ _ => of d
  | .mspl _ d0 d1 g _ => [(descOf d0 d1).base, g]
  | .mrowMig g _ => [g]
  | .mrowReg g => [g]
  | .mage g _ _ => [g]
  | .msl _ src _ => [src]
  | _ => []

/-- Whether an access that a window entry admitted is outstanding: a load that has not bound, an atomic that has not been performed, a store
that is held for a compare or is not visible, in its range, or a queued matrix word with an operand in its slice (R330). -/
def entryOpen (s : State) (core idx : Nat) : Bool :=
  match SMap.look s.windows (winKey core idx) with
  | none => false
  | some w =>
    let in_ (a : Nat) : Bool := decide (gsaCore a = core) && decide (w.base * 4096 ≤ a % 2 ^ 22) && decide (a % 2 ^ 22 < (w.limit + 1) * 4096)
    s.units.any (fun u => decide (u.2.who.ctx = w.ctx) && u.2.pend.any (fun p => p.unbound && (match p.what with
        | .ldg l _ _ => l.any (fun e => in_ e.2)
        | _ => false)))
      || s.units.any (fun u => decide (u.2.who.ctx = w.ctx) && u.2.assay.held.any (fun h => h.data.any (fun b => in_ b.1)))
      || s.clusters.any (fun c => decide (matrixCtx s c.1 = w.ctx) && c.2.engine.queue.any (fun x => x.kind.bases.any (fun a => decide (gsaCore a = core))))
      || s.fl.atoms.any (fun x => x.accs.any (fun e => in_ e.addr)) || s.fl.stores.any (fun x => in_ (x.sector * 32))

/-- SET_WINDOW_ENTRY (R330): it takes effect and returns when every access checked against the old entry has completed; until then it stands, and
is taken when its turn comes again (log 51). -/
def execSetWindowEntry (by_ : Issuer) (w : WinSet) (s : State) : Res :=
  onCtx s by_ w.ctx (fun _ =>
    if !(decide (w.core < 1024) && decide (w.idx < 16) && decide (w.base ≤ w.limit) && decide (w.limit ≤ 767) && entryMine s by_ w.core w.idx) then
      invalid s
    else if (guarded s w.core).any (fun r => decide (r.1 < (w.limit + 1) * 4096) && decide (w.base * 4096 < r.2)) then busy s
    else if entryOpen s w.core w.idx then .next s
    else
      let e : Window := { ctx := w.ctx, base := w.base, limit := w.limit, rd := w.rd, wr := w.wr, at_ := w.at_ }
      ok { s with windows := SMap.put s.windows (winKey w.core w.idx) e })

/-- CLEAR_WINDOW_ENTRY, which waits as a set does. -/
def execClearWindowEntry (by_ : Issuer) (core idx : Nat) (s : State) : Res :=
  match SMap.look s.windows (winKey core idx) with
  | none => if core < 1024 ∧ idx < 16 then ok s else invalid s
  | some w =>
    if core < 1024 ∧ idx < 16 then onCtx s by_ w.ctx (fun _ =>
      if entryOpen s core idx then .next s else ok { s with windows := SMap.del s.windows (winKey core idx) })
    else invalid s

/-- The clusters of a mask; a mask of 0 names those on which the context has resident workgroups (R331). -/
def maskClusters (s : State) (ctx : Nat) (mask : BitVec 256) : List Nat :=
  if mask = 0 then (List.range 256).filter (fun cl => s.wgs.any (fun w => gridOf s ctx w.2.grid && decide (clusterOf w.2.core = cl)))
  else (List.range 256).filter (fun i => mask.getLsbD i)

/-- REQUEST_PREEMPTION: a background command. -/
def execRequestPreemption (by_ : Issuer) (ctx : Nat) (mask : BitVec 256) (s : State) : Res :=
  ownerOnly s by_ (onCtx s by_ ctx (fun _ =>
    let cls := maskClusters s ctx mask
    if s.preempts.any (fun r => r.running && r.clusters.any (fun c => cls.contains c)) then busy s
    else reply (addPreempt s ctx cls none) .background []))

/-- RELEASE_PREEMPTION: the clusters are open to the context again. -/
def execReleasePreemption (by_ : Issuer) (ctx : Nat) (s : State) : Res :=
  ownerOnly s by_ (onCtx s by_ ctx (fun _ =>
    ok { s with preempts := s.preempts.filter (fun r => !(decide (r.ctx = ctx) && r.for_.isNone)) }))

/-! ## Settings (R242, R263, R268, R270, R295) -/

/-- A setting of the owner within its limits. -/
def setting (s : State) (by_ : Issuer) (b : Bool) (f : Settings → Settings) : Res := ownerOnly s by_ (okIf s b { s with set := f s.set })

/-- SET_CORE_BUDGET: 16 to 512. -/
def execSetCoreBudget (by_ : Issuer) (v : Nat) (s : State) : Res :=
  setting s by_ (decide (16 ≤ v) && decide (v ≤ 512)) (fun x => { x with budget := v })

/-- SET_PREEMPT_TIMEOUT: in us, 10 us to 10 ms. -/
def execSetPreemptTimeout (by_ : Issuer) (v : Nat) (s : State) : Res :=
  setting s by_ (decide (10 ≤ v) && decide (v ≤ 10000)) (fun x => { x with preempt := usMclk v })

/-- SET_EVICTION_THRESHOLD: in us, 10 us to 100 ms, or 0 for off. -/
def execSetEvictionThreshold (by_ : Issuer) (v : Nat) (s : State) : Res :=
  setting s by_ (decide (v = 0) || (decide (10 ≤ v) && decide (v ≤ 100000))) (fun x => { x with evict := usMclk v })

/-- SET_COMPARE_TIMEOUT: in us, 100 us to 100 ms. -/
def execSetCompareTimeout (by_ : Issuer) (v : Nat) (s : State) : Res :=
  setting s by_ (decide (100 ≤ v) && decide (v ≤ 100000)) (fun x => { x with compare := usMclk v })

/-- SET_ACTIVATION_LEVEL: 16 to 256 in steps of 16. -/
def execSetActivationLevel (by_ : Issuer) (v : Nat) (s : State) : Res :=
  setting s by_ (decide (16 ≤ v) && decide (v ≤ 256) && decide (v % 16 = 0)) (fun x => { x with level := v })

/-! ## Dies, time, channels (R251, R327, R328) -/

/-- The lent pages whose data lie in stack `d` put under way to another place (R251). -/
def evacLent (s : State) (d : Nat) : State :=
  s.tenants.foldl (fun t x => x.2.pages.foldl (fun u e => evacPage u d x.1 e.1) t) s

/-- TAKE_DIE_OFFLINE: evacuation of the die begins; Busy during a checkpoint (R339). -/
def execTakeDieOffline (by_ : Issuer) (die : Nat) (s : State) : Res :=
  ownerOnly s by_ (
    if s.plant.ckpt.isSome then busy s
    else okIf s (decide (die < 8) && dieOn s die)
      (evacLent { s with plant := { s.plant with dies := s.plant.dies.set die .evacuating } } die))

/-- SELECT_TIME_SOURCE. -/
def execSelectTimeSource (by_ : Issuer) (src : TimeSource) (s : State) : Res :=
  ownerOnly s by_ (okIf s (match src with | .fabric p => decide (p < 16) | .ptm p => decide (p < 4))
    { s with clk := { s.clk with src := some src } })

/-- Whether a channel's descriptor keeps the limits of R328. -/
def chanOk (s : State) (d : ChanDesc) : Bool :=
  let fits (a n : Nat) : Bool := decide (a < 2 ^ 32) && decide (a % 2 ^ 22 + n ≤ Config.sliceBytes)
  decide (6 ≤ d.k) && decide (d.k ≤ 16) && decide (d.ring % 64 = 0) && decide (d.cidx % 8 = 0) && decide (d.tl < 4096)
    && (if d.ringDva then decide (d.ring + 2 ^ d.k * 64 ≤ 2 ^ 56) else fits d.ring (2 ^ d.k * 64))
    && (if d.cDva then decide (d.cidx + 8 ≤ 2 ^ 56) else fits d.cidx 8)
    && (match d.window with | some (t, w) => (SMap.look s.tenants t).isSome && decide (w < 8) | none => true)

/-- Whether a timeline can become a channel's: its number is not allocated, or is allocated to engines and still at 0 (log 24). -/
def chanTl (c : Ctx) (n : Nat) : Bool :=
  match SMap.look c.tls n with
  | none => true
  | some t => decide (t.owner = .engine) && decide (t.val = 0)

/-- CREATE_INGRESS_CHANNEL: the consumer index holds 0, and the channel owns its timeline. -/
def execCreateIngressChannel (by_ : Issuer) (ch : Nat) (desc : ChanDesc) (s : State) : Res :=
  ownerOnly s by_ (onCtx s by_ desc.ctx (fun c =>
    let zero := List.replicate 8 (0 : Byte)
    let s1 := setCtx s desc.ctx { c with tls := SMap.put c.tls desc.tl { owner := .channel, val := 0 } }
    let s2 := if desc.cDva then writeDva s1 desc.ctx desc.cidx zero else writeHome s1 (bytesAt desc.cidx zero)
    okIf s ((SMap.look s.channels ch).isNone && chanTl c desc.tl && chanOk s desc)
      { s2 with channels := SMap.put s2.channels ch { inq := [], desc := desc, w := 0, seq := 0, dropped := 0, gap := false } }))

/-- INGRESS_CHANNEL_STATUS: the count of dropped records. -/
def execIngressChannelStatus (by_ : Issuer) (ch : Nat) (s : State) : Res :=
  ownerOnly s by_ (match SMap.look s.channels ch with
    | none => invalid s
    | some c => reply s .success [c.dropped])

/-! ## Checkpoint, resets, life cycle (R325, R337, R339, R344, R345) -/

/-- CHECKPOINT: every context freezes, and the stream begins as a background command. -/
def execCheckpoint (by_ : Issuer) (tier : SafeTier) (s : State) : Res :=
  ownerOnly s by_ (
    if s.plant.ckpt.isSome then busy s
    else if match tier with | .fabric d => decide (d < 2 ^ 18) | .cxl p => decide (p < 4) then
      reply { s with plant := { s.plant with ckpt := some { tier := tier, blocks := 0, crc := 0, marks := [] }, frozen := true } } .background []
    else invalid s)

/-- WARM_RESET. -/
def execWarmReset (by_ : Issuer) (_force : Bool) (s : State) : Res := ownerOnly s by_ (ok (warmed s))

/-- COLD_RESET: refused while a tenant is lent-active, unless forced. -/
def execColdReset (by_ : Issuer) (force : Bool) (s : State) : Res := ownerOnly s by_ (okIf s (force || !anyActive s) (colded s))

/-- TSI_ISLAND_RESET: refused while a tenant is lent-active, unless forced. -/
def execTsiIslandReset (by_ : Issuer) (force : Bool) (s : State) : Res := ownerOnly s by_ (okIf s (force || !anyActive s) (tsiReset s))

/-- FORCED_RESET: a cold reset whatever tenants are lent-active. -/
def execForcedReset (by_ : Issuer) (s : State) : Res := ownerOnly s by_ (ok (colded s))

/-- The life-cycle state after a state. -/
def nextLife (l : LifeState) : Option LifeState :=
  match l with
  | .manufacturing => some .provisioned
  | .provisioned => some .deployed
  | .deployed => some .returned
  | .returned => none

/-- LIFECYCLE_TRANSITION: the next state in order, with a valid token; everything is wiped, the tenants' configuration with it. -/
def execLifecycleTransition (by_ : Issuer) (next : LifeState) (tokenOk : Bool) (s : State) : Res :=
  ownerOnly s by_ (
    let c := colded s
    okIf s (tokenOk && decide (nextLife s.plant.life = some next)) { c with tenants := [], plant := { c.plant with life := next } })

/-- The opcodes that the table of R329 lists. -/
def listedOps : List Nat :=
  [0xC000, 0xC001, 0xC002, 0xC003, 0xC004, 0xC005, 0xC010, 0xC011, 0xC012, 0xC013, 0xC014, 0xC015, 0xC016, 0xC017, 0xC018,
   0xC019, 0xC01A, 0xC01B, 0xC01C, 0xC01D, 0xC020, 0xC021, 0xC022, 0xC023, 0xC024, 0xC025]

/-- MGMT_UNLISTED_OPCODE. -/
def execMgmtUnlistedOpcode (_by : Issuer) (op : Nat) (s : State) : Res :=
  if 0xC000 ≤ op ∧ op ≤ 0xFFFF ∧ !listedOps.contains op then reply s .unsupported [] else .next s

/-! ## Words that are not instructions (R281) -/

/-- The highest 32 bits of an L word. -/
def rawHigh (w : Nat) : Nat := fld w 64 32

/-- ILLEGAL_INSTRUCTION: the precise trap of the stream at the cursor, with the code and the bit that decoding found. -/
def execIllegalInstruction (code bit word : Nat) (s : State) : Res :=
  withUnit s (fun u =>
    takeTrap s u s.curS code (if s.curS = .s then bit else bit + rawHigh word * 2 ^ 32) (word % 2 ^ 64) 0 false)

end Sys2Proof.Machine
end

