-- ==== Sys2Proof/Machine/Dispatch.lean ====
section
/-! DEFINITION. One arm per instruction: each is one call of its meaning. -/

namespace Sys2Proof.Machine

/-- The meaning of every instruction. -/
def exec (i : Instr) (s : State) : Host.Outcome State Fault Refusal :=
  match i with
  | .add m d a b => Sys2Proof.Machine.execAdd m d a b s
  | .sub m d a b => Sys2Proof.Machine.execSub m d a b s
  | .and m d a b => Sys2Proof.Machine.execAnd m d a b s
  | .or m d a b => Sys2Proof.Machine.execOr m d a b s
  | .xor m d a b => Sys2Proof.Machine.execXor m d a b s
  | .shl m d a b => Sys2Proof.Machine.execShl m d a b s
  | .shr m d a b => Sys2Proof.Machine.execShr m d a b s
  | .sar m d a b => Sys2Proof.Machine.execSar m d a b s
  | .mul m d a b => Sys2Proof.Machine.execMul m d a b s
  | .mulhiU64 m d a b => Sys2Proof.Machine.execMulhiU64 m d a b s
  | .mulhiS64 m d a b => Sys2Proof.Machine.execMulhiS64 m d a b s
  | .minS64 m d a b => Sys2Proof.Machine.execMinS64 m d a b s
  | .minU64 m d a b => Sys2Proof.Machine.execMinU64 m d a b s
  | .maxS64 m d a b => Sys2Proof.Machine.execMaxS64 m d a b s
  | .maxU64 m d a b => Sys2Proof.Machine.execMaxU64 m d a b s
  | .divU64 m d a b => Sys2Proof.Machine.execDivU64 m d a b s
  | .divS64 m d a b => Sys2Proof.Machine.execDivS64 m d a b s
  | .remU64 m d a b => Sys2Proof.Machine.execRemU64 m d a b s
  | .remS64 m d a b => Sys2Proof.Machine.execRemS64 m d a b s
  | .andn m d a b => Sys2Proof.Machine.execAndn m d a b s
  | .orn m d a b => Sys2Proof.Machine.execOrn m d a b s
  | .popc m d a => Sys2Proof.Machine.execPopc m d a s
  | .clz m d a => Sys2Proof.Machine.execClz m d a s
  | .ctz m d a => Sys2Proof.Machine.execCtz m d a s
  | .addImm m d a imm => Sys2Proof.Machine.execAddImm m d a imm s
  | .andImm m d a imm => Sys2Proof.Machine.execAndImm m d a imm s
  | .orImm m d a imm => Sys2Proof.Machine.execOrImm m d a imm s
  | .xorImm m d a imm => Sys2Proof.Machine.execXorImm m d a imm s
  | .shlImm m d a n => Sys2Proof.Machine.execShlImm m d a n s
  | .shrImm m d a n => Sys2Proof.Machine.execShrImm m d a n s
  | .sarImm m d a n => Sys2Proof.Machine.execSarImm m d a n s
  | .mulImm m d a imm => Sys2Proof.Machine.execMulImm m d a imm s
  | .shin m d imm => Sys2Proof.Machine.execShin m d imm s
  | .cmp m p c a b => Sys2Proof.Machine.execCmp m p c a b s
  | .cmpImm m p c a imm => Sys2Proof.Machine.execCmpImm m p c a imm s
  | .pand m p pa na pb nb => Sys2Proof.Machine.execPand m p pa na pb nb s
  | .por m p pa na pb nb => Sys2Proof.Machine.execPor m p pa na pb nb s
  | .pxor m p pa na pb nb => Sys2Proof.Machine.execPxor m p pa na pb nb s
  | .sel m d a b neg p => Sys2Proof.Machine.execSel m d a b neg p s
  | .br m neg p off => Sys2Proof.Machine.execBr m neg p off s
  | .call m neg p off => Sys2Proof.Machine.execCall m neg p off s
  | .jr m a => Sys2Proof.Machine.execJr m a s
  | .callr m a => Sys2Proof.Machine.execCallr m a s
  | .ret m => Sys2Proof.Machine.execRet m s
  | .loop m c off => Sys2Proof.Machine.execLoop m c off s
  | .lk m k a => Sys2Proof.Machine.execLk m k a s
  | .lq m mask entry => Sys2Proof.Machine.execLq m mask entry s
  | .lqw m => Sys2Proof.Machine.execLqw m s
  | .rdmb m d n => Sys2Proof.Machine.execRdmb m d n s
  | .rsr m d n => Sys2Proof.Machine.execRsr m d n s
  | .wsr m n b => Sys2Proof.Machine.execWsr m n b s
  | .ldp m d a ty o sc rb off => Sys2Proof.Machine.execLdp m d a ty o sc rb off s
  | .stp m d a ty o sc ef off => Sys2Proof.Machine.execStp m d a ty o sc ef off s
  | .ldg m d a ty o sc rb off => Sys2Proof.Machine.execLdg m d a ty o sc rb off s
  | .stg m d a ty o sc ef off => Sys2Proof.Machine.execStg m d a ty o sc ef off s
  | .ldh m d a ty o sc rb off => Sys2Proof.Machine.execLdh m d a ty o sc rb off s
  | .sth m d a ty o sc ef off => Sys2Proof.Machine.execSth m d a ty o sc ef off s
  | .atom m d a op w o sc pad => Sys2Proof.Machine.execAtom m d a op w o sc pad s
  | .fence m o sc => Sys2Proof.Machine.execFence m o sc s
  | .barArrive m a o sc => Sys2Proof.Machine.execBarArrive m a o sc s
  | .barWait m o sc => Sys2Proof.Machine.execBarWait m o sc s
  | .nbarArrive m n a o sc => Sys2Proof.Machine.execNbarArrive m n a o sc s
  | .nbarWait m n o sc => Sys2Proof.Machine.execNbarWait m n o sc s
  | .dbarArrive m a o sc => Sys2Proof.Machine.execDbarArrive m a o sc s
  | .dbarWait m o sc => Sys2Proof.Machine.execDbarWait m o sc s
  | .mon m a => Sys2Proof.Machine.execMon m a s
  | .mwait m a => Sys2Proof.Machine.execMwait m a s
  | .monitorTimeout u => Sys2Proof.Machine.execMonitorTimeout u s
  | .hgive m a b => Sys2Proof.Machine.execHgive m a b s
  | .htake m d a => Sys2Proof.Machine.execHtake m d a s
  | .tlw m a b => Sys2Proof.Machine.execTlw m a b s
  | .tls m a b => Sys2Proof.Machine.execTls m a b s
  | .tlr m d a => Sys2Proof.Machine.execTlr m d a s
  | .tsnOff m => Sys2Proof.Machine.execTsnOff m s
  | .tsnLog m => Sys2Proof.Machine.execTsnLog m s
  | .tsnTrap m => Sys2Proof.Machine.execTsnTrap m s
  | .cp m dir a b c => Sys2Proof.Machine.execCp m dir a b c s
  | .cp2 m dir a b c => Sys2Proof.Machine.execCp2 m dir a b c s
  | .cp3 m dir a b c => Sys2Proof.Machine.execCp3 m dir a b c s
  | .cpsc m g a b c => Sys2Proof.Machine.execCpsc m g a b c s
  | .cpm m a b c => Sys2Proof.Machine.execCpm m a b c s
  | .cpmCreditTake u => Sys2Proof.Machine.execCpmCreditTake u s
  | .cbat m c => Sys2Proof.Machine.execCbat m c s
  | .cwait m a => Sys2Proof.Machine.execCwait m a s
  | .launch m a c => Sys2Proof.Machine.execLaunch m a c s
  | .wtake m nb a c => Sys2Proof.Machine.execWtake m nb a c s
  | .qsnc m => Sys2Proof.Machine.execQsnc m s
  | .quiescenceReport ctx => Sys2Proof.Machine.execQuiescenceReport ctx s
  | .collAr m a c => Sys2Proof.Machine.execCollAr m a c s
  | .collRs m a c => Sys2Proof.Machine.execCollRs m a c s
  | .collAg m a c => Sys2Proof.Machine.execCollAg m a c s
  | .collBc m a c => Sys2Proof.Machine.execCollBc m a c s
  | .collAa m a c => Sys2Proof.Machine.execCollAa m a c s
  | .collectiveComplete job lost => Sys2Proof.Machine.execCollectiveComplete job lost s
  | .mma m t a b c => Sys2Proof.Machine.execMma m t a b c s
  | .mzero m t => Sys2Proof.Machine.execMzero m t s
  | .mdrn m t a b c => Sys2Proof.Machine.execMdrn m t a b c s
  | .mspl m t a b c => Sys2Proof.Machine.execMspl m t a b c s
  | .mrowMig m a b => Sys2Proof.Machine.execMrowMig m a b s
  | .mrowReg m a => Sys2Proof.Machine.execMrowReg m a s
  | .mage m halve a b => Sys2Proof.Machine.execMage m halve a b s
  | .mchkRd m t c => Sys2Proof.Machine.execMchkRd m t c s
  | .mchkClr m t => Sys2Proof.Machine.execMchkClr m t s
  | .mchkInj m t a => Sys2Proof.Machine.execMchkInj m t a s
  | .msl m a b c => Sys2Proof.Machine.execMsl m a b c s
  | .matrixWordPerform cl => Sys2Proof.Machine.execMatrixWordPerform cl s
  | .reservationGrant cl obj => Sys2Proof.Machine.execReservationGrant cl obj s
  | .trap m code => Sys2Proof.Machine.execTrap m code s
  | .rft m => Sys2Proof.Machine.execRft m s
  | .brk m imm => Sys2Proof.Machine.execBrk m imm s
  | .yield m => Sys2Proof.Machine.execYield m s
  | .exit m => Sys2Proof.Machine.execExit m s
  | .nop m => Sys2Proof.Machine.execNop m s
  | .rand m d => Sys2Proof.Machine.execRand m d s
  | .fixedResultWrite u st => Sys2Proof.Machine.execFixedResultWrite u st s
  | .variableResultArrive u id => Sys2Proof.Machine.execVariableResultArrive u id s
  | .laneAddF w => Sys2Proof.Machine.execLaneAddF w s
  | .laneSubF w => Sys2Proof.Machine.execLaneSubF w s
  | .laneMulF w => Sys2Proof.Machine.execLaneMulF w s
  | .laneFma w => Sys2Proof.Machine.execLaneFma w s
  | .laneFms w => Sys2Proof.Machine.execLaneFms w s
  | .laneFnma w => Sys2Proof.Machine.execLaneFnma w s
  | .laneMinF w => Sys2Proof.Machine.execLaneMinF w s
  | .laneMaxF w => Sys2Proof.Machine.execLaneMaxF w s
  | .laneMinp w => Sys2Proof.Machine.execLaneMinp w s
  | .laneMaxp w => Sys2Proof.Machine.execLaneMaxp w s
  | .laneAbsF w => Sys2Proof.Machine.execLaneAbsF w s
  | .laneNegF w => Sys2Proof.Machine.execLaneNegF w s
  | .laneCmpF w => Sys2Proof.Machine.execLaneCmpF w s
  | .laneClamp w => Sys2Proof.Machine.execLaneClamp w s
  | .laneCsgn w => Sys2Proof.Machine.execLaneCsgn w s
  | .laneDot2 w => Sys2Proof.Machine.execLaneDot2 w s
  | .laneFcls w => Sys2Proof.Machine.execLaneFcls w s
  | .laneRint w => Sys2Proof.Machine.execLaneRint w s
  | .laneAddF64 w => Sys2Proof.Machine.execLaneAddF64 w s
  | .laneSubF64 w => Sys2Proof.Machine.execLaneSubF64 w s
  | .laneMulF64 w => Sys2Proof.Machine.execLaneMulF64 w s
  | .laneFmaF64 w => Sys2Proof.Machine.execLaneFmaF64 w s
  | .laneMinF64 w => Sys2Proof.Machine.execLaneMinF64 w s
  | .laneMaxF64 w => Sys2Proof.Machine.execLaneMaxF64 w s
  | .laneCmpF64 w => Sys2Proof.Machine.execLaneCmpF64 w s
  | .laneDivF64 w => Sys2Proof.Machine.execLaneDivF64 w s
  | .laneSqrtF64 w => Sys2Proof.Machine.execLaneSqrtF64 w s
  | .laneRcp w => Sys2Proof.Machine.execLaneRcp w s
  | .laneRsqrt w => Sys2Proof.Machine.execLaneRsqrt w s
  | .laneSqrt w => Sys2Proof.Machine.execLaneSqrt w s
  | .laneEx2 w => Sys2Proof.Machine.execLaneEx2 w s
  | .laneLg2 w => Sys2Proof.Machine.execLaneLg2 w s
  | .laneSin w => Sys2Proof.Machine.execLaneSin w s
  | .laneCos w => Sys2Proof.Machine.execLaneCos w s
  | .laneTanh w => Sys2Proof.Machine.execLaneTanh w s
  | .laneDivF32 w => Sys2Proof.Machine.execLaneDivF32 w s
  | .laneAddI w => Sys2Proof.Machine.execLaneAddI w s
  | .laneSubI w => Sys2Proof.Machine.execLaneSubI w s
  | .laneMulI w => Sys2Proof.Machine.execLaneMulI w s
  | .laneMulhi w => Sys2Proof.Machine.execLaneMulhi w s
  | .laneMad w => Sys2Proof.Machine.execLaneMad w s
  | .laneMinI w => Sys2Proof.Machine.execLaneMinI w s
  | .laneMaxI w => Sys2Proof.Machine.execLaneMaxI w s
  | .laneAnd w => Sys2Proof.Machine.execLaneAnd w s
  | .laneOr w => Sys2Proof.Machine.execLaneOr w s
  | .laneXor w => Sys2Proof.Machine.execLaneXor w s
  | .laneAndn w => Sys2Proof.Machine.execLaneAndn w s
  | .laneShl w => Sys2Proof.Machine.execLaneShl w s
  | .laneShr w => Sys2Proof.Machine.execLaneShr w s
  | .laneCmpI w => Sys2Proof.Machine.execLaneCmpI w s
  | .lanePopc w => Sys2Proof.Machine.execLanePopc w s
  | .laneClz w => Sys2Proof.Machine.execLaneClz w s
  | .laneCtz w => Sys2Proof.Machine.execLaneCtz w s
  | .laneBrev w => Sys2Proof.Machine.execLaneBrev w s
  | .laneAbsI w => Sys2Proof.Machine.execLaneAbsI w s
  | .laneNegI w => Sys2Proof.Machine.execLaneNegI w s
  | .laneBdot w => Sys2Proof.Machine.execLaneBdot w s
  | .laneCvt w => Sys2Proof.Machine.execLaneCvt w s
  | .lanePack w => Sys2Proof.Machine.execLanePack w s
  | .laneUnpk w => Sys2Proof.Machine.execLaneUnpk w s
  | .laneScl w => Sys2Proof.Machine.execLaneScl w s
  | .laneMov w => Sys2Proof.Machine.execLaneMov w s
  | .laneSel w => Sys2Proof.Machine.execLaneSel w s
  | .laneLsw w => Sys2Proof.Machine.execLaneLsw w s
  | .lanePoll w => Sys2Proof.Machine.execLanePoll w s
  | .laneRed w => Sys2Proof.Machine.execLaneRed w s
  | .laneBsel w => Sys2Proof.Machine.execLaneBsel w s
  | .laneScan w => Sys2Proof.Machine.execLaneScan w s
  | .qand w => Sys2Proof.Machine.execQand w s
  | .qor w => Sys2Proof.Machine.execQor w s
  | .qxor w => Sys2Proof.Machine.execQxor w s
  | .qandn w => Sys2Proof.Machine.execQandn w s
  | .qmov w => Sys2Proof.Machine.execQmov w s
  | .qcnt w => Sys2Proof.Machine.execQcnt w s
  | .emwr w => Sys2Proof.Machine.execEmwr w s
  | .lbr w => Sys2Proof.Machine.execLbr w s
  | .ljoin w => Sys2Proof.Machine.execLjoin w s
  | .lend w => Sys2Proof.Machine.execLend w s
  | .lbrk w => Sys2Proof.Machine.execLbrk w s
  | .ljmp w => Sys2Proof.Machine.execLjmp w s
  | .laneLdp w => Sys2Proof.Machine.execLaneLdp w s
  | .laneStp w => Sys2Proof.Machine.execLaneStp w s
  | .laneLdg w => Sys2Proof.Machine.execLaneLdg w s
  | .laneStg w => Sys2Proof.Machine.execLaneStg w s
  | .laneLdh w => Sys2Proof.Machine.execLaneLdh w s
  | .laneSth w => Sys2Proof.Machine.execLaneSth w s
  | .laneAtom w => Sys2Proof.Machine.execLaneAtom w s
  | .laneFence w => Sys2Proof.Machine.execLaneFence w s
  | .laneBarArrive w => Sys2Proof.Machine.execLaneBarArrive w s
  | .laneBarWait w => Sys2Proof.Machine.execLaneBarWait w s
  | .laneNbarArrive w => Sys2Proof.Machine.execLaneNbarArrive w s
  | .laneNbarWait w => Sys2Proof.Machine.execLaneNbarWait w s
  | .xreqReserve w => Sys2Proof.Machine.execXreqReserve w s
  | .xreqRelease w => Sys2Proof.Machine.execXreqRelease w s
  | .xfeed w => Sys2Proof.Machine.execXfeed w s
  | .xread w => Sys2Proof.Machine.execXread w s
  | .wapp w => Sys2Proof.Machine.execWapp w s
  | .impreciseTrapTake u => Sys2Proof.Machine.execImpreciseTrapTake u s
  | .homeWriteSerialize seq => Sys2Proof.Machine.execHomeWriteSerialize seq s
  | .remoteAtomicPerform seq => Sys2Proof.Machine.execRemoteAtomicPerform seq s
  | .ackArrive seq => Sys2Proof.Machine.execAckArrive seq s
  | .ackRetransmitTimeout seq => Sys2Proof.Machine.execAckRetransmitTimeout seq s
  | .poisonNotice seq => Sys2Proof.Machine.execPoisonNotice seq s
  | .sramUncorrectable e => Sys2Proof.Machine.execSramUncorrectable e s
  | .registerUncorrectable u => Sys2Proof.Machine.execRegisterUncorrectable u s
  | .patrolScrub corrected => Sys2Proof.Machine.execPatrolScrub corrected s
  | .bargeChunkMove job => Sys2Proof.Machine.execBargeChunkMove job s
  | .copyComplete job => Sys2Proof.Machine.execCopyComplete job s
  | .pageWalkComplete walk => Sys2Proof.Machine.execPageWalkComplete walk s
  | .invalidationComplete inv => Sys2Proof.Machine.execInvalidationComplete inv s
  | .refreshMgmtIssue stack channel bank => Sys2Proof.Machine.execRefreshMgmtIssue stack channel bank s
  | .stackCriticalTemp stack => Sys2Proof.Machine.execStackCriticalTemp stack s
  | .stackThermalClear stack => Sys2Proof.Machine.execStackThermalClear stack s
  | .pageEvacuationInstant die ctx dva entry => Sys2Proof.Machine.execPageEvacuationInstant die ctx dva entry s
  | .evacuationEnd die => Sys2Proof.Machine.execEvacuationEnd die s
  | .qtailWrite b v => Sys2Proof.Machine.execQtailWrite b v s
  | .qstatWrite b v => Sys2Proof.Machine.execQstatWrite b v s
  | .doorbellOtherWrite t off v => Sys2Proof.Machine.execDoorbellOtherWrite t off v s
  | .queuePacketTake src => Sys2Proof.Machine.execQueuePacketTake src s
  | .gridStart g => Sys2Proof.Machine.execGridStart g s
  | .teamPlace g => Sys2Proof.Machine.execTeamPlace g s
  | .ladingStage wg => Sys2Proof.Machine.execLadingStage wg s
  | .gridRetire g => Sys2Proof.Machine.execGridRetire g s
  | .deadlineMiss g => Sys2Proof.Machine.execDeadlineMiss g s
  | .deadlinePreemptRequest g => Sys2Proof.Machine.execDeadlinePreemptRequest g s
  | .preemptTimerExpire req => Sys2Proof.Machine.execPreemptTimerExpire req s
  | .evictTeam team => Sys2Proof.Machine.execEvictTeam team s
  | .teamReadmit team => Sys2Proof.Machine.execTeamReadmit team s
  | .contextResetDone ctx => Sys2Proof.Machine.execContextResetDone ctx s
  | .waitForWalk => Sys2Proof.Machine.execWaitForWalk s
  | .replicaCompare set => Sys2Proof.Machine.execReplicaCompare set s
  | .compareTimeout set => Sys2Proof.Machine.execCompareTimeout set s
  | .outvoteComplete set => Sys2Proof.Machine.execOutvoteComplete set s
  | .hostMemRead t addr own => Sys2Proof.Machine.execHostMemRead t addr own s
  | .hostMemWrite t addr data be => Sys2Proof.Machine.execHostMemWrite t addr data be s
  | .bisnpResponse snp data => Sys2Proof.Machine.execBisnpResponse snp data s
  | .bisnpTimeout snp => Sys2Proof.Machine.execBisnpTimeout snp s
  | .hostLinkDown t => Sys2Proof.Machine.execHostLinkDown t s
  | .hostLdReset t => Sys2Proof.Machine.execHostLdReset t s
  | .hostLinkUp t => Sys2Proof.Machine.execHostLinkUp t s
  | .memoryActiveSet t => Sys2Proof.Machine.execMemoryActiveSet t s
  | .globalPersistentFlush t => Sys2Proof.Machine.execGlobalPersistentFlush t s
  | .ptmRequest port => Sys2Proof.Machine.execPtmRequest port s
  | .compressedPageExpand t page => Sys2Proof.Machine.execCompressedPageExpand t page s
  | .tsiAgeingPeriod => Sys2Proof.Machine.execTsiAgeingPeriod s
  | .pageMigrationInstant t page => Sys2Proof.Machine.execPageMigrationInstant t page s
  | .ptpEventMessage ns => Sys2Proof.Machine.execPtpEventMessage ns s
  | .timeSourceLost => Sys2Proof.Machine.execTimeSourceLost s
  | .ingressRecord ch src payload => Sys2Proof.Machine.execIngressRecord ch src payload s
  | .fabricPacketReceive src cls seq payload => Sys2Proof.Machine.execFabricPacketReceive src cls seq payload s
  | .linkDead port => Sys2Proof.Machine.execLinkDead port s
  | .checkpointBlock => Sys2Proof.Machine.execCheckpointBlock s
  | .checkpointEnd => Sys2Proof.Machine.execCheckpointEnd s
  | .safeTierPathLoss => Sys2Proof.Machine.execSafeTierPathLoss s
  | .pulsePatternWrite cl v => Sys2Proof.Machine.execPulsePatternWrite cl v s
  | .patternRampStep cl => Sys2Proof.Machine.execPatternRampStep cl s
  | .droopDetect cl => Sys2Proof.Machine.execDroopDetect cl s
  | .droopFreezeEnd cl => Sys2Proof.Machine.execDroopFreezeEnd cl s
  | .currentComparatorTrip die => Sys2Proof.Machine.execCurrentComparatorTrip die s
  | .thermalTrip1 die => Sys2Proof.Machine.execThermalTrip1 die s
  | .thermalTrip1Clear die => Sys2Proof.Machine.execThermalTrip1Clear die s
  | .thermalTrip2 die => Sys2Proof.Machine.execThermalTrip2 die s
  | .powerWatchdogExpire => Sys2Proof.Machine.execPowerWatchdogExpire s
  | .modulePowerUp => Sys2Proof.Machine.execModulePowerUp s
  | .tsiSupplyCycle => Sys2Proof.Machine.execTsiSupplyCycle s
  | .tenantCreate by_ t size queues port => Sys2Proof.Machine.execTenantCreate by_ t size queues port s
  | .tenantWithdraw by_ t force => Sys2Proof.Machine.execTenantWithdraw by_ t force s
  | .loadKey by_ t wrapped => Sys2Proof.Machine.execLoadKey by_ t wrapped s
  | .setSysatMark by_ t first last mark => Sys2Proof.Machine.execSetSysatMark by_ t first last mark s
  | .readTenantMap by_ t first count => Sys2Proof.Machine.execReadTenantMap by_ t first count s
  | .setAgeing by_ periodUs hot cold => Sys2Proof.Machine.execSetAgeing by_ periodUs hot cold s
  | .declareHostCrashed by_ t => Sys2Proof.Machine.execDeclareHostCrashed by_ t s
  | .contextCreate by_ ctx tenant => Sys2Proof.Machine.execContextCreate by_ ctx tenant s
  | .contextDestroy by_ ctx => Sys2Proof.Machine.execContextDestroy by_ ctx s
  | .setPageTableRoot by_ ctx root => Sys2Proof.Machine.execSetPageTableRoot by_ ctx root s
  | .invalidateRange by_ ctx first last => Sys2Proof.Machine.execInvalidateRange by_ ctx first last s
  | .mapLentRange by_ ctx dva addr len wr => Sys2Proof.Machine.execMapLentRange by_ ctx dva addr len wr s
  | .queueCreate by_ q desc => Sys2Proof.Machine.execQueueCreate by_ q desc s
  | .queueDestroy by_ q => Sys2Proof.Machine.execQueueDestroy by_ q s
  | .allocateTimelines by_ ctx first count engine => Sys2Proof.Machine.execAllocateTimelines by_ ctx first count engine s
  | .createWorkList by_ ctx list base k die wide => Sys2Proof.Machine.execCreateWorkList by_ ctx list base k die wide s
  | .defineCollectiveGroup by_ ctx group members => Sys2Proof.Machine.execDefineCollectiveGroup by_ ctx group members s
  | .setSupervisorHandler by_ ctx h => Sys2Proof.Machine.execSetSupervisorHandler by_ ctx h s
  | .setTrapSaveArea by_ ctx off => Sys2Proof.Machine.execSetTrapSaveArea by_ ctx off s
  | .setShadowArea by_ ctx core off size => Sys2Proof.Machine.execSetShadowArea by_ ctx core off size s
  | .setFaultLog by_ ctx dva k => Sys2Proof.Machine.execSetFaultLog by_ ctx dva k s
  | .setEvictionSaveArea by_ ctx dva => Sys2Proof.Machine.execSetEvictionSaveArea by_ ctx dva s
  | .touchstoneEnable by_ ctx mode => Sys2Proof.Machine.execTouchstoneEnable by_ ctx mode s
  | .debugAttach by_ ctx => Sys2Proof.Machine.execDebugAttach by_ ctx s
  | .debugDetach by_ ctx => Sys2Proof.Machine.execDebugDetach by_ ctx s
  | .debugResume u => Sys2Proof.Machine.execDebugResume u s
  | .aqueductHold by_ ctx a b => Sys2Proof.Machine.execAqueductHold by_ ctx a b s
  | .aqueductUnhold by_ ctx a b => Sys2Proof.Machine.execAqueductUnhold by_ ctx a b s
  | .injectAckloss by_ ctx die sector => Sys2Proof.Machine.execInjectAckloss by_ ctx die sector s
  | .replicaFlip by_ ctx u r bit => Sys2Proof.Machine.execReplicaFlip by_ ctx u r bit s
  | .resetContext by_ ctx => Sys2Proof.Machine.execResetContext by_ ctx s
  | .clearPoison by_ ctx e => Sys2Proof.Machine.execClearPoison by_ ctx e s
  | .setWindowEntry by_ w => Sys2Proof.Machine.execSetWindowEntry by_ w s
  | .clearWindowEntry by_ core idx => Sys2Proof.Machine.execClearWindowEntry by_ core idx s
  | .requestPreemption by_ ctx mask => Sys2Proof.Machine.execRequestPreemption by_ ctx mask s
  | .releasePreemption by_ ctx => Sys2Proof.Machine.execReleasePreemption by_ ctx s
  | .setCoreBudget by_ v => Sys2Proof.Machine.execSetCoreBudget by_ v s
  | .setPreemptTimeout by_ v => Sys2Proof.Machine.execSetPreemptTimeout by_ v s
  | .setEvictionThreshold by_ v => Sys2Proof.Machine.execSetEvictionThreshold by_ v s
  | .setCompareTimeout by_ v => Sys2Proof.Machine.execSetCompareTimeout by_ v s
  | .setActivationLevel by_ v => Sys2Proof.Machine.execSetActivationLevel by_ v s
  | .takeDieOffline by_ die => Sys2Proof.Machine.execTakeDieOffline by_ die s
  | .selectTimeSource by_ src => Sys2Proof.Machine.execSelectTimeSource by_ src s
  | .createIngressChannel by_ ch desc => Sys2Proof.Machine.execCreateIngressChannel by_ ch desc s
  | .ingressChannelStatus by_ ch => Sys2Proof.Machine.execIngressChannelStatus by_ ch s
  | .checkpoint by_ tier => Sys2Proof.Machine.execCheckpoint by_ tier s
  | .warmReset by_ force => Sys2Proof.Machine.execWarmReset by_ force s
  | .coldReset by_ force => Sys2Proof.Machine.execColdReset by_ force s
  | .tsiIslandReset by_ force => Sys2Proof.Machine.execTsiIslandReset by_ force s
  | .forcedReset by_ => Sys2Proof.Machine.execForcedReset by_ s
  | .lifecycleTransition by_ next tokenOk => Sys2Proof.Machine.execLifecycleTransition by_ next tokenOk s
  | .mgmtUnlistedOpcode by_ op => Sys2Proof.Machine.execMgmtUnlistedOpcode by_ op s
  | .illegalInstruction code bit word => Sys2Proof.Machine.execIllegalInstruction code bit word s
  | .bankRefresh stack channel bank => Sys2Proof.Machine.execBankRefresh stack channel bank s
  | .powerWatchdogRefresh => Sys2Proof.Machine.execPowerWatchdogRefresh s
  | .hdmDecoderCommit t r commit => Sys2Proof.Machine.execHdmDecoderCommit t r commit s
  | .aqueductPathDown a b k => Sys2Proof.Machine.execAqueductPathDown a b k s

end Sys2Proof.Machine
end

