-- ==== Sys2Proof/Decode.lean ====
section
/-! DEFINITION. The decoder of S and L words (R50 to R65), total on any bits and rejecting by the causes of R64, and
the encoder of well-formed instructions from the same tables of the spec. -/

namespace Sys2Proof

open Sys2Proof.Machine

/-- The outcome of decoding: an instruction, or a cause code of R64 and the bit number of R65. -/
inductive Dec where
  | ok (i : Instr)
  | bad (code bit : Nat)
  deriving DecidableEq, Repr

/-- An instruction whose fields passed, or the cause its checks found. -/
def Dec.check (c : Option (Nat × Nat)) (i : Instr) : Dec :=
  match c with
  | none => .ok i
  | some (code, bit) => .bad code bit

/-! ## S words -/

/-- A one-bit field. -/
def bit (w lo : Nat) : Bool := decide (bf w lo 1 = 1)

/-- A 6-bit register field. -/
def rg (w lo : Nat) : SReg := BitVec.ofNat 6 (bf w lo 6)

/-- Majors that are unassigned or reserved (R53). -/
def majUnassigned (mj : Nat) : Bool :=
  decide (mj = 0x0E) || decide (mj = 0x0F) || (decide (0x14 ≤ mj) && decide (mj ≤ 0x17)) || decide (mj = 0x36)
    || decide (mj = 0x37) || decide (mj = 0x3F)

/-- Words that a lockmaster does not execute (R53, R157): majors marked "no", and functions of 0x23 outside the three it
takes. -/
def lmRefuses (mj fn : Nat) : Bool :=
  (decide (0x18 ≤ mj) && decide (mj ≤ 0x1A)) || decide (mj = 0x1C) || decide (mj = 0x1D)
    || (decide (mj = 0x23) && (decide (fn = 1) || decide (fn = 2) || decide (fn = 5) || decide (fn = 6)))
    || (decide (0x27 ≤ mj) && decide (mj ≤ 0x2F)) || decide (mj = 0x3B)

/-- Register ALU words, major 0x00 (R54). -/
def decAlu (w : Nat) : Dec :=
  let m := bit w 31; let d := rg w 19; let a := rg w 13; let b := rg w 7
  let one := judge [(decide (bf w 7 6 ≠ 0), 7)] [] [] []
  match bf w 0 7 with
  | 0x00 => .ok (.add m d a b)
  | 0x01 => .ok (.sub m d a b)
  | 0x02 => .ok (.and m d a b)
  | 0x03 => .ok (.or m d a b)
  | 0x04 => .ok (.xor m d a b)
  | 0x05 => .ok (.shl m d a b)
  | 0x06 => .ok (.shr m d a b)
  | 0x07 => .ok (.sar m d a b)
  | 0x08 => .ok (.mul m d a b)
  | 0x09 => .ok (.mulhiU64 m d a b)
  | 0x0A => .ok (.mulhiS64 m d a b)
  | 0x0B => .ok (.minS64 m d a b)
  | 0x0C => .ok (.minU64 m d a b)
  | 0x0D => .ok (.maxS64 m d a b)
  | 0x0E => .ok (.maxU64 m d a b)
  | 0x10 => .ok (.divU64 m d a b)
  | 0x11 => .ok (.divS64 m d a b)
  | 0x12 => .ok (.remU64 m d a b)
  | 0x13 => .ok (.remS64 m d a b)
  | 0x14 => .ok (.andn m d a b)
  | 0x15 => .ok (.orn m d a b)
  | 0x16 => Dec.check one (.popc m d a)
  | 0x17 => Dec.check one (.clz m d a)
  | 0x18 => Dec.check one (.ctz m d a)
  | _ => .bad 0x14 0

/-- Immediate, shift-in, compare, predicate and select words, majors 0x01 to 0x0D (R50, R53). -/
def decImm (mj w : Nat) : Dec :=
  let m := bit w 31; let d := rg w 19; let a := rg w 13; let b := rg w 7
  let i : BitVec 13 := BitVec.ofNat 13 (bf w 0 13); let n : BitVec 6 := BitVec.ofNat 6 (bf w 0 6)
  let p : PReg := BitVec.ofNat 3 (bf w 22 3); let c := scondOf (bf w 19 3)
  let sh := judge [(decide (bf w 6 7 ≠ 0), 6)] [] [] []
  match mj with
  | 0x01 => .ok (.addImm m d a i)
  | 0x02 => .ok (.andImm m d a i)
  | 0x03 => .ok (.orImm m d a i)
  | 0x04 => .ok (.xorImm m d a i)
  | 0x05 => Dec.check sh (.shlImm m d a n)
  | 0x06 => Dec.check sh (.shrImm m d a n)
  | 0x07 => Dec.check sh (.sarImm m d a n)
  | 0x08 => .ok (.mulImm m d a i)
  | 0x09 => .ok (.shin m d (BitVec.ofNat 19 (bf w 0 19)))
  | 0x0A => Dec.check (judge [(decide (bf w 0 7 ≠ 0), 0)] [] [] []) (.cmp m p c a b)
  | 0x0B => .ok (.cmpImm m p c a i)
  | 0x0C =>
    let pa : PReg := BitVec.ofNat 3 (bf w 19 3); let na := bit w 18
    let pb : PReg := BitVec.ofNat 3 (bf w 15 3); let nb := bit w 14
    let r := judge [(decide (bf w 0 12 ≠ 0), 0)] [] [] []
    match bf w 12 2 with
    | 0 => Dec.check r (.pand m p pa na pb nb)
    | 1 => Dec.check r (.por m p pa na pb nb)
    | 2 => Dec.check r (.pxor m p pa na pb nb)
    | _ => .bad 0x14 12
  | _ => Dec.check (judge [(decide (bf w 0 3 ≠ 0), 0)] [] [] [])
      (.sel m d a b (bit w 6) (BitVec.ofNat 3 (bf w 3 3)))

/-- Transfers of control, majors 0x10 to 0x13 (R50, R53). -/
def decFlow (mj w : Nat) : Dec :=
  let m := bit w 31; let a := rg w 13
  let p : PReg := BitVec.ofNat 3 (bf w 21 3); let off : BitVec 21 := BitVec.ofNat 21 (bf w 0 21)
  match mj with
  | 0x10 => .ok (.br m (bit w 24) p off)
  | 0x11 => .ok (.call m (bit w 24) p off)
  | 0x12 =>
    let db : List (Bool × Nat) := [(decide (bf w 19 6 ≠ 0), 19), (decide (bf w 7 6 ≠ 0), 7)]
    match bf w 0 7 with
    | 0 => Dec.check (judge db [] [] []) (.jr m a)
    | 1 => Dec.check (judge db [] [] []) (.callr m a)
    | 2 => Dec.check (judge ((decide (bf w 13 6 ≠ 0), 13) :: db) [] [] []) (.ret m)
    | _ => .bad 0x14 0
  | _ => .ok (.loop m (rg w 19) (BitVec.ofNat 19 (bf w 0 19)))

/-- Staging, runs, mailboxes and special registers, majors 0x18 to 0x1B (R53). -/
def decStage (mj w : Nat) : Dec :=
  let m := bit w 31; let d := rg w 19; let a := rg w 13; let b := rg w 7
  let nd : Bool × Nat := (decide (bf w 19 6 ≠ 0), 19); let na : Bool × Nat := (decide (bf w 13 6 ≠ 0), 13)
  let nb : Bool × Nat := (decide (bf w 7 6 ≠ 0), 7)
  match mj with
  | 0x18 => match bf w 0 7 with
    | 0 => Dec.check (judge [(decide (bf w 21 4 ≠ 0), 21), nb] [] [] []) (.lk m (BitVec.ofNat 2 (bf w 19 2)) a)
    | _ => .bad 0x14 0
  | 0x19 => .ok (.lq m (BitVec.ofNat 4 (bf w 21 4)) (BitVec.ofNat 21 (bf w 0 21)))
  | 0x1A => match bf w 0 7 with
    | 0 => Dec.check (judge [nd, na, nb] [] [] []) (.lqw m)
    | 1 => Dec.check (judge [na] [(decide (4 ≤ bf w 7 6), 7)] [] []) (.rdmb m d (BitVec.ofNat 2 (bf w 7 6)))
    | _ => .bad 0x14 0
  | _ => match bf w 0 7 with
    | 0 => Dec.check (judge [nb] [] [] []) (.rsr m d a)
    | 1 => Dec.check (judge [na] [] [] []) (.wsr m d b)
    | _ => .bad 0x14 0

/-- Loads, stores, atomics, majors 0x1C to 0x22 (R50 to R52, R56). -/
def decMem (lm : Bool) (mj w : Nat) : Dec :=
  let m := bit w 31; let d := rg w 19; let a := rg w 13
  let tc := bf w 10 3; let t := mtyOf tc; let oc := bf w 8 2; let o := ordOf oc; let sc := bf w 5 3
  let x := bit w 4; let off : BitVec 4 := BitVec.ofNat 4 (bf w 0 4)
  let ld := judge [] [(decide (tc = 7), 10), (decide (2 ≤ oc), 8), (decide (4 < sc), 5)] [] []
  let st := judge [] [(decide (tc = 7) || decide (tc % 2 = 1), 10), (decide (oc % 2 = 1), 8), (decide (4 < sc), 5)] [] []
  match mj with
  | 0x1C => Dec.check ld (.ldp m d a t o (scopeOf sc) x off)
  | 0x1D => Dec.check st (.stp m d a t o (scopeOf sc) x off)
  | 0x1E => Dec.check ld (.ldg m d a t o (scopeOf sc) x off)
  | 0x1F => Dec.check st (.stg m d a t o (scopeOf sc) x off)
  | 0x20 => Dec.check ld (.ldh m d a t o (scopeOf sc) x off)
  | 0x21 => Dec.check st (.sth m d a t o (scopeOf sc) x off)
  | _ =>
    let op := bf w 9 4; let s2 := bf w 3 3
    if 11 ≤ op then .bad 0x14 9
    else Dec.check (judge [(decide (bf w 0 2 ≠ 0), 0)] [(decide (4 < s2), 3), (lm && bit w 2, 2)] []
      [(decide (op = 9) && decide (bf w 19 6 % 2 = 1), 19)])
      (.atom m d a (atomOf op) (bit w 8) (ordOf (bf w 6 2)) (scopeOf s2) (bit w 2))

/-- Fences, barriers, monitors, handles, timelines and the touchstone, majors 0x23 to 0x27 (R50, R52, R53). -/
def decSync (mj w : Nat) : Dec :=
  let m := bit w 31; let d := rg w 19; let a := rg w 13; let b := rg w 7
  let oc := bf w 11 2; let o := ordOf oc; let sc := bf w 8 3; let s := scopeOf sc
  let nd : Bool × Nat := (decide (bf w 19 6 ≠ 0), 19); let na : Bool × Nat := (decide (bf w 13 6 ≠ 0), 13)
  let nb : Bool × Nat := (decide (bf w 7 6 ≠ 0), 7); let z : Bool × Nat := (decide (bf w 7 1 ≠ 0), 7)
  let si : Bool × Nat := (decide (4 < sc), 8); let ar : Bool × Nat := (decide (oc % 2 = 1), 11)
  let wt : Bool × Nat := (decide (2 ≤ oc), 11); let ni : Bool × Nat := (decide (16 ≤ bf w 19 6), 19)
  let n : BitVec 4 := BitVec.ofNat 4 (bf w 19 6)
  match mj with
  | 0x23 => match bf w 0 7 with
    | 0 => Dec.check (judge [nd, na, z] [si, (decide (oc = 0), 11)] [] []) (.fence m o s)
    | 1 => Dec.check (judge [nd, z] [si, ar] [] []) (.barArrive m a o s)
    | 2 => Dec.check (judge [nd, na, z] [si, wt] [] []) (.barWait m o s)
    | 3 => Dec.check (judge [z] [si, ar, ni] [] []) (.nbarArrive m n a o s)
    | 4 => Dec.check (judge [na, z] [si, wt, ni] [] []) (.nbarWait m n o s)
    | 5 => Dec.check (judge [nd, z] [si, ar] [] []) (.dbarArrive m a o s)
    | 6 => Dec.check (judge [nd, na, z] [si, wt] [] []) (.dbarWait m o s)
    | _ => .bad 0x14 0
  | 0x24 =>
    let c := judge [nd, z, (decide (sc ≠ 0), 8)] [(decide (oc ≠ 0), 11)] [] []
    match bf w 0 7 with
    | 0 => Dec.check c (.mon m a)
    | 1 => Dec.check c (.mwait m a)
    | _ => .bad 0x14 0
  | 0x25 => match bf w 0 7 with
    | 0 => Dec.check (judge [nd] [] [] []) (.hgive m a b)
    | 1 => Dec.check (judge [nb] [] [] []) (.htake m d a)
    | _ => .bad 0x14 0
  | 0x26 => match bf w 0 7 with
    | 0 => Dec.check (judge [nd] [] [] []) (.tlw m a b)
    | 1 => Dec.check (judge [nd] [] [] []) (.tls m a b)
    | 2 => Dec.check (judge [nb] [] [] []) (.tlr m d a)
    | _ => .bad 0x14 0
  | _ =>
    let c := judge [nd, na, nb] [] [] []
    match bf w 0 7 with
    | 0 => Dec.check c (.tsnOff m)
    | 1 => Dec.check c (.tsnLog m)
    | 2 => Dec.check c (.tsnTrap m)
    | _ => .bad 0x14 0

/-- Copies, launches, work lists and collectives, majors 0x28 to 0x2F (R160). -/
def decEngine (mj w : Nat) : Dec :=
  let m := bit w 31; let a := rg w 16; let b := rg w 10; let c := rg w 4
  let t := bf w 22 3; let dir := dirOf t
  let nt : Bool × Nat := (decide (t ≠ 0), 22); let na : Bool × Nat := (decide (bf w 16 6 ≠ 0), 16)
  let nb : Bool × Nat := (decide (bf w 10 6 ≠ 0), 10); let nc : Bool × Nat := (decide (bf w 4 6 ≠ 0), 4)
  let di : Bool × Nat := (decide (5 < t), 22)
  let grp (k : Nat) : Bool × Nat := (decide (bf w 4 6 % k ≠ 0), 4)
  let f := bf w 0 4
  match mj with
  | 0x28 => if f = 0 then Dec.check (judge [] [di] [] []) (.cp m dir a b c) else .bad 0x14 0
  | 0x29 => match f with
    | 0 => Dec.check (judge [] [di] [] [grp 4]) (.cp2 m dir a b c)
    | 1 => Dec.check (judge [] [di] [] [grp 8]) (.cp3 m dir a b c)
    | _ => .bad 0x14 0
  | 0x2A => if f = 0 then Dec.check (judge [] [(decide (1 < t), 22)] [] []) (.cpsc m (decide (t = 1)) a b c)
      else .bad 0x14 0
  | 0x2B => if f = 0 then Dec.check (judge [nt] [] [] [grp 4]) (.cpm m a b c) else .bad 0x14 0
  | 0x2C => match f with
    | 0 => Dec.check (judge [nt, na, nb] [] [] []) (.cbat m c)
    | 1 => Dec.check (judge [nt, nb, nc] [] [] []) (.cwait m a)
    | _ => .bad 0x14 0
  | 0x2D => if f = 0 then Dec.check (judge [nt, nb] [] [] []) (.launch m a c) else .bad 0x14 0
  | 0x2E => match f with
    | 0 => Dec.check (judge [(decide (t / 2 ≠ 0), 23), nb] [] [] [grp 2]) (.wtake m (decide (t % 2 = 1)) a c)
    | 1 => Dec.check (judge [nt, na, nb, nc] [] [] []) (.qsnc m)
    | _ => .bad 0x14 0
  | _ =>
    let k := judge [nt, nb] [] [] []
    match f with
    | 0 => Dec.check k (.collAr m a c)
    | 1 => Dec.check k (.collRs m a c)
    | 2 => Dec.check k (.collAg m a c)
    | 3 => Dec.check k (.collBc m a c)
    | 4 => Dec.check k (.collAa m a c)
    | _ => .bad 0x14 0

/-- A matrix operand field: an even SRAM register when `sram`, else a tile half with bits [5:3] zero (R186). -/
def mopOf (sram : Bool) (v : Nat) : MOp :=
  if sram then .sram (BitVec.ofNat 6 v) else .tile (BitVec.ofNat 2 v) (bit v 2)

/-- Matrix words, majors 0x30 to 0x35 (R186). -/
def decMatrix (mj w : Nat) : Dec :=
  let m := bit w 31; let a := rg w 16; let b := rg w 10; let c := rg w 4
  let tv := bf w 22 3; let t : BitVec 3 := BitVec.ofNat 3 tv
  let av := bf w 16 6; let bv := bf w 10 6
  let nt : Bool × Nat := (decide (tv ≠ 0), 22); let na : Bool × Nat := (decide (av ≠ 0), 16)
  let nb : Bool × Nat := (decide (bv ≠ 0), 10); let nc : Bool × Nat := (decide (bf w 4 6 ≠ 0), 4)
  let f := bf w 0 4
  match mj with
  | 0x30 =>
    let sa := bit w 0; let sb := bit w 1
    if 4 ≤ f then .bad 0x14 0
    else Dec.check (judge [(!sa && decide (av / 8 ≠ 0), 19), (!sb && decide (bv / 8 ≠ 0), 13)] [] []
      [(sa && decide (av % 2 = 1), 16), (sb && decide (bv % 2 = 1), 10)]) (.mma m t (mopOf sa av) (mopOf sb bv) c)
  | 0x31 => match f with
    | 0 => Dec.check (judge [na, nb, nc] [] [] []) (.mzero m t)
    | 1 => Dec.check (judge [] [] [] [(decide (av % 2 = 1), 16)]) (.mdrn m t a b c)
    | _ => .bad 0x14 0
  | 0x32 => if f = 0 then Dec.check (judge [] [] [] [(decide (av % 2 = 1), 16)]) (.mspl m t a b c) else .bad 0x14 0
  | 0x33 => match f with
    | 0 => match tv with
      | 0 => Dec.check (judge [nc] [] [] []) (.mrowMig m a b)
      | 1 => Dec.check (judge [nb, nc] [] [] []) (.mrowReg m a)
      | _ => match judge [nc] [(true, 22)] [] [] with
        | some (code, b) => .bad code b
        | none => .bad 0x16 22
    | 1 => Dec.check (judge [nc] [(decide (1 < tv), 22)] [] []) (.mage m (decide (tv = 1)) a b)
    | _ => .bad 0x14 0
  | 0x34 => match f with
    | 0 => Dec.check (judge [na, nb] [] [] []) (.mchkRd m t c)
    | 1 => Dec.check (judge [na, nb, nc] [] [] []) (.mchkClr m t)
    | 2 => Dec.check (judge [nb, nc] [] [] []) (.mchkInj m t a)
    | _ => .bad 0x14 0
  | _ => if f = 0 then Dec.check (judge [nt] [] [] []) (.msl m a b c) else .bad 0x14 0

/-- Traps, ends and the rest, majors 0x38 to 0x3E (R53). The function field of `rand`, for which the spec gives no
code, counts as reserved (DEDUCED, log 78). -/
def decSys (mj w : Nat) : Dec :=
  let m := bit w 31
  let nd : Bool × Nat := (decide (bf w 19 6 ≠ 0), 19); let na : Bool × Nat := (decide (bf w 13 6 ≠ 0), 13)
  let nb : Bool × Nat := (decide (bf w 7 6 ≠ 0), 7); let nf : Bool × Nat := (decide (bf w 0 7 ≠ 0), 0)
  let all := judge [nd, na, nb, nf] [] [] []
  match mj with
  | 0x38 => Dec.check (judge [nd, na] [(bit w 12, 0)] [] []) (.trap m (BitVec.ofNat 12 (bf w 0 13)))
  | 0x39 => Dec.check all (.rft m)
  | 0x3A => Dec.check (judge [nd, na] [] [] []) (.brk m (BitVec.ofNat 13 (bf w 0 13)))
  | 0x3B => Dec.check all (.yield m)
  | 0x3C => Dec.check all (.exit m)
  | 0x3D => Dec.check all (.nop m)
  | _ => Dec.check (judge [na, nb, nf] [] [] []) (.rand m (rg w 19))

/-- Decode an S word fetched by a lockmaster (`lm`) or by a core stream, with the causes in the order of R64. -/
def decodeS (lm : Bool) (w : Nat) : Dec :=
  let mj := bf w 25 6
  if w = 0 then .bad 0x10 25
  else if majUnassigned mj then .bad 0x11 25
  else if !lm && decide (0x30 ≤ mj) && decide (mj ≤ 0x37) then .bad 0x12 25
  else if lm && lmRefuses mj (bf w 0 7) then .bad 0x13 25
  else if mj = 0 then decAlu w
  else if mj < 0x10 then decImm mj w
  else if mj < 0x14 then decFlow mj w
  else if mj < 0x1C then decStage mj w
  else if mj < 0x23 then decMem lm mj w
  else if mj < 0x28 then decSync mj w
  else if mj < 0x30 then decEngine mj w
  else if mj < 0x38 then decMatrix mj w
  else decSys mj w

/-! ## L words -/

/-- The fields of the LA layout (R57). -/
def laFields (w : Nat) : LARaw :=
  { m := bf w 95 1, g := bf w 84 4, dst := bf w 76 8, a := bf w 68 8, b := bf w 60 8, c := bf w 52 8,
    rnd := bf w 49 3, sat := bf w 48 1, ty := bf w 43 5, md := bf w 36 7, z := bf w 32 4, imm := bf w 0 32 }

/-- The fields of the LM layout (R57). -/
def lmFields (w : Nat) : LMRaw :=
  { m := bf w 95 1, g := bf w 84 4, dst := bf w 76 8, a := bf w 68 8, b := bf w 60 8, c := bf w 52 8,
    rnd := bf w 49 3, sat := bf w 48 1, ty := bf w 43 5, ord := bf w 41 2, sc := bf w 38 3, ef := bf w 37 1,
    rb := bf w 36 1, z := bf w 32 4, fn := bf w 24 8, off := bf w 0 24 }

/-- LA opcodes whose modifier selects the mnemonic; an unassigned value there takes cause 0x0014 (R61). -/
def laMulti (op : Nat) : Bool :=
  decide (op = 0x2E) || decide (op = 0x37) || decide (op = 0x3B) || decide (op = 0x3C) || decide (op = 0x60)

/-- Decode an L word, with the causes in the order of R64. -/
def decodeL (w : Nat) : Dec :=
  let op := bf w 88 7
  if op = 0 then .bad 0x10 88
  else if 0x68 ≤ op ∧ op ≤ 0x6C then
    match lcCon op with
    | none => .bad 0x11 88
    | some con => Dec.check (lcCheck op (bf w 84 4) (bf w 52 32) (bf w 24 28) (bf w 0 24))
        (con { m := bit w 95, g := guardOf (bf w 84 4), off := BitVec.ofNat 24 (bf w 0 24) })
  else if 0x70 ≤ op ∧ op ≤ 0x77 then
    let r := lmFields w
    match lmCheck op r with
    | some (code, b) => .bad code b
    | none => match lmCon op r.fn with
      | none => .bad 0x14 24
      | some con => .ok (con (lmOf r))
  else
    let r := laFields w
    match laCon op r.md with
    | none => if laMulti op then .bad 0x14 36 else .bad 0x11 88
    | some con =>
      let i := con (laOf r)
      match laShape i with
      | none => .bad 0x11 88
      | some (_, sh, _) => Dec.check (laCheck sh r) i

/-- Decode by the table's bit numbering: an S word of 32 bits, or an L word of 96. A 32-bit word whose major only a
lockmaster takes is decoded as a lockmaster fetches it. -/
def decodeTableWord (nbits w : Nat) : Option Instr :=
  if nbits = 32 then
    match decodeS (decide (0x30 ≤ bf w 25 6) && decide (bf w 25 6 ≤ 0x35)) (w % 2 ^ 32) with
    | .ok i => some i
    | .bad _ _ => none
  else if nbits = 96 then
    match decodeL (w % 2 ^ 96) with
    | .ok i => some i
    | .bad _ _ => none
  else none

/-! ## The encoder -/

/-- A word of format SR. -/
def encSR (m : Bool) (mj d a b fn : Nat) : Nat :=
  m.toNat * 2 ^ 31 + mj * 2 ^ 25 + d * 2 ^ 19 + a * 2 ^ 13 + b * 2 ^ 7 + fn

/-- A word of format SI: `i` fills the low 13 bits. -/
def encSI (m : Bool) (mj d a i : Nat) : Nat := m.toNat * 2 ^ 31 + mj * 2 ^ 25 + d * 2 ^ 19 + a * 2 ^ 13 + i

/-- A word of formats SU and SL: 19 low bits. -/
def encSU (m : Bool) (mj d i : Nat) : Nat := m.toNat * 2 ^ 31 + mj * 2 ^ 25 + d * 2 ^ 19 + i

/-- A word of formats SC and SCI. -/
def encSC (m : Bool) (mj p c a lo : Nat) : Nat :=
  m.toNat * 2 ^ 31 + mj * 2 ^ 25 + p * 2 ^ 22 + c * 2 ^ 19 + a * 2 ^ 13 + lo

/-- A word of format SP. -/
def encSP (m : Bool) (p pa : Nat) (na : Bool) (pb : Nat) (nb : Bool) (op : Nat) : Nat :=
  m.toNat * 2 ^ 31 + 0x0C * 2 ^ 25 + p * 2 ^ 22 + pa * 2 ^ 19 + na.toNat * 2 ^ 18 + pb * 2 ^ 15 + nb.toNat * 2 ^ 14
    + op * 2 ^ 12

/-- A word of format SB. -/
def encSB (m : Bool) (mj : Nat) (n : Bool) (p off : Nat) : Nat :=
  m.toNat * 2 ^ 31 + mj * 2 ^ 25 + n.toNat * 2 ^ 24 + p * 2 ^ 21 + off

/-- A word of format SM. -/
def encSM (m : Bool) (mj d a t o s : Nat) (x : Bool) (off : Nat) : Nat :=
  m.toNat * 2 ^ 31 + mj * 2 ^ 25 + d * 2 ^ 19 + a * 2 ^ 13 + t * 2 ^ 10 + o * 2 ^ 8 + s * 2 ^ 5 + x.toNat * 2 ^ 4
    + off

/-- A word of format SF. -/
def encSF (m : Bool) (mj d a o s fn : Nat) : Nat :=
  m.toNat * 2 ^ 31 + mj * 2 ^ 25 + d * 2 ^ 19 + a * 2 ^ 13 + o * 2 ^ 11 + s * 2 ^ 8 + fn

/-- A word of format SX. -/
def encSX (m : Bool) (mj t a b c f : Nat) : Nat :=
  m.toNat * 2 ^ 31 + mj * 2 ^ 25 + t * 2 ^ 22 + a * 2 ^ 16 + b * 2 ^ 10 + c * 2 ^ 4 + f

/-- The field of a matrix operand and its bit of f (R186). -/
def mopField (x : MOp) : Nat × Nat :=
  match x with
  | .tile t h => (t.toNat + h.toNat * 4, 0)
  | .sram r => (r.toNat, 1)

/-- The S word of an instruction, if it is one (R50 to R56, R160, R186). -/
def encodeS (i : Instr) : Option Nat :=
  match i with
  | .add m d a b => some (encSR m 0 d.toNat a.toNat b.toNat 0x00)
  | .sub m d a b => some (encSR m 0 d.toNat a.toNat b.toNat 0x01)
  | .and m d a b => some (encSR m 0 d.toNat a.toNat b.toNat 0x02)
  | .or m d a b => some (encSR m 0 d.toNat a.toNat b.toNat 0x03)
  | .xor m d a b => some (encSR m 0 d.toNat a.toNat b.toNat 0x04)
  | .shl m d a b => some (encSR m 0 d.toNat a.toNat b.toNat 0x05)
  | .shr m d a b => some (encSR m 0 d.toNat a.toNat b.toNat 0x06)
  | .sar m d a b => some (encSR m 0 d.toNat a.toNat b.toNat 0x07)
  | .mul m d a b => some (encSR m 0 d.toNat a.toNat b.toNat 0x08)
  | .mulhiU64 m d a b => some (encSR m 0 d.toNat a.toNat b.toNat 0x09)
  | .mulhiS64 m d a b => some (encSR m 0 d.toNat a.toNat b.toNat 0x0A)
  | .minS64 m d a b => some (encSR m 0 d.toNat a.toNat b.toNat 0x0B)
  | .minU64 m d a b => some (encSR m 0 d.toNat a.toNat b.toNat 0x0C)
  | .maxS64 m d a b => some (encSR m 0 d.toNat a.toNat b.toNat 0x0D)
  | .maxU64 m d a b => some (encSR m 0 d.toNat a.toNat b.toNat 0x0E)
  | .divU64 m d a b => some (encSR m 0 d.toNat a.toNat b.toNat 0x10)
  | .divS64 m d a b => some (encSR m 0 d.toNat a.toNat b.toNat 0x11)
  | .remU64 m d a b => some (encSR m 0 d.toNat a.toNat b.toNat 0x12)
  | .remS64 m d a b => some (encSR m 0 d.toNat a.toNat b.toNat 0x13)
  | .andn m d a b => some (encSR m 0 d.toNat a.toNat b.toNat 0x14)
  | .orn m d a b => some (encSR m 0 d.toNat a.toNat b.toNat 0x15)
  | .popc m d a => some (encSR m 0 d.toNat a.toNat 0 0x16)
  | .clz m d a => some (encSR m 0 d.toNat a.toNat 0 0x17)
  | .ctz m d a => some (encSR m 0 d.toNat a.toNat 0 0x18)
  | .addImm m d a i => some (encSI m 0x01 d.toNat a.toNat i.toNat)
  | .andImm m d a i => some (encSI m 0x02 d.toNat a.toNat i.toNat)
  | .orImm m d a i => some (encSI m 0x03 d.toNat a.toNat i.toNat)
  | .xorImm m d a i => some (encSI m 0x04 d.toNat a.toNat i.toNat)
  | .shlImm m d a n => some (encSI m 0x05 d.toNat a.toNat n.toNat)
  | .shrImm m d a n => some (encSI m 0x06 d.toNat a.toNat n.toNat)
  | .sarImm m d a n => some (encSI m 0x07 d.toNat a.toNat n.toNat)
  | .mulImm m d a i => some (encSI m 0x08 d.toNat a.toNat i.toNat)
  | .shin m d i => some (encSU m 0x09 d.toNat i.toNat)
  | .cmp m p c a b => some (encSC m 0x0A p.toNat (scondCode c) a.toNat (b.toNat * 2 ^ 7))
  | .cmpImm m p c a i => some (encSC m 0x0B p.toNat (scondCode c) a.toNat i.toNat)
  | .pand m p pa na pb nb => some (encSP m p.toNat pa.toNat na pb.toNat nb 0)
  | .por m p pa na pb nb => some (encSP m p.toNat pa.toNat na pb.toNat nb 1)
  | .pxor m p pa na pb nb => some (encSP m p.toNat pa.toNat na pb.toNat nb 2)
  | .sel m d a b neg p => some (encSR m 0x0D d.toNat a.toNat b.toNat (neg.toNat * 2 ^ 6 + p.toNat * 2 ^ 3))
  | .br m neg p off => some (encSB m 0x10 neg p.toNat off.toNat)
  | .call m neg p off => some (encSB m 0x11 neg p.toNat off.toNat)
  | .jr m a => some (encSR m 0x12 0 a.toNat 0 0)
  | .callr m a => some (encSR m 0x12 0 a.toNat 0 1)
  | .ret m => some (encSR m 0x12 0 0 0 2)
  | .loop m c off => some (encSU m 0x13 c.toNat off.toNat)
  | .lk m k a => some (encSR m 0x18 k.toNat a.toNat 0 0)
  | .lq m mask e => some (m.toNat * 2 ^ 31 + 0x19 * 2 ^ 25 + mask.toNat * 2 ^ 21 + e.toNat)
  | .lqw m => some (encSR m 0x1A 0 0 0 0)
  | .rdmb m d n => some (encSR m 0x1A d.toNat 0 n.toNat 1)
  | .rsr m d n => some (encSR m 0x1B d.toNat n.toNat 0 0)
  | .wsr m n b => some (encSR m 0x1B n.toNat 0 b.toNat 1)
  | .ldp m d a t o s x f => some (encSM m 0x1C d.toNat a.toNat (mtyCode t) (orderCode o) (scopeCode s) x f.toNat)
  | .stp m d a t o s x f => some (encSM m 0x1D d.toNat a.toNat (mtyCode t) (orderCode o) (scopeCode s) x f.toNat)
  | .ldg m d a t o s x f => some (encSM m 0x1E d.toNat a.toNat (mtyCode t) (orderCode o) (scopeCode s) x f.toNat)
  | .stg m d a t o s x f => some (encSM m 0x1F d.toNat a.toNat (mtyCode t) (orderCode o) (scopeCode s) x f.toNat)
  | .ldh m d a t o s x f => some (encSM m 0x20 d.toNat a.toNat (mtyCode t) (orderCode o) (scopeCode s) x f.toNat)
  | .sth m d a t o s x f => some (encSM m 0x21 d.toNat a.toNat (mtyCode t) (orderCode o) (scopeCode s) x f.toNat)
  | .atom m d a op w o s p => some (m.toNat * 2 ^ 31 + 0x22 * 2 ^ 25 + d.toNat * 2 ^ 19 + a.toNat * 2 ^ 13
      + atomCode op * 2 ^ 9 + w.toNat * 2 ^ 8 + orderCode o * 2 ^ 6 + scopeCode s * 2 ^ 3 + p.toNat * 2 ^ 2)
  | .fence m o s => some (encSF m 0x23 0 0 (orderCode o) (scopeCode s) 0)
  | .barArrive m a o s => some (encSF m 0x23 0 a.toNat (orderCode o) (scopeCode s) 1)
  | .barWait m o s => some (encSF m 0x23 0 0 (orderCode o) (scopeCode s) 2)
  | .nbarArrive m n a o s => some (encSF m 0x23 n.toNat a.toNat (orderCode o) (scopeCode s) 3)
  | .nbarWait m n o s => some (encSF m 0x23 n.toNat 0 (orderCode o) (scopeCode s) 4)
  | .dbarArrive m a o s => some (encSF m 0x23 0 a.toNat (orderCode o) (scopeCode s) 5)
  | .dbarWait m o s => some (encSF m 0x23 0 0 (orderCode o) (scopeCode s) 6)
  | .mon m a => some (encSF m 0x24 0 a.toNat 0 0 0)
  | .mwait m a => some (encSF m 0x24 0 a.toNat 0 0 1)
  | .hgive m a b => some (encSR m 0x25 0 a.toNat b.toNat 0)
  | .htake m d a => some (encSR m 0x25 d.toNat a.toNat 0 1)
  | .tlw m a b => some (encSR m 0x26 0 a.toNat b.toNat 0)
  | .tls m a b => some (encSR m 0x26 0 a.toNat b.toNat 1)
  | .tlr m d a => some (encSR m 0x26 d.toNat a.toNat 0 2)
  | .tsnOff m => some (encSR m 0x27 0 0 0 0)
  | .tsnLog m => some (encSR m 0x27 0 0 0 1)
  | .tsnTrap m => some (encSR m 0x27 0 0 0 2)
  | .cp m d a b c => some (encSX m 0x28 (dirCode d) a.toNat b.toNat c.toNat 0)
  | .cp2 m d a b c => some (encSX m 0x29 (dirCode d) a.toNat b.toNat c.toNat 0)
  | .cp3 m d a b c => some (encSX m 0x29 (dirCode d) a.toNat b.toNat c.toNat 1)
  | .cpsc m g a b c => some (encSX m 0x2A g.toNat a.toNat b.toNat c.toNat 0)
  | .cpm m a b c => some (encSX m 0x2B 0 a.toNat b.toNat c.toNat 0)
  | .cbat m c => some (encSX m 0x2C 0 0 0 c.toNat 0)
  | .cwait m a => some (encSX m 0x2C 0 a.toNat 0 0 1)
  | .launch m a c => some (encSX m 0x2D 0 a.toNat 0 c.toNat 0)
  | .wtake m nb a c => some (encSX m 0x2E nb.toNat a.toNat 0 c.toNat 0)
  | .qsnc m => some (encSX m 0x2E 0 0 0 0 1)
  | .collAr m a c => some (encSX m 0x2F 0 a.toNat 0 c.toNat 0)
  | .collRs m a c => some (encSX m 0x2F 0 a.toNat 0 c.toNat 1)
  | .collAg m a c => some (encSX m 0x2F 0 a.toNat 0 c.toNat 2)
  | .collBc m a c => some (encSX m 0x2F 0 a.toNat 0 c.toNat 3)
  | .collAa m a c => some (encSX m 0x2F 0 a.toNat 0 c.toNat 4)
  | .mma m t a b c => some (encSX m 0x30 t.toNat (mopField a).1 (mopField b).1 c.toNat
      ((mopField a).2 + (mopField b).2 * 2))
  | .mzero m t => some (encSX m 0x31 t.toNat 0 0 0 0)
  | .mdrn m t a b c => some (encSX m 0x31 t.toNat a.toNat b.toNat c.toNat 1)
  | .mspl m t a b c => some (encSX m 0x32 t.toNat a.toNat b.toNat c.toNat 0)
  | .mrowMig m a b => some (encSX m 0x33 0 a.toNat b.toNat 0 0)
  | .mrowReg m a => some (encSX m 0x33 1 a.toNat 0 0 0)
  | .mage m h a b => some (encSX m 0x33 h.toNat a.toNat b.toNat 0 1)
  | .mchkRd m t c => some (encSX m 0x34 t.toNat 0 0 c.toNat 0)
  | .mchkClr m t => some (encSX m 0x34 t.toNat 0 0 0 1)
  | .mchkInj m t a => some (encSX m 0x34 t.toNat a.toNat 0 0 2)
  | .msl m a b c => some (encSX m 0x35 0 a.toNat b.toNat c.toNat 0)
  | .trap m c => some (encSI m 0x38 0 0 c.toNat)
  | .rft m => some (encSR m 0x39 0 0 0 0)
  | .brk m i => some (encSI m 0x3A 0 0 i.toNat)
  | .yield m => some (encSR m 0x3B 0 0 0 0)
  | .exit m => some (encSR m 0x3C 0 0 0 0)
  | .nop m => some (encSR m 0x3D 0 0 0 0)
  | .rand m d => some (encSR m 0x3E d.toNat 0 0 0)
  | _ => none

/-- The bits of raw LA fields under an opcode (R57). -/
def encLA (op : Nat) (r : LARaw) : Nat :=
  r.m * 2 ^ 95 + op * 2 ^ 88 + r.g * 2 ^ 84 + r.dst * 2 ^ 76 + r.a * 2 ^ 68 + r.b * 2 ^ 60 + r.c * 2 ^ 52
    + r.rnd * 2 ^ 49 + r.sat * 2 ^ 48 + r.ty * 2 ^ 43 + r.md * 2 ^ 36 + r.z * 2 ^ 32 + r.imm

/-- The bits of raw LM fields under an opcode (R57). -/
def encLM (op : Nat) (r : LMRaw) : Nat :=
  r.m * 2 ^ 95 + op * 2 ^ 88 + r.g * 2 ^ 84 + r.dst * 2 ^ 76 + r.a * 2 ^ 68 + r.b * 2 ^ 60 + r.c * 2 ^ 52
    + r.rnd * 2 ^ 49 + r.sat * 2 ^ 48 + r.ty * 2 ^ 43 + r.ord * 2 ^ 41 + r.sc * 2 ^ 38 + r.ef * 2 ^ 37
    + r.rb * 2 ^ 36 + r.z * 2 ^ 32 + r.fn * 2 ^ 24 + r.off

/-- The bits of an LC word under an opcode (R57). -/
def encLC (op : Nat) (w : LC) : Nat :=
  w.m.toNat * 2 ^ 95 + op * 2 ^ 88 + (w.g.neg.toNat * 8 + w.g.q.toNat) * 2 ^ 84 + w.off.toNat

/-- The bits of an instruction, with their number: 32 for an S word, 96 for an L word; none for an event, which has
no encoding. -/
def encode (i : Instr) : Option (Nat × Nat) :=
  match encodeS i with
  | some w => some (32, w)
  | none => match laShape i with
    | some (op, _, w) => some (96, encLA op (laRaw w))
    | none => match lmCode i with
      | some (op, _, w) => some (96, encLM op (lmRaw w))
      | none => match lcCode i with
        | some (op, w) => some (96, encLC op w)
        | none => none

end Sys2Proof
end

