-- ==== Sys2Proof/Machine/Sched.lean ====
section
/-! DEFINITION. Which word or event comes next (R21, R22, R131, R266, R280; log 1): eligibility of a stream, fetch and decode of
its word (R9, R10, R64), the events that are due, the choice of the warp scheduler, and the passing of an mclk. -/

namespace Sys2Proof.Machine

/-! ## Eligible streams -/

/-- Whether the workgroup of a unit has been staged; a lockmaster needs no staging (R262). -/
def stagedUnit (s : State) (u : Unit) : Bool :=
  u.who.isLm || (match SMap.look s.wgs u.who.wg with | some w => w.staged | none => true)

/-- Whether a stream that stops for the debugger has first to execute a word whose compare has agreed: its boundary is after that word (DEDUCED,
log 53). -/
def Unit.mustFinish (u : Unit) (st : Strm) : Bool := match u.assay.passed with | some e => decide (e.1 = st) | none => false

/-- A stopped unit shows where it stands (R287). -/
def Unit.showStop (u : Unit) : Unit :=
  let i := tb u.trap.tpath.toNat 6
  if u.stopped then
    { u with trap := { u.trap with tspc := BitVec.ofNat 64 u.sS.spc, tlpc := BitVec.ofNat 64 (u.slot i).lpc, tpath := u.tpathOf i } }
  else u

/-- Whether a stream of a unit may issue: it is not stopped, held for a copy of an outvote, stalled by a load whose tags find no entry (R238), waiting at a marker, or frozen; while a trap
waits for its entry, both streams are stopped, but for an S word that has begun to take effect (R276, R277). -/
def eligible (s : State) (u : Unit) (st : Strm) : Bool :=
  !s.plant.frozen && (!u.stopped || u.mustFinish st) && !heldForCopy s u st && stagedUnit s u
    && !u.pend.any (fun p => decide (p.strm = st) && tagStall s u p)
    && (u.trap.due.isNone || (decide (st = .s) && u.committed))
    && (match st with
      | .s => !u.sS.marked
      | _ => !u.who.isLm && (u.slot (strmSlot st)).live && !(u.slot (strmSlot st)).marked)

/-- Words of an image, as the stream sees it. -/
def imageLen (s : State) (u : Unit) (st : Strm) : Nat := match st with | .s => sLen s u | _ => lLen s u

/-- A unit with the program counter of a stream moved. -/
def Unit.setPc (u : Unit) (st : Strm) (pc : Nat) : Unit :=
  match st with
  | .s => { u with sS := { u.sS with spc := pc } }
  | .l0 => u.setSlot false { u.lS.slot0 with lpc := pc }
  | .l1 => u.setSlot true { u.lS.slot1 with lpc := pc }

/-- The instruction that a raw word is for the stream that fetches it, or its trap (R64). -/
def wordInstr (u : Unit) (st : Strm) (w : Nat) : Instr :=
  match (match st with | .s => decodeS u.who.isLm w | _ => decodeL w) with
  | .ok i => i
  | .bad code b => .illegalInstruction code b w

/-- The event by which a unit takes an imprecise fault at a boundary of its S-stream (R280). -/
def impNow (s : State) (u : Unit) (st : Strm) : Bool :=
  decide (st = .s) && (u.nextImp s.clk.now).isSome && !u.inHandler && !u.committed

/-- What a stream does at its turn, with the machine in which it does it: an imprecise trap, the code-range fault at the last word of an
image whose end it has reached (R9), or the word that it fetches. -/
def nextOf (s : State) (u : Unit) (st : Strm) : State × Instr :=
  let n := imageLen s u st
  let s1 := { s with cur := u.id, curS := st }
  if impNow s u st then (s1, .impreciseTrapTake u.id)
  else if n ≤ u.pcOf st then (s1.setUnit (u.setPc st (n - 1)), .illegalInstruction 0x26 n 0)
  else (s1, wordInstr u st (rawAt s u st))

/-! ## The choice of the scheduler (R266) -/

/-- The issue port of a stream: one for each lockmaster, and two for each core (R3). In an mclk the lockmasters come first, and an L word before the
S word of its core, whose trap it forestalls (R193, R277). -/
def portOf (u : Unit) (st : Strm) : Nat :=
  if u.who.isLm then u.cluster else 256 + u.id.core * 2 + (if st = .s then 1 else 0)

/-- Whether a cluster has a kept pulse now (R4, R340). -/
def pulseNow (s : State) (u : Unit) : Bool := (s.cluster u.cluster).pulse.pat.getLsbD (s.clk.now % 16)

/-- Whether a droop freeze holds the L word that a slot stands at (R341). -/
def droopHolds (s : State) (u : Unit) (st : Strm) : Bool :=
  decide (s.clk.now < (s.cluster u.cluster).pulse.freezeTo) &&
    (let op := fld (rawAt s u st) 88 7; decide (0x01 ≤ op) && decide (op ≤ 0x2F))

/-- Whether a stream has a word to offer now, parked or not: the port of its core is free for it. -/
def offers (s : State) (u : Unit) (st : Strm) : Bool :=
  eligible s u st && (match st with
    | .s => decide (u.yieldTo ≤ s.clk.now)
    | _ => decide (SMap.get 0 s.sch.lport u.id.core ≤ pulses s u.id.core) && !droopHolds s u st)

/-- Whether something has happened since a stream parked. -/
def stirred (s : State) (u : Unit) (st : Strm) : Bool :=
  match u.parkOf st with
  | none => true
  | some p => decide (p.tick ≠ s.sch.progress)

/-- Whether a stream is ready: it offers a word and is not parked (R266). -/
def readyNow (s : State) (u : Unit) (st : Strm) : Bool := offers s u st && (u.parkOf st).isNone

/-- The path slot that takes the lane turn: the slots alternate where both can issue (R131). -/
def laneTurn (s : State) (u : Unit) : Option Strm :=
  let can (st : Strm) : Bool := offers s u st && stirred s u st
  match can .l0, can .l1 with
  | true, true => some (if u.lS.turn then .l1 else .l0)
  | true, false => some .l0
  | false, true => some .l1
  | false, false => none

/-- A stream that can be chosen: its port and its place in the order of R266. -/
structure Cand where
  port : Nat
  rank : Nat
  unit : UnitId
  strm : Strm
  deriving DecidableEq, Repr

/-- The order at a port: warps that have waited 512 mclk by age, then by class and age. -/
def rankOf (wait cls age : Nat) : Nat := (if 512 ≤ wait then 0 else 4 - cls) * 2 ^ 64 + age

/-- The candidates of a unit. -/
def candsOf (s : State) (u : Unit) : List Cand :=
  if pulseNow s u then
    (if offers s u .s && stirred s u .s then
      [{ port := portOf u .s, rank := rankOf u.waitS u.who.cls u.ageS, unit := u.id, strm := .s }] else [])
    ++ (match laneTurn s u with
      | some st => [{ port := portOf u st, rank := rankOf u.waitL u.who.cls u.age, unit := u.id, strm := st }]
      | none => [])
  else []

/-- The next port in rotation that has not issued in this mclk, and its choice. -/
def pick (s : State) : Option Cand :=
  let l := (s.units.flatMap (fun e => candsOf s e.2)).filter (fun c => !s.sch.did.contains c.port)
  let after := l.filter (fun c => decide (s.sch.rr ≤ c.port))
  match leastBy (fun c => c.port) (if after.isEmpty then l else after) with
  | none => none
  | some b => leastBy (fun c => c.rank) (l.filter (fun c => decide (c.port = b.port)))

/-! ## Events that are due -/

/-- The background work of the TSI: migrations under way, and compressed pages with buffered writes (R313, R316). -/
def tenantDue (s : State) : Option Instr :=
  s.tenants.findSome? (fun t =>
    match t.2.side with
    | p :: _ => some (Instr.pageMigrationInstant t.1 p.1)
    | [] => match t.2.wbuf with
      | b :: _ =>
        if entState (t.2.entry (b.1 / 4096)) = 2 ∧ (anyFrame s).isSome then some (Instr.compressedPageExpand t.1 (b.1 / 4096)) else none
      | [] => none)

/-- The first event that the machine raises by itself (log 1). -/
def dueEvent (s : State) : Option Instr :=
  memDue s <|> engineDue s <|> gridDue s <|> matrixDue s <|> replicaDue s <|> plantDue s <|> tenantDue s

/-- Events that do not happen while every context is frozen (R204, R243, R338). -/
def frozenOut (i : Instr) : Bool :=
  match i with
  | .monitorTimeout _ | .cpmCreditTake _ | .quiescenceReport _ | .collectiveComplete _ _ | .matrixWordPerform _
  | .reservationGrant _ _ | .fixedResultWrite _ _ | .variableResultArrive _ _ | .impreciseTrapTake _
  | .homeWriteSerialize _ | .remoteAtomicPerform _ | .ackRetransmitTimeout _ | .poisonNotice _ | .bargeChunkMove _
  | .copyComplete _ | .queuePacketTake _ | .gridStart _ | .teamPlace _ | .ladingStage _ | .gridRetire _
  | .deadlinePreemptRequest _ | .preemptTimerExpire _ | .evictTeam _ | .teamReadmit _ | .replicaCompare _
  | .compareTimeout _ | .outvoteComplete _ | .waitForWalk => true
  | _ => false

/-- Events that wait until a checkpoint has been streamed, since they would change what it captures (R338; log 84): records, packets, doorbell writes
and commands stand at their ports, and an evacuation goes on afterwards. -/
def ckptOut (i : Instr) : Bool :=
  match i with
  | .ingressRecord _ _ _ | .fabricPacketReceive _ _ _ _ | .pageEvacuationInstant _ _ _ _ | .evacuationEnd _ | .tsiAgeingPeriod
  | .qtailWrite _ _ | .qstatWrite _ _ | .registerUncorrectable _ | .deadlineMiss _ | .contextResetDone _
  | .tenantWithdraw _ _ _ | .contextCreate _ _ _ | .contextDestroy _ _ | .setPageTableRoot _ _ _ | .mapLentRange _ _ _ _ _ _
  | .queueCreate _ _ _ | .queueDestroy _ _ | .allocateTimelines _ _ _ _ _ | .createWorkList _ _ _ _ _ _ _
  | .defineCollectiveGroup _ _ _ _ | .setSupervisorHandler _ _ _ | .setTrapSaveArea _ _ _ | .setShadowArea _ _ _ _ _
  | .setFaultLog _ _ _ _ | .setEvictionSaveArea _ _ _ | .touchstoneEnable _ _ _ | .debugAttach _ _ | .debugDetach _ _
  | .debugResume _ | .replicaFlip _ _ _ _ _ | .resetContext _ _ | .clearPoison _ _ _ | .setWindowEntry _ _ | .clearWindowEntry _ _ _
  | .requestPreemption _ _ _ | .releasePreemption _ _ | .createIngressChannel _ _ _ => true
  | _ => false

/-- Whether an instruction is a word of a stream, or what a stream meets in place of one: it issues at its stream's turn alone. -/
def streamWord (i : Instr) : Bool :=
  (encode i).isSome || (match i with | .illegalInstruction _ _ _ => true | _ => false)

/-- Whether an event may happen: without power only a power-up (R343), and in a freeze none of a context; a word is no event. -/
def eventOk (s : State) (i : Instr) : Bool :=
  if streamWord i then false
  else if s.plant.powered then !(s.plant.frozen && frozenOut i) && !(s.plant.ckpt.isSome && ckptOut i)
  else match i with | .modulePowerUp => true | _ => false

/-! ## The passing of an mclk -/

/-- A unit that waited through an mclk at a port with a ready word counts it (R266). -/
def waited (s : State) (u : Unit) : Unit :=
  let sat (st : Strm) : Bool := readyNow s u st && !s.sch.did.contains (10000 + ukey u.id * 2 + (if st = .s then 0 else 1))
  { u with waitS := u.waitS + (if sat .s then 1 else 0), waitL := u.waitL + (if sat .l0 || sat .l1 then 1 else 0) }

/-- Whether the tables hold another leaf than a cached one, or another non-leaf entry on the way to its region. -/
def Tlb.stale (s : State) (x : Tlb) : Bool := decide (x.place < 1000) && decide (walk s x.ctx x.dva ≠ .leaf x.entry)
def WalkE.stale (s : State) (x : WalkE) : Bool :=
  match rootTable s x.ctx with
  | none => true
  | some p => !(walkReads s 3 p (x.idx * coverage x.level)).any (fun r => decide (r.1 = x.level) && decide (r.2.2 = x.entry.toNat))

/-- The entries of a cache without those that are stale and that a free choice drops. -/
def dropSome {α : Type} (old : α → Bool) (n : Nat) (l : List α) : List α :=
  (l.zipIdx.filter (fun x => !old x.1 || Config.freeBool (n + x.2))).map (fun x => x.1)

/-- Translations that a change of the tables has made stale may leave their cache at any time before the invalidation
(R249, R250): each stays or goes. -/
def dropStale (s : State) : State :=
  if s.fl.tlb.any (Tlb.stale s) || s.fl.nodes.any (WalkE.stale s) then
    { s with fl := { s.fl with tlb := dropSome (Tlb.stale s) s.free s.fl.tlb,
                               nodes := dropSome (WalkE.stale s) (s.free + s.fl.tlb.length) s.fl.nodes },
             free := s.free + s.fl.tlb.length + s.fl.nodes.length }
  else s

/-- In holdover `tclk` runs from mclk with a drift of at most 2 ppm: in each 500 us at most 1 ns is gained or lost, by a free choice (R327). -/
def drift (s : State) : State :=
  if s.clk.holdover && decide ((s.clk.now + s.clk.held) % 1000000 = 0) then
    { s with free := s.free + 1, clk := { s.clk with tOff := (s.clk.tOff + Config.freeNat s.free % 3 + (2 ^ 64 - 1)) % 2 ^ 64 } }
  else s

/-- The patterns that a frame boundary takes up (R340). -/
def takePatterns (s : State) : State :=
  if s.clusters.any (fun c => rampDue c.2.pulse s.clk.now) then
    { s with clusters := s.clusters.map (fun (c : Nat × Cluster) => (c.1, { c.2 with pulse := c.2.pulse.ramped s.clk.now })) }
  else s

/-- The next mclk; while every context is frozen, only `tclk` advances (R243). -/
def tick (s0 : State) : State :=
  let s := drift (dropStale s0)
  if s.plant.frozen then { s with clk := { s.clk with held := s.clk.held + 1 } }
  else takePatterns { s with
    units := s.units.map (fun (e : Nat × Unit) => (e.1, waited s e.2)),
    clk := { s.clk with now := s.clk.now + 1 },
    sch := { s.sch with rr := 0, did := [] } }

/-! ## The plan of a step -/

/-- What a step does: an instruction, at a choice of the scheduler where there is one, or nothing more. -/
inductive Go where
  | run (i : Instr) (c : Option Cand)
  | pass
  deriving DecidableEq, Repr

/-- A stream's turn at its port, where it may issue. -/
def turnOf (s : State) (id : UnitId) (st : Strm) (c : Option Cand) : State × Go :=
  match s.unit? id with
  | none => (s, .pass)
  | some u => if eligible s u st then let r := nextOf s u st; (r.1, .run r.2 c) else (s, .pass)

/-- Whether the port of a stream can take its word in this mclk: a kept pulse, a free port, and a word to offer (R3, R4, R111). -/
def portFree (s : State) (u : Unit) (st : Strm) : Bool :=
  pulseNow s u && !s.sch.did.contains (portOf u st) && offers s u st

/-- A turn of the agenda for a stream: dropped where the stream may not issue, and kept for a later mclk while its port cannot take the word, or for
later where the other path slot has the lane turn (R131). -/
def agendaTurn (s : State) (id : UnitId) (st : Strm) (rest : List Turn) : State × Go :=
  match s.unit? id with
  | none => ({ s with agenda := rest }, .pass)
  | some u =>
    if !eligible s u st then ({ s with agenda := rest }, .pass)
    else if portFree s u st && decide (st ≠ .s) && decide (laneTurn s u = some (slotStrm (!strmSlot st))) then
      turnOf s id (slotStrm (!strmSlot st)) (some { port := portOf u st, rank := 0, unit := id, strm := slotStrm (!strmSlot st) })
    else if portFree s u st then
      turnOf { s with agenda := rest } id st (some { port := portOf u st, rank := 0, unit := id, strm := st })
    else (tick s, .pass)

/-- The next turn: the agenda's, where a turn that waits for a checkpoint lets its stream go on, else an event that is due, else the scheduler's choice, else the next mclk. -/
def plan (s : State) : State × Go :=
  match s.agenda with
  | .idle :: t => ({ tick s with agenda := t }, .pass)
  | .ev i :: t =>
    match (streamNext s).filter (fun _ => s.plant.powered && ckptOut i) with
    | some j => (s, .run j none)
    | none => ({ s with agenda := t }, if eventOk s i then .run i none else .pass)
  | .issue id st :: t => if s.plant.powered then agendaTurn s id st t else ({ s with agenda := t }, .pass)
  | [] =>
    if !s.plant.powered then (s, .pass)
    else if s.plant.frozen then
      (match (plantDue s).filter (eventOk s) with
        | some i => (s, .run i none)
        | none => (tick s, .pass))
    else match dueEvent s with
      | some i => (s, .run i none)
      | none => match pick s with
        | some c => turnOf s c.unit c.strm (some c)
        | none => (tick s, .pass)

/-- The bookkeeping before a meaning runs. -/
def unparked (s : State) : State := { s with sch := { s.sch with parked := false } }

/-- The bookkeeping after it: a word that parked made no progress; a word that issued uses its port for this mclk. -/
def settle (c : Option Cand) (s : State) : State :=
  if s.sch.parked then s
  else
    let p := s.sch.progress + 1
    match c with
    | none => { s with sch := { s.sch with progress := p } }
    | some x =>
      let d := x.port :: (10000 + ukey x.unit * 2 + (if x.strm = .s then 0 else 1)) :: s.sch.did
      let s1 := { s with sch := { s.sch with progress := p, rr := x.port + 1, did := d } }
      match s1.unit? x.unit with
      | some u => if u.stopped then s1.setUnit u.showStop else s1
      | none => s1

/-! ## Placing a word at the next fetch -/

/-- The fields of a unit that a placed word runs on where none is resident: images of one word at the start of core 0's slice. -/
def loneIdent (isLm : Bool) : Ident :=
  { ctx := 0, grid := 0, team := 0, wg := 0, isLm := isLm, producer := true, leader := true, cls := 0, rset := 0, rep := 0,
    rmode := 0, warpid := 0, wgid := 0, teamid := 0, dieid := 0, gridid := 0, coreid := 0, sbase := 0, slen := 1,
    lbase := 0x1000, llen := 1 }

/-- The unit at a place, or a new one; its stream's pc within its image, and nothing in the way of its next word. -/
def placedUnit (s : State) (id : UnitId) (isLm : Bool) (st : Strm) : Unit :=
  let u := (s.unit? id).getD (newUnit id (loneIdent isLm) 0 0 0)
  let side := { u.sS with marked := false, park := none }
  let tr := { u.trap with imp := if u.inHandler then u.trap.imp else [], due := none }
  let v : Unit := { u with stopped := false, yieldTo := 0, outvoted := false, code := [], sS := side, trap := tr }
  let w := match st with
    | .s => v
    | _ =>
      let x := v.slot (strmSlot st)
      let y := v.setSlot (strmSlot st) { x with live := true, marked := false, park := none, em := if x.live then x.em else 0xFFFFFFFF }
      { y with lS := { y.lS with turn := strmSlot st, running := match y.lS.running with
          | some r => some r
          | none => some { entry := 0, k := [0, 0, 0, 0], mask := 0, lqSeq := 0 } } }
  let n := imageLen s w st
  if n = 0 then
    ({ w with who := { w.who with slen := 1, llen := 1 }, trap := { w.trap with sup := false } } : Unit).setPc st 0
  else if n ≤ w.pcOf st then w.setPc st 0
  else w

/-- The bytes of a placed word: an S word of 4, an L word of 12. -/
def placeBytes (s : State) (u : Unit) (st : Strm) (w : Nat) : State :=
  let a := match st with
    | .s => (images s u).1 + 4 * u.pcOf st
    | _ => (images s u).2.2.1 + 12 * u.pcOf st
  { s with mem := { s.mem with sram := writeAll s.mem.sram (bytesAt a (leBytes (match st with | .s => 4 | _ => 12) w)) } }

/-- A cluster that keeps a pulse now and is in no droop freeze. -/
def clearPulse (s : State) (cl : Nat) : State :=
  let c := s.cluster cl
  if c.pulse.pat.getLsbD (s.clk.now % 16) && decide (c.pulse.freezeTo ≤ s.clk.now) then s
  else s.setCluster cl { c with pulse := { c.pulse.setPat s.clk.now 0xFFFF with freezeTo := 0 } }

/-- Whether an S word is one that only a lockmaster takes. -/
def lmWord (nbits w : Nat) : Bool := decide (nbits = 32) && decide (0x30 ≤ fld w 25 6) && decide (fld w 25 6 ≤ 0x35)

/-- The machine with a word placed where its next step fetches: at the cursor's unit, or its cluster's lockmaster for a matrix word,
on the S-stream for 32 bits and path slot 0 for more. -/
def placeWord (s : State) (nbits w : Nat) : State :=
  let isLm := lmWord nbits w
  let id : UnitId := if isLm then ⟨s.cur.core / 4 * 4, 32⟩ else ⟨s.cur.core, if s.cur.slot = 32 then 0 else s.cur.slot⟩
  let st : Strm := if nbits ≤ 32 then .s else .l0
  let u := placedUnit s id isLm st
  let s1 := placeBytes ((clearPulse s u.cluster).setUnit u) u st w
  { s1 with
    sch := { s1.sch with did := [], lport := SMap.del s1.sch.lport id.core },
    agenda := [.issue id st],
    units := if s1.units.any (fun e => e.2.outvoted) then s1.units.map (fun (e : Nat × Unit) => (e.1, { e.2 with outvoted := false })) else s1.units,
    wgs := SMap.upd s1.wgs u.who.wg (fun x => { x with staged := true }),
    plant := { s1.plant with frozen := false, powered := true } }

end Sys2Proof.Machine
end

