-- ==== Sys2Proof/Machine/Step.lean ====
section
/-! DEFINITION. One step: the plan of `Sched`, the meaning of its instruction, and the bookkeeping around it. -/

namespace Sys2Proof.Machine

/-- One step of the machine. -/
def step (s : State) : Host.Outcome State Fault Refusal :=
  match plan s with
  | (t, .pass) => .next t
  | (t, .run i c) => match exec i (unparked t) with
    | .next r => .next (settle c r)
    | .fault f => .fault f
    | .refused r => .refused r

/-- The machine with a word placed where its next step fetches. -/
def State.withFetchWord (s : State) (nbits w : Nat) : State := placeWord s nbits w

end Sys2Proof.Machine
end

