-- ==== Sys2Proof/Safety.lean ====
section
/-! DEFINITION. What the claims call a sound state and a safe step, and when a word is ready: the conditions on the
state and the operands alone under which a claim says that it completes. -/

namespace Sys2Proof.Machine

/-- The canonical form of memory: addresses rise strictly, and no listed byte is what an unlisted address reads as, 0. -/
def Memory.wf (m : Memory) : Bool :=
  SMap.wf 0 m.sram && SMap.wf 0 m.hbm && SMap.wf 0 m.far && SMap.wf 0 m.mirror

/-- Every unit stands at its own place in the table of units. -/
def State.placed (s : State) : Prop := ∀ e ∈ s.units, e.1 = ukey e.2.id

/-- What every step keeps: memory in canonical form, and every unit at its own place. -/
def State.Inv (s : State) : Prop := Memory.wf s.mem = true ∧ s.placed

/-- A step that neither faults nor is refused. -/
def safe (s : State) : Prop := ∃ t, step s = .next t

/-! ## Words of the S-stream -/

/-- Unit `u` stands at the cursor, which is its own place; none of `regs` is pending (R21) or waits for a mailbox of the interrupted program (R23). -/
def SReady (s : State) (u : Unit) (regs : List SReg) : Prop :=
  s.unit? s.cur = some u ∧ u.id = s.cur ∧ u.handlerMb regs = none ∧ regs.any u.sPend = false

/-- The machine after an S word of `u` issued: the stream stands at `pc`, and the results `rs` are in flight for `lat`
mclk (R22, R85). -/
def sAfter (s : State) (u : Unit) (m : Bool) (lat : Nat) (rs : List FRes) (pc : Nat) : State :=
  s.setUnit (u.sDone m (flights s u.id.core lat rs) pc)

/-- As `sAfter`, at the word after. -/
def sNext (s : State) (u : Unit) (m : Bool) (lat : Nat) (rs : List FRes) : State := sAfter s u m lat rs (u.sS.spc + 1)

/-- A transfer target lies in the S image (R93). -/
def inImage (s : State) (u : Unit) (t : Int) : Prop := 0 ≤ t ∧ t < (sLen s u : Int)

/-- The registers, the trap registers and the lane side of a unit: what issuing a register word leaves as it is. -/
def sameRegs (u v : Unit) : Prop :=
  (∀ r, v.rs r = u.rs r) ∧ (∀ p, v.rp p = u.rp p) ∧ v.sS.kst = u.sS.kst ∧ v.lS = u.lS ∧ v.mbVal = u.mbVal ∧
    v.trap = u.trap ∧ v.fpmode = u.fpmode ∧ v.pend = u.pend ∧ v.who = u.who

/-- The registers of a unit, S side and lane side: what a word that leaves its results pending or in flight, or has none,
does not change at issue. -/
def sameArch (u v : Unit) : Prop :=
  (∀ r, v.rs r = u.rs r) ∧ (∀ p, v.rp p = u.rp p) ∧ v.sS.kst = u.sS.kst ∧ v.lS.v = u.lS.v ∧ v.lS.q = u.lS.q ∧
    v.mbVal = u.mbVal ∧ v.trap = u.trap ∧ v.fpmode = u.fpmode ∧ v.who = u.who

/-- The S stream of the unit at the cursor, which was `u`, stands at the next word, and no register has changed. -/
def sOn (s t : State) (u : Unit) : Prop := ∃ v, t.unit? s.cur = some v ∧ v.sS.spc = u.sS.spc + 1 ∧ sameArch u v

/-- Path slot `i` of the unit at the cursor, which was `u`, stands at the next word, and no register has changed. -/
def lOn (s t : State) (u : Unit) (i : Bool) : Prop :=
  ∃ v, t.unit? s.cur = some v ∧ (v.slot i).lpc = (u.slot i).lpc + 1 ∧ sameArch u v

/-- Every byte of every memory reads as before. -/
def sameMem (s t : State) : Prop :=
  (∀ a, homeByte t a = homeByte s a) ∧ t.mem = s.mem

/-- Every byte of every memory is listed as before; only poison may differ. -/
def sameBytes (s t : State) : Prop :=
  t.mem.sram = s.mem.sram ∧ t.mem.hbm = s.mem.hbm ∧ t.mem.far = s.mem.far ∧ t.mem.mirror = s.mem.mirror

/-- Every byte of global SRAM, HBM4 and the far tier is as before; a mirror and the marks of its copies may differ. -/
def sameHome (s t : State) : Prop := t.mem.sram = s.mem.sram ∧ t.mem.hbm = s.mem.hbm ∧ t.mem.far = s.mem.far

/-- Byte `a` belongs to `qhead` or `qstat` of a doorbell block in global SRAM, which the hardware writes (R254). -/
def bellByte (s : State) (a : Nat) : Prop :=
  ∃ e ∈ s.queues, e.2.desc.tenant = none ∧ e.2.desc.bell + 8 ≤ a ∧ a < e.2.desc.bell + 24

/-- Between `s` and `t` no home byte changes but those of `n` bytes from `x`, and of doorbell blocks. -/
def onlyBytes (s t : State) (x n : Nat) : Prop :=
  ∀ a, ¬ (x ≤ a ∧ a < x + n) → ¬ bellByte s a → homeByte t a = homeByte s a

/-- The `n` home bytes from `x` hold `v`, least significant first, outside doorbell blocks. -/
def holds (s t : State) (x n v : Nat) : Prop :=
  ∀ k, k < n → ¬ bellByte s (x + k) → homeByte t (x + k) = BitVec.ofNat 8 (v / 2 ^ (8 * k))

/-- Every unit but the one at `id` is as before. -/
def otherUnits (s t : State) (id : UnitId) : Prop := ∀ k, ukey k ≠ ukey id → t.unit? k = s.unit? k

/-- A load of stream `st` that reads at once may read the accesses `l` of `n` bytes: no earlier acquire and no store of the unit that must be
readable first is outstanding, and every sector is sound (R214, R211, R233). -/
def readsNow (s : State) (u : Unit) (st : Strm) (n : Nat) (l : List (Nat × Nat)) : Prop :=
  acquireHeld u st = false ∧ storeBlocks s u st s.fl.seq (accBytes n l) = false ∧ ∀ e ∈ l, sectorBad s u.die e.2 = false

/-- A pending load of `n` bytes at each access of `accs` reads sound home bytes: no store that is outstanding and no held entry of the unit has one of
them, and nothing but the load decides its value. -/
def readsHome (s : State) (v : Unit) (p : Pend) (n : Nat) (accs : List (Nat × Nat)) : Prop :=
  p.saved = false ∧ p.flip = [] ∧ p.own = [] ∧ p.share = none ∧ v.assay.held = [] ∧
    ∀ e ∈ accs, sectorBad s v.die e.2 = false ∧ ∀ q ∈ s.fl.stores, ∀ k, k < n → SMap.look q.bytes (e.2 + k) = none

/-- No touchstone and no replica concerns the unit: the context's touchstone is off and the unit is simplex. -/
def plain (s : State) (u : Unit) : Prop :=
  u.who.rset = 0 ∧ (match SMap.look s.ctxs u.who.ctx with | some c => c.tsOn = false | none => True)

/-- A release of scope `sc` on stream `st` passes at once: no ack-loss is held, and nothing earlier is outstanding (R213). -/
def relClear (s : State) (u : Unit) (st : Strm) (sc : Scope) : Prop := u.ackLoss = none ∧ releaseHeld s u st sc = false

/-- A word of order `o` and scope `sc` has no release to wait for. -/
def relOk (s : State) (u : Unit) (st : Strm) (o : Order) (sc : Scope) : Prop := relOrd o = true → relClear s u st sc

/-- The unit after the release, if any, of a word of order `o` (R156). -/
def afterRel (u : Unit) (o : Order) (sc : Scope) : Unit := if relOrd o then u.released sc else u

/-- No move of a context's page is waiting for the end of its invalidation (R250, R251). -/
def noMoves (s : State) : Prop := ∀ v ∈ s.fl.invals, v.moved = none

/-- A cluster's pattern is on its way to what a safeguard sets, every second pulse, which a frame boundary takes whole (R340, R343). -/
def braked (t : State) (now cl : Nat) : Prop :=
  (t.cluster cl).pulse.target = 0x5555 ∧ (t.cluster cl).pulse.safe = true ∧ (now % 16 = 0 → (t.cluster cl).pulse.pat = 0x5555)

/-- The S words that only compute: the registers for which R21 makes each wait, and the `s` and the `p` register it writes. -/
def regWord (i : Instr) : Option (List SReg × Option SReg × Option PReg) :=
  match i with
  | .add _ d a b | .sub _ d a b | .and _ d a b | .or _ d a b | .xor _ d a b | .shl _ d a b | .shr _ d a b | .sar _ d a b
  | .mul _ d a b | .mulhiU64 _ d a b | .mulhiS64 _ d a b | .minS64 _ d a b | .minU64 _ d a b | .maxS64 _ d a b
  | .maxU64 _ d a b | .divU64 _ d a b | .divS64 _ d a b | .remU64 _ d a b | .remS64 _ d a b | .andn _ d a b
  | .orn _ d a b | .sel _ d a b _ _ => some ([d, a, b], some d, none)
  | .popc _ d a | .clz _ d a | .ctz _ d a | .addImm _ d a _ | .andImm _ d a _ | .orImm _ d a _ | .xorImm _ d a _
  | .shlImm _ d a _ | .shrImm _ d a _ | .sarImm _ d a _ | .mulImm _ d a _ => some ([d, a], some d, none)
  | .shin _ d _ => some ([d, d], some d, none)
  | .cmp _ p _ a b => some ([a, b], none, some p)
  | .cmpImm _ p _ a _ => some ([a], none, some p)
  | .pand _ p _ _ _ _ | .por _ p _ _ _ _ | .pxor _ p _ _ _ _ => some ([], none, some p)
  | .nop _ => some ([], none, none)
  | _ => none

/-! ## Words of the lane stream -/

/-- The number of a value; none for an infinity and a NaN. -/
def FVal.num (v : FVal) : Option Rat :=
  match v with
  | .fin s m e => some ((if s then -1 else 1) * (m : Rat) * (2 : Rat) ^ e)
  | _ => none

/-- The number that a code of a floating format stands for. -/
def Fmt.num (f : Fmt) (x : Nat) : Option Rat := (f.decode x).num

/-- The lane words that compute on integers or move, and raise no flag. -/
def laneOnly (i : Instr) : Option LA :=
  match i with
  | .laneAddI w | .laneSubI w | .laneMulI w | .laneMulhi w | .laneMad w | .laneMinI w | .laneMaxI w | .laneAnd w | .laneOr w
  | .laneXor w | .laneAndn w | .laneShl w | .laneShr w | .lanePopc w | .laneClz w | .laneCtz w | .laneBrev w | .laneAbsI w
  | .laneNegI w | .laneCmpI w | .laneBdot w | .laneMov w | .laneSel w | .laneLsw w | .laneBsel w | .lanePoll w | .qand w
  | .qor w | .qxor w | .qandn w | .qmov w | .qcnt w => some w
  | _ => none

/-- Unit `u` stands at the cursor, which is its own place, on path slot `i` at the start of a step, and none of `regs` is
pending (R21). -/
def LReady (s : State) (u : Unit) (i : Bool) (regs : List (Nat × Nat)) : Prop :=
  s.unit? s.cur = some u ∧ u.id = s.cur ∧ s.sch.parked = false ∧ strmSlot s.curS = i ∧ regs.any (fun r => u.vPend r.1 r.2) = false

/-- The active lanes of a lane word with guard `g` (R109). -/
def laneAct (s : State) (u : Unit) (i : Bool) (g : Guard) : Mask :=
  let q := u.crossQ (s.free + 8192) i g.q
  (u.slot i).em &&& (if g.neg then ~~~q else q)

/-- The machine after a lane word of `u` issued: its slot stands at the next word, the results `rs` are in flight for
`lat` mclk, and the core's L port is held for `iv` (R22, R111). -/
def lNext (s : State) (u : Unit) (i m : Bool) (iv lat : Nat) (rs : List FRes) : State :=
  holdPort (spendFree (s.setUnit (u.lDone i m (flights s u.id.core lat rs)
    ((u.slot i).lpc + 1))) u) u.id.core iv

end Sys2Proof.Machine
end

