-- ==== Sys2Proof/WellFormed.lean ====
section
/-! DEFINITION. Well-formed instructions: the values that the field types leave open and the spec refuses (R52, R55,
R56, R61, R145, R146, R160, R186). -/

namespace Sys2Proof

open Sys2Proof.Machine

/-- Orders of loads (R52). -/
def Order.loadOk (o : Order) : Bool := decide (o = .rlx) || decide (o = .acq)

/-- Orders of stores and of barrier arrivals (R52). -/
def Order.storeOk (o : Order) : Bool := decide (o = .rlx) || decide (o = .rel)

/-- Types of stores (R51). -/
def MTy.storeOk (t : MTy) : Bool :=
  decide (t = .u8) || decide (t = .u16) || decide (t = .u32) || decide (t = .b64)

/-- A register that starts an aligned group of `n` (R160, R186). -/
def SReg.aligned (r : SReg) (n : Nat) : Bool := decide (r.toNat % n = 0)

/-- An SRAM operand names an even register (R186). -/
def MOp.ok (x : MOp) : Bool :=
  match x with
  | .tile _ _ => true
  | .sram r => SReg.aligned r 2

/-- Whether an instruction is well formed: an S or L word passes every check of R64; an event always is. -/
def Instr.wf (i : Instr) : Bool :=
  match laShape i with
  | some (_, sh, w) => (laCheck sh (laRaw w)).isNone &&
      (match sh.md with | .xreq rel => decide ((2 ≤ w.md.toNat % 4) = (rel = true)) | _ => true)
  | none => match lmCode i with
    | some (op, fn, w) => (lmCheck op (lmRaw w)).isNone && (decide (op ≠ 0x77) || decide (w.fn.toNat = fn))
    | none => match lcCode i with
      | some (op, w) => (lcCheck op (w.g.neg.toNat * 8 + w.g.q.toNat) 0 0 w.off.toNat).isNone
      | none => match i with
        | .add m d a b => m || decide (d ≠ 0) || decide (a ≠ 0) || decide (b ≠ 0)
        | .ldp _ _ _ _ o _ _ _ | .ldg _ _ _ _ o _ _ _ | .ldh _ _ _ _ o _ _ _ => o.loadOk
        | .stp _ _ _ t o _ _ _ | .stg _ _ _ t o _ _ _ | .sth _ _ _ t o _ _ _ => o.storeOk && t.storeOk
        | .atom _ d _ op _ _ _ _ => decide (op ≠ .cas) || SReg.aligned d 2
        | .fence _ o _ => decide (o ≠ .rlx)
        | .barArrive _ _ o _ | .nbarArrive _ _ _ o _ | .dbarArrive _ _ o _ => o.storeOk
        | .barWait _ o _ | .nbarWait _ _ o _ | .dbarWait _ o _ => o.loadOk
        | .cp2 _ _ _ _ c => SReg.aligned c 4
        | .cp3 _ _ _ _ c => SReg.aligned c 8
        | .cpm _ _ _ c => SReg.aligned c 4
        | .wtake _ _ _ c => SReg.aligned c 2
        | .mma _ _ a b _ => a.ok && b.ok
        | .mdrn _ _ a _ _ | .mspl _ _ a _ _ => SReg.aligned a 2
        | _ => true

end Sys2Proof
end

