-- ==== Sys2Proof/Certificates/Slice0/Obligations.lean ====
section
/-! DEFINITION. The statements for the provers: what the machine is, word by word and event by event, the frames, the
invariants of a step, and that decoding and encoding agree. -/

open Sys2Proof Sys2Proof.Machine

/-! ## Words of the S-stream that compute -/

/-- R86, R87, R85: every register ALU word completes with f(S[a], S[b]) on its way to S[d]. R86: `popc`, `clz` and `ctz`. The count `n` of leading zeros is stated by its property: the top n bits are 0, and the
bit below them is 1 where there is one. -/
def Obligations.AluResults : Prop :=
  (∀ s u m d a b, SReady s u [d, a, b] →
    let x := u.rs a; let y := u.rs b
    let gives (i : Instr) (lat : Nat) (v : Word) : Prop := exec i s = .next (sNext s u m lat [.s d v])
    gives (.add m d a b) 4 (BitVec.ofNat 64 (x.toNat + y.toNat)) ∧
    gives (.sub m d a b) 4 (BitVec.ofInt 64 ((x.toNat : Int) - y.toNat)) ∧
    gives (.and m d a b) 4 (x &&& y) ∧
    gives (.or m d a b) 4 (x ||| y) ∧
    gives (.xor m d a b) 4 (x ^^^ y) ∧
    gives (.shl m d a b) 4 (BitVec.ofNat 64 (x.toNat * 2 ^ (y.toNat % 64))) ∧
    gives (.shr m d a b) 4 (BitVec.ofNat 64 (x.toNat / 2 ^ (y.toNat % 64))) ∧
    gives (.sar m d a b) 4 (BitVec.ofInt 64 (x.toInt / 2 ^ (y.toNat % 64))) ∧
    gives (.mul m d a b) 8 (BitVec.ofNat 64 (x.toNat * y.toNat)) ∧
    gives (.mulhiU64 m d a b) 8 (BitVec.ofNat 64 (x.toNat * y.toNat / 2 ^ 64)) ∧
    gives (.mulhiS64 m d a b) 8 (BitVec.ofInt 64 (x.toInt * y.toInt / 2 ^ 64)) ∧
    gives (.minS64 m d a b) 4 (if x.toInt ≤ y.toInt then x else y) ∧
    gives (.minU64 m d a b) 4 (if x.toNat ≤ y.toNat then x else y) ∧
    gives (.maxS64 m d a b) 4 (if x.toInt ≤ y.toInt then y else x) ∧
    gives (.maxU64 m d a b) 4 (if x.toNat ≤ y.toNat then y else x) ∧
    gives (.divU64 m d a b) 40 (if y = 0 then BitVec.allOnes 64 else BitVec.ofNat 64 (x.toNat / y.toNat)) ∧
    gives (.divS64 m d a b) 40 (if y = 0 then BitVec.ofInt 64 (-1) else BitVec.ofInt 64 (x.toInt.tdiv y.toInt)) ∧
    gives (.remU64 m d a b) 40 (if y = 0 then x else BitVec.ofNat 64 (x.toNat - y.toNat * (x.toNat / y.toNat))) ∧
    gives (.remS64 m d a b) 40 (if y = 0 then x else BitVec.ofInt 64 (x.toInt - y.toInt * x.toInt.tdiv y.toInt)) ∧
    gives (.andn m d a b) 4 (x &&& ~~~y) ∧
    gives (.orn m d a b) 4 (x ||| ~~~y)) ∧
  (∀ s u m d a, SReady s u [d, a] →
    let x := u.rs a
    exec (.popc m d a) s = .next (sNext s u m 4 [.s d (BitVec.ofNat 64 ((List.range 64).countP (fun i => x.getLsbD i)))]) ∧
    (∃ n, exec (.clz m d a) s = .next (sNext s u m 4 [.s d (BitVec.ofNat 64 n)]) ∧ n ≤ 64 ∧ x.toNat < 2 ^ (64 - n) ∧
      (n < 64 → x.getLsbD (63 - n) = true)) ∧
    (∃ n, exec (.ctz m d a) s = .next (sNext s u m 4 [.s d (BitVec.ofNat 64 n)]) ∧ n ≤ 64 ∧
      (∀ k, k < n → x.getLsbD k = false) ∧ (n < 64 → x.getLsbD n = true)))

/-- R88, R89: the immediate words are the register words with imm13 sign-extended, and `shin` shifts 19 bits in. -/
def Obligations.ImmediateResults : Prop :=
  ∀ s u m d a, SReady s u [d, a] → ∀ (i : BitVec 13) (n : BitVec 6) (w : BitVec 19),
    let x := u.rs a
    let gives (j : Instr) (lat : Nat) (v : Word) : Prop := exec j s = .next (sNext s u m lat [.s d v])
    gives (.addImm m d a i) 4 (BitVec.ofInt 64 ((x.toNat : Int) + i.toInt)) ∧
    gives (.andImm m d a i) 4 (x &&& BitVec.ofInt 64 i.toInt) ∧
    gives (.orImm m d a i) 4 (x ||| BitVec.ofInt 64 i.toInt) ∧
    gives (.xorImm m d a i) 4 (x ^^^ BitVec.ofInt 64 i.toInt) ∧
    gives (.shlImm m d a n) 4 (BitVec.ofNat 64 (x.toNat * 2 ^ n.toNat)) ∧
    gives (.shrImm m d a n) 4 (BitVec.ofNat 64 (x.toNat / 2 ^ n.toNat)) ∧
    gives (.sarImm m d a n) 4 (BitVec.ofInt 64 (x.toInt / 2 ^ n.toNat)) ∧
    gives (.mulImm m d a i) 8 (BitVec.ofInt 64 ((x.toNat : Int) * i.toInt)) ∧
    (a = d → gives (.shin m d w) 4 (BitVec.ofNat 64 (x.toNat * 2 ^ 19 + w.toNat)))

/-- R90, R91, R92: compares write one predicate, predicate words combine two, and `sel` picks a register; how each is encoded,
and the causes of words of these majors that are not instructions. -/
def Obligations.PredicateResults : Prop :=
  (∀ s u m p c a b, SReady s u [a, b] →
    let x := u.rs a; let y := u.rs b
    exec (.cmp m p c a b) s = .next (sNext s u m 4 [.p p (match c with
      | .eq => decide (x = y) | .ne => decide (x ≠ y)
      | .slt => decide (x.toInt < y.toInt) | .sge => decide (y.toInt ≤ x.toInt)
      | .ult => decide (x.toNat < y.toNat) | .uge => decide (y.toNat ≤ x.toNat)
      | .tst => decide (x &&& y ≠ 0) | .tnz => decide (x &&& y = 0))])) ∧
  (∀ s u m p c a i, SReady s u [a] →
    let x := u.rs a; let y : Word := BitVec.ofInt 64 (BitVec.toInt i)
    exec (.cmpImm m p c a i) s = .next (sNext s u m 4 [.p p (match c with
      | .eq => decide (x = y) | .ne => decide (x ≠ y)
      | .slt => decide (x.toInt < y.toInt) | .sge => decide (y.toInt ≤ x.toInt)
      | .ult => decide (x.toNat < y.toNat) | .uge => decide (y.toNat ≤ x.toNat)
      | .tst => decide (x &&& y ≠ 0) | .tnz => decide (x &&& y = 0))])) ∧
  (∀ s u m p pa na pb nb, SReady s u [] →
    let x := xor (u.rp pa) na; let y := xor (u.rp pb) nb
    exec (.pand m p pa na pb nb) s = .next (sNext s u m 4 [.p p (x && y)]) ∧
    exec (.por m p pa na pb nb) s = .next (sNext s u m 4 [.p p (x || y)]) ∧
    exec (.pxor m p pa na pb nb) s = .next (sNext s u m 4 [.p p (xor x y)])) ∧
  (∀ s u m d a b neg p, SReady s u [d, a, b] →
    exec (.sel m d a b neg p) s = .next (sNext s u m 4 [.s d (if xor (u.rp p) neg then u.rs a else u.rs b)])) ∧
  (∀ (m : Bool) (p : PReg) c (a b : SReg) (i : BitVec 13),
    let code : Nat := match c with | .eq => 0 | .ne => 1 | .slt => 2 | .sge => 3 | .ult => 4 | .uge => 5 | .tst => 6 | .tnz => 7
    let head (mj : Nat) : Nat := m.toNat * 2 ^ 31 + mj * 2 ^ 25 + p.toNat * 2 ^ 22 + code * 2 ^ 19 + a.toNat * 2 ^ 13
    encodeS (.cmp m p c a b) = some (head 0x0A + b.toNat * 2 ^ 7) ∧ encodeS (.cmpImm m p c a i) = some (head 0x0B + i.toNat)) ∧
  (∀ (m : Bool) (p pa : PReg) (na : Bool) (pb : PReg) (nb : Bool) (d a b : SReg),
    let word (op : Nat) : Nat := m.toNat * 2 ^ 31 + 0x0C * 2 ^ 25 + p.toNat * 2 ^ 22 + pa.toNat * 2 ^ 19 + na.toNat * 2 ^ 18 +
      pb.toNat * 2 ^ 15 + nb.toNat * 2 ^ 14 + op * 2 ^ 12
    encodeS (.pand m p pa na pb nb) = some (word 0) ∧ encodeS (.por m p pa na pb nb) = some (word 1) ∧
    encodeS (.pxor m p pa na pb nb) = some (word 2) ∧
    encodeS (.sel m d a b na p) = some (m.toNat * 2 ^ 31 + 0x0D * 2 ^ 25 + d.toNat * 2 ^ 19 + a.toNat * 2 ^ 13 + b.toNat * 2 ^ 7 +
      (na.toNat * 2 ^ 6 + p.toNat * 2 ^ 3))) ∧
  (∀ lm w, (bf w 25 6 = 0x0A → bf w 0 7 ≠ 0 → decodeS lm w = .bad 0x15 0) ∧
    (bf w 25 6 = 0x0C → bf w 12 2 = 3 → decodeS lm w = .bad 0x14 12) ∧
    (bf w 25 6 = 0x0C → bf w 12 2 ≠ 3 → bf w 0 12 ≠ 0 → decodeS lm w = .bad 0x15 0) ∧
    (bf w 25 6 = 0x0D → bf w 0 3 ≠ 0 → decodeS lm w = .bad 0x15 0))

/-- R93, R94, R95: where each transfer goes, and what it writes; how the relative ones are encoded. R9, R93, R94: a transfer whose target lies outside the image takes the code-range trap at its own word, as the shared
trap entry gives it, and does nothing else. -/
def Obligations.TransferWords : Prop :=
  ((∀ s u m neg p off, SReady s u [] → (xor (u.rp p) neg = true → inImage s u ((u.sS.spc : Int) + off.toInt)) →
    exec (.br m neg p off) s = .next (sAfter s u m 4 []
      (if xor (u.rp p) neg then ((u.sS.spc : Int) + off.toInt).toNat else u.sS.spc + 1))) ∧
  (∀ s u m neg p off, SReady s u [60] → (xor (u.rp p) neg = true → inImage s u ((u.sS.spc : Int) + off.toInt)) →
    exec (.call m neg p off) s = .next (
      if xor (u.rp p) neg then sAfter s u m 4 [.s 60 (BitVec.ofNat 64 (u.sS.spc + 1))] ((u.sS.spc : Int) + off.toInt).toNat
      else sNext s u m 4 [])) ∧
  (∀ s u m a, SReady s u [a] → inImage s u (u.rs a).toNat →
    exec (.jr m a) s = .next (sAfter s u m 4 [] (u.rs a).toNat)) ∧
  (∀ s u m a, SReady s u [a, 60] → inImage s u (u.rs a).toNat →
    exec (.callr m a) s = .next (sAfter s u m 4 [.s 60 (BitVec.ofNat 64 (u.sS.spc + 1))] (u.rs a).toNat)) ∧
  (∀ s u m, SReady s u [60] → inImage s u (u.rs 60).toNat →
    exec (.ret m) s = .next (sAfter s u m 4 [] (u.rs 60).toNat)) ∧
  (∀ s u m c off, SReady s u [c] → (1 < (u.rs c).toNat → inImage s u ((u.sS.spc : Int) + off.toInt)) →
    exec (.loop m c off) s = .next (
      if (u.rs c).toNat = 0 then sNext s u m 4 []
      else if (u.rs c).toNat = 1 then sNext s u m 4 [.s c 0]
      else sAfter s u m 4 [.s c (u.rs c - 1)] ((u.sS.spc : Int) + off.toInt).toNat)) ∧
  (∀ (m neg : Bool) (p : PReg) (off : BitVec 21) (c : SReg) (k : BitVec 19),
    encodeS (.br m neg p off) = some (m.toNat * 2 ^ 31 + 0x10 * 2 ^ 25 + neg.toNat * 2 ^ 24 + p.toNat * 2 ^ 21 + off.toNat) ∧
    encodeS (.call m neg p off) = some (m.toNat * 2 ^ 31 + 0x11 * 2 ^ 25 + neg.toNat * 2 ^ 24 + p.toNat * 2 ^ 21 + off.toNat) ∧
    encodeS (.loop m c k) = some (m.toNat * 2 ^ 31 + 0x13 * 2 ^ 25 + c.toNat * 2 ^ 19 + k.toNat))) ∧
  ((∀ s u m neg p off, SReady s u [] → xor (u.rp p) neg = true → ¬ inImage s u ((u.sS.spc : Int) + off.toInt) →
    exec (.br m neg p off) s = trapS s u 0x26 (wrapInt 64 ((u.sS.spc : Int) + off.toInt)) 0) ∧
  (∀ s u m neg p off, SReady s u [60] → xor (u.rp p) neg = true → ¬ inImage s u ((u.sS.spc : Int) + off.toInt) →
    exec (.call m neg p off) s = trapS s u 0x26 (wrapInt 64 ((u.sS.spc : Int) + off.toInt)) 0) ∧
  (∀ s u m a, SReady s u [a] → ¬ inImage s u (u.rs a).toNat →
    exec (.jr m a) s = trapS s u 0x26 (u.rs a).toNat 0) ∧
  (∀ s u m a, SReady s u [a, 60] → ¬ inImage s u (u.rs a).toNat →
    exec (.callr m a) s = trapS s u 0x26 (u.rs a).toNat 0) ∧
  (∀ s u m, SReady s u [60] → ¬ inImage s u (u.rs 60).toNat →
    exec (.ret m) s = trapS s u 0x26 (u.rs 60).toNat 0) ∧
  (∀ s u m c off, SReady s u [c] → 1 < (u.rs c).toNat → ¬ inImage s u ((u.sS.spc : Int) + off.toInt) →
    exec (.loop m c off) s = trapS s u 0x26 (wrapInt 64 ((u.sS.spc : Int) + off.toInt)) 0))

/-! ## Staging, lane runs, special registers -/

/-- R96, R97, R98, R99: `lk` writes a staging register; `lq` puts a run of lane words into the queue behind those already
there, with the staged values and one more count on each mailbox of its mask, and starts it where the lane side is idle;
`lqw` passes once the lane side is idle; `rdmb` leaves a pending read of the mailbox. -/
def Obligations.StagingResults : Prop :=
  (∀ s u m k a, SReady s u [a] → exec (.lk m k a) s = .next (sNext s u m 4 [.kst k (u.rs a)])) ∧
  (∀ s u m mask entry, SReady s u [] → entry.toNat < lLen s u → u.queueUse < 8 →
    ∃ t v, exec (.lq m mask entry) s = .next t ∧ t.unit? s.cur = some v ∧ v.sS.spc = u.sS.spc + 1 ∧
      v.lS.running.toList ++ v.lS.queue = u.lS.running.toList ++ u.lS.queue ++
        [{ entry := entry.toNat, k := (List.range 4).map (fun n => SMap.get 0 u.sS.kst n), mask := mask, lqSeq := s.fl.seq }] ∧
      (∀ n, n < 4 → SMap.get 0 v.mbCnt n = SMap.get 0 u.mbCnt n + (if mask.getLsbD n then 1 else 0)) ∧
      (u.laneIdle = true → v.lS.slot0 = { Slot.idle with live := true, lpc := entry.toNat, em := 0xFFFFFFFF }) ∧
      t.mem = s.mem) ∧
  (∀ s u m, SReady s u [] → u.laneIdle = true →
    exec (.lqw m) s = .next (s.setUnit ({ u with lqwSeq := s.fl.seq }.sDone m [] (u.sS.spc + 1)))) ∧
  (∀ s u m d n, SReady s u [d] →
    exec (.rdmb m d n) s = .next (issuePend s u .s m 1 (newPend s u .s (.s d) (.mailbox n) false 1 none)))

/-- R17, R18, R100: what `rsr` reads from each listed register on a warp and on a lockmaster; a warp's `fpmode` only once
the lane side is idle, and `tclk` as a pending result. R16, R17, R19, R100: `wsr` writes `fpmode` with a rounding mode of 1 to 5 and its reserved bits 0, and in a handler the
trap registers; everywhere else it takes the illegal-instruction trap with cause 0x0019 or 0x001A. -/
def Obligations.SpecialRegisterWords : Prop :=
  (∀ s u m d, SReady s u [d] →
    let reads (n : SReg) (v : Word) : Prop := exec (.rsr m d n) s = .next (sNext s u m 6 [.s d v])
    let lm := u.who.isLm
    (lm = true ∨ u.laneIdle = true → reads 0x00 (if lm then 0 else u.fpmode.setWidth 64)) ∧
    reads 0x01 u.who.rmode ∧ reads 0x02 (if lm then 0 else u.who.warpid) ∧
    reads 0x03 u.who.wgid ∧ reads 0x04 u.who.teamid ∧ reads 0x05 u.who.dieid ∧ reads 0x06 u.who.gridid ∧
    reads 0x07 (if lm then u.who.coreid &&& ~~~3 else u.who.coreid) ∧
    reads 0x10 (u.trap.tcause.setWidth 64) ∧ reads 0x11 u.trap.taddr ∧ reads 0x12 u.trap.tinfo ∧
    reads 0x13 u.trap.tspc ∧ reads 0x14 u.trap.tlpc ∧ reads 0x15 u.trap.tpath ∧
    reads 0x16 (if lm then 0 else u.trap.flm.setWidth 64) ∧
    (u.who.rset = 0 → exec (.rsr m d 0x08) s = .next (issuePend s u .s m 1 (newPend s u .s (.s d) .tclk false 1 none)))) ∧
  (∀ s u m n b, SReady s u [b] →
    (n = 0 → u.who.isLm = false → u.laneIdle = true → 1 ≤ (u.rs b).toNat % 8 → (u.rs b).toNat % 8 ≤ 5 →
      exec (.wsr m n b) s = .next (s.setUnit ({ u with fpmode := BitVec.ofNat 32 ((u.rs b).toNat % 2 ^ 15) }.sDone m [] (u.sS.spc + 1)))) ∧
    (n = 0 → u.who.isLm = false → u.laneIdle = true → ((u.rs b).toNat % 8 = 0 ∨ 6 ≤ (u.rs b).toNat % 8) →
      exec (.wsr m n b) s = trapS s u 0x1A 0 (u.rs b).toNat) ∧
    (0x10 ≤ n.toNat → n.toNat ≤ 0x16 → u.inHandler = true →
      exec (.wsr m n b) s = .next (s.setUnit ({ u with trap := writeTrapReg u.trap n.toNat (u.rs b) }.sDone m [] (u.sS.spc + 1)))) ∧
    (0x10 ≤ n.toNat → n.toNat ≤ 0x16 → u.inHandler = false →
      exec (.wsr m n b) s = trapS s u 0x19 n.toNat (u.rs b).toNat) ∧
    (n = 0 → u.who.isLm = true → exec (.wsr m n b) s = trapS s u 0x19 0 (u.rs b).toNat) ∧
    (1 ≤ n.toNat → (n.toNat < 0x10 ∨ 0x16 < n.toNat) → exec (.wsr m n b) s = trapS s u 0x19 n.toNat (u.rs b).toNat))

/-- R104: `yield` completes at the next word, the S-stream offers no word in this mclk and the next, and the warp counts as the
youngest for S words; registers, memory and the lane side's age stay. (The renewed age: log 50.) R106: `nop` completes and does
nothing but carry the marker. R107: `rand` of a simplex warp completes with its draw in flight for 40 mclk, and the next draw is
another one. (The draws are free: log 7.) R105: `exit` of a simplex warp whose runs have retired, whose results are written or have reported their faults, and with no
store or atomic outstanding, its runs' included, completes: the warp leaves, and its slot is free. -/
def Obligations.PlainWords : Prop :=
  ((∀ s u m, SReady s u [] → exec (.nop m) s = .next (sNext s u m 4 [])) ∧
  (∀ s u m, SReady s u [] → ∃ t v, exec (.yield m) s = .next t ∧ t.unit? s.cur = some v ∧ v.sS.spc = u.sS.spc + 1 ∧
    (∀ x : State, x.clk.now ≤ s.clk.now + 1 → offers x v .s = false) ∧ v.ageS = s.sch.age ∧ t.sch.age = s.sch.age + 1 ∧
    v.age = u.age ∧ t.mem = s.mem ∧ sameRegs u v ∧ otherUnits s t s.cur) ∧
  (∀ s u m d, SReady s u [d] → u.who.rset = 0 →
    ∃ t, exec (.rand m d) s = .next t ∧ t = sNext { s with free := s.free + 1 } u m 40 [.s d (Config.drbg s.free)] ∧
      t.free = s.free + 1)) ∧
  (∀ s u m, SReady s u [] → s.placed → u.laneIdle = true → u.sS.fly = [] → exitHeld u = false → u.who.rset = 0 →
    let v : Machine.Unit := { u with lqwSeq := s.fl.seq }
    relClear s v .s .dev →
    ∃ t, exec (.exit m) s = .next t ∧ t = leave (spoil s v) (v.released .dev) ∧ t.unit? s.cur = none)

/-! ## Taking a trap, and returning from one -/

/-- R274 to R277: an S word whose cause the supervisor takes enters the handler: the trap registers hold the cause, the
address, the detail and the word's index, the stream stands at the handler's entry, `s56` holds the save area and `s57` to
`s59` hold 0, the lane side is empty, and every other S register is what its last result made it. Set aside are `s56` to `s59`, the lane
queue and the executing run, both path slots, and the mailboxes with their counts; the save area begins with the record of R278. While results
that R23 names are outstanding the entry waits, and no stream of the unit issues, but an S word that has begun to take effect (log 22) goes on.
(`tlpc` and `tpath` of an S trap: log 10; what counts as begun: log 22.) -/
def Obligations.TrapEntry : Prop :=
  (∀ s u cause addr info h off, s.unit? s.cur = some u → u.id = s.cur → u.inHandler = false → u.trap.due = none →
    u.settled = true → mcCause cause = false → cause < 2 ^ 16 → handlerOf s u = some (h, off) →
    let a := saveArea u off
    ∃ t v sv, trapS s u cause addr info = .next t ∧ t.unit? s.cur = some v ∧
      v.trap.tcause = BitVec.ofNat 32 (2 ^ 31 + 2 ^ 17 + cause) ∧ v.trap.taddr = BitVec.ofNat 64 addr ∧
      v.trap.tinfo = BitVec.ofNat 64 info ∧ v.trap.tspc = BitVec.ofNat 64 u.sS.spc ∧ v.trap.flm = 0 ∧ v.trap.sup = true ∧
      v.inHandler = true ∧ v.sS.spc = h.entry ∧ v.sS.fly = [] ∧ v.lS.slot0 = Slot.idle ∧ v.lS.slot1 = Slot.idle ∧
      v.lS.queue = [] ∧ v.lS.running = none ∧
      v.rs 56 = BitVec.ofNat 64 (saveArea u off) ∧ v.rs 57 = 0 ∧ v.rs 58 = 0 ∧ v.rs 59 = 0 ∧
      (∀ r, bankReg r = false → v.rs r = u.landEvery.rs r) ∧
      v.trap.saved = some sv ∧ sv.bank = [u.landEvery.rs 56, u.landEvery.rs 57, u.landEvery.rs 58, u.landEvery.rs 59] ∧
      sv.queue = u.lS.queue ∧ sv.running = u.lS.running ∧ sv.slot0 = u.landEvery.lS.slot0 ∧ sv.slot1 = u.landEvery.lS.slot1 ∧
      (∀ n, n < 4 → sv.mbCnt.getD n 0 = SMap.get 0 u.mbCnt n ∧ sv.mbVal.getD n 0 = SMap.get 0 u.mbVal n ∧ SMap.get 0 v.mbCnt n = 0) ∧
      holds s t a 12 (rawAt s u .s) ∧ holds s t (a + 12) 4 0 ∧ holds s t (a + 16) 4 (u.sS.spc % 2 ^ 24) ∧
      holds s t (a + 20) 4 (u.who.warpid.toNat % 32 + cause * 2 ^ 16) ∧ holds s t (a + 24) 8 s.tclk ∧
      onlyBytes s t a 32) ∧
  (∀ s u cause addr info h off, u.inHandler = false → u.trap.due = none → u.settled = false → mcCause cause = false →
    handlerOf s u = some (h, off) →
    ∃ t v d, trapS s u cause addr info = .next t ∧ t.unit? u.id = some v ∧ v = u.owing d ∧ d.frame.cause = cause ∧
      d.frame.addr = addr ∧ d.frame.info = info ∧ d.frame.spc = u.sS.spc ∧ t.mem = s.mem ∧ otherUnits s t u.id ∧
      (∀ st, st ≠ .s ∨ u.committed = false → eligible t v st = false))

/-- R279, R288, R289: a precise trap inside a handler, of any stream, resets the context alone after one record in the fault log, of kind 1 with the
outer cause as its code and the inner one, of a `trap` word its own code, beside it, and the outer frame's address, detail and indices. (Which fields
the record holds: log 11.) R274, R289: a cause of the management core, and any cause where no handler is set, is written to the fault log, and
the context is reset. -/
def Obligations.FatalTraps : Prop :=
  (let double (u : Machine.Unit) (inner : Nat) (r : LogRec) : Prop :=
    r.kind = 1 ∧ r.code = u.trap.tcause.toNat % 2 ^ 16 ∧ r.extra = inner ∧ r.addr = u.trap.taddr.toNat ∧ r.info = u.trap.tinfo.toNat ∧
      r.spc = u.trap.tspc.toNat % 2 ^ 24 ∧ r.lpc = u.trap.tlpc.toNat % 2 ^ 24
  (∀ s u st cause addr info lanes adv, u.inHandler = true → cause ≠ 0x20 →
    ∃ r, takeTrap s u st cause addr info lanes adv = .next (resetCtx (writeLog s u.who.ctx r) u.who.ctx) ∧ double u cause r) ∧
  (∀ s u m code, SReady s u [] → u.inHandler = true →
    ∃ r, exec (.trap m code) s = .next (resetCtx (writeLog s u.who.ctx r) u.who.ctx) ∧ double u code.toNat r)) ∧
  (∀ s u cause addr info, u.inHandler = false → u.trap.due = none → (mcCause cause = true ∨ handlerOf s u = none) →
    ∃ r, trapS s u cause addr info = .next (resetCtx (writeLog s u.who.ctx r) u.who.ctx) ∧
      r.code = cause ∧ r.addr = addr ∧ r.info = info ∧ r.spc = u.sS.spc)

/-- R101: `trap` takes the software trap 0x0020 with its code in `tinfo`, and the index after it in `tspc`. (Which path slot an S trap's record names:
log 10.) R103: `brk` without a debugger only advances; with one attached the warp of a simplex launch stops after it. R64, R65, R274: a word that is not an instruction takes the precise trap of its decoding code, 0x0010 to 0x0018 (0x0026 past the end of the image, R9), at the
stream that fetched it: the record holds the word, the lowest bit of the offending field and the word's index, and the context
is reset. (Which slot the record of an S word names: log 10.) -/
def Obligations.TrapAndBreakWords : Prop :=
  (∀ s u m code h off, SReady s u [] → u.inHandler = false → u.trap.due = none → u.settled = true → handlerOf s u = some (h, off) →
    ∃ t v, exec (.trap m code) s = .next t ∧ t.unit? s.cur = some v ∧
      v.trap.tcause = BitVec.ofNat 32 (2 ^ 31 + 2 ^ 17 + 0x20) ∧ v.trap.tinfo = BitVec.ofNat 64 code.toNat ∧
      v.trap.tspc = BitVec.ofNat 64 (u.sS.spc + 1) ∧ v.sS.spc = h.entry ∧ v.inHandler = true) ∧
  ((∀ s u m i, SReady s u [] → debugged s u = false → exec (.brk m i) s = .next (s.setUnit (u.sDone m [] (u.sS.spc + 1)))) ∧
  (∀ s u m i, SReady s u [] → debugged s u = true → u.who.rset = 0 →
    ∃ t v, exec (.brk m i) s = .next t ∧ t.unit? s.cur = some v ∧ v.stopped = true ∧
      v.trap.tspc = BitVec.ofNat 64 (u.sS.spc + 1) ∧ v.trap.tinfo = BitVec.ofNat 64 i.toNat ∧ t.mem = s.mem)) ∧
  (∀ s u code bit word, s.unit? s.cur = some u → u.inHandler = false → u.trap.due = none → (0x10 ≤ code ∧ code ≤ 0x18 ∨ code = 0x26) →
    ∃ r, exec (.illegalInstruction code bit word) s = .next (resetCtx (writeLog s u.who.ctx r) u.who.ctx) ∧ r.code = code ∧
      r.addr = (if s.curS = .s then bit else bit + word / 2 ^ 64 % 2 ^ 32 * 2 ^ 32) ∧ r.info = word % 2 ^ 64 ∧ r.spc = u.sS.spc ∧
      r.lpc = (u.slot (u.trapSlot s.curS)).lpc)

/-- R102, R23: `rft` resumes the interrupted program at `tspc`, puts `s56` to `s59`, the lane side and the mailboxes with their counts back, and
clears `tcause`.h and `flm`: the trapping slot stands at `tlpc` with its exec mask and the lowest `tpath`.depth entries of its stack, the sibling at
siblpc with sibem, or idle where sib is 0; outside a handler it takes the illegal-instruction trap. (Whose image lengths the return checks: log 80.) -/
def Obligations.ReturnFromTrap : Prop :=
  (∀ s u m sv, SReady s u [] → u.inHandler = true → u.trap.saved = some sv → u.laneIdle = true → u.badReturn sv = none →
    ∃ t v, exec (.rft m) s = .next t ∧ t.unit? s.cur = some v ∧ v.sS.spc = u.trap.tspc.toNat % 2 ^ 24 ∧
      v.rs 56 = sv.bank.getD 0 0 ∧ v.rs 57 = sv.bank.getD 1 0 ∧ v.rs 58 = sv.bank.getD 2 0 ∧ v.rs 59 = sv.bank.getD 3 0 ∧
      v.lS.queue = sv.queue ∧ v.lS.running = sv.running ∧
      (∀ n, n < 4 → SMap.get 0 v.mbVal n = sv.mbVal.getD n 0 ∧ SMap.get 0 v.mbCnt n = sv.mbCnt.getD n 0) ∧
      (let tp := u.trap.tpath
       let i := tp.getLsbD 6
       let x := if i then sv.slot1 else sv.slot0
       let y := if i then sv.slot0 else sv.slot1
       (x.live = true → (v.slot i).live = true ∧ (v.slot i).lpc = u.trap.tlpc.toNat % 2 ^ 24 ∧ (v.slot i).em = x.em ∧
         (v.slot i).stack = x.stack.drop (x.stack.length - tp.toNat % 2 ^ 5)) ∧
       (x.live = false → v.slot i = x) ∧
       (tp.getLsbD 7 = true → (v.slot (!i)).live = true ∧ (v.slot (!i)).lpc = tp.toNat / 2 ^ 40 ∧
         (v.slot (!i)).em = tp.extractLsb' 8 32 ∧ (v.slot (!i)).stack = y.stack) ∧
       (tp.getLsbD 7 = false → v.slot (!i) = Slot.idle)) ∧
      v.inHandler = false ∧ v.trap.flm = 0 ∧ v.trap.saved = none ∧ t.mem = s.mem) ∧
  (∀ s u m, SReady s u [] → u.inHandler = false → exec (.rft m) s = trapS s u 0x19 0x10 0)

/-! ## Memory words of the S-stream -/

/-- R137, R145, R21, R233: a scalar load of a simplex warp whose check passes. A global load leaves a pending result; a pad or
handle load of a sound sector puts the value it reads, little-endian and extended by its type, in flight, and one of a poisoned sector leaves its
register pending with a poison fault that names the address in the imprecise queue. Memory is as before. R143, R145: a scalar store of a simplex warp. A global store enters the store queue as one part that holds the low
bytes of `S[d]` at the checked address, and no home byte changes yet; a pad or handle store to a sound sector is at home at once, there and
nowhere else. (A word of more sectors than the acknowledgement buffer holds: log 32.) -/
def Obligations.ScalarMemoryWords : Prop :=
  (∀ s u m d a ty o sc rb (off : BitVec 4) x, SReady s u [d, a] → plain s u →
    let n := mtySize ty
    let ea := (u.rs a).toNat + off.toNat * n
    let v := extLoad n (mtySigned ty) 64 (leNat (readN (seenByte s u .s s.fl.seq) n x))
    (checkGsa s u.who.ctx (ea % 2 ^ 32) n 0 0 = .ok x →
      exec (.ldg m d a ty o sc rb off) s =
        .next (issuePend s u .s m 1 (newPend s u .s (.s d) (.ldg [(0, x)] n (mtySigned ty)) (acqOrd o) 1 none))) ∧
    (checkPad s u (ea % 2 ^ 24) n 0 = .ok x → readsNow s u .s n [(0, x)] →
      exec (.ldp m d a ty o sc rb off) s =
        .next (sNext s u m 6 [.s d (BitVec.ofNat 64 v)])) ∧
    (checkHnd s u ((u.rs a).toNat % 2 ^ 16) ((u.rs a).toNat / 2 ^ 32 + off.toNat * n) n 0 = .ok x →
      (readsNow s u .s n [(0, x)] →
        exec (.ldh m d a ty o sc rb off) s = .next (sNext s u m 16 [.s d (BitVec.ofNat 64 v)])) ∧
      (sectorBad s u.die x = true → acquireHeld u .s = false → storeBlocks s u .s s.fl.seq (accBytes n [(0, x)]) = false →
        u.trap.imp.length < 8 →
        ∃ t y e, exec (.ldh m d a ty o sc rb off) s = .next t ∧ t.unit? s.cur = some y ∧ y.sS.spc = u.sS.spc + 1 ∧ y.sPend d = true ∧
          y.trap.imp = u.trap.imp ++ [e] ∧ e.code = 0x43 ∧ e.addr = x ∧ e.info = 0))) ∧
  (∀ s u m d a ty o sc ef (off : BitVec 4) x, SReady s u [d, a] → plain s u → relOk s u .s o sc →
    let n := mtySize ty
    let ea := (u.rs a).toNat + off.toNat * n
    (checkGsa s u.who.ctx (ea % 2 ^ 32) n 1 1 = .ok x →
      (gsaDie x = u.die ∨ (ackUse s u = 0 ∨ ackUse s u + 1 ≤ 16) ∧ (ef = true → wayFree s u.die (lineOf x) = true)) →
      ∃ t p, exec (.stg m d a ty o sc ef off) s = .next t ∧ sameHome s t ∧ sOn s t u ∧
        t.fl.stores.map (fun q => q.seq) = s.fl.stores.map (fun q => q.seq) ++ [s.fl.seq] ∧ t.fl.stores.getLast? = some p ∧
        p.unit = some u.id ∧ p.die = u.die ∧ p.ef = ef ∧ p.applied = false ∧
        p.bytes = bytesAt x (leBytes n (u.rs d).toNat)) ∧
    (checkPad s u (ea % 2 ^ 24) n 1 = .ok x → loadsHeld (afterRel u o sc) .s = false → s.mem.badHome.contains (sectorOf x) = false →
      ∃ t, exec (.stp m d a ty o sc ef off) s = .next t ∧ onlyBytes s t x n ∧ holds s t x n (u.rs d).toNat ∧
        sOn s t u) ∧
    (checkHnd s u ((u.rs a).toNat % 2 ^ 16) ((u.rs a).toNat / 2 ^ 32 + off.toNat * n) n 1 = .ok x →
      loadsHeld (afterRel u o sc) .s = false → s.mem.badHome.contains (sectorOf x) = false →
      ∃ t, exec (.sth m d a ty o sc ef off) s = .next t ∧ onlyBytes s t x n ∧ holds s t x n (u.rs d).toNat ∧
        sOn s t u))

/-- R139, R145: a scalar load, store or atomic whose check fails takes its precise trap with the cause, address and detail of the check, whatever
its order, scope and mode. R29, R137, R364: when each check of an access fails: a misaligned one with 0x0022 before any other cause, a global
one that leaves its slice or that no window entry admits with 0x0023, and one through a handle that the unit does not
hold, of an old generation or beyond the buffer with 0x0024. R139: a lane load, store or atomic of which a lane's check fails takes one precise trap, with misalignment before every other cause; `flm` is
exactly the active lanes that fail with its cause, and the address and detail are those of the lowest of them; no lane has accessed memory. -/
def Obligations.AccessFaults : Prop :=
  ((∀ s u m d a op w o sc c t i, SReady s u (if op = .cas then [d, a, d + 1] else [d, a]) →
    let n := if w then 8 else 4
    (checkGsa s u.who.ctx ((u.rs a).toNat % 2 ^ 32) n 2 2 = .bad c t i → exec (.atom m d a op w o sc false) s = trapS s u c t i) ∧
    (checkPad s u ((u.rs a).toNat % 2 ^ 24) n 2 = .bad c t i → exec (.atom m d a op w o sc true) s = trapS s u c t i)) ∧
  ∀ s u m d a ty o sc rb (off : BitVec 4) c t i, SReady s u [d, a] →
    let n := mtySize ty
    let ea := (u.rs a).toNat + off.toNat * n
    (checkGsa s u.who.ctx (ea % 2 ^ 32) n 0 0 = .bad c t i → exec (.ldg m d a ty o sc rb off) s = trapS s u c t i) ∧
    (checkPad s u (ea % 2 ^ 24) n 0 = .bad c t i → exec (.ldp m d a ty o sc rb off) s = trapS s u c t i) ∧
    (checkGsa s u.who.ctx (ea % 2 ^ 32) n 1 1 = .bad c t i → exec (.stg m d a ty o sc rb off) s = trapS s u c t i) ∧
    (checkPad s u (ea % 2 ^ 24) n 1 = .bad c t i → exec (.stp m d a ty o sc rb off) s = trapS s u c t i) ∧
    (checkHnd s u ((u.rs a).toNat % 2 ^ 16) ((u.rs a).toNat / 2 ^ 32 + off.toNat * n) n 0 = .bad c t i →
      exec (.ldh m d a ty o sc rb off) s = trapS s u c t i) ∧
    (checkHnd s u ((u.rs a).toNat % 2 ^ 16) ((u.rs a).toNat / 2 ^ 32 + off.toNat * n) n 1 = .bad c t i →
      exec (.sth m d a ty o sc rb off) s = trapS s u c t i)) ∧
  ((∀ s ctx a n kind win, a % n ≠ 0 → checkGsa s ctx a n kind win = .bad 0x22 a (misInfo n kind)) ∧
  (∀ s ctx a n kind win, a % n = 0 → Config.sliceBytes < a % 2 ^ 22 + n → checkGsa s ctx a n kind win = .bad 0x23 a win) ∧
  (∀ s ctx a n kind win, a % n = 0 →
    (∀ e ∈ s.windows, ¬ (e.1 / 16 = gsaCore a ∧ e.2.ctx = ctx ∧ e.2.base * 4096 ≤ a % 2 ^ 22 ∧
      a % 2 ^ 22 + n ≤ (e.2.limit + 1) * 4096)) → checkGsa s ctx a n kind win = .bad 0x23 a win) ∧
  (∀ s ctx a n e, a % n = 0 → a % 2 ^ 22 + n ≤ Config.sliceBytes → e ∈ s.windows → e.1 / 16 = gsaCore a → e.2.ctx = ctx →
    e.2.base * 4096 ≤ a % 2 ^ 22 → a % 2 ^ 22 + n ≤ (e.2.limit + 1) * 4096 →
    (e.2.rd = true → checkGsa s ctx a n 0 0 = .ok a) ∧ (e.2.wr = true → checkGsa s ctx a n 1 1 = .ok a) ∧
    (e.2.at_ = true → checkGsa s ctx a n 2 2 = .ok a)) ∧
  (∀ s u a n kind, (a % n ≠ 0 → checkPad s u a n kind = .bad 0x22 a (misInfo n kind)) ∧
    (a % n = 0 → checkPad s u a n kind = .ok (padEA s u a))) ∧
  (∀ s u h off n kind e, off % n = 0 → SMap.look (s.cluster u.cluster).handles (h / 256 % 256) = some e →
    (e.holder ≠ some u.id → checkHnd s u h off n kind = .bad 0x24 (h % 2 ^ 16) 0) ∧
    (e.holder = some u.id → e.gen ≠ h % 256 → checkHnd s u h off n kind = .bad 0x24 (h % 2 ^ 16) 1) ∧
    (e.holder = some u.id → e.gen = h % 256 → e.size < off + n → checkHnd s u h off n kind = .bad 0x24 (h % 2 ^ 16) 2) ∧
    (e.holder = some u.id → e.gen = h % 256 → off + n ≤ e.size → checkHnd s u h off n kind = .ok (e.base + off)))) ∧
  (∀ s u i (w : LM) c a x m,
    let act := laneAct s u i w.g
    let n := tyRegs w.ty
    let traps (j : Instr) (sp : Space) (h : Sel) (kind iv : Nat) (regs : List (Nat × Nat)) : Prop :=
      LReady s u i regs → laneFail (checksL s u sp w h kind act) = some (c, a, x, m) →
      let fails (l : Nat) : Prop := l ∈ lanesOf act ∧ ∃ y z, checkL s u sp w h kind l = .bad c y z
      exec j s = portAfter (takeTrap s u (slotStrm i) c a x m false) u.id.core iv ∧
      (∀ l, l < 32 → (BitVec.getLsbD m l = true ↔ fails l)) ∧
      (∃ l, fails l ∧ checkL s u sp w h kind l = .bad c a x ∧ ∀ k, fails k → l ≤ k) ∧
      ((∃ l ∈ lanesOf act, ∃ y z, checkL s u sp w h kind l = .bad 0x22 y z) → c = 0x22)
    let ld := selRegs w.dst n ++ selRegs w.a 1
    let sd := selRegs w.a 1 ++ selRegs w.b n
    let sp := lmSpace w.fn
    traps (.laneLdg w) .gsa w.b 0 (memIv w.ty) ld ∧ traps (.laneLdp w) .pad w.b 0 (memIv w.ty) ld ∧
    traps (.laneLdh w) .hnd w.b 0 (memIv w.ty) (ld ++ selRegs w.b 1) ∧
    traps (.laneStg w) .gsa w.c 1 (memIv w.ty) sd ∧ traps (.laneStp w) .pad w.c 1 (memIv w.ty) sd ∧
    traps (.laneSth w) .hnd w.c 1 (memIv w.ty) (sd ++ selRegs w.c 1) ∧
    traps (.laneAtom w) sp w.c 2 (if sp = .gsa then memIv w.ty else 2)
      (selRegs w.dst n ++ selRegs w.a 1 ++ selRegs w.b n ++
        (if lmAtom w.fn = .cas then selRegs w.c n else if sp = .hnd then selRegs w.c 1 else [])))

/-- R146, R147: a scalar atomic of a simplex warp. On the pad it is performed at once: the location takes the new value
and nothing else changes, and `S[d]` receives the old value, which is in flight for 8 mclk. On global SRAM it is queued
for its place, and `S[d]` is pending. (A 32-bit old value is zero-extended: log 80.) -/
def Obligations.ScalarAtomics : Prop :=
  ∀ s u m d a op w o sc x, SReady s u (if op = .cas then [d, a, d + 1] else [d, a]) → plain s u → relOk s u .s o sc →
    let n := if w then 8 else 4
    let v := (if op = .cas then u.rs (d + 1) else u.rs d).toNat % 2 ^ (8 * n)
    let cmp := (u.rs d).toNat % 2 ^ (8 * n)
    let old := leNat (readN (homeByte s) n x)
    (checkPad s u ((u.rs a).toNat % 2 ^ 24) n 2 = .ok x → loadsHeld (afterRel u o sc) .s = false →
      s.mem.badHome.contains (sectorOf x) = false →
      ∃ t y, exec (.atom m d a op w o sc true) s = .next t ∧ t.unit? s.cur = some y ∧
        onlyBytes s t x n ∧ holds s t x n (atomNew op n old v cmp) ∧ y.sS.spc = u.sS.spc + 1 ∧ sameArch u y ∧
        y.sS.fly = u.sS.fly ++ flights s u.id.core 8 [.s d (BitVec.ofNat 64 old)]) ∧
    (checkGsa s u.who.ctx ((u.rs a).toNat % 2 ^ 32) n 2 2 = .ok x →
      (atomPlace u sc = .slice ∨ gsaDie x = u.die ∨ ackUse s u = 0 ∨ ackUse s u + 1 ≤ 16) →
      ∃ t y p q, exec (.atom m d a op w o sc false) s = .next t ∧ t.unit? s.cur = some y ∧ sameMem s t ∧
        y.sS.spc = u.sS.spc + 1 ∧ sameArch u y ∧ y.pend = u.pend ++ [p] ∧ p.dst = .s d ∧ p.what = .atom s.fl.seq ∧
        t.fl.atoms.dropLast = s.fl.atoms ∧ t.fl.atoms.getLast? = some q ∧ q.unit = u.id ∧ q.op = op ∧ q.size = n ∧
        q.place = atomPlace u sc ∧ q.die = u.die ∧ q.accs = [⟨0, x, v, cmp⟩] ∧ q.pend = p.id)

/-- R146, R82: the new value of a location, by operation, on `n` bytes: sums wrap, minima and maxima take the smaller and the
larger of the signed or unsigned values, and `cas` writes where the compare value stands. `fadd` of two FP32 or FP64 numbers whose sum is a nonzero
number of the format is that number, and of a NaN the canonical NaN. R147: atomics at home: each access in turn gives the location its new value from the old one, and no byte outside the
accesses changes. (One access.) -/
def Obligations.AtomicValues : Prop :=
  ((∀ f n x y r a b cmp, (f = Fmt.f32 ∧ n = 4 ∨ f = Fmt.f64 ∧ n = 8) → x < 2 ^ (8 * n) → y < 2 ^ (8 * n) → r < 2 ^ (8 * n) →
    (f.num x = some a → f.num y = some b → f.num r = some (a + b) → a + b ≠ 0 → atomNew .fadd n x y cmp = r) ∧
    ((∃ q, f.decode x = .nan q) ∨ (∃ q, f.decode y = .nan q) →
      atomNew .fadd n x y cmp = if n = 4 then 0x7FC00000 else 0x7FF8000000000000)) ∧
  ∀ n old v cmp, 0 < n → old < 2 ^ (8 * n) → v < 2 ^ (8 * n) →
    atomNew .add n old v cmp = (old + v) % 2 ^ (8 * n) ∧ atomNew .exch n old v cmp = v ∧
    atomNew .and n old v cmp = old &&& v ∧ atomNew .or n old v cmp = old ||| v ∧ atomNew .xor n old v cmp = old ^^^ v ∧
    (atomNew .cas n old v cmp = if old = cmp then v else old) ∧
    (atomNew .umin n old v cmp = if old ≤ v then old else v) ∧ (atomNew .umax n old v cmp = if old ≤ v then v else old) ∧
    readInt true (8 * n) (atomNew .smin n old v cmp) = min (readInt true (8 * n) old) (readInt true (8 * n) v) ∧
    readInt true (8 * n) (atomNew .smax n old v cmp) = max (readInt true (8 * n) old) (readInt true (8 * n) v)) ∧
  (∀ s op n (e : AtomAcc), 0 < n →
    let old := leNat (readN (homeByte s) n e.addr)
    (atomHome s op n [e]).2 = [(e.lane, old)] ∧ onlyBytes s (atomHome s op n [e]).1 e.addr n ∧
      holds s (atomHome s op n [e]).1 e.addr n (atomNew op n old e.v e.cmp))

/-! ## Synchronisation words of the S-stream -/

/-- R148: a fence of a simplex warp passes once what it orders is done: earlier loads have bound for an acquire, and
nothing earlier is outstanding for a release. R149, R150: an arrival of a simplex warp at the workgroup, a named or the die barrier, with a count of 0 for all or a
legal count that agrees with the open phase, joins the phase; a count that no set of participants reaches, or another than the open phase's, takes
the barrier-count trap with both counts in `tinfo`; and a wait passes when the warp's arrival is not outstanding. (A releasing arrival waits at its issue: log 33.) R149: a phase completes with the arrival that reaches its count: the list of arrivals is empty again and the phase
number one higher; before that the unit joins the list. (Workgroup barrier.) -/
def Obligations.FenceAndBarrierWords : Prop :=
  (∀ s u m o sc, SReady s u [] → u.who.rset = 0 → relOk s u .s o sc →
    (acqOrd o = true → loadsHeld (afterRel u o sc) .s = false) →
    exec (.fence m o sc) s = .next (s.setUnit ((afterRel u o sc).sDone m [] (u.sS.spc + 1)))) ∧
  (∀ s u m o sc a (nb : BitVec 4) kind idx, u.who.rset = 0 →
    let w := fun k i => if k = 0 then Instr.barArrive m a o sc else if k = 1 then Instr.nbarArrive m (BitVec.ofNat 4 i) a o sc
      else Instr.dbarArrive m a o sc
    let q := fun k i => if k = 0 then Instr.barWait m o sc else if k = 1 then Instr.nbarWait m (BitVec.ofNat 4 i) o sc
      else Instr.dbarWait m o sc
    kind ≤ 2 → (idx = if kind = 1 then nb.toNat else 0) →
    (SReady s u [a] → relOk s u .s o sc →
      let c := (u.rs a).toNat
      let n := if c = 0 then barFull s u kind else c
      (barGet s u kind idx).arrived.contains (ukey u.id) = false → n ≤ barFull s u kind →
      ((barGet s u kind idx).count = 0 ∨ (barGet s u kind idx).count = n) →
      exec (w kind idx) s = .next (arriveBar (s.setUnit ((afterRel u o sc).sDone m [] (u.sS.spc + 1))) (afterRel u o sc) kind idx n)) ∧
    (SReady s u [a] → (barGet s u kind idx).arrived.contains (ukey u.id) = false →
      let c := (u.rs a).toNat
      (barFull s u kind < c → exec (w kind idx) s = trapS s u 0x2A idx (c % 2 ^ 32)) ∧
      (∀ n, n = (if c = 0 then barFull s u kind else c) → n ≤ barFull s u kind → (barGet s u kind idx).count ≠ 0 →
        (barGet s u kind idx).count ≠ n →
        exec (w kind idx) s = trapS s u 0x2A idx ((barGet s u kind idx).count * 2 ^ 32 + c % 2 ^ 32))) ∧
    (SReady s u [] → (barGet s u kind idx).arrived.contains (ukey u.id) = false →
      exec (q kind idx) s = .next (s.setUnit (u.sDone m [] (u.sS.spc + 1))))) ∧
  (∀ s u n w, SMap.look s.wgs u.who.wg = some w → w.bar.count = 0 ∨ w.bar.count = n → 0 < n →
    ∃ b, (SMap.look (arriveBar s u 0 0 n).wgs u.who.wg).map (fun x => x.bar) = some b ∧
      (w.bar.arrived.length + 1 < n → b = { w.bar with count := n, arrived := w.bar.arrived ++ [ukey u.id] }) ∧
      (n ≤ w.bar.arrived.length + 1 → b = { count := 0, arrived := [], phases := w.bar.phases + 1 }))

/-- R152: `mon` arms the monitor at a readable address; `mwait` of a simplex warp retires when no monitor is armed or it
has fired, and disarms it; a timeout that has passed takes the monitor-timeout trap. R153: the holder of a handle of the current generation gives it to a recipient of its cluster, and the recipient takes
it under the next generation; a take of a handle that is not offered writes 0. -/
def Obligations.MonitorAndHandleWords : Prop :=
  ((∀ s u m a, SReady s u [a] → checkGsa s u.who.ctx ((u.rs a).toNat % 2 ^ 32) 1 0 0 = .ok ((u.rs a).toNat % 2 ^ 32) →
    exec (.mon m a) s = .next (s.setUnit ({ u with mon := some { addr := (u.rs a).toNat % 2 ^ 32, fired := false } }.sDone m []
      (u.sS.spc + 1)))) ∧
  (∀ s u m a, SReady s u [a] → u.who.rset = 0 → (∀ x, u.mon = some x → x.fired = true) →
    exec (.mwait m a) s = .next (s.setUnit ({ u with mon := none }.sDone m [] (u.sS.spc + 1)))) ∧
  (∀ s u t since tick x, s.unit? u.id = some u → u.sS.park = some { why := .monitor t, since := since, tick := tick } →
    u.mon = some x → x.fired = false → t ≠ 0 → since + t < s.clk.now → u.trap.due = none → u.stopped = false → u.who.rset = 0 →
    exec (.monitorTimeout u.id) s = trapS s u 0x2C x.addr t) ∧
  (∀ s u t since tick x h off, s.unit? u.id = some u → u.sS.park = some { why := .monitor t, since := since, tick := tick } →
    u.mon = some x → x.fired = false → t ≠ 0 → since + t < s.clk.now → u.settled = true → u.trap.due = none → u.stopped = false → u.who.rset = 0 →
    u.inHandler = false → handlerOf s u = some (h, off) →
    ∃ r, exec (.monitorTimeout u.id) s = .next r ∧
      (r.unit? u.id).map (fun v => v.trap.tcause) = some (BitVec.ofNat 32 (2 ^ 31 + 2 ^ 17 + 0x2C)))) ∧
  ((∀ s u m a b h r, SReady s u [a, b] → u.who.rset = 0 → relClear s u .s .cl →
    SMap.look (s.cluster u.cluster).handles ((u.rs a).toNat % 2 ^ 16 / 256) = some h → h.holder = some u.id →
    h.gen = (u.rs a).toNat % 256 → recipient u ((u.rs b).toNat % 2 ^ 16) = some r →
    ∃ t, exec (.hgive m a b) s = .next t ∧ t.mem = s.mem ∧
      SMap.look (t.cluster u.cluster).handles ((u.rs a).toNat % 2 ^ 16 / 256) =
        some { h with holder := none, offer := some r, opened := false } ∧
      sOn s t u) ∧
  (∀ s u m d a h, SReady s u [d, a] → SMap.look (s.cluster u.cluster).handles ((u.rs a).toNat / 256 % 256) = some h →
    h.offer = some u.id →
    ∃ t v, exec (.htake m d a) s = .next t ∧ t.unit? s.cur = some v ∧ t.mem = s.mem ∧ sameArch u v ∧
      SMap.look (t.cluster u.cluster).handles ((u.rs a).toNat / 256 % 256) =
        some { h with gen := if h.gen = 255 then 1 else h.gen + 1, holder := some u.id, offer := none, opened := false } ∧
      v.sS.fly = u.sS.fly ++ flights s u.id.core 12 [.s d (BitVec.ofNat 64
        ((u.rs a).toNat / 256 % 256 * 256 + (if h.gen = 255 then 1 else h.gen + 1)))]) ∧
  (∀ s u m d a, SReady s u [d, a] →
    (∀ h, SMap.look (s.cluster u.cluster).handles ((u.rs a).toNat / 256 % 256) = some h → h.offer ≠ some u.id ∧ ¬ (h.opened = true ∧ h.team = u.who.team)) →
    exec (.htake m d a) s = .next (sNext s u m 12 [.s d 0])))

/-- R155: timelines. `tlw` passes once the value is reached; `tls` of a simplex warp raises a software timeline to at
least its operand; `tlr` leaves a pending read; a number that is not allocated traps with 0x002D. R156: the touchstone words set the issuing warp's mode where the context's touchstone is on, and only advance where it
is off. -/
def Obligations.TimelineWords : Prop :=
  ((∀ s u m a b t, SReady s u [a, b] → timelineOf s u.who.ctx ((u.rs a).toNat % 4096) = some t → (u.rs b).toNat ≤ t.val →
    exec (.tlw m a b) s = .next (s.setUnit (u.sDone m [] (u.sS.spc + 1)))) ∧
  (∀ s u m a b t, SReady s u [a, b] → u.who.rset = 0 → relClear s u .s .dev →
    timelineOf s u.who.ctx ((u.rs a).toNat % 4096) = some t → t.owner = .software →
    ∃ r, exec (.tls m a b) s = .next r ∧ r.mem = s.mem ∧
      (timelineOf r u.who.ctx ((u.rs a).toNat % 4096)).map (fun x => x.val) = some (max t.val (u.rs b).toNat) ∧
      (∀ k, k ≠ (u.rs a).toNat % 4096 → timelineOf r u.who.ctx k = timelineOf s u.who.ctx k) ∧
      sOn s r u) ∧
  (∀ s u m d a t, SReady s u [d, a] → u.who.rset = 0 → timelineOf s u.who.ctx ((u.rs a).toNat % 4096) = some t →
    exec (.tlr m d a) s = .next (issuePend s u .s m 1
      (newPend s u .s (.s d) (.tlr ((u.rs a).toNat % 4096)) false 1 none))) ∧
  (∀ s u m a b, SReady s u [a, b] → timelineOf s u.who.ctx ((u.rs a).toNat % 4096) = none →
    exec (.tlw m a b) s = trapS s u 0x2D ((u.rs a).toNat % 4096) 0 ∧
    exec (.tls m a b) s = trapS s u 0x2D ((u.rs a).toNat % 4096) 0)) ∧
  (∀ s u m c, SReady s u [] → SMap.look s.ctxs u.who.ctx = some c →
    let mode (v : Nat) : Res := .next (s.setUnit ((if c.tsOn then { u with tsMode := v } else u).sDone m [] (u.sS.spc + 1)))
    exec (.tsnOff m) s = mode 0 ∧ exec (.tsnLog m) s = mode 1 ∧ exec (.tsnTrap m) s = mode 2)

/-! ## Lane words that compute -/

/-- R67, R109, R118 to R120: the integer words write, in every active lane and no other, the element-wise result of the
operation on integers, wrapped or saturated; 64-bit types and multiplications take 6 mclk, the others 4. (A fractional constant of a narrow integer type: log 26.) R119: the bit counts of a `w`-bit value: population, and trailing zeros by their property. -/
def Obligations.LaneIntegerResults : Prop :=
  (∀ s u i (w : LA) d, w.dst = .v d →
    let act := laneAct s u i w.g
    let e := elBits w.ty
    let x (v : Nat) : Int := readInt (tySigned w.ty) e v
    let fit (r : Int) : Nat := if w.sat then clampInt (tySigned w.ty) e r else wrapInt e r
    let out (j : Instr) (n : Nat) (slow : Bool) (f : Nat → Nat → Nat → Nat) : Prop := LReady s u i (intRegs w n) →
      exec j s = .next (lNext s u i w.m (if wide w.ty then 2 else 1) (if slow || wide w.ty then 6 else 4)
        (vRes d.toNat (tyRegs w.ty) act ((lanesOf act).map (fun l => (l, joinElems e
          (((u.opElems w w.a l).zip ((u.opElems w w.b l).zip (u.opElems w w.c l))).map (fun p => f p.1 p.2.1 p.2.2)))))))
    out (.laneAddI w) 2 false (fun a b _ => fit (x a + x b)) ∧
    out (.laneSubI w) 2 false (fun a b _ => fit (x a - x b)) ∧
    out (.laneMulI w) 2 true (fun a b _ => fit (x a * x b)) ∧
    out (.laneMulhi w) 2 true (fun a b _ => wrapInt e (x a * x b / (2 ^ e : Int))) ∧
    out (.laneMad w) 3 true (fun a b c => fit (x a * x b + x c)) ∧
    out (.laneMinI w) 2 false (fun a b _ => wrapInt e (if x a ≤ x b then x a else x b)) ∧
    out (.laneMaxI w) 2 false (fun a b _ => wrapInt e (if x a ≤ x b then x b else x a)) ∧
    out (.laneAnd w) 2 false (fun a b _ => a &&& b) ∧
    out (.laneOr w) 2 false (fun a b _ => a ||| b) ∧
    out (.laneXor w) 2 false (fun a b _ => a ^^^ b) ∧
    out (.laneAndn w) 2 false (fun a b _ => a &&& (2 ^ e - 1 - b % 2 ^ e)) ∧
    out (.laneShl w) 2 false (fun a b _ => a * 2 ^ (b % e) % 2 ^ e) ∧
    out (.laneShr w) 2 false (fun a b _ => wrapInt e (x a / (2 ^ (b % e) : Int))) ∧
    out (.lanePopc w) 1 true (fun a _ _ => popBits e a) ∧
    out (.laneClz w) 1 true (fun a _ _ => if a = 0 then e else e - 1 - Nat.log2 a) ∧
    out (.laneCtz w) 1 true (fun a _ _ => ctzBits e a) ∧
    out (.laneBrev w) 1 true (fun a _ _ => revBits e a) ∧
    out (.laneAbsI w) 1 false (fun a _ _ => wrapInt e (readInt true e a).natAbs) ∧
    out (.laneNegI w) 1 false (fun a _ _ => wrapInt e (-(readInt true e a)))) ∧
  ((∀ w v, v < 2 ^ w → popBits w v = (List.range w).countP (fun i => v.testBit i)) ∧
  (∀ w v, v < 2 ^ w → ctzBits w v ≤ w ∧ (∀ k, k < ctzBits w v → v.testBit k = false) ∧
    (ctzBits w v < w → v.testBit (ctzBits w v) = true)) ∧
  (∀ w v k, v < 2 ^ w → k < w → (revBits w v).testBit k = v.testBit (w - 1 - k)))

/-- R120: integer compares write one mask bit for each active lane, set when every element passes, and the byte dot
product adds four products. R129, R130: mask words change only the bits of active lanes; `qcnt` counts the whole mask; `emwr` narrows the slot's
exec mask when its result lands: `em` is then what it was AND the mask. -/
def Obligations.LaneCompareAndMaskWords : Prop :=
  ((∀ s u i (w : LA) d, w.dst = .q d → LReady s u i (selRegs w.a (tyRegs w.ty) ++ selRegs w.b (tyRegs w.ty)) →
    let act := laneAct s u i w.g
    let x (v : Nat) : Int := readInt (tySigned w.ty) (elBits w.ty) v
    ∃ bits, exec (.laneCmpI w) s = .next (lNext s u i w.m (if wide w.ty then 2 else 1) (if wide w.ty then 6 else 4)
        [.q d act bits]) ∧
      ∀ l, l < 32 → bits.getLsbD l = ((u.opElems w w.a l).zip (u.opElems w w.b l)).all (fun p =>
        match w.md.toNat with
        | 0 => decide (x p.1 = x p.2) | 1 => decide (x p.1 ≠ x p.2) | 2 => decide (x p.1 < x p.2)
        | 3 => decide (x p.1 ≤ x p.2) | 4 => decide (x p.2 < x p.1) | _ => decide (x p.2 ≤ x p.1))) ∧
  (∀ s u i (w : LA) d, w.dst = .v d → LReady s u i (intRegs w 3) →
    let act := laneAct s u i w.g
    let v (o : Sel) (l : Nat) : Nat := u.opVal w.ty w.imm.toNat o l
    let sa := decide (w.md = 1) || decide (w.md = 2)
    let sb := decide (w.md = 1) || decide (w.md = 3)
    exec (.laneBdot w) s = .next (lNext s u i w.m 1 6 (vRes d.toNat 1 act ((lanesOf act).map (fun l => (l, wrapInt 32
      ((v w.c l : Int) + ((List.range 4).map (fun k =>
        readInt sa 8 (fld (v w.a l) (k * 8) 8) * readInt sb 8 (fld (v w.b l) (k * 8) 8))).sum)))))))) ∧
  ((∀ s id v i keep due word, s.unit? id = some v → v.id = id → (v.slot i).fly = [⟨due, word, .em keep⟩] → (v.slot i).marked = true →
    due ≤ pulses s id.core → ∃ t y, exec (.fixedResultWrite id (slotStrm i)) s = .next t ∧ t.unit? id = some y ∧
      (y.slot i).em = (v.slot i).em &&& keep ∧ (y.slot i).fly = [] ∧ (y.slot i).lpc = (v.slot i).lpc ∧ t.mem = s.mem) ∧
  ∀ s u i (w : LA), u.dual = false →
    let act := laneAct s u i w.g
    (∀ d a b, w.dst = .q d → w.a = .q a → w.b = .q b → LReady s u i [] →
      exec (.qand w) s = .next (lNext s u i w.m 1 2 [.q d act (u.rq a &&& u.rq b)]) ∧
      exec (.qor w) s = .next (lNext s u i w.m 1 2 [.q d act (u.rq a ||| u.rq b)]) ∧
      exec (.qxor w) s = .next (lNext s u i w.m 1 2 [.q d act (u.rq a ^^^ u.rq b)]) ∧
      exec (.qandn w) s = .next (lNext s u i w.m 1 2 [.q d act (u.rq a &&& ~~~(u.rq b))])) ∧
    (∀ d, w.dst = .q d → LReady s u i (selRegs w.a 1) →
      ∃ bits, exec (.qmov w) s = .next (lNext s u i w.m 1 2 [.q d act bits]) ∧
        ∀ l, l < 32 → bits.getLsbD l = decide (u.opVal w.ty w.imm.toNat w.a l ≠ 0)) ∧
    (∀ d a, w.dst = .v d → w.a = .q a → LReady s u i (selRegs w.dst 1) →
      exec (.qcnt w) s = .next (lNext s u i w.m 1 2 (vRes d.toNat 1 act ((lanesOf act).map (fun l =>
        (l, (List.range 32).countP (fun k => (u.rq a).getLsbD k))))))) ∧
    (∀ a, w.a = .q a → LReady s u i [] → exec (.emwr w) s = .next (lNext s u i w.m 1 2 [.em (u.rq a)])))

/-- The results and flags of a floating word's active lanes. -/
def floatLanes (u : Machine.Unit) (w : LA) (f : Fmt) (act : Mask) (fn : ElemFn) : List (Nat × Nat × Flags) :=
  (lanesOf act).map (fun l => (l, lanesEl u w f fn l))

/-- R76 to R78, R113, R116, R117: a floating word of a format in which no enabled exception is raised writes its results in
every active lane and joins the flags of all of them into `fpmode`.sf. (The approximated functions are free within their bound: log 8.) R74, R113, R116: of two or three numbers of FP64, FP32, FP16 or BF16 whose exact result is a nonzero number of the format, every operation
gives that number in every rounding mode and raises no flag; a minimum and a maximum of unequal numbers give the smaller and the larger one. -/
def Obligations.LaneFloatResults : Prop :=
  (∀ s u i (w : LA) d f, w.dst = .v d → tyFmt w.ty = some f →
    let act := laneAct s u i w.g
    let out (j : Instr) (n iv lat : Nat) (fn : ElemFn) : Prop := LReady s u i (laRegs w n) →
      (∀ e ∈ floatLanes u w f act fn, e.2.2 &&& u.te = 0) →
      exec j s = .next (lNext s (u.raise ((floatLanes u w f act fn).foldl (fun x e => x ||| e.2.2) flNone)) i w.m iv lat
        (vRes d.toNat (tyRegs w.ty) act ((floatLanes u w f act fn).map (fun e => (e.1, e.2.1)))))
    (out (.laneAddF w) 2 1 4 elAdd ∧ out (.laneSubF w) 2 1 4 elSub ∧ out (.laneMulF w) 2 1 4 elMul ∧
      out (.laneFma w) 3 1 4 elFma ∧ out (.laneFms w) 3 1 4 elFms ∧ out (.laneFnma w) 3 1 4 elFnma) ∧
    (out (.laneMinF w) 2 1 4 elMin ∧ out (.laneMaxF w) 2 1 4 elMax ∧ out (.laneMinp w) 2 1 4 elMinp ∧
      out (.laneMaxp w) 2 1 4 elMaxp ∧ out (.laneAbsF w) 1 1 4 elAbs ∧ out (.laneNegF w) 1 1 4 elNeg ∧
      out (.laneClamp w) 3 1 4 elClamp ∧ out (.laneCsgn w) 2 1 4 elCsgn ∧ out (.laneRint w) 1 1 4 elRint) ∧
    (out (.laneAddF64 w) 2 8 12 elAdd ∧ out (.laneSubF64 w) 2 8 12 elSub ∧ out (.laneMulF64 w) 2 8 12 elMul ∧
      out (.laneFmaF64 w) 3 8 12 elFma ∧ out (.laneMinF64 w) 2 8 12 elMin ∧ out (.laneMaxF64 w) 2 8 12 elMax ∧
      out (.laneDivF64 w) 2 32 64 elDiv ∧ out (.laneSqrtF64 w) 1 32 64 elSqrt) ∧
    (out (.laneRcp w) 1 2 12 elRcp ∧ out (.laneRsqrt w) 1 2 12 (elTr .rsqrt) ∧ out (.laneSqrt w) 1 2 12 elSqrt ∧
      out (.laneEx2 w) 1 2 12 (elTr .ex2) ∧ out (.laneLg2 w) 1 2 12 (elTr .lg2) ∧ out (.laneSin w) 1 2 12 (elTr .sin) ∧
      out (.laneCos w) 1 2 12 (elTr .cos) ∧ out (.laneTanh w) 1 2 12 (elTr .tanh) ∧ out (.laneDivF32 w) 2 8 24 elDiv)) ∧
  (∀ f rm sat x y z r a b c q, f ∈ [Fmt.f64, Fmt.f32, Fmt.f16, Fmt.bf16] → f.num x = some a → f.num y = some b → f.num z = some c →
    x < 2 ^ f.width → y < 2 ^ f.width → r < 2 ^ f.width → f.num r = some q → q ≠ 0 →
    let is (fn : ElemFn) (v : Nat) : Prop := fn f rm sat false false x y z = (v, flNone)
    (q = a + b → is elAdd r) ∧ (q = a - b → is elSub r) ∧ (q = a * b → is elMul r) ∧
    (q = a * b + c → is elFma r) ∧ (q = a * b - c → is elFms r) ∧ (q = c - a * b → is elFnma r) ∧
    (b ≠ 0 → q * b = a → is elDiv r) ∧ (q * a = 1 → is elRcp r) ∧ (0 < q → q * q = a → is elSqrt r) ∧
    (a < b → is elMin x ∧ is elMax y) ∧ (b < a → is elMin y ∧ is elMax x))

/-- R78: a floating word that raises an enabled flag takes the floating-point trap 0x0021: `tinfo` holds the flags raised
and the enabled ones, and the lanes named are those that raised an enabled one. R114: floating compares and the class test write a mask bit for each active lane; the class test raises no flag. -/
def Obligations.LaneFloatTests : Prop :=
  (∀ s u i (w : LA) f, tyFmt w.ty = some f →
    let act := laneAct s u i w.g
    let hits (j : Instr) (n : Nat) (fn : ElemFn) : Prop := LReady s u i (laRegs w n) →
      (∃ e ∈ floatLanes u w f act fn, e.2.2 &&& u.te ≠ 0) →
      let all := (floatLanes u w f act fn).foldl (fun x e => x ||| e.2.2) flNone
      ∃ lanes, exec j s = takeTrap s u (slotStrm i) 0x21 0 (all.toNat * 32 + (all &&& u.te).toNat) lanes false ∧
        (∀ l, l < 32 → (BitVec.getLsbD lanes l = true ↔ ∃ e ∈ floatLanes u w f act fn, e.1 = l ∧ e.2.2 &&& u.te ≠ 0))
    (hits (.laneAddF w) 2 elAdd ∧ hits (.laneSubF w) 2 elSub ∧ hits (.laneMulF w) 2 elMul ∧ hits (.laneFma w) 3 elFma ∧
      hits (.laneFms w) 3 elFms ∧ hits (.laneFnma w) 3 elFnma ∧ hits (.laneMinF w) 2 elMin ∧ hits (.laneMaxF w) 2 elMax ∧
      hits (.laneRint w) 1 elRint) ∧
    (hits (.laneAddF64 w) 2 elAdd ∧ hits (.laneSubF64 w) 2 elSub ∧ hits (.laneMulF64 w) 2 elMul ∧ hits (.laneFmaF64 w) 3 elFma ∧
      hits (.laneDivF64 w) 2 elDiv ∧ hits (.laneSqrtF64 w) 1 elSqrt ∧ hits (.laneRcp w) 1 elRcp ∧ hits (.laneSqrt w) 1 elSqrt ∧
      hits (.laneDivF32 w) 2 elDiv) ∧
    (let els (o : Sel) (l : Nat) : List Nat := elemsOf f.width (elCount w.ty) (u.opVal w.ty w.imm.toNat o l)
     let flags (l : Nat) : Flags := ((els w.a l).zip (els w.b l)).foldl (fun x p =>
       x ||| (fcompare w.md.toNat (f.decodeFz u.fzi p.1) (f.decodeFz u.fzi p.2)).2) flNone
     let all := (lanesOf act).foldl (fun x l => x ||| flags l) flNone
     let test (j : Instr) : Prop := LReady s u i (laRegs w 2) → (∃ l ∈ lanesOf act, flags l &&& u.te ≠ 0) →
       ∃ lanes, exec j s = takeTrap s u (slotStrm i) 0x21 0 (all.toNat * 32 + (all &&& u.te).toNat) lanes false ∧
         (∀ l, l < 32 → (BitVec.getLsbD lanes l = true ↔ l ∈ lanesOf act ∧ flags l &&& u.te ≠ 0))
     test (.laneCmpF w) ∧ test (.laneCmpF64 w))) ∧
  (∀ s u i (w : LA) d f, w.dst = .q d → tyFmt w.ty = some f →
    let act := laneAct s u i w.g
    let els (o : Sel) (l : Nat) : List Nat := elemsOf f.width (elCount w.ty) (u.opVal w.ty w.imm.toNat o l)
    let val (x : Nat) : FVal := f.decodeFz u.fzi x
    let cmps (l : Nat) : List (Bool × Flags) :=
      ((els w.a l).zip (els w.b l)).map (fun p => fcompare w.md.toNat (val p.1) (val p.2))
    let cmp (j : Instr) (iv lat : Nat) : Prop := LReady s u i (laRegs w 2) →
      (∀ l ∈ lanesOf act, (cmps l).foldl (fun a x => a ||| x.2) flNone &&& u.te = 0) →
      ∃ bits, exec j s = .next (lNext s (u.raise ((lanesOf act).foldl (fun y l =>
          y ||| (cmps l).foldl (fun a x => a ||| x.2) flNone) flNone)) i w.m iv lat [.q d act bits]) ∧
        (∀ l ∈ lanesOf act, bits.getLsbD l = (cmps l).all (fun x => x.1))
    cmp (.laneCmpF w) 1 4 ∧ cmp (.laneCmpF64 w) 8 12 ∧
    (LReady s u i (laRegs w 1) →
      ∃ bits, exec (.laneFcls w) s = .next (lNext s u i w.m 1 4 [.q d act bits]) ∧
        (∀ l ∈ lanesOf act, bits.getLsbD l = ((els w.a l).zip (els w.b l)).all (fun p => w.imm.getLsbD (f.classBit p.1)))))

/-- R115, R121 to R123: `dot2`, `cvt`, `unpk`, `pack` and `scl` write their conversions where no enabled flag is raised. (Conversions of E8M0, and where
a small constant stands: log 26 and 79.) R79: a number converted to a type that has it is that number, without a flag: between floating formats other than to E8M0, from an integer, and to
an integer in its range. -/
def Obligations.LaneConversionResults : Prop :=
  (∀ s u i (w : LA) d, w.dst = .v d →
    let act := laneAct s u i w.g
    let src := convSrc w.md
    let k := w.md.toNat % 4
    let out (j : Instr) (regs : List (Nat × Nat)) (lat n : Nat) (r : Nat → Nat × Flags) : Prop := LReady s u i regs →
      (∀ l ∈ lanesOf act, (r l).2 &&& u.te = 0) →
      exec j s = .next (lNext s (u.raise ((lanesOf act).foldl (fun x l => x ||| (r l).2) flNone)) i w.m 1 lat
        (vRes d.toNat n act ((lanesOf act).map (fun l => (l, (r l).1)))))
    let cv (rm : Rm) (l : Nat) : Nat × Flags :=
      let c := convert src w.ty rm w.sat u.fzi u.fzo (pickElem src k (u.opVal src w.imm.toNat w.a l))
      (convFill w.ty c.1, c.2)
    let pk (o : Sel) (l : Nat) : Nat × Flags :=
      convert src w.ty (u.effRm w.rnd) w.sat u.fzi u.fzo (pickElem src 0 (u.opVal src w.imm.toNat o l))
    out (.laneCvt w) (selRegs w.dst (tyRegs w.ty) ++ selRegs w.a (tyRegs src)) 4 (tyRegs w.ty) (cv (u.effRm w.rnd)) ∧
    out (.laneUnpk w) (selRegs w.dst (tyRegs w.ty) ++ selRegs w.a (tyRegs src)) 4 (tyRegs w.ty) (cv .rne) ∧
    out (.lanePack w) (selRegs w.dst 1 ++ selRegs w.a (tyRegs src) ++ selRegs w.b (tyRegs src)) 4 1 (fun l =>
      (putElem (elBits w.ty) (2 * k + 1) (pk w.b l).1 (putElem (elBits w.ty) (2 * k) (pk w.a l).1 (u.rv d.toNat l).toNat),
        (pk w.a l).2 ||| (pk w.b l).2)) ∧
    (∀ f, tyFmt w.ty = some f → out (.laneScl w) (selRegs w.dst 1 ++ selRegs w.a 1 ++ selRegs w.b 1) 4 1 (fun l =>
      sclVal f (u.effRm w.rnd) w.sat u.fzi u.fzo (u.opVal w.ty w.imm.toNat w.a l % 2 ^ f.width)
        (u.opVal .b32 w.imm.toNat w.b l % 256)) ∧
      out (.laneDot2 w) (laRegs w 3) 6 1 (fun l => elDot2 f (u.effRm w.rnd) w.sat u.fzi u.fzo
        (elemsOf 16 2 (u.opVal w.ty w.imm.toNat w.a l)) (elemsOf 16 2 (u.opVal w.ty w.imm.toNat w.b l))
        (u.opVal .f32 w.imm.toNat w.c l)))) ∧
  (∀ src dst rm sat x r,
    (∀ f g a, tyFmt src = some f → tyFmt dst = some g → g ≠ .e8m0 → f.num x = some a → a ≠ 0 → r < 2 ^ g.width → g.num r = some a →
      convert src dst rm sat false false x = (r, flNone)) ∧
    (∀ g, tyFmt src = none → tyFmt dst = some g → g ≠ .e8m0 → readInt (tySigned src) (elBits src) x ≠ 0 → r < 2 ^ g.width →
      g.num r = some ((readInt (tySigned src) (elBits src) x : Int) : Rat) → convert src dst rm sat false false x = (r, flNone)) ∧
    (∀ f (n : Int), tyFmt src = some f → tyFmt dst = none → f.num x = some (n : Rat) → intLo (tySigned dst) (elBits dst) ≤ n →
      n ≤ intHi (tySigned dst) (elBits dst) → convert src dst rm sat false false x = (wrapInt (elBits dst) n, flNone)))

/-- R69 to R72: encoding what a code of a floating format other than E8M0 means, unless it is a NaN, gives the code back, raises nothing, and needs no rounding. -/
def Obligations.FormatRoundTrip : Prop :=
  ∀ f x rm, f ≠ .e8m0 → x < 2 ^ Fmt.width f → (∀ q, Fmt.decode f x ≠ .nan q) →
    Fmt.encode f rm false false (Fmt.decode f x) = (x, flNone)

/-! ## Lane words that move -/

/-- R124 to R126: `mov`, also to a mailbox, `sel` by a mask, `lsw` from the swizzled lane, and `bsel`. R127: `poll` with at least one active lane: any, all, the mask, the count, and the lowest lane or 32. -/
def Obligations.LaneMoveResults : Prop :=
  (∀ s u i (w : LA),
    let act := laneAct s u i w.g
    let v (o : Sel) (l : Nat) : Nat := u.opVal w.ty w.imm.toNat o l
    let wr (d : BitVec 7) (n : Nat) (f : Nat → Nat) : List FRes := vRes d.toNat n act ((lanesOf act).map (fun l => (l, f l)))
    (∀ d, w.dst = .v d → LReady s u i (selRegs w.dst (tyRegs w.ty) ++ selRegs w.a (tyRegs w.ty)) →
      exec (.laneMov w) s = .next (lNext s u i w.m 1 4 (wr d (tyRegs w.ty) (v w.a)))) ∧
    (∀ k l t, w.dst = .mb k → LReady s u i (selRegs w.a (tyRegs w.ty)) → lanesOf act = l :: t →
      ∃ r y, exec (.laneMov w) s = .next r ∧ r.unit? s.cur = some y ∧ r.mem = s.mem ∧
        SMap.get 0 y.mbVal k.toNat = BitVec.ofNat 64 (v w.a l % 2 ^ 64) ∧
        (∀ j, j ≠ k.toNat → SMap.get 0 y.mbVal j = SMap.get 0 u.mbVal j)) ∧
    (∀ d, w.dst = .v d → LReady s u i (intRegs w 2) →
      exec (.laneSel w) s = .next (lNext s u i w.m 1 4 (wr d (tyRegs w.ty)
        (fun l => if (u.maskVal s.free i w.c).getLsbD l then v w.a l else v w.b l)))) ∧
    (∀ d a, w.dst = .v d → w.a = .v a → u.dual = false →
      let n := tyRegs w.ty
      let mode := w.md.toNat % 4
      let g := 2 ^ (5 - w.md.toNat / 4 % 8)
      let src (l : Nat) : Nat :=
        let x := u.opVal .b32 w.imm.toNat w.b l % 32
        let base := l - l % g
        match mode with | 0 => base + x % g | 1 => base + (l + x) % g | 2 => l ^^^ (x % g) | _ => base + (g - 1) - (l - base)
      LReady s u i (selRegs w.dst n ++ selRegs w.a n ++ (if mode = 3 then [] else selRegs w.b 1)) →
      exec (.laneLsw w) s = .next (lNext s u i w.m (if wide w.ty then 2 else 1) 6 (wr d n (fun l =>
        ((List.range n).map (fun k => (u.rv (a.toNat + k) (src l)).toNat * 2 ^ (32 * k))).sum)))) ∧
    (∀ d, w.dst = .v d → LReady s u i (intRegs w 3) →
      exec (.laneBsel w) s = .next (lNext s u i w.m 1 6 (wr d 1 (fun l => joinElems 8 ((List.range 4).map (fun k =>
        let x := fld (v w.c l) (8 * k) 8
        let y := fld (v w.a l + v w.b l * 2 ^ 32) (8 * (x % 8)) 8
        match x / 8 % 4 with | 0 => y | 1 => 0 | 2 => 0xFF | _ => if 128 ≤ y then 0xFF else 0))))))) ∧
  (∀ s u i (w : LA) n, LReady s u i (selRegs w.dst 1 ++ selRegs w.a 1) → w.a = .q n → u.dual = false →
    let act := laneAct s u i w.g
    let hit := lanesOf (act &&& u.rq n)
    act ≠ 0 →
    (∀ d, w.dst = .q d →
      (w.md = 0 → exec (.lanePoll w) s = .next (lNext s u i w.m 1 2 [.q d act (if hit = [] then 0 else 0xFFFFFFFF)])) ∧
      (w.md = 1 → exec (.lanePoll w) s = .next (lNext s u i w.m 1 2 [.q d act (if act &&& u.rq n = act then 0xFFFFFFFF else 0)])) ∧
      (w.md = 2 → exec (.lanePoll w) s = .next (lNext s u i w.m 1 2 [.q d act (u.rq n)]))) ∧
    (∀ d, w.dst = .v d →
      (w.md = 3 → exec (.lanePoll w) s = .next (lNext s u i w.m 1 2
        (vRes d.toNat 1 act ((lanesOf act).map (fun l => (l, hit.length)))))) ∧
      (w.md = 4 → exec (.lanePoll w) s = .next (lNext s u i w.m 1 2
        (vRes d.toNat 1 act ((lanesOf act).map (fun l => (l, hit.headD 32))))))) ∧
    (∀ k l t, w.dst = .mb k → w.md = 3 → lanesOf act = l :: t →
      ∃ r y, exec (.lanePoll w) s = .next r ∧ r.unit? s.cur = some y ∧
        SMap.get 0 y.mbVal k.toNat = BitVec.ofNat 64 hit.length))

/-- R128: `red` and `scan` combine the active lanes in their fixed order, where no step raises an enabled flag: `red` writes
the root of the tree to every active lane or to a mailbox, `scan` the running prefix. `red` of one active lane is that lane's
value. R128: what the combinations are: the sum of an integer `red` is that of all active lanes, wrapped, and of an integer `scan` that of the active lanes
up to each; the minimum is a lane's value that none is below; a floating sum that is a nonzero number of the format is that number. -/
def Obligations.LaneReductionResults : Prop :=
  (∀ s u i (w : LA),
    let act := laneAct s u i w.g
    let f := combine w.ty w.md.toNat u.fzi u.fzo
    let iv := if wide w.ty then 4 else 2
    let tree := treeGo f 5 ((List.range 32).map (fun l =>
      if act.getLsbD l then some (BitVec.ofNat 32 (2 ^ l), u.redVal w l) else none)) []
    let run := scanGo f ((lanesOf act).map (fun l => (l, u.redVal w l))) none
    (∀ d m x, w.dst = .v d → LReady s u i (selRegs w.dst (tyRegs w.ty) ++ selRegs w.a (tyRegs w.ty)) →
      tree.1 = some (m, x) → (∀ e ∈ tree.2, e.2 &&& u.te = 0) →
      exec (.laneRed w) s = .next (lNext s (u.raise (flUnion tree.2)) i w.m iv 12
        (vRes d.toNat (tyRegs w.ty) act ((lanesOf act).map (fun l => (l, x)))))) ∧
    (∀ k m x, w.dst = .mb k → LReady s u i (selRegs w.a (tyRegs w.ty)) →
      tree.1 = some (m, x) → (∀ e ∈ tree.2, e.2 &&& u.te = 0) → lanesOf act ≠ [] →
      ∃ r y, exec (.laneRed w) s = .next r ∧ r.unit? s.cur = some y ∧
        SMap.get 0 y.mbVal k.toNat = BitVec.ofNat 64 (x % 2 ^ 64)) ∧
    (∀ l, lanesOf act = [l] → tree = (some (BitVec.ofNat 32 (2 ^ l), u.redVal w l), [])) ∧
    (∀ d, w.dst = .v d → LReady s u i (selRegs w.dst (tyRegs w.ty) ++ selRegs w.a (tyRegs w.ty)) →
      (∀ e ∈ run.2, e.2 &&& u.te = 0) →
      exec (.laneScan w) s = .next (lNext s (u.raise (flUnion run.2)) i w.m iv 12 (vRes d.toNat (tyRegs w.ty) act run.1)))) ∧
  ((∀ (u : Machine.Unit) (w : LA) (act : Mask), tyFmt w.ty = none → elCount w.ty = 1 →
    let f := combine w.ty w.md.toNat u.fzi u.fzo
    let e := elBits w.ty
    let tree := treeGo f 5 ((List.range 32).map (fun l =>
      if act.getLsbD l then some (BitVec.ofNat 32 (2 ^ l), u.redVal w l) else none)) []
    let run := scanGo f ((lanesOf act).map (fun l => (l, u.redVal w l))) none
    (∀ m x, tree.1 = some (m, x) → m = act ∧
      (w.md = 0 → x = ((lanesOf act).map (u.redVal w)).sum % 2 ^ e) ∧
      (w.md = 1 → (∃ l ∈ lanesOf act, x = u.redVal w l) ∧
        ∀ l ∈ lanesOf act, readInt (tySigned w.ty) e x ≤ readInt (tySigned w.ty) e (u.redVal w l))) ∧
    (w.md = 0 → run.1 = (lanesOf act).map (fun l => (l, (((lanesOf act).filter (· ≤ l)).map (u.redVal w)).sum % 2 ^ e)))) ∧
  (∀ t f x y r a b, tyFmt t = some f → elCount t = 1 → f ∈ [Fmt.f64, Fmt.f32, Fmt.f16, Fmt.bf16] → x < 2 ^ f.width → y < 2 ^ f.width →
    r < 2 ^ f.width → f.num x = some a → f.num y = some b → f.num r = some (a + b) → a + b ≠ 0 →
    combine t 0 false false x y = (r, flNone)))

/-! ## Control of the lane stream -/

/-- R132 to R136: `ljmp` moves the slot; `lbr` with no active lane whose condition holds goes on, and with all of them
jumps; `ljoin` at the base of an undivided slot goes on; `lbrk` without a debugger goes on; `lend` with nothing
outstanding ends the run. Each holds the core's L port for one mclk. R12, R13, R135: the end of a run gives its queue entry back, takes one off the count of each mailbox of its mask, and starts the next queued run
at its entry with every lane; without one the lane side is idle. R132, R133: an `lbr` that divides a slot with a live sibling goes on under two entries, the lanes that take the branch pending; an `ljoin` pops a
pending, a join or a pair entry, once the accesses of its paths are done; a path that comes first to a pair's `ljoin` parks, and the one that comes
second leaves the owner with all lanes and the other slot idle. R132: an `lbr` that divides the active lanes of a slot whose sibling is idle, with room in its stack: the slot goes on
with the lanes whose condition fails, under one entry that holds the whole mask, and the sibling starts at the target with
the others. No lane is lost, and none is on both paths. R131 to R135: the control traps of the lane stream: a target outside the image, a stack that overflows, an `ljoin` whose index is not that of its
entry or of the other path, and a run that ends unjoined. -/
def Obligations.LaneControlWords : Prop :=
  (∀ s u i (w : LC), LReady s u i [] →
    let x := u.slot i
    let t := laneAct s u i w.g
    let pc := (x.lpc : Int) + w.off.toInt
    let inL : Prop := 0 ≤ pc ∧ pc < (lLen s u : Int)
    let go (s1 : State) (v : Machine.Unit) : Res := .next (holdPort (s1.setUnit v) u.id.core 1)
    (inL → exec (.ljmp w) s = go s (u.lDone i w.m [] pc.toNat)) ∧
    (t = 0 → exec (.lbr w) s = go (spendFree s u) (u.lDone i w.m [] (x.lpc + 1))) ∧
    (t ≠ 0 → t = x.em → inL → exec (.lbr w) s = go (spendFree s u) (u.lDone i w.m [] pc.toNat)) ∧
    (x.stack = [] → (u.slot (!i)).live = false → exec (.ljoin w) s = go s (u.lDone i w.m [] (x.lpc + 1))) ∧
    (debugged s u = false → exec (.lbrk w) s = go (spendFree s u) (u.lDone i w.m [] (x.lpc + 1))) ∧
    (u.dual = false → x.stack = [] → x.fly = [] → u.pend.any (fun p => p.unbound && decide (p.strm ≠ .s)) = false →
      exec (.lend w) s = go s u.endRun)) ∧
  (∀ (u : Machine.Unit) r, u.lS.running = some r →
    let v := u.endRun
    (∀ n, n < 4 → SMap.get 0 v.mbCnt n = SMap.get 0 u.mbCnt n - (if r.mask.getLsbD n then 1 else 0)) ∧
    v.lS.running.toList ++ v.lS.queue = u.lS.queue ∧
    (u.lS.queue = [] → v.laneIdle = true ∧ v.lS.slot0 = Slot.idle ∧ v.lS.slot1 = Slot.idle) ∧
    (∀ q l, u.lS.queue = q :: l → v.lS.running = some q ∧ v.lS.slot1 = Slot.idle ∧
      v.lS.slot0 = { Slot.idle with live := true, lpc := q.entry, em := 0xFFFFFFFF }) ∧
    v.lS.v = u.lS.v ∧ v.lS.q = u.lS.q ∧ v.mbVal = u.mbVal ∧ v.sS = u.sS) ∧
  (∀ s u i (w : LC), LReady s u i [] →
    let x := u.slot i
    let y := u.slot (!i)
    let t := laneAct s u i w.g
    let pc := (x.lpc : Int) + w.off.toInt
    let quiet : Prop := pathHeld s u (slotStrm i) = false
    let ends (j : Instr) (o : Bool) (pc : Nat) (em : Mask) (st : List StackE) (other : Slot) : Prop :=
      ∃ r v, exec j s = .next r ∧ r.unit? s.cur = some v ∧ r.mem = s.mem ∧ (v.slot o).lpc = pc ∧ (v.slot o).em = em ∧
        (v.slot o).stack = st ∧ (v.slot o).live = x.live ∧ v.slot (!o) = other ∧ v.lS.v = u.lS.v ∧ v.lS.q = u.lS.q ∧ v.sS = u.sS
    (t ≠ 0 → t ≠ x.em → 0 ≤ pc → pc < (lLen s u : Int) → y.live = true → x.stack.length ≤ 14 →
      ends (.lbr w) i (x.lpc + 1) (x.em &&& ~~~t)
        (⟨.pending, t, some pc.toNat⟩ :: ⟨.join, x.em, none⟩ :: x.stack) y) ∧
    (∀ e j r, x.stack = e :: j :: r → e.kind = .pending → quiet →
      ends (.ljoin w) i (e.idx.getD 0) e.mask ({ j with idx := some x.lpc } :: r) y) ∧
    (∀ e r, x.stack = e :: r → e.kind = .join → e.idx = some x.lpc → quiet → ends (.ljoin w) i (x.lpc + 1) e.mask r y) ∧
    (∀ e r, x.stack = e :: r → e.kind = .pair → y.atJoin = false →
      ∃ z v, exec (.ljoin w) s = .next z ∧ z.unit? s.cur = some v ∧ (v.slot i).atJoin = x.live ∧ (v.slot i).lpc = x.lpc ∧
        (v.slot i).em = x.em ∧ v.slot (!i) = y ∧ z.mem = s.mem) ∧
    (∀ e r, y.atJoin = true → x.lpc = y.lpc → pathHeld s u .l0 = false → pathHeld s u .l1 = false →
      (x.stack = e :: r → e.kind = .pair → ends (.ljoin w) i (x.lpc + 1) e.mask r Slot.idle) ∧
      (x.stack = [] → x.live = true → y.stack = e :: r → ends (.ljoin w) (!i) (x.lpc + 1) e.mask r Slot.idle))) ∧
  (∀ s u i (w : LC), LReady s u i [] →
    let x := u.slot i
    let t := laneAct s u i w.g
    let pc := (x.lpc : Int) + w.off.toInt
    t ≠ 0 → t ≠ x.em → 0 ≤ pc → pc < (lLen s u : Int) → (u.slot (!i)).live = false → x.stack.length < 16 →
    ∃ r v, exec (.lbr w) s = .next r ∧ r.unit? s.cur = some v ∧ r.mem = s.mem ∧
      (v.slot i).lpc = x.lpc + 1 ∧ (v.slot (!i)).lpc = pc.toNat ∧ (v.slot (!i)).em = t ∧ (v.slot (!i)).live = true ∧
      (v.slot i).em ||| (v.slot (!i)).em = x.em ∧ (v.slot i).em &&& (v.slot (!i)).em = 0 ∧
      (v.slot i).stack = { kind := .pair, mask := x.em, idx := none } :: x.stack ∧
      v.lS.v = u.lS.v ∧ v.lS.q = u.lS.q ∧ v.sS = u.sS) ∧
  (∀ s u i (w : LC), LReady s u i [] →
    let x := u.slot i
    let y := u.slot (!i)
    let t := laneAct s u i w.g
    let pc := (x.lpc : Int) + w.off.toInt
    let inL : Prop := 0 ≤ pc ∧ pc < (lLen s u : Int)
    let traps (j : Instr) (c a n : Nat) : Prop := exec j s = portAfter (takeTrap s u (slotStrm i) c a n 0 false) u.id.core 1
    (¬ inL → traps (.ljmp w) 0x26 (wrapInt 64 pc) 0) ∧ (t ≠ 0 → ¬ inL → traps (.lbr w) 0x26 (wrapInt 64 pc) 0) ∧
    (t ≠ 0 → t ≠ x.em → inL → (y.live = true ∧ 14 < x.stack.length ∨ y.live = false ∧ 16 ≤ x.stack.length) →
      traps (.lbr w) 0x27 x.lpc x.stack.length) ∧
    (∀ e r, x.stack = e :: r → e.kind = .join → e.idx ≠ some x.lpc → traps (.ljoin w) 0x28 x.lpc (e.idx.getD 0)) ∧
    ((x.stack = [] ∧ y.live = true ∨ ∃ e r, x.stack = e :: r ∧ e.kind = .pair) → y.atJoin = true → x.lpc ≠ y.lpc →
      traps (.ljoin w) 0x28 x.lpc y.lpc) ∧
    ((u.dual = true ∨ x.stack ≠ []) → traps (.lend w) 0x29 x.lpc 0))

/-! ## Memory words of the lane stream -/

/-- R137 to R140, R145, R21: a lane load of a simplex warp whose lane checks all pass, with the addresses of its active
lanes: a global load leaves a pending group, a pad or handle load of sound sectors puts the values it reads in flight. R139, R143, R145, R238: a lane store of a simplex warp whose lane checks all pass. A pad or handle store to sound sectors writes the bytes of
its active lanes at home, a later lane over an earlier one, and no other byte; a global store puts its bytes in the store
queue, one part for each sector, and leaves every home byte as it is. (A store of more cross-die sectors than the acknowledgement buffer has entries issues
while the buffer is empty: log 32; the ways of a mirror set: log 81.) -/
def Obligations.LaneMemoryWords : Prop :=
  (∀ s u i (w : LM) d, w.dst = .v d → plain s u →
    let act := laneAct s u i w.g
    let n := tyRegs w.ty
    let st := slotStrm i
    let regs := selRegs w.dst n ++ selRegs w.a 1
    let vals (sp : Space) : List (Nat × Nat) := (okAddrs (checksL s u sp w w.b 0 act)).map (fun e =>
      (e.1, extLoad (ltySize w.ty) (tySigned w.ty) (32 * n) (leNat (readN (seenByte s u st s.fl.seq) (ltySize w.ty) e.2))))
    let local_ (lat : Nat) (l : List (Nat × Nat)) : Res := .next (holdPort (s.setUnit (u.done st w.m
      (flights s u.id.core lat (vRes d.toNat n act l)))) u.id.core (memIv w.ty))
    (LReady s u i regs → laneFail (checksL s u .gsa w w.b 0 act) = none →
      exec (.laneLdg w) s = .next (holdPort (issuePend s u st w.m 1 (newPend s u st (.v d.toNat n)
        (.ldg (okAddrs (checksL s u .gsa w w.b 0 act)) (ltySize w.ty) (tySigned w.ty)) (acqOrd w.ord) act none))
        u.id.core (memIv w.ty))) ∧
    (LReady s u i regs → laneFail (checksL s u .pad w w.b 0 act) = none →
      readsNow s u st (ltySize w.ty) (okAddrs (checksL s u .pad w w.b 0 act)) →
      exec (.laneLdp w) s = local_ 8 (vals .pad)) ∧
    (LReady s u i (regs ++ selRegs w.b 1) → laneFail (checksL s u .hnd w w.b 0 act) = none →
      readsNow s u st (ltySize w.ty) (okAddrs (checksL s u .hnd w w.b 0 act)) →
      exec (.laneLdh w) s = local_ 16 (vals .hnd))) ∧
  (∀ s u i (w : LM), plain s u → relOk s u (slotStrm i) w.ord w.sc →
    let act := laneAct s u i w.g
    let n := tyRegs w.ty
    let st := slotStrm i
    let regs := selRegs w.a 1 ++ selRegs w.b n
    let bytes (sp : Space) : SMap Byte := storeBytes (ltySize w.ty)
      ((okAddrs (checksL s u sp w w.c 1 act)).map (fun e => (e.1, e.2, u.opVal w.ty 0 w.b e.1)))
    let cross := sectorsOf ((bytes .gsa).filter (fun b => decide (gsaDie b.1 ≠ u.die)))
    let home (j : Instr) (sp : Space) (rs : List (Nat × Nat)) : Prop :=
      LReady s u i rs → laneFail (checksL s u sp w w.c 1 act) = none → loadsHeld (afterRel u w.ord w.sc) st = false →
      (∀ b ∈ bytes sp, s.mem.badHome.contains (sectorOf b.1) = false) →
      ∃ t, exec j s = .next t ∧ lOn s t u i ∧
        (∀ a, ¬ bellByte s a → homeByte t a = (SMap.look (bytes sp) a).getD (homeByte s a))
    (LReady s u i regs → laneFail (checksL s u .gsa w w.c 1 act) = none →
      (cross = [] ∨ ackUse s u = 0 ∨ ackUse s u + cross.length ≤ 16) →
      (w.ef = true → ∀ k ∈ cross, wayFree s u.die (k / 4) = true) →
      ∃ t, exec (.laneStg w) s = .next t ∧ lOn s t u i ∧ sameHome s t ∧
        t.fl.stores.length = s.fl.stores.length + (sectorsOf (bytes .gsa)).length ∧
        (∀ a b, SMap.look (bytes .gsa) a = some b →
          ∃ p ∈ t.fl.stores, p.unit = some u.id ∧ s.fl.seq ≤ p.seq ∧ SMap.look p.bytes a = some b)) ∧
    home (.laneStp w) .pad regs ∧ home (.laneSth w) .hnd (regs ++ selRegs w.c 1))

/-- R146, R147: a lane atomic of a simplex warp whose lane checks all pass. On the pad or through a handle the lanes are
performed one after another, lowest first, and the old values are in flight; on global SRAM the word is queued for its
place and its group is pending. (Write-backs beyond an empty acknowledgement buffer's entries: log 32.) -/
def Obligations.LaneAtomics : Prop :=
  ∀ s u i (w : LM) d, w.dst = .v d → plain s u → relOk s u (slotStrm i) w.ord w.sc →
    let act := laneAct s u i w.g
    let n := tyRegs w.ty
    let st := slotStrm i
    let sp := lmSpace w.fn
    let size := ltySize w.ty
    let rc := if lmAtom w.fn = .cas then selRegs w.c n else if sp = .hnd then selRegs w.c 1 else []
    let accs := (okAddrs (checksL s u sp w w.c 2 act)).map (fun e =>
      (⟨e.1, e.2, u.opVal w.ty 0 w.b e.1 % 2 ^ (8 * size), u.opVal w.ty 0 w.c e.1 % 2 ^ (8 * size)⟩ : AtomAcc))
    LReady s u i (selRegs w.dst n ++ selRegs w.a 1 ++ selRegs w.b n ++ rc) →
    laneFail (checksL s u sp w w.c 2 act) = none →
    (sp ≠ .gsa → loadsHeld (afterRel u w.ord w.sc) st = false → (∀ e ∈ accs, s.mem.badHome.contains (sectorOf e.addr) = false) →
      let r := atomHome s (lmAtom w.fn) size accs
      ∃ t y, exec (.laneAtom w) s = .next t ∧ t.unit? s.cur = some y ∧ (∀ a, homeByte t a = homeByte r.1 a) ∧
        (y.slot i).lpc = (u.slot i).lpc + 1 ∧ sameArch u y ∧
        (y.slot i).fly = (u.slot i).fly ++ flights s u.id.core (if sp = .hnd then 20 else 12) (vRes d.toNat n act r.2)) ∧
    (sp = .gsa →
      (let far := (accs.filter (fun e => decide (gsaDie e.addr ≠ u.die))).length
       atomPlace u w.sc = .slice ∨ far = 0 ∨ ackUse s u = 0 ∨ ackUse s u + far ≤ 16) →
      ∃ t y p q, exec (.laneAtom w) s = .next t ∧ t.unit? s.cur = some y ∧ sameMem s t ∧ (y.slot i).lpc = (u.slot i).lpc + 1 ∧ sameArch u y ∧
        y.pend = u.pend ++ [p] ∧ p.dst = .v d.toNat n ∧ p.what = .atom s.fl.seq ∧ t.fl.atoms.getLast? = some q ∧
        q.unit = u.id ∧ q.op = lmAtom w.fn ∧ q.accs = accs ∧ q.place = atomPlace u w.sc)

/-! ## Synchronisation and feed words of the lane stream -/

/-- R148 to R151: the lane fence and barrier words of a simplex warp on an undivided slot do what the S words do, with the
operands of the lowest active lane; without an active lane a barrier word only goes on; while both path slots are live it takes the divergent-barrier
trap, and with a count that the phase does not have the barrier-count trap. -/
def Obligations.LaneSyncWords : Prop :=
  ∀ s u i (w : LM), u.who.rset = 0 →
    let st := slotStrm i
    let act := laneAct s u i w.g
    let go (t : State) : Res := .next (holdPort t u.id.core 1)
    let v := afterRel u w.ord w.sc
    let joins (kind idx c : Nat) : Prop :=
      let n := if c = 0 then barFull s u kind else c
      (barGet s u kind idx).arrived.contains (ukey u.id) = false ∧ n ≤ barFull s u kind ∧
        ((barGet s u kind idx).count = 0 ∨ (barGet s u kind idx).count = n)
    let joined (kind idx c : Nat) : State :=
      arriveBar (s.setUnit (v.done st w.m [])) v kind idx (if c = 0 then barFull s u kind else c)
    (LReady s u i [] → relOk s u st w.ord w.sc → (acqOrd w.ord = true → loadsHeld v st = false) →
      exec (.laneFence w) s = go (s.setUnit (v.done st w.m []))) ∧
    (∀ l r, u.dual = false → lanesOf act = l :: r → relOk s u st w.ord w.sc →
      (LReady s u i (selRegs w.a 1) → joins 0 0 (u.opVal .b32 0 w.a l) → (joined 0 0 (u.opVal .b32 0 w.a l)).sch.parked = false →
        exec (.laneBarArrive w) s = go (joined 0 0 (u.opVal .b32 0 w.a l))) ∧
      (LReady s u i (selRegs w.a 1 ++ selRegs w.b 1) → joins 1 (u.opVal .b32 0 w.b l % 16) (u.opVal .b32 0 w.a l) →
        (joined 1 (u.opVal .b32 0 w.b l % 16) (u.opVal .b32 0 w.a l)).sch.parked = false →
        exec (.laneNbarArrive w) s = go (joined 1 (u.opVal .b32 0 w.b l % 16) (u.opVal .b32 0 w.a l)))) ∧
    (∀ l r, u.dual = false → lanesOf act = l :: r →
      (LReady s u i [] → (barGet s u 0 0).arrived.contains (ukey u.id) = false →
        exec (.laneBarWait w) s = go (s.setUnit (u.done st w.m []))) ∧
      (LReady s u i (selRegs w.b 1) → (barGet s u 1 (u.opVal .b32 0 w.b l % 16)).arrived.contains (ukey u.id) = false →
        exec (.laneNbarWait w) s = go (s.setUnit (u.done st w.m [])))) ∧
    (let traps (r : Res) : Res := portAfter r u.id.core 1
     u.dual = true →
      let dv : Res := traps (takeTrap s u st 0x2B 0 w.fn.toNat 0 false)
      (LReady s u i (selRegs w.a 1) → exec (.laneBarArrive w) s = dv) ∧ (LReady s u i [] → exec (.laneBarWait w) s = dv) ∧
      (LReady s u i (selRegs w.a 1 ++ selRegs w.b 1) → exec (.laneNbarArrive w) s = dv) ∧
      (LReady s u i (selRegs w.b 1) → exec (.laneNbarWait w) s = dv)) ∧
    (∀ l r, u.dual = false → lanesOf act = l :: r → (barGet s u 0 0).arrived.contains (ukey u.id) = false →
      barFull s u 0 < u.opVal .b32 0 w.a l → LReady s u i (selRegs w.a 1) →
      exec (.laneBarArrive w) s = portAfter (takeTrap s u st 0x2A 0 (u.opVal .b32 0 w.a l % 2 ^ 32) 0 false) u.id.core 1) ∧
    (u.dual = false → lanesOf act = [] → LReady s u i (selRegs w.a 1 ++ selRegs w.b 1) →
      exec (.laneBarArrive w) s = go (s.setUnit (u.done st w.m [])) ∧
      exec (.laneNbarArrive w) s = go (s.setUnit (u.done st w.m [])))

/-- R193 to R196: the feed words of a team with a lockmaster program on an undivided slot: `xreq` reserves an object that
the unit has not posted, and gives one back that it holds; with the grant, `xfeed` writes the lanes' bytes into the tile half
at their offsets, and `xread` reads the drain buffer, 0 beyond it. (Which code a reservation takes: log 47.) -/
def Obligations.FeedWords : Prop :=
  ∀ s u i (w : LA), hasEngine s u = true →
    let act := laneAct s u i w.g
    let obj := xObj w.md.toNat
    let n := tyRegs w.ty
    let moved (r : State) : Prop := lOn s r u i ∧ r.mem = s.mem
    (act ≠ 0 → u.dual = false → LReady s u i [] → resvOf s u obj = none → (engineOf s u).resv.length < 16 →
      ∃ r, exec (.xreqReserve w) s = .next r ∧ moved r ∧ (engineOf r u).resv = (engineOf s u).resv ++
        [{ obj := obj, unit := u.id, prio := fld w.md.toNat 5 2, arr := arrKey s u, granted := false }]) ∧
    (act ≠ 0 → u.dual = false → LReady s u i [] → (∃ g, resvOf s u obj = some g ∧ g.granted = true) → (obj = 8 → (u.slot i).fly = []) →
      ∃ r, exec (.xreqRelease w) s = .next r ∧ moved r ∧ resvOf r u obj = none) ∧
    (∀ g, LReady s u i (selRegs w.a n ++ selRegs w.b 1) →
      let o := fld w.md.toNat 0 2 * 2 + fld w.md.toNat 2 1
      resvOf s u o = some g → g.granted = true →
      let l := (lanesOf act).map (fun x => (x, u.opVal .b32 w.imm.toNat w.b x % 2 ^ 14))
      (∀ e ∈ l, e.2 % (4 * n) = 0) →
      let bytes := l.flatMap (fun e => bytesAt (o * 16384 + e.2) (leBytes (4 * n) (u.opVal w.ty 0 w.a e.1)))
      ∃ r, exec (.xfeed w) s = .next r ∧ moved r ∧
        (engineOf r u).o = bytes.foldl (fun y e => SMap.set 0 y e.1 e.2) (engineOf s u).o ∧
        (engineOf r u).acc = (engineOf s u).acc ∧ (engineOf r u).scale = (engineOf s u).scale) ∧
    (∀ g d, w.dst = .v d → LReady s u i (selRegs w.dst n ++ selRegs w.a 1) → resvOf s u 8 = some g → g.granted = true →
      let l := (lanesOf act).map (fun x => (x, u.opVal .b32 w.imm.toNat w.a x % 2 ^ 17))
      (∀ e ∈ l, e.2 % (4 * n) = 0) →
      exec (.xread w) s = .next (lNext (spoil s u) u i w.m (feedIv (4 * n)) 12 (vRes d.toNat n act (l.map (fun e =>
        (e.1, leNat (readN (fun x => if x < 0x10400 then SMap.get 0 (engineOf s u).drain x else 0) (4 * n) e.2)))))))

/-! ## Commands of the S-stream -/

/-- R159 to R163, R168: a copy or scale copy of a simplex producer whose checks all pass, with a free command slot and
nothing to release, retires with its status register pending, and its barge has one more command, of the length, rows and
pitches that its registers name. No byte of memory has changed. (A copy's chunks and their order: log 29.) R169: a multicast of a simplex producer whose checks all pass takes one credit from every named counter, in one step,
and hands its command over; while a counter is zero it parks and takes none. -/
def Obligations.CopyWords : Prop :=
  (∀ s u m a b c, u.who.producer = true → u.who.rset = 0 → relClear s u .s .dev → (jobsOf s u).length < 64 →
    let sts : SReg := ccwSts (u.rs c).toNat
    let low (k : Nat) : Nat := (u.rs (c + BitVec.ofNat 6 k)).toNat % 2 ^ 32
    (sts = 0 ∨ u.sPend sts = false) →
    let copied (i : Instr) (n : Nat) (ends : EndK × EndK) : Prop :=
      SReady s u (a :: b :: groupRegs c n) → copyFail s u n ends a b c = none →
      ∃ t y j, exec i s = .next t ∧ t.unit? s.cur = some y ∧ y.sS.spc = u.sS.spc + 1 ∧ sameArch u y ∧ t.mem = s.mem ∧
        y.pend.map (fun p => (p.dst, p.what)) =
          u.pend.map (fun p => (p.dst, p.what)) ++ (if sts = 0 then [] else [(.s sts, .status s.fl.seq)]) ∧
        t.fl.jobs = s.fl.jobs ++ [j] ∧ j.id = s.fl.seq ∧ j.unit = u.id ∧ j.dst = mkEnd s u ends.1 (u.rs a) ∧
        j.src = mkEnd s u ends.2 (u.rs b) ∧ j.len = low 0 ∧ j.moved = [] ∧ j.code = 0 ∧
        j.rows = (if n = 1 then 1 else low 1) ∧ j.srp = (if n = 1 then 0 else low 2) ∧ j.drp = (if n = 1 then 0 else low 3) ∧
        j.planes = (if n = 7 then low 4 else 1) ∧ j.spp = (if n = 7 then low 5 else 0) ∧ j.dpp = (if n = 7 then low 6 else 0)
    (∀ dir, copied (.cp m dir a b c) 1 (dirEnds dir)) ∧ (∀ dir, copied (.cp2 m dir a b c) 4 (dirEnds dir)) ∧
    (∀ dir, copied (.cp3 m dir a b c) 7 (dirEnds dir)) ∧
    (∀ g, copied (.cpsc m g a b c) 1 (.scale, if g then .gsa else .dva))) ∧
  (∀ s u m a b c, u.who.producer = true → u.who.rset = 0 → relClear s u .s .dev → (jobsOf s u).length < 64 →
    SReady s u (a :: b :: groupRegs c 4) → cpmFail s u a b c = none → parkedAs u .reported = false →
    let sts : SReg := ccwSts (u.rs c).toNat
    let mask := (u.rs (c + 2)).toNat % 2 ^ 32
    let credit := (u.rs a).toNat % 2 ^ 32
    let count (x : State) (i : Nat) : Nat := leNat (readN (homeByte x) 4 (credit + 4 * i))
    (sts = 0 ∨ u.sPend sts = false) →
    (creditsReady s credit mask = true →
      ∃ t, exec (.cpm m a b c) s = .next t ∧ t.fl.jobs = s.fl.jobs ++ [cpmJob s u b c] ∧
        sOn s t u ∧
        (∀ i, i < 32 → mask.testBit i = true → holds s t (credit + 4 * i) 4 (count s i - 1)) ∧
        (∀ x, (∀ i, i < 32 → mask.testBit i = true → ¬ (credit + 4 * i ≤ x ∧ x < credit + 4 * i + 4)) → ¬ bellByte s x →
          homeByte t x = homeByte s x)) ∧
    (creditsReady s credit mask = false → exec (.cpm m a b c) s = parkAt s u .s (.credit credit mask)))

/-- R165 to R167, R175: `cbat` closes a batch that holds every command of the warp without one, and writes its number;
`cwait` passes once that batch is complete and no reported fault of the warp waits for its next boundary, and else parks; a collective whose descriptor passes hands it over. -/
def Obligations.BatchAndCollectiveWords : Prop :=
  (∀ s u m c, SReady s u [c] → u.who.producer = true → u.who.rset = 0 →
    ∃ t y, exec (.cbat m c) s = .next t ∧ t.unit? s.cur = some y ∧ t.mem = s.mem ∧ y.lastBatch = u.lastBatch + 1 ∧ sameArch u y ∧
      y.sS.fly = u.sS.fly ++ flights s u.id.core 4 [.s c (BitVec.ofNat 64 (u.lastBatch + 1))] ∧
      t.fl.jobs.map (fun j => j.id) = s.fl.jobs.map (fun j => j.id) ∧
      (∀ j ∈ t.fl.jobs, j.unit = u.id → j.wgroup = u.who.wg → j.batch ≠ none)) ∧
  (∀ s u m a, SReady s u [a] → (u.rs a).toNat ≤ u.lastBatch →
    (batchOpen s u (u.rs a).toNat = false → reportedFault u = false →
      exec (.cwait m a) s = .next (s.setUnit (u.sDone m [] (u.sS.spc + 1)))) ∧
    (batchOpen s u (u.rs a).toNat = true ∨ reportedFault u = true → exec (.cwait m a) s = parkAt s u .s (.batch (u.rs a).toNat))) ∧
  (∀ s u m a, SReady s u [a] → u.lastBatch < (u.rs a).toNat →
    exec (.cwait m a) s = trapS s u 0x31 (u.rs a).toNat u.lastBatch) ∧
  (∀ s u m a c x, SReady s u [a] → u.who.producer = true → u.who.rset = 0 → relClear s u .s .dev →
    (jobsOf s u).length < 64 → (c = 0 ∨ u.sPend c = false) →
    let g := (u.rs a).toNat % 2 ^ 32
    checkGsa s u.who.ctx g 64 7 0 = .ok x → bad64 s u g = false →
    let made (i : Instr) (op : Nat) : Prop :=
      collBad s u.who.ctx (collOf op (read64 s u g)) (read64 s u g) = none →
      ∃ t j, exec i s = .next t ∧ t.mem = s.mem ∧ sOn s t u ∧
        t.fl.jobs = s.fl.jobs ++ [j] ∧ j.id = s.fl.seq ∧ j.coll = some (collOf op (read64 s u g))
    made (.collAr m a c) 0 ∧ made (.collRs m a c) 1 ∧ made (.collAg m a c) 2 ∧ made (.collBc m a c) 3 ∧ made (.collAa m a c) 4)

/-- R170 to R174: a launch of a simplex leader whose packet reads and passes its checks puts a child at the end of its
class's queue and counts it; `wtake` takes the oldest item of its list; `qsnc` retires once quiescence is reported; `wapp` of
a simplex warp appends the active lanes' items, those bound for one list behind its tail in ascending order of lane, and changes no other byte of memory. (The boundary of a word that has been told of quiescence: log 22.) -/
def Obligations.WorkWords : Prop :=
  (∀ s u m a c x l, SReady s u [a] → teamLeader u = true → u.who.rset = 0 → relClear s u .s .dev →
    (c = 0 ∨ u.sPend c = false) →
    let g := (u.rs a).toNat % 2 ^ 32
    let p := packetOf (read64 s u g)
    checkGsa s u.who.ctx g 64 7 0 = .ok x → bad64 s u g = false → readLads s (unitWho u.id) u.who.ctx p = .ok l →
    ∃ t, exec (.launch m a c) s = .next t ∧
      (fld u.who.gridid.toNat 32 4 < 10 → packetCheck s u.who.ctx p (some (ladingsOf p.ladn l)) = none →
        (kidsOf s u.who.ctx p.cls).length < 256 →
        (∀ k, SMap.look s.ctxs u.who.ctx = some k → k.kids.length = 4 →
          (kidsOf t u.who.ctx p.cls).map (fun y => (y.pkt, y.num)) =
            (kidsOf s u.who.ctx p.cls).map (fun y => (y.pkt, y.num)) ++ [(p, k.nextGrid)]) ∧
        (∀ k, SMap.look s.grids u.who.grid = some k →
          (SMap.look t.grids u.who.grid).map (fun y => y.kids) = some (k.kids + 1)))) ∧
  (∀ s u m nb a c w, SReady s u [a, c, c + 1] → u.who.rset = 0 → parkedAs u .reported = false →
    let n := (u.rs a).toNat % 4096
    listOf s u.who.ctx n = some w →
    (if w.waiters.contains u.id then 0 < w.items ∧ w.waiters.head? = some u.id else w.waiters.length < w.items) →
    ∃ t y z, exec (.wtake m nb a c) s = .next t ∧ t.mem = s.mem ∧ t.unit? s.cur = some y ∧ y.sS.spc = u.sS.spc + 1 ∧
      sameArch u y ∧ y.sS.fly = u.sS.fly ++ flights s u.id.core 8 [.s c (BitVec.ofNat 64
          (leNat (readN (homeByte s) w.itemSize (w.base + w.head % 2 ^ w.k * w.itemSize)))), .s (c + 1) 1] ∧
      listOf t u.who.ctx n = some z ∧ z.head = w.head + 1 ∧ z.tail = w.tail) ∧
  (∀ s u m, SReady s u [] → u.who.rset = 0 → parkedAs u .reported = true →
    exec (.qsnc m) s = .next (s.setUnit (u.sDone m [] (u.sS.spc + 1)))) ∧
  (∀ s u i (w : LA), LReady s u i (selRegs w.a (tyRegs w.ty) ++ selRegs w.b 1) → u.who.rset = 0 →
    relClear s u (slotStrm i) .dev →
    let n := tyRegs w.ty
    let items := (lanesOf (laneAct s u i w.g)).map (fun l => (u.opVal .b32 0 w.b l % 4096, u.opVal w.ty 0 w.a l % 2 ^ (32 * n)))
    (∀ e ∈ items, ∃ x, listOf s u.who.ctx e.1 = some x ∧ x.itemSize = 4 * n) → listsRoom s u.who.ctx items = true →
    let at_ (j : Nat) (e : Nat × Nat) (x : WorkList) : Nat :=
      x.base + (x.tail + ((items.take j).filter (fun f => decide (f.1 = e.1))).length) % 2 ^ x.k * x.itemSize
    (∀ e ∈ items, ∀ f ∈ items, e.1 ≠ f.1 → ∀ x y, listOf s u.who.ctx e.1 = some x → listOf s u.who.ctx f.1 = some y →
      x.base + 2 ^ x.k * x.itemSize ≤ y.base ∨ y.base + 2 ^ y.k * y.itemSize ≤ x.base) →
    ∃ t, exec (.wapp w) s = .next t ∧ lOn s t u i ∧
      (∀ j e x, items[j]? = some e → listOf s u.who.ctx e.1 = some x → holds s t (at_ j e x) x.itemSize e.2) ∧
      (∀ a, ¬ bellByte s a → (∀ j e x, items[j]? = some e → listOf s u.who.ctx e.1 = some x →
        ¬ (at_ j e x ≤ a ∧ a < at_ j e x + x.itemSize)) → homeByte t a = homeByte s a) ∧
      (∀ k x, listOf s u.who.ctx k = some x →
        (listOf t u.who.ctx k).map (fun z => (z.head, z.tail)) = some (x.head, x.tail + (items.filter (fun e => decide (e.1 = k))).length)))

/-! ## Matrix words -/

/-- R180 to R192, R199 to R202: a matrix word of a lockmaster with room in its queue whose checks all pass is queued under
the team's next number, and the lockmaster goes on; `mrow.mig` and `mrow.reg` also mark their table at once. (Where a check of R185 leaves a choice: log 47.) R181, R182, R190 to R192: `mdrn` and `mchk.rd` are queued once and wait; when the engine has completed that word its
status is in flight for 4 mclk, or, for a drain of a marked tile, the tile-checksum trap is taken. -/
def Obligations.MatrixWords : Prop :=
  (∀ s u m, u.who.isLm = true → (engineOf s u).queue.length < 8 →
    let queued (i : Instr) (regs : List SReg) (f : Option (Nat × Nat × Nat)) (kind : MKind) (bytes : List (Nat × Byte)) : Prop :=
      SReady s u regs → f = none →
      ∃ t w, exec i s = .next t ∧ sOn s t u ∧
        (engineOf t u).queue = (engineOf s u).queue ++ [w] ∧ w.kind = kind ∧ w.num = nextNum s u ∧ w.done = 0 ∧
        (engineOf t u).acc = (engineOf s u).acc ∧
        (∀ x, ¬ bellByte s x → homeByte t x = (SMap.look bytes x).getD (homeByte s x))
    let g (a : SReg) : Nat := (u.rs a).toNat % 2 ^ 32
    (∀ t a b c, queued (.mma m t a b c) (opRegsOf a ++ opRegsOf b ++ [c]) (mmaFail s u a b c)
      (.mma t.toNat (pairOf u a) (pairOf u b) (tileOf a) (tileOf b) (u.rs c)) []) ∧
    (∀ t, queued (.mzero m t) [] none (.mzero t.toNat) []) ∧
    (∀ t a b c, queued (.mspl m t a b c) [a, a + 1, b, c] (msplFail s u a b c)
      (.mspl t.toNat (u.rs a) (u.rs (a + 1)) (g b) (u.rs c)) []) ∧
    (∀ a b, queued (.mrowMig m a b) [a, b] (tabFail s u (g a) .mig) (.mrowMig (g a) (max (u.rs b).toNat (nextNum s u)))
      (bytesAt (g a + 34) [2] ++ bytesAt (g a + 40) (leBytes 8 (max (u.rs b).toNat (nextNum s u))))) ∧
    (∀ a, queued (.mrowReg m a) [a] (tabFail s u (g a) .reg) (.mrowReg (g a)) (bytesAt (g a + 34) [0])) ∧
    (∀ h a b, queued (.mage m h a b) [a, b] (tabFail s u (g a) .use) (.mage (g a) ((u.rs b).toNat % 32) h) []) ∧
    (∀ t, queued (.mchkClr m t) [] none (.mchkClr t.toNat) []) ∧
    (∀ t a, queued (.mchkInj m t a) [a] none (.mchkInj t.toNat ((u.rs a).toNat % 2 ^ 15)) []) ∧
    (∀ a b c, queued (.msl m a b c) [a, b, c] (mslFail s u a b c)
      (.msl ((u.rs a).toNat % 2 ^ 16) (g b) ((u.rs c).toNat % 2 ^ 17)) [])) ∧
  (∀ s u m t a b c, u.who.isLm = true →
    let regs := (if a = 0 then [] else [a, a + 1]) ++ [b, c]
    (SReady s u regs → u.mxWait = none → (engineOf s u).queue.length < 8 → mdrnFail s u a b = none → u.who.rset = 0 →
      exec (.mdrn m t a b c) s =
        parkAt (pushWord s u (.mdrn t.toNat (drainPair u a) (u.rs b) true)) u .s (.mxDone (nextNum s u))) ∧
    (SReady s u [c] → u.mxWait = none → (engineOf s u).queue.length < 8 →
      exec (.mchkRd m t c) s = parkAt (pushWord s u (.mchkRd t.toNat)) u .s (.mxDone (nextNum s u))) ∧
    (∀ n w, u.mxWait = some n → (engineOf s u).doneStat = some (n, w) →
      (SReady s u regs → w.getLsbD 17 = false → exec (.mdrn m t a b c) s = .next (sNext s u m 4 [.s c w])) ∧
      (SReady s u regs → w.getLsbD 17 = true →
        exec (.mdrn m t a b c) s = trapS s (u.setPark .s none) 0x36 t.toNat w.toNat) ∧
      (SReady s u [c] → exec (.mchkRd m t c) s = .next (sNext s u m 4 [.s c w]))))

/-- R180, R187, R188, R193: the engine performs the oldest queued word once it is ready, one pass of it after another; with
the last the word leaves the queue under its number. `mzero` sets every element of its tile to zero. The arbiter grants
one reservation of an object. (An event that is not due changes nothing: log 2.) R80 to R82, R188: a pass of an `mma` on a tile adds to every element the rounded sum of the products of its lines of A and B, by the accumulate rule; and
that sum is, for finite elements of a format other than BF16, the exact dot product where FP32 has it. -/
def Obligations.MatrixTurns : Prop :=
  ((∀ s cl w r, (s.cluster cl).engine.queue = w :: r → wordReady s cl w = true → wordSnoop s cl w = none →
    let s1 := readDone s (engineWho cl)
    (w.done + 1 < w.kind.passes →
      exec (.matrixWordPerform cl) s = .next (onEngine (perform s1 cl w).1 cl (fun e => { e with
        queue := e.queue.map (fun (x : MWord) => if x.num = w.num then { x with done := x.done + 1 } else x) }))) ∧
    (w.kind.passes ≤ w.done + 1 →
      exec (.matrixWordPerform cl) s = .next (completeWord (perform s1 cl w).1 cl w (perform s1 cl w).2)) ∧
    (∀ t, w.kind = .mzero t → (∀ l j, l < 128 → j < 128 →
        SMap.get 0 ((perform s1 cl w).1.cluster cl).engine.acc (t * 16384 + l * 128 + j) = 0) ∧
      ((perform s1 cl w).1.cluster cl).engine.marks.contains t = false ∧ (perform s1 cl w).1.mem = s.mem)) ∧
  (∀ s cl obj r, nextGrant (s.cluster cl).engine s.clk.now obj = some r →
    ∃ t, exec (.reservationGrant cl obj) s = .next t ∧
      r ∈ (s.cluster cl).engine.resv ∧ r.obj = obj ∧ r.granted = false ∧
      (∀ q ∈ (s.cluster cl).engine.resv, q.obj = obj → grantable (s.cluster cl).engine s.clk.now q = true →
        q.prio < r.prio ∨ (q.prio = r.prio ∧ r.arr ≤ q.arr)) ∧
      (t.cluster cl).engine.resv =
        (s.cluster cl).engine.resv.map (fun (x : Resv) => if x.obj = r.obj ∧ x.arr = r.arr then { x with granted := true } else x))) ∧
  ((∀ s cl t a b ta tb w i, let e := (s.cluster cl).engine
    let f := fmtBOf w.toNat
    let A (x : Nat) : List FVal := scaledLine e f.afmt f.abl f.asa i x (lineIn s cl a ta i x).bytes
    let B (x : Nat) : List FVal := scaledLine e f.bfmt f.bbl f.bsa i x (lineIn s cl b tb i x).bytes
    (∀ x, x < 128 → (lineIn s cl a ta i x).ok = true ∧ (lineIn s cl b tb i x).ok = true ∧
      scalesBad e (scaleAddrs f.afmt f.abl f.asa i x) = false ∧ scalesBad e (scaleAddrs f.bfmt f.bbl f.bsa i x) = false) →
    SMap.look e.inj t = none →
    ∀ l j, l < 128 → j < 128 →
      SMap.get 0 ((mmaPass s cl t a b ta tb w i).cluster cl).engine.acc (t * 16384 + l * 128 + j) =
        BitVec.ofNat 32 (accAdd .f32 (SMap.get 0 e.acc (t * 16384 + l * 128 + j)).toNat
          (passRound (sumOf (decide (f.afmt = 0)) (List.zipWith (product false) (A l) (B j)))))) ∧
  (∀ (a b : List FVal) (xs ys : List Rat) r, a.map FVal.num = xs.map some → b.map FVal.num = ys.map some → r < 2 ^ 32 →
    Fmt.num .f32 r = some (List.zipWith (· * ·) xs ys).sum → (List.zipWith (· * ·) xs ys).sum ≠ 0 →
    passRound (sumOf false (List.zipWith (product false) a b)) = r))

/-! ## Events of results -/

/-- R22, R85, R21, R23, R276, R280, R281: the fixed-latency results of a stream are written when a marker holds it and all their latencies have
ended, into their registers, whose neighbours keep theirs; without a marker they stay out of sight; a pending result that is ready arrives; a
queued imprecise fault is taken outside a handler and leaves the queue; a trap that waits for results is entered when they have come. (An event that
is not due changes nothing: log 2; the boundary at which an imprecise fault is taken: log 22; the count of mclk by kept pulses: log 54.) R22, R85, R130: the results in flight of a stream land in the order of issue: of those of one register, lane, staging register or mask the last one
stands, what none names stays, and `em` loses what each `emwr` takes. (What a divided slot's other half still holds for it: log 3.) R13, R21, R145, R155: what a pending result delivers when it arrives: a global load of bytes that no store holds back the home's, little-endian and
extended by its type, to its `s` register or to the active lanes of its `v` registers; a mailbox read the mailbox, as it was before a write of the same
mclk; a timeline read its value. Its pending entry is gone, and no other register of its kind changes. -/
def Obligations.ResultEvents : Prop :=
  ((∀ s id v, s.unit? id = some v → v.id = id →
    (v.sS.marked = false → v.sS.park = none → exec (.fixedResultWrite id .s) s = .next s) ∧
    (v.sS.marked = true → (∀ f ∈ v.sS.fly, f.due ≤ pulses s id.core) →
      ∃ t y, exec (.fixedResultWrite id .s) s = .next t ∧ t.unit? id = some y ∧ y.sS.fly = [] ∧ y.sS.marked = false ∧
        t.mem = s.mem ∧ y.pend = v.pend ∧ y.sS.spc = v.sS.spc ∧
        (∀ d x due w, v.sS.fly = [⟨due, w, .s d x⟩] →
          y.rs d = (if d = 0 then 0 else x) ∧ (∀ r, r ≠ d → y.rs r = v.rs r) ∧ (∀ p, y.rp p = v.rp p)) ∧
        (∀ d b due w, v.sS.fly = [⟨due, w, .p d b⟩] →
          (d ≠ 0 → y.rp d = b) ∧ (∀ p, p ≠ d → y.rp p = v.rp p) ∧ (∀ r, y.rs r = v.rs r))) ∧
    (v.sS.marked = true → (∃ f ∈ v.sS.fly, pulses s id.core < f.due) → exec (.fixedResultWrite id .s) s = .next s) ∧
    (∀ p, v.pend.find? (fun q => decide (q.id = p.id)) = some p → pendReady s v p = true →
      exec (.variableResultArrive id p.id) s = .next (arrive s v p) ∧
      (∀ d, p.what = .tclk → p.dst = .s d → p.saved = false → p.flip = [] → d ≠ 0 →
        ∃ y, (arrive s v p).unit? id = some y ∧ y.rs d = BitVec.ofNat 64 s.tclk ∧ (∀ r, r ≠ d → y.rs r = v.rs r) ∧
          (∀ q ∈ y.pend, q.id ≠ p.id))) ∧
    (∀ e h off, v.trap.due = none → v.nextImp s.clk.now = some e → v.inHandler = false → v.stopped = false → v.settled = true →
      handlerOf s v = some (h, off) →
      ∃ t y, exec (.impreciseTrapTake id) s = .next t ∧ t.unit? id = some y ∧ y.inHandler = true ∧ y.sS.spc = h.entry ∧
        y.trap.tcause.toNat % 2 ^ 16 = e.code % 2 ^ 16 ∧ y.trap.tcause.getLsbD 17 = false ∧
        y.trap.taddr = BitVec.ofNat 64 e.addr ∧ y.trap.tinfo = BitVec.ofNat 64 e.info ∧
        y.trap.imp = v.trap.imp.erase e) ∧
    (∀ d h off, v.trap.due = some d → v.stopped = false → handlerOf s v = some (h, off) →
      (v.settled = false → exec (.impreciseTrapTake id) s = .next s) ∧
      (v.settled = true → ∃ t y, exec (.impreciseTrapTake id) s = .next t ∧ t.unit? id = some y ∧ y.inHandler = true ∧
        y.sS.spc = h.entry ∧ y.trap.tcause.toNat % 2 ^ 16 = d.frame.cause % 2 ^ 16 ∧ y.trap.taddr = BitVec.ofNat 64 d.frame.addr ∧
        y.trap.tinfo = BitVec.ofNat 64 d.frame.info)))) ∧
  (∀ s id v, s.unit? id = some v → v.id = id →
    (v.sS.marked = true → (∀ f ∈ v.sS.fly, f.due ≤ pulses s id.core) →
      ∃ t y, exec (.fixedResultWrite id .s) s = .next t ∧ t.unit? id = some y ∧ y.sS.fly = [] ∧ y.sS.marked = false ∧ t.mem = s.mem ∧
        (∀ d, d ≠ 0 → y.rs d = v.sS.fly.foldl (fun a f => match f.res with | .s r x => if r = d then x else a | _ => a) (v.rs d)) ∧
        (∀ d, d ≠ 0 → y.rp d = v.sS.fly.foldl (fun a f => match f.res with | .p r x => if r = d then x else a | _ => a) (v.rp d)) ∧
        (∀ n : BitVec 2, SMap.get 0 y.sS.kst n.toNat =
          v.sS.fly.foldl (fun a f => match f.res with | .kst r x => if r = n then x else a | _ => a) (SMap.get 0 v.sS.kst n.toNat))) ∧
    (∀ i, (v.slot i).marked = true → (∀ f ∈ (v.slot i).fly, f.due ≤ pulses s id.core) →
      (v.sibling (!i) = true → ∀ f ∈ (v.slot (!i)).fly, (v.slot (!i)).earlier f = false) →
      (∀ f ∈ (v.slot i).fly, ∀ d m x, f.res = .v d m x → x.length = 32) →
      ∃ t y, exec (.fixedResultWrite id (slotStrm i)) s = .next t ∧ t.unit? id = some y ∧ (y.slot i).fly = [] ∧
        (y.slot i).marked = false ∧ t.mem = s.mem ∧ y.sS.spc = v.sS.spc ∧
        (∀ r l, l < 32 → y.rv r l = (v.slot i).fly.foldl (fun a f => match f.res with
          | .v d m x => if r = d ∧ m.getLsbD l = true then x.getD l 0 else a | _ => a) (v.rv r l)) ∧
        (∀ q l, q ≠ 0 → l < 32 → (y.rq q).getLsbD l = (v.slot i).fly.foldl (fun a f => match f.res with
          | .q d m x => if d = q ∧ m.getLsbD l = true then x.getLsbD l else a | _ => a) ((v.rq q).getLsbD l)) ∧
        (y.slot i).em = (v.slot i).fly.foldl (fun a f => match f.res with | .em k => a &&& k | _ => a) (v.slot i).em)) ∧
  (∀ s v p, s.unit? v.id = some v → v.pend.find? (fun q => decide (q.id = p.id)) = some p → pendReady s v p = true →
    let lands (f : Machine.Unit → Prop) : Prop := ∃ t y, exec (.variableResultArrive v.id p.id) s = .next t ∧ t.unit? v.id = some y ∧ f y ∧
      (∀ q ∈ y.pend, q.id ≠ p.id) ∧ sameHome s t
    let home (n : Nat) (sgn : Bool) (w a : Nat) : Nat := extLoad n sgn w (leNat (readN (homeByte s) n a))
    (∀ d a n sgn, p.what = .ldg [(0, a)] n sgn → p.dst = .s d → d ≠ 0 → readsHome s v p n [(0, a)] →
      lands (fun y => y.rs d = BitVec.ofNat 64 (home n sgn 64 a) ∧ ∀ r, r ≠ d → y.rs r = v.rs r)) ∧
    (∀ accs n sgn d m, p.what = .ldg accs n sgn → p.dst = .v d m → (accs.map (fun e => e.1)).Nodup →
      (∀ e ∈ accs, e.1 < 32 ∧ p.act.getLsbD e.1 = true) → readsHome s v p n accs →
      lands (fun y => (∀ e ∈ accs, ∀ k, k < m → y.rv (d + k) e.1 = BitVec.ofNat 32 (home n sgn (32 * m) e.2 / 2 ^ (32 * k))) ∧
        ∀ r l, l < 32 → (p.act.getLsbD l = false ∨ r < d ∨ d + m ≤ r) → y.rv r l = v.rv r l)) ∧
    (∀ n d, p.what = .mailbox n → p.dst = .s d → d ≠ 0 → p.saved = false → p.flip = [] → p.share = none →
      ((∀ t x, SMap.look v.mbOld n.toNat = some (t, x) → t ≠ s.clk.now) → lands (fun y => y.rs d = SMap.get 0 v.mbVal n.toNat)) ∧
      (∀ x, SMap.look v.mbOld n.toNat = some (s.clk.now, x) → lands (fun y => y.rs d = x))) ∧
    (∀ n d x, p.what = .tlr n → p.dst = .s d → d ≠ 0 → p.saved = false → p.flip = [] → p.share = none →
      timelineOf s v.who.ctx n = some x → lands (fun y => y.rs d = BitVec.ofNat 64 x.val)))

/-! ## Events of the memory system -/

/-- R211, R233, R236 to R239: a store that is ready is applied at its home, its bytes and no others, and with its own die as
home it is gone; an atomic's write-back to a part of a poisoned sector is not performed; an acknowledgement takes away a store and its tags; an
overdue one is sent again, three times, and never applied again; then the writer's mirror is poisoned and marked
in doubt; a notice poisons the sector at home, removes the store, and the ack-loss waits for the writer's next release. (An event that is not due
changes nothing: log 2; what a home keeps of the numbers: log 32.) R147, R236: an atomic that can reach its place is performed there once and is then outstanding no more; at the home slice
a location of a sound sector gets its new value. A path that went down stays so. -/
def Obligations.StoreEvents : Prop :=
  (∀ s seq p, storeAt s seq = some p →
    let gone (t : State) : Prop := (∀ q ∈ t.fl.stores, q.seq ≠ seq) ∧ (∀ e ∈ t.units, seq ∉ e.2.tags)
    let again : PStore := { p with retrans := p.retrans + 1, sentAt := s.clk.now }
    (storeReady s p = true → (p.bytes.map (fun b => b.1)).Nodup → (s.mem.badHome.contains p.sector = false ∨ p.full = true) →
      ∃ t, exec (.homeWriteSerialize seq) s = .next t ∧
        (∀ a, ¬ bellByte s a → homeByte t a = (SMap.look p.bytes a).getD (homeByte s a)) ∧
        (p.full = true → t.mem.badHome.contains p.sector = false) ∧ t.mem.hbm = s.mem.hbm ∧ t.mem.far = s.mem.far ∧
        (p.die = p.home → gone t) ∧ (p.die ≠ p.home → storeAt t seq = some { p with applied := true })) ∧
    (storeReady s p = true → s.mem.badHome.contains p.sector = true → p.full = false → p.via.isSome = true → p.unit = none →
      ∃ t, exec (.homeWriteSerialize seq) s = .next t ∧ sameHome s t ∧ t.mem.badHome = s.mem.badHome) ∧
    (p.applied = true → p.lostAck = false → p.retrans < 4 → linked s p.die p.home = true →
      ∃ t, exec (.ackArrive seq) s = .next t ∧ gone t ∧ sameHome s t ∧ t.mem.badHome = s.mem.badHome) ∧
    (ackLate s p = true → p.retrans < 3 →
      ∃ t, exec (.ackRetransmitTimeout seq) s = .next t ∧ t.mem = s.mem ∧ storeAt t seq = some again) ∧
    (ackLate s p = true → p.retrans = 3 →
      ∃ t, exec (.ackRetransmitTimeout seq) s = .next t ∧ sameHome s t ∧ t.units = s.units ∧
        t.mem.badMir.contains (p.die * 2 ^ 27 + p.sector) = true ∧ t.mem.doubt.contains (p.die * 2 ^ 27 + p.sector) = true ∧
        storeAt t seq = some again) ∧
    (4 ≤ p.retrans →
      let ends (t : State) : Prop := exec (.poisonNotice seq) s = .next t ∧ gone t ∧ sameHome s t ∧ t.mem.badHome.contains p.sector = true ∧
        ((∀ q ∈ s.fl.stores, q.die < 8) → p.sector < 2 ^ 27 → t.mem.doubt.contains (8 * 2 ^ 27 + p.sector) = true)
      (p.unit = none → ∃ t, ends t) ∧
      (∀ u, p.unit = some u.id → s.unit? u.id = some u → u.who.rset = 0 → u.trap.imp.length < 8 →
        ∃ t y e, ends t ∧ t.unit? u.id = some y ∧ y.trap.imp = u.trap.imp ++ [e] ∧
          e.code = 0x42 ∧ e.addr = p.low ∧ e.info = 0 ∧ e.held = true))) ∧
  ((∀ s q a, s.fl.atoms.find? (fun x => decide (x.seq = q)) = some a → atomReady s a = true → atomLinked s a = true →
    ∃ t, exec (.remoteAtomicPerform q) s = .next t ∧ (∀ b ∈ t.fl.atoms, b.seq ≠ q) ∧
      (∀ e, a.place = .slice → a.accs = [e] → s.mem.badHome.contains (sectorOf e.addr) = false →
        onlyBytes s t e.addr a.size ∧
        holds s t e.addr a.size (atomNew a.op a.size (leNat (readN (homeByte s) a.size e.addr)) e.v e.cmp) ∧
        (∀ u y p, s.unit? a.unit = some u → u.id = a.unit → t.unit? a.unit = some y → p ∈ y.pend → p.id = a.pend →
          p.vals = [(e.lane, leNat (readN (homeByte s) a.size e.addr))] ∧ p.bad = 0))) ∧
  (∀ s a b k, ∃ t, exec (.aqueductPathDown a b k) s = .next t ∧ pathUp t a b k = false ∧ pathUp t b a k = false ∧
    (∀ c d j, pathUp t c d j = true → pathUp s c d j = true) ∧ t.mem = s.mem ∧ t.fl = s.fl))

/-- R233, R242, R243, R286, R319, R336, R363: an uncorrectable error poisons its granule and changes no byte of memory; one
in a register rolls an eligible workgroup back, and is context-fatal elsewhere; a scrub only counts; a refresh lowers its
bank's counter alone; a hot stack freezes every context until no stack is hot and no checkpoint runs. (The choices of the model: log 9, 14, 16 and 70.) R285, R286: a rollback returns every warp of the workgroup that its shadow holds to the shadow's `s`, `p`, `v`, `q`, staging and mailbox registers,
lane queue, path slots and program counters, keeps what is outstanding of its imprecise queue, and puts the shadow's pad back. -/
def Obligations.StorageEvents : Prop :=
  ((∀ s e, ∃ t, exec (.sramUncorrectable e) s = .next t ∧ sameBytes s t ∧ (match e with
      | .home k => t.mem.badHome.contains k = true
      | .mirror d k => t.mem.badMir.contains (d % 8 * 2 ^ 27 + k % 2 ^ 27) = true
      | .hbm g => t.mem.badHbm.contains g = true
      | .far g => t.mem.badFar.contains g = true
      | .tile cl b => (t.cluster cl).engine.oBad.contains (b % 131072) = true
      | .scale cl b => (t.cluster cl).engine.scaleBad.contains (b % 65536) = true
      | .acc cl k => (t.cluster cl).engine.marks.contains (k % 131072 / 16384) = true
      | .assay u => ∀ v, s.unit? u = some v → v.id = u →
          (t.unit? u).map (fun y => y.assay.bad) = some true
      | .line k l => ∀ x, SMap.look s.tenants k = some x → ∃ y, SMap.look t.tenants k = some y ∧ linePoison t y l = true
      | .mapEntry k p => ∀ x, SMap.look s.tenants k = some x → ∃ y, SMap.look t.tenants k = some y ∧
          (∀ l, l / 64 = p → linePoison t y l = true))) ∧
  (∀ s u v w, s.unit? u = some v → SMap.look s.wgs v.who.wg = some w → v.who.isLm = false → eligibleNow s w = true →
    w.rolled = false →
    exec (.registerUncorrectable u) s = .next (writeLog (rollback s v.who.wg true) v.who.ctx (unitRec v .s 0 3 0 0 0))) ∧
  (∀ s u v w, s.unit? u = some v → SMap.look s.wgs v.who.wg = some w →
    (v.who.isLm = true ∨ eligibleNow s w = false ∨ w.rolled = true) →
    exec (.registerUncorrectable u) s = .next (contextFatal s v .s 0x53 0 0 0 0)) ∧
  (∀ s c, exec (.patrolScrub c) s =
    .next { s with plant := { s.plant with corrected := s.plant.corrected + (if c then 1 else 0) } }) ∧
  (∀ s st ch b k, let old (x : Nat) : Nat := SMap.get 0 s.plant.banks x
    let key := (st * 32 + ch) * 1024 + b
    (∃ t, exec (.bankRefresh st ch b) s = .next t ∧ t.mem = s.mem ∧
      SMap.get 0 t.plant.banks k = (if k = key then old k - s.set.level else old k)) ∧
    (∃ t, exec (.refreshMgmtIssue st ch b) s = .next t ∧ t.mem = s.mem ∧
      SMap.get 0 t.plant.banks k = (if k = key ∧ s.set.level ≤ old k then old k - s.set.level else old k))) ∧
  (∀ s st, (∃ t, exec (.stackCriticalTemp st) s = .next t ∧ t.plant.frozen = true ∧ t.plant.hotStacks.contains (st % 8) = true ∧
      t.units = s.units ∧ t.mem = s.mem) ∧
    (∃ t, exec (.stackThermalClear st) s = .next t ∧ t.plant.hotStacks.contains (st % 8) = false ∧
      (t.plant.frozen = false ↔ t.plant.hotStacks = [] ∧ s.plant.ckpt = none) ∧ t.units = s.units ∧ t.mem = s.mem))) ∧
  (∀ s k err w sh, SMap.look s.wgs k = some w → w.shadow = some sh → s.placed → (s.units.map (fun e => e.1)).Nodup →
    let t := rollback s k err
    (∀ v x, s.unit? v.id = some v → v.who.wg = k → v.who.isLm = false → sh.units.find? (fun x => decide (x.id = v.id)) = some x →
      ∃ y, t.unit? v.id = some y ∧ y.sS = x.sS ∧ y.lS = x.lS ∧ y.mbVal = x.mbVal ∧ y.mbCnt = x.mbCnt ∧ y.who = v.who ∧
        y.trap.tcause = x.trap.tcause ∧ y.trap.saved = x.trap.saved ∧ y.trap.imp = v.trap.imp ∧ y.assay.held = [] ∧ y.assay.sig = 0) ∧
    ((sh.pad.map (fun e => e.1)).Nodup → ∀ a, gsaAt w.core w.padBase ≤ a → a < gsaAt w.core w.padBase + w.padP →
      homeByte t a = SMap.get 0 sh.pad a) ∧
    (∀ v, s.unit? v.id = some v → v.who.wg ≠ k → t.unit? v.id = some v))

/-! ## Events of the engines -/

/-- R164, R165, R167, R169, R174 to R176, R249, R250: a run of a copy from one window to another, any part that has not
moved, moves its bytes and no others, and leaves a byte that a later row has written; the end of a sound copy frees its command and delivers its status word; a walk fills the cache of its share; an
invalidation leaves no entry of its range; a collective of one member has its source as its result and raises its
timeline; a parked multicast takes its credits; quiescence is reported to every quiet warp of the context. (An event that is not due changes nothing: log 2; translations, chunks and collectives: log 17, 29, 31 and 35.) -/
def Obligations.EngineEvents : Prop :=
  (∀ s id j sa da, s.fl.jobs.find? (fun x => decide (x.id = id)) = some j → j.coll = none → j.code = 0 → j.todo ≠ [] →
    outranked s j = false → j.src = .gsa sa → j.dst = .gsa da →
    let k := jobPick s j
    let sp := jobSpan j k.1
    let x := (sa + sp.1) % 2 ^ 32
    let y := (da + sp.2.1) % 2 ^ 32
    let n := min (min (min sp.2.2 k.2) 65536) (min (4096 - y % 4096) (4096 - x % 4096))
    x % 2 ^ 22 < Config.sliceBytes → y % 2 ^ 22 < Config.sliceBytes → admitted s j.ctx (gsaCore x) (x % 2 ^ 22) 1 0 = true →
    admitted s j.ctx (gsaCore y) (y % 2 ^ 22) 1 1 = true →
    (∃ r ∈ j.todo, r.1 ≤ k.1 ∧ k.1 + k.2 = r.1 + r.2 ∧ (k.1 - r.1) % 2 ^ j.es = 0) ∧
    (j.pre = [] → (∀ i, i < n → sectorBad s j.die (x + i) = false ∧ s.mem.badHome.contains (sectorOf (y + i)) = false) →
      ∃ t, exec (.bargeChunkMove id) s = .next t ∧
        (∀ a, ¬ bellByte s a → homeByte t a = (if y ≤ a ∧ a < y + n then dieByte s j.die (x + (a - y)) else homeByte s a)) ∧
        (t.fl.jobs.find? (fun z => decide (z.id = id))).map (fun z => (z.moved, z.code)) = some (addPart j.moved k.1 n, 0)) ∧
    (∀ b, SMap.look j.pre (4 * y) = some b → k.1 + 1 < b.2 →
      ∃ t m, exec (.bargeChunkMove id) s = .next t ∧ t.mem = s.mem ∧
        (t.fl.jobs.find? (fun z => decide (z.id = id))).map (fun z => (z.moved, z.code)) = some (addPart j.moved k.1 m, 0))) ∧
  (∀ s id j, s.fl.jobs.find? (fun x => decide (x.id = id)) = some j → j.coll = none → j.code = 0 → j.todo = [] →
    ∃ t, exec (.copyComplete id) s = .next t ∧ t.mem = s.mem ∧ (∀ x ∈ t.fl.jobs, x.id ≠ id) ∧
      (∀ u, s.unit? j.unit = some u → u.id = j.unit → ∃ y, t.unit? j.unit = some y ∧ y.pend =
        u.pend.map (fun (p : Pend) => if p.what = .status j.id then { p with vals := [(0, 2 ^ 63 + j.info % 2 ^ 56)] } else p))) ∧
  (∀ s id w, s.fl.walks.find? (fun x => decide (x.id = id)) = some w →
    (∀ e, shareWalk s w.ctx w.dva = .leaf e →
      ∃ t x r, exec (.pageWalkComplete id) s = .next t ∧ t.fl.tlb = x :: r ∧ x.place = shareOf s w.ctx w.dva ∧ x.ctx = w.ctx ∧
        x.entry = e ∧ x.dva ≤ w.dva ∧ w.dva < x.dva + pageBytes e ∧ (∀ y ∈ t.fl.walks, y.id ≠ id) ∧
        (s.fl.tlb.countP (fun y => decide (y.place = x.place)) < 16384 → r = s.fl.tlb)) ∧
    (shareWalk s w.ctx w.dva = .absent →
      ∃ t, exec (.pageWalkComplete id) s = .next t ∧ t.fl.tlb = ⟨1000, w.ctx, w.dva, 0⟩ :: s.fl.tlb ∧ (∀ y ∈ t.fl.walks, y.id ≠ id))) ∧
  (∀ s id v, s.fl.invals.find? (fun x => decide (x.id = id)) = some v →
    ∃ t, exec (.invalidationComplete id) s = .next t ∧ (∀ y ∈ t.fl.invals, y.id ≠ id) ∧
      (∀ x ∈ t.fl.tlb, x.ctx = v.ctx → x.place < 1000 → x.dva ≤ v.last → v.first < x.dva + pageBytes x.entry → False) ∧
      (∀ x ∈ t.fl.nodes, x.ctx = v.ctx → x.idx * coverage x.level ≤ v.last → v.first < x.idx * coverage x.level + coverage x.level → False) ∧
      (∀ x ∈ s.fl.tlb, x.ctx ≠ v.ctx → x ∈ t.fl.tlb) ∧ (∀ x ∈ s.fl.nodes, x.ctx ≠ v.ctx → x ∈ t.fl.nodes)) ∧
  (∀ s id j c l r, s.fl.jobs.find? (fun x => decide (x.id = id)) = some j → j.coll = some c → collOutranked s j = false →
    j.collWait s c = none → collSize s j.ctx c.group = some 1 → readRun s j.ctx c.src (c.elems * collBytes c.ty) = .ok l →
    putDva (touchDva (readDone s (jobWho id)) j.ctx c.src (c.elems * collBytes c.ty)) j.ctx c.dst l l.length = (r, none) →
    exec (.collectiveComplete id false) s = .next (endJob (raiseTimeline r j.ctx c.tl c.val) j)) ∧
  (∀ s u v p g k, s.unit? u = some v → v.id = u → v.sS.park = some p → p.why = .credit g k → creditsReady s g k = true →
    ∃ t y, exec (.cpmCreditTake u) s = .next t ∧ t.unit? u = some y ∧ y.sS.park.map (fun q => q.why) = some .reported ∧
      (∀ i, i < 32 → k.testBit i = true → holds s t (g + 4 * i) 4 (leNat (readN (homeByte s) 4 (g + 4 * i)) - 1))) ∧
  (∀ s ctx, quiescent s ctx = true → ∃ t, exec (.quiescenceReport ctx) s = .next t ∧ t.mem = s.mem ∧ t.ctxs = s.ctxs ∧
    (∀ e ∈ s.units, e.2.who.ctx = ctx → e.2.quiet = true → e.2.performs = true →
      ∃ f ∈ t.units, f.1 = e.1 ∧ f.2.sS.park.map (fun q => q.why) = some .reported))

/-! ## Events of queues and grids -/

/-- R253 to R257: a tail write raises the tail of its queue, never past its ring, where it sets ovf instead; a status write at
a tenant's doorbell clears ovf and skips the packet that err stands for; other offsets have no effect. The scanner makes a grid
of the packet that comes next, or stops its queue with the packet's reason code. (When a packet is read, and the order of its checks: log 36, 38 and 67.) -/
def Obligations.QueueEvents : Prop :=
  (∀ s k i v q h, tenantQueue s k i = some (q, h) →
    (∃ t y, exec (.qtailWrite ⟨k, i⟩ v) s = .next t ∧ SMap.look t.queues q = some y ∧ y.head = h.head ∧ t.grids = s.grids ∧
      y.tail = (if v.toNat ≤ h.tail ∨ 2 ^ h.desc.k < v.toNat - h.head then h.tail else v.toNat) ∧
      y.stat = (if h.tail < v.toNat ∧ 2 ^ h.desc.k < v.toNat - h.head then h.stat ||| 2 else h.stat)) ∧
    (∃ t y, exec (.qstatWrite ⟨k, i⟩ v) s = .next t ∧ SMap.look t.queues q = some y ∧ y.tail = h.tail ∧
      y.stat = h.stat &&& ~~~(v &&& 3) ∧ y.head = h.head + (if v.getLsbD 0 = true ∧ h.stat.getLsbD 0 = true then 1 else 0))) ∧
  (∀ s k i v, tenantQueue s k i = none → exec (.qtailWrite ⟨k, i⟩ v) s = .next s ∧ exec (.qstatWrite ⟨k, i⟩ v) s = .next s) ∧
  (∀ s k o v, exec (.doorbellOtherWrite k o v) s = .next s) ∧
  (∀ s q h x p l, headOf s (.hw q) = .some h → scanPick s = some (.hw q) → SMap.look s.queues q = some x → h.pkt = some p →
    readLads s (queueWho q) h.ctx p = .ok l →
    (packetCheck s h.ctx p (some (ladingsOf p.ladn l)) = none →
      ∃ t g, exec (.queuePacketTake (.hw q)) s = .next t ∧ SMap.look t.grids s.nextKey = some g ∧ g.pkt = p ∧ g.ctx = h.ctx ∧
        g.lads = ladingsOf p.ladn l ∧ g.queue = some q ∧ g.parent = none ∧ g.depth = 0 ∧ g.started = false ∧ t.mem = s.mem) ∧
    (∀ rc, packetCheck s h.ctx p (some (ladingsOf p.ladn l)) = some rc →
      ∃ t y, exec (.queuePacketTake (.hw q)) s = .next t ∧ SMap.look t.queues q = some y ∧ y.head = x.head ∧ t.grids = s.grids ∧
        y.stat = BitVec.ofNat 64 (x.stat.toNat % 8 ||| (1 + rc * 256)))) ∧
  (∀ s c k h x, headOf s (.child c k) = .some h → scanPick s = some (.child c k) → h.kid = some x →
    ∃ t g, exec (.queuePacketTake (.child c k)) s = .next t ∧ SMap.look t.grids s.nextKey = some g ∧ g.pkt = x.pkt ∧ g.ctx = c ∧
      g.num = x.num ∧ g.depth = x.depth ∧ g.parent = some x.parent ∧ g.queue = none ∧ g.started = false ∧ t.mem = s.mem)

/-- R8, R260 to R265, R272: a grid starts on dies that have room; its next team is placed whole, the slab counting it, and every warp of its workgroups
is resident in a free slot of the core found for its workgroup, at the packet's entry word with every register zero; a staged
workgroup's list has been copied before its first word; a finished grid retires with its completion timeline raised,
after its counter has been read where the counter's page is not marked for system atomics (R231); a late one is recorded once. (Which slots, pads and buffers a team takes, and a failed staging: log 18, 19 and 37; the two turns of a counter's add: log 76.) -/
def Obligations.GridEvents : Prop :=
  ∀ s k g, SMap.look s.grids k = some g →
    (∀ l, startDies s g = some l → ∃ t y, exec (.gridStart k) s = .next t ∧ SMap.look t.grids k = some y ∧ y.started = true ∧
      y.slabs.map (fun x => x.dies) = l ∧ (∀ x ∈ y.slabs, x.next = 0) ∧ y.order = s.sch.order ∧ t.sch.order = s.sch.order + 1 ∧
      t.teams = s.teams ∧ (∀ d ∈ l.flatten, slabsHeld s d < 128)) ∧
    (∀ i x l, placeable s (woken s) g = some (i, x :: l) → ∃ t y m, exec (.teamPlace k) s = .next t ∧
      SMap.look t.grids k = some y ∧ y.slabs.map (fun z => z.next) = (g.slabs.map (fun z => z.next)).modify i (· + 1) ∧
      SMap.look t.teams s.nextKey = some m ∧ m.grid = k ∧ m.slab = i ∧ m.cluster = x.cluster ∧ m.lm = g.pkt.lm ∧
      m.evicted = none ∧
      (((x :: l).map (fun p => p.cluster)).Nodup → (∀ c, (List.range 32).countP (fun j => (s.unit? ⟨c, j⟩).isSome) ≤ coreWarps s c) →
        ∀ r p, (x :: l)[r]? = some p → let tk := s.nextKey + r * (g.pkt.wgs + 2)
          (∀ w j, w ≤ g.pkt.wgs → j ≤ g.pkt.warps → ∃ n who ts age, let id : UnitId := ⟨(p.wgs.getD w (0, 0)).1, n⟩
            n < 32 ∧ id.core / 4 = p.cluster ∧ s.unit? id = none ∧ t.unit? id = some (newUnit id who g.pkt.sentry ts age) ∧ who.isLm = false ∧
            who.ctx = g.ctx ∧ who.grid = k ∧ who.team = tk ∧ who.wg = tk + 1 + w ∧ who.warpid = BitVec.ofNat 64 (j + g.pkt.warps * 32)) ∧
          (g.pkt.lm = true → ∃ who ts age, t.unit? ⟨p.cluster * 4, 32⟩ = some (newUnit ⟨p.cluster * 4, 32⟩ who g.pkt.lmentry ts age) ∧
            who.isLm = true ∧ who.ctx = g.ctx ∧ who.grid = k ∧ who.team = tk))) ∧
    (∀ j w t1, SMap.look s.wgs j = some w → w.grid = k → w.staged = false → j ∈ w.peers →
      stageAll s (gridWho k) g.ctx (w.peers.filterMap (fun n => SMap.look s.wgs n)) g.lads = .ok t1 →
      ∃ t, exec (.ladingStage j) s = .next t ∧ t.mem = t1.mem ∧ (∀ n ∈ w.peers, ∀ x, SMap.look t.wgs n = some x → x.staged = true)) ∧
    (canRetire s k g = true → (ctrStep s k g = .go → ∃ t, exec (.gridRetire k) s = .next t ∧ SMap.look t.grids k = none ∧
      (∀ x, g.pkt.cen = true → g.aborted = false → timelineOf s g.ctx g.pkt.ctl = some x →
        (timelineOf t g.ctx g.pkt.ctl).map (fun y => y.val) = some (max x.val g.pkt.cval))) ∧
      (∀ v, ctrStep s k g = .read v → ∃ t, exec (.gridRetire k) s = .next t ∧ t.mem = s.mem ∧
        SMap.look t.grids k = some { g with ctr := some v } ∧ ctrStep t k { g with ctr := some v } = .go)) ∧
    (missDue s g = true → ∃ t, exec (.deadlineMiss k) s = .next t ∧ SMap.look t.grids k = some { g with missed := true } ∧
      t.units = s.units ∧ t.sch = s.sch)

/-- R268 to R273: a deadline grid asks every other context off its cluster; a context that does not leave in time is reset
alone; an evicted team has no unit left on its cluster, and a woken one returns to its dies; a reset context takes packets
again; the wait-for walk only records. (Which cluster is asked for, which team is evicted, and where it returns: log 20 and 39 to 42.) R295 to R301, R336: replicas that agree are free to go on, with nothing held and their signatures 0, and the bytes that their leader held are in its
store queue; two that differ, or whose buffer has an uncorrectable error, are rolled back or, where a workgroup's interval is not eligible or has been
rolled back, reset; of three, two that agree outvote the third, which is stopped with nothing held, and the lower-numbered of the two
leads where it led; a timeout judges the
replicas that have come; a minority that is overwritten takes its source's registers and keeps its own place. (Which compare comes first where both streams stand at one: log 53.) -/
def Obligations.SchedulerEvents : Prop :=
  ((∀ s k g cl, SMap.look s.grids k = some g → requestDue s k g = some cl →
    ∃ t, exec (.deadlinePreemptRequest k) s = .next t ∧ t.mem = s.mem ∧ t.units = s.units ∧
      (∀ u ∈ residents s cl, u.who.ctx ≠ g.ctx →
        ∃ r ∈ t.preempts, r.ctx = u.who.ctx ∧ r.clusters = [cl] ∧ r.for_ = some k ∧ r.at_ = s.clk.now)) ∧
  (∀ s id r, s.preempts.find? (fun x => decide (x.id = id)) = some r → r.running = true → r.at_ + r.limit ≤ s.clk.now →
    ∃ t, exec (.preemptTimerExpire id) s = .next t ∧ (∀ e ∈ t.units, e.2.who.ctx ≠ r.ctx) ∧
      (∀ e ∈ s.units, e.2.who.ctx ≠ r.ctx →
        ∃ y ∈ t.units, y.1 = e.1 ∧ y.2.who = e.2.who ∧ y.2.sS = e.2.sS ∧ y.2.lS = e.2.lS ∧ y.2.trap = e.2.trap ∧ y.2.pend = e.2.pend) ∧
      t.grids = s.grids.filter (fun e => decide (e.2.ctx ≠ r.ctx)) ∧ t.windows = s.windows) ∧
  (∀ s k m, SMap.look s.teams k = some m → evictable s k m = true →
    ∃ t, exec (.evictTeam k) s = .next t ∧ (∀ e ∈ t.units, e.2.who.team ∉ m.peers) ∧
      (∀ j ∈ m.peers, ∀ x, SMap.look t.teams j = some x → x.evicted.isSome = true)) ∧
  (∀ s k m l, SMap.look s.teams k = some m → m.evicted.isSome = true →
    (∃ j ∈ m.peers, ∃ x, SMap.look s.teams j = some x ∧ woken s x = true) → readmitSpots s m = some l →
    exec (.teamReadmit k) s = .next ((m.peers.zip l).foldl (fun x p => readmitOne x p.1 p.2) s)) ∧
  (∀ s ctx c, SMap.look s.ctxs ctx = some c → ∃ t, exec (.contextResetDone ctx) s = .next t ∧
    SMap.look t.ctxs ctx = some { c with resetting := false } ∧ t.units = s.units ∧ t.mem = s.mem) ∧
  (∀ s, ∃ t, exec .waitForWalk s = .next t ∧ t.units = s.units ∧ t.teams = s.teams ∧ t.grids = s.grids ∧ t.mem.sram = s.mem.sram ∧
    t.sch.walkAt = s.clk.now + 20000000)) ∧
  ((∀ s n, n ≠ 0 → setReady (setUnits s n) = true → ∃ t, exec (.replicaCompare n) s = .next t ∧
    let l := setUnits s n
    let goesOn (u : Machine.Unit) : Prop := ∃ x, t.unit? u.id = some x ∧ x.assay.at_ = none ∧ x.assay.held = [] ∧ x.assay.sig = 0 ∧
      x.assay.passed = some (u.assay.strm, u.assay.kind)
    let queued (z : Machine.Unit) : Prop := ∀ h ∈ z.assay.held, ∀ b ∈ h.data,
      (((z.assay.held.filter (fun e => decide (e.word = h.word))).flatMap (fun e => e.data)).map (fun e => e.1)).Nodup →
      ∃ p ∈ t.fl.stores, p.unit = some z.id ∧ SMap.look p.bytes b.1 = some b.2
    ((∀ u ∈ l, s.unit? u.id = some u) → (l.map (fun u => ukey u.id)).Nodup →
      (2 ≤ l.length → l.length ≤ 3 → (∀ u ∈ l, u.assay.bad = false) → (∀ u ∈ l, ∀ v ∈ l, u.finalSig = v.finalSig) →
        (∀ u ∈ l, goesOn u) ∧ (∀ z, l.find? (fun v => v.who.leader) = some z → queued z)) ∧
      (∀ x y z, l = [x, y, z] ∨ l = [x, z, y] ∨ l = [z, x, y] → (∀ u ∈ l, u.assay.bad = false) →
        x.finalSig = y.finalSig → z.finalSig ≠ x.finalSig → x.assay.kind ≠ 8 →
        goesOn x ∧ goesOn y ∧ (z.who.leader = false → (if x.who.leader then queued x else y.who.leader = true → queued y)) ∧
        (∃ v, t.unit? z.id = some v ∧ v.outvoted = true ∧ v.assay.held = [] ∧ v.assay.sig = 0 ∧ v.assay.at_ = none ∧ v.who.leader = false) ∧
        (z.who.leader = true → queued x ∧ ∃ v, t.unit? x.id = some v ∧ v.who = { x.who with leader := true }))) ∧
    (∀ a b, l = [a, b] → (a.finalSig ≠ b.finalSig ∨ a.assay.bad = true ∨ b.assay.bad = true) →
      (∃ w ∈ setWgs [a, b], ∀ x, SMap.look s.wgs w = some x → eligibleNow s x = false ∨ x.mism = true) →
      ∀ e ∈ t.units, e.2.who.ctx ≠ a.who.ctx)) ∧
  (∀ s n, n ≠ 0 → setLate s (setUnits s n) = true →
    exec (.compareTimeout n) s = .next (compareSet s (setUnits s n) true)) ∧
  (∀ s n z y, copyDue s n = some (z, y) → ∃ t x, exec (.outvoteComplete n) s = .next t ∧ t.unit? z.id = some x ∧ x.id = z.id ∧
    x.who = z.who ∧ x.sS = { y.sS with fly := landed y.sS.fly } ∧ x.lS.v = y.lS.v ∧ x.lS.q = y.lS.q ∧ x.lS.queue = y.lS.queue ∧
    x.lS.running = y.lS.running ∧ x.lS.slot0 = { y.lS.slot0 with fly := landed y.lS.slot0.fly } ∧
    x.lS.slot1 = { y.lS.slot1 with fly := landed y.lS.slot1.fly } ∧ x.mbVal = y.mbVal ∧ x.trap = y.trap ∧ x.fpmode = y.fpmode ∧
    x.mon = y.mon ∧ x.pend = y.pend ∧ x.outvoted = false ∧ x.assay.held = y.assay.held ∧ x.assay.sig = y.assay.sig ∧ y.owesWord = false))

/-! ## Events of hosts and tenants -/

/-- R309, R317, R318, R321 to R324: a host that reaches its memory reads its line or poison and takes the line as it asks;
its write stands at home; a response or a timeout ends a snoop, a timeout as a crash; links, active state and decoders are as
the host sets them. (An access that does not reach lent memory: log 44; links after a reset: log 60; an access whose set of the directory is full: log 82.) -/
def Obligations.HostEvents : Prop :=
  (∀ s k hpa a own x, SMap.look s.tenants k = some x → hostReaches x hpa = some a → snooped s k (a / 64) = false →
    let s1 := activate (countAccess s k (a / 4096)) (atHome s (.lent k a))
    (own.isSome = true → dirFull s k (a / 64) ≠ [] →
      ∃ t, exec (.hostMemRead k hpa own) s = .next t ∧ t.host = s.host ∧ t.tenants = s.tenants ∧
        ∃ z ∈ t.fl.snoops, z.kind = .inv ∧ z.go = .way ∧ (z.tenant, z.line) ∈ dirFull s k (a / 64)) ∧
    (own.isSome = false ∨ dirFull s k (a / 64) = [] → ∀ y, SMap.look s1.tenants k = some y →
      ∃ t z, exec (.hostMemRead k hpa own) s = .next t ∧ SMap.look t.tenants k = some z ∧ t.mem = s1.mem ∧
        (linePoison s1 y (a / 64) = true → t.host = some .poison ∧ z.events = y.events ++ [a / 64] ∧ z.dir = y.dir) ∧
        (linePoison s1 y (a / 64) = false → t.host = some (.data (BitVec.ofNat 512 (leNat (lineBytes s1 k (a / 64))))) ∧
          (own = none → z.dir = y.dir) ∧
          (∀ e, own = some e → SMap.look z.dir (a / 64) = some (if e then .exclusive else .shared))))) ∧
  (∀ s k hpa a d be x, SMap.look s.tenants k = some x → hostReaches x hpa = some a → entState (x.entry (a / 4096)) = 1 →
    noMoves s → (x.entry (a / 4096)).testBit 59 = false → (∀ i, i < 64 → SMap.look x.wbuf (a / 64 * 64 + i) = none) →
    ∃ t, exec (.hostMemWrite k hpa d be) s = .next t ∧ t.host = some .done ∧
      (∀ i, i < 64 → be.getLsbD i = true → lentByte t k (a / 64 * 64 + i) = (lineOfBits d).getD i 0)) ∧
  (∀ s k hpa x, SMap.look s.tenants k = some x → hostReaches x hpa = none →
    (∀ own, exec (.hostMemRead k hpa own) s = .next s) ∧ (∀ d be, exec (.hostMemWrite k hpa d be) s = .next s)) ∧
  (∀ s n x d, s.fl.snoops.find? (fun y => decide (y.id = n)) = some x →
    (∃ t, exec (.bisnpResponse n d) s = .next t ∧ (n < s.fl.seq → ∀ y ∈ t.fl.snoops, y.id ≠ n) ∧
      (x.kind ≠ .cur → ∀ y, SMap.look t.tenants x.tenant = some y → SMap.look y.dir x.line = none)) ∧
    (x.at_ + 100000 ≤ s.clk.now → ∃ t, exec (.bisnpTimeout n) s = .next t ∧
      (∀ y, SMap.look t.tenants x.tenant = some y → y.crashed = true ∧ y.dir = []))) ∧
  (∀ s k x, SMap.look s.tenants k = some x →
    (∃ t y, exec (.hostLinkDown k) s = .next t ∧ SMap.look t.tenants k = some y ∧ y.linkUp = false ∧ y.crashed = true ∧ y.dir = []) ∧
    (∃ t y, exec (.hostLdReset k) s = .next t ∧ SMap.look t.tenants k = some y ∧ y.crashed = true ∧ y.dir = []) ∧
    (∃ t y, exec (.hostLinkUp k) s = .next t ∧ SMap.look t.tenants k = some y ∧ y.linkUp = true ∧ y.crashed = false ∧ y.heldVecs = [] ∧
      t.irqs = s.irqs ++ x.heldVecs.map (fun v => (k, v))) ∧
    (∃ t, exec (.memoryActiveSet k) s = .next t ∧ SMap.look t.tenants k = some { x with active := true }) ∧
    (∀ d b n, (∃ t, exec (.hdmDecoderCommit k ⟨d, b, n⟩ false) s = .next t ∧
        SMap.look t.tenants k = some { x with decs := SMap.del x.decs d }) ∧
      (decoderOk x ⟨d, b, n⟩ = true → ∃ t, exec (.hdmDecoderCommit k ⟨d, b, n⟩ true) s = .next t ∧
        SMap.look t.tenants k = some { x with decs := SMap.put x.decs d (b, n) }) ∧
      (decoderOk x ⟨d, b, n⟩ = false → exec (.hdmDecoderCommit k ⟨d, b, n⟩ true) s = .next s))) ∧
  (∀ s k, exec (.globalPersistentFlush k) s = .next { s with host := some .done }) ∧
  (∀ s p, exec (.ptmRequest p) s = .next (if p < 4 then { s with host := some (.time s.tclk) } else s))

/-- R312 to R316, R327: expanding or migrating a page changes where its bytes lie and no byte; ageing halves the counters; the
time source sets `tclk`, and its loss is holdover. (Frames and their sizes: log 15; the clocks: log 5. The bytes are stated for frames while no context page moves: log 85.) R251, R252, R328, R333, R334, R337 to R339: a record that its channel has room for takes its slots and the next number, and
any other is counted as dropped; packets of a flow within its source's credit go on in order, each once, over live links; a dead link stays so; a checkpoint ends with its
code and releases the freeze; a page of an evacuated die's stack stands at its new place with its bytes, its entries name that place, and its invalidation begins; the die in the end
has no byte left. (Port, unreadable index, rings in lent memory, lost memory: log 24 and 56 to 58; writes while a page moves: log 85.) -/
def Obligations.PageAndFabricEvents : Prop :=
  ((∀ s k p x, SMap.look s.tenants k = some x → entState (x.entry p) = 2 →
    let lost : Bool := indexBad s (x.entry p) && !x.wbuf.any (fun b => decide (b.1 / 4096 = p))
    (lost = false → (anyFrame s).isSome = true → noMoves s →
      ∃ t y, exec (.compressedPageExpand k p) s = .next t ∧ SMap.look t.tenants k = some y ∧ entState (y.entry p) = 1 ∧
        (∀ b ∈ y.wbuf, b.1 / 4096 ≠ p) ∧ (∀ a, a / 4096 = p → lentByte t k a = lentByte s k a)) ∧
    (lost = true → ∃ t y, exec (.compressedPageExpand k p) s = .next t ∧ SMap.look t.tenants k = some y ∧
      entState (y.entry p) = 4 ∧ (∀ l, l / 64 = p → linePoison t y l = true))) ∧
  (∀ s k p x d, SMap.look s.tenants k = some x → SMap.look x.side p = some d → entState (x.entry p) = 3 →
    (∀ a, a / 4096 = p → SMap.look x.wbuf a = none) → noMoves s → (d.toNat.testBit 59 = true ∨ evacuating s (fld d.toNat 56 3) = false) →
    ∃ t y, exec (.pageMigrationInstant k p) s = .next t ∧ SMap.look t.tenants k = some y ∧ entState (y.entry p) = 1 ∧
      entPhys (y.entry p) = entPhys d.toNat ∧ y.entry p % 256 = x.entry p % 256 ∧ SMap.look y.side p = none ∧
      (∀ a, a / 4096 = p → lentByte t k a = lentByte s k a)) ∧
  (∀ s, (s.clk.now < s.plant.ageAt → exec .tsiAgeingPeriod s = .next s) ∧
    (s.plant.ageAt ≤ s.clk.now → ∃ t, exec .tsiAgeingPeriod s = .next t ∧ t.units = s.units ∧
      t.plant.ageAt = s.clk.now + s.set.agePeriodUs * 2000 ∧
      (∀ k p e x, s.tenants = [(k, x)] → x.pages = [(p, e)] → s.set.cold ≤ e.toNat % 256 →
        ∃ y, SMap.look t.tenants k = some y ∧ y.entry p % 256 = e.toNat % 256 / 2 ∧ y.entry p / 256 = e.toNat / 256 ∧ t.mem = s.mem))) ∧
  (∀ s n src, s.clk.src = some src → n < 2 ^ 64 →
    ∃ t, exec (.ptpEventMessage n) s = .next t ∧ t.tclk = n ∧ t.clk.holdover = false ∧ t.clk.now = s.clk.now) ∧
  (∀ s, ∃ t, exec .timeSourceLost s = .next t ∧ t.clk.holdover = true ∧ t.tclk = s.tclk)) ∧
  ((∀ s ch src l c, SMap.look s.channels ch = some c → srcOk s c src = true → c.inq = [] → 0 < l.length → l.length ≤ 4096 →
    let n := (16 + l.length + 63) / 64
    let c1 : Channel := { c with inq := [⟨s.tclk, src, l⟩] }
    let s1 : State := { s with channels := SMap.put s.channels ch c1 }
    let s2 : State := { s1 with channels := SMap.put s1.channels ch c }
    let s3 := if c.desc.cDva then touchDva s2 c.desc.ctx c.desc.cidx 8 else s2
    chanSnoop s1 ch c1 n = none → ∃ t y, exec (.ingressRecord ch src l) s = .next t ∧ SMap.look t.channels ch = some y ∧ y.inq = [] ∧
      (∀ x, c.consumer s3 = some x → c.w + n ≤ x + 2 ^ c.desc.k →
        y.w = c.w + n ∧ y.seq = c.seq + 1 ∧ y.dropped = c.dropped ∧ y.gap = false ∧
        (∀ z, timelineOf s c.desc.ctx c.desc.tl = some z →
          (timelineOf t c.desc.ctx c.desc.tl).map (fun q => q.val) = some (max z.val (c.seq + 1)))) ∧
      ((∀ x, c.consumer s3 = some x → x + 2 ^ c.desc.k < c.w + n) →
        y.w = c.w ∧ y.seq = c.seq ∧ y.dropped = (c.dropped + 1) % 2 ^ 64 ∧ y.gap = true ∧ t.mem = s3.mem)) ∧
  (∀ s src cls q l f, s.plant.flows.find? (fun x => decide (x.src = src) && decide (x.cls = cls)) = some f →
    ((q < f.next ∨ livePorts s = [] ∨ ∃ p ∈ f.held, p.seq = q) → exec (.fabricPacketReceive src cls q l) s = .next s) ∧
    (packetOk s f q l = true → q = f.next →
      ∃ t, exec (.fabricPacketReceive src cls q l) s = .next t ∧
        (∃ g ∈ t.plant.flows, g.src = src ∧ g.cls = cls ∧ f.next < g.next)) ∧
    (packetOk s f q l = true → f.next < q → (∀ p ∈ f.held, p.seq ≠ f.next) →
      ∃ t, exec (.fabricPacketReceive src cls q l) s = .next t ∧ t.channels = s.channels ∧
        (∃ g ∈ t.plant.flows, ∃ port ∈ livePorts s, g.src = src ∧ g.cls = cls ∧ g.next = f.next ∧
          g.held = f.held ++ [⟨q, s.tclk, port, l⟩]))) ∧
  (∀ s p, p < 16 → ∃ t, exec (.linkDead p) s = .next t ∧ t.plant.deadLinks.contains p = true ∧ t.mem = s.mem) ∧
  (∀ s c, s.plant.ckpt = some c →
    (pathLost s c = false → c.blocks < ckptBlocks s → ∃ t, exec .checkpointBlock s = .next t ∧
      t.plant.ckpt.map (fun x => (x.tier, x.blocks)) = some (c.tier, c.blocks + 1) ∧
      t.plant.frozen = s.plant.frozen ∧ t.mem = s.mem) ∧
    (pathLost s c = false → ckptBlocks s ≤ c.blocks → ∃ t, exec .checkpointEnd s = .next t ∧ t.plant.ckpt = none ∧
      t.mgmt = some ⟨.success, []⟩ ∧ (t.plant.frozen = false ↔ s.plant.hotStacks = []) ∧ t.mem = s.mem) ∧
    (pathLost s c = true → ∃ t, exec .checkpointBlock s = .next t ∧ exec .checkpointEnd s = .next t ∧ t.plant.ckpt = none ∧
      t.mgmt = some ⟨.mediaFailure, []⟩) ∧
    (∃ t, exec .safeTierPathLoss s = .next t ∧ t.plant.ckpt = none ∧ t.mgmt = some ⟨.mediaFailure, []⟩ ∧
      (t.plant.frozen = false ↔ s.plant.hotStacks = []) ∧ t.mem = s.mem)) ∧
  (∀ s d ctx dva new e, walk s ctx dva = .leaf e → evacuating s d = true → lentLeaving s d = false → (pteOf e.toNat).onStack d = true →
    moveOk s d (pteOf e.toNat) (pteOf new.toNat) = true → pageMoving s ctx dva = false →
    let o := pteOf e.toNat
    let n := pteOf new.toNat
    let s1 := fillPage (touchPage (touchPage s o) n) n (pageCells s o) (pageBads s o)
    let k := coverOf o.size
    ∃ t v, exec (.pageEvacuationInstant d ctx dva new) s = .next t ∧ t.fl.invals = s.fl.invals ++ [v] ∧ v.ctx = ctx ∧
      v.first ≤ dva ∧ dva ≤ v.last ∧ v.moved = some (e, new) ∧ t.units = s.units ∧ t.mem.sram = s.mem.sram ∧
      (Memory.wf s.mem = true → noMoves s → ∀ p level, (rootTable s1 ctx).bind (fun q => leafTable s1 3 q dva) = some (p, level) →
        let i := (levelIdx level dva).1 / k * k
        (∀ j, i ≤ j → j < i + k → leNat (readN (fun x => physByte t ((p.add (j * 8)).add x)) 8 0) = new.toNat) ∧
        ((∀ j, i * 8 ≤ j → j < (i + k) * 8 → pageOff n (p.add j) = none) →
          ∀ a x y, a < pageBytes e → leafPhys s o a = some x → leafPhys s n a = some y → physByte t y = physByte s x))) ∧
  (∀ s d, d < 8 → evacuating s d = true → lentLeaving s d = false → pageLeaving s d = false → ∃ t, exec (.evacuationEnd d) s = .next t ∧
    (lentOn s d = true → t.plant.dies.getD d .on = .memoryOnly) ∧
    (lentOn s d = false → t.plant.dies.getD d .on = .off ∧ (∀ a, gsaDie a = d → homeByte t a = 0) ∧
      (∀ w ∈ t.windows, dieOf (w.1 / 16) ≠ d))))

/-! ## Events of the fabric and of reliability -/

/-- R340 to R345, R326: a pattern of 0, or a raise that a safeguard holds, is ignored, and any other becomes the target; a
pattern with no more pulses takes effect whole; a droop freezes for frz mclk; a trip or the watchdog sets 0x5555; a second
thermal trip removes power, and power-up finds a reset machine. (Which pulses a ramp adds and what a power-up restores: log 55 and 59 to 61.) -/
def Obligations.PowerEvents : Prop :=
  (∀ s cl v, cl < 256 →
    let p := (s.cluster cl).pulse
    let new := v.extractLsb' 0 16
    (∃ t, exec (.pulsePatternWrite cl v) s = .next t ∧ (t.cluster cl).pulse.pat = p.pat ∧
      (t.cluster cl).pulse.frz = v.extractLsb' 16 10 ∧
      (t.cluster cl).pulse.target = (if new = 0 ∨ (heldDown s cl = true ∧ kept p.pat < kept new) then p.target else new)) ∧
    (∃ t, exec (.droopDetect cl) s = .next t ∧ (t.cluster cl).pulse.freezeTo = max p.freezeTo (s.clk.now + p.frz.toNat) ∧
      (t.cluster cl).pulse.pat = p.pat)) ∧
  (∀ s cl, rampDue (s.cluster cl).pulse s.clk.now = true → ∃ t, exec (.patternRampStep cl) s = .next t ∧
    ((s.cluster cl).pulse.safe = true ∨ kept (s.cluster cl).pulse.target ≤ kept (s.cluster cl).pulse.pat →
      (t.cluster cl).pulse.pat = (s.cluster cl).pulse.target) ∧
    ((s.cluster cl).pulse.safe = false → kept (s.cluster cl).pulse.pat < kept (s.cluster cl).pulse.target → (t.cluster cl).pulse.pat =
      partWay (s.cluster cl).pulse.pat (s.cluster cl).pulse.target (kept (s.cluster cl).pulse.pat + 1))) ∧
  (∀ s cl, (s.cluster cl).pulse.freezeTo ≠ 0 → (s.cluster cl).pulse.freezeTo ≤ s.clk.now →
    ∃ t, exec (.droopFreezeEnd cl) s = .next t ∧ (t.cluster cl).pulse.freezeTo = 0) ∧
  (∀ s d, d < 8 →
    (∃ t, exec (.currentComparatorTrip d) s = .next t ∧ (∀ i, i < 32 → braked t s.clk.now (d * 32 + i)) ∧ t.mem = s.mem) ∧
    (∃ t, exec (.thermalTrip1 d) s = .next t ∧ (∀ i, i < 32 → braked t s.clk.now (d * 32 + i)) ∧ t.plant.thermal1.contains d = true) ∧
    (∃ t, exec (.thermalTrip1Clear d) s = .next t ∧ t.plant.thermal1.contains d = false ∧ t.clusters = s.clusters) ∧
    (∃ t, exec (.thermalTrip2 d) s = .next t ∧ t.plant.powered = false)) ∧
  (∀ s, s.plant.watchdog + 20000000 ≤ s.wall →
      ∃ t, exec .powerWatchdogExpire s = .next t ∧ (∀ cl, cl < 256 → braked t s.clk.now cl) ∧ t.plant.watchdog = s.wall) ∧
  (∀ s, ∃ t, exec .powerWatchdogRefresh s = .next t ∧ t.plant.watchdog = s.wall ∧ (∀ cl, (t.cluster cl).pulse.safe = false)) ∧
  (∀ s, s.plant.powered = false → ∃ t, exec .modulePowerUp s = .next t ∧ t.plant.powered = true ∧ t.plant.upAt = some s.wall ∧ t.units = [] ∧ t.ctxs = [] ∧
    t.mem = State.reset.mem ∧ t.plant.life = s.plant.life ∧ (∀ e ∈ s.tenants, t.plant.memrdy.contains e.2.port = true) ∧ t.tenants.map (fun e => (e.1, e.2.key)) = s.tenants.map (fun e => (e.1, e.2.nvKey))) ∧
  (∀ s, ∃ t, exec .tsiSupplyCycle s = .next t ∧ t.mem.sram = s.mem.sram ∧ t.units = s.units ∧ t.ctxs = s.ctxs ∧
    (∀ e ∈ t.tenants, e.2.pages = [] ∧ e.2.dir = [] ∧ e.2.key = none ∧ e.2.active = false))

/-! ## Management commands -/

/-- R310 to R315, R323, R324, R329: tenant commands of the owner within their limits: a tenant is made whole and inactive,
withdrawn where no decoder is committed, keyed, marked, read, aged and declared crashed. (Return codes of refused commands and the capacity are the model's reading: log 25 and 45.) -/
def Obligations.TenantCommands : Prop :=
  let did (i : Instr) (s t : State) (out : List Nat) : Prop := exec i s = .next { t with mgmt := some ⟨.success, out⟩ }
  (∀ s t n q p, t < 16 → SMap.look s.tenants t = none → 0 < n → n % 2 ^ 28 = 0 → n ≤ 2 ^ 41 → p < 4 →
    (s.tenants.map (fun e => e.2.queues)).sum + q ≤ 65536 → lentTotal s + unionLen (devExtents s) + n ≤ capacity s →
    ∃ r x, exec (.tenantCreate .owner t n q p) s = .next r ∧ r.mgmt = some ⟨.success, []⟩ ∧ SMap.look r.tenants t = some x ∧
      x.size = n ∧ x.queues = q ∧ x.port = p ∧ x.active = false ∧ x.pages = [] ∧ x.dir = [] ∧ x.decs = [] ∧ r.mem = s.mem ∧
      (∀ k, k ≠ t → SMap.look r.tenants k = SMap.look s.tenants k)) ∧
  (∀ s t x, SMap.look s.tenants t = some x →
    (∀ f, x.decs = [] → ∃ r, exec (.tenantWithdraw .owner t f) s = .next r ∧ r.mgmt = some ⟨.success, []⟩ ∧
      SMap.look r.tenants t = none ∧ (∀ e ∈ r.queues, e.2.desc.tenant ≠ some t) ∧ (∀ e ∈ r.ctxs, e.2.tenant ≠ some t)) ∧
    (x.decs ≠ [] → exec (.tenantWithdraw .owner t false) s = .next { s with mgmt := some ⟨.invalidInput, []⟩ }) ∧
    (∀ w, (Config.keyUnwrap w = none → exec (.loadKey .owner t w) s = .next { s with mgmt := some ⟨.invalidInput, []⟩ }) ∧
      (∀ k, Config.keyUnwrap w = some k → ∃ r y, exec (.loadKey .owner t w) s = .next r ∧ r.mgmt = some ⟨.success, []⟩ ∧
        SMap.look r.tenants t = some y ∧ y.key = some k ∧ y.nvKey = some k ∧ y.pages = x.pages ∧ y.dir = x.dir)) ∧
    (∀ by_ a b m, may by_ (some t) = true → a ≤ b → b * 4096 < x.size →
      ∃ r y, exec (.setSysatMark by_ t a b m) s = .next r ∧ r.mgmt = some ⟨.success, []⟩ ∧ SMap.look r.tenants t = some y ∧
        (∀ p, (y.entry p).testBit 60 = (if a ≤ p ∧ p ≤ b then m else (x.entry p).testBit 60) ∧
          entPhys (y.entry p) = entPhys (x.entry p) ∧ entState (y.entry p) = entState (x.entry p))) ∧
    (∀ by_ a n, may by_ (some t) = true → (a + n) * 4096 ≤ x.size →
      did (.readTenantMap by_ t a n) s s ((List.range n).map (fun k => x.entry (a + k)))) ∧
    (did (.declareHostCrashed .owner t) s (hostCrash s t) [] ∧
      (∀ y, SMap.look (hostCrash s t).tenants t = some y → y.crashed = true ∧ y.dir = [] ∧
        (∀ l, SMap.look x.dir l = some .exclusive → (∀ z ∈ s.fl.snoops, z.tenant = t → z.line = l → ∀ b, z.go ≠ .put b) →
          y.poison.contains l = true)))) ∧
  (∀ s p h c, 1000 ≤ p → p ≤ 10000000 → h ≤ 255 → c ≤ 255 →
    did (.setAgeing .owner p h c) s { s with set := { s.set with agePeriodUs := p, hot := h, cold := c } } [])

/-- R245, R250, R253, R310, R320, R321, R329: commands on contexts, translation and queues by an issuer to whom the context
belongs, within their limits. (Return codes of refused commands are the model's reading: log 25; the command that clears rst: log 67.) -/
def Obligations.ContextCommands : Prop :=
  (∀ s by_ ctx tn, ctx < 256 → SMap.look s.ctxs ctx = none → may by_ tn = true →
    (∀ t, tn = some t → (SMap.look s.tenants t).isSome = true) →
    ∃ r c, exec (.contextCreate by_ ctx tn) s = .next r ∧ r.mgmt = some ⟨.success, []⟩ ∧ SMap.look r.ctxs ctx = some c ∧
      c.tenant = tn ∧ c.root = 0 ∧ c.tls = [] ∧ c.handler = none ∧ c.debug = false ∧ c.resetting = false ∧
      (∀ k, k ≠ ctx → SMap.look r.ctxs k = SMap.look s.ctxs k)) ∧
  (∀ s by_ ctx c, SMap.look s.ctxs ctx = some c → may by_ c.tenant = true → c.resetting = false →
    let set (i : Instr) (d : Ctx) : Prop := ∃ r, exec i s = .next r ∧ r.mgmt = some ⟨.success, []⟩ ∧
      SMap.look r.ctxs ctx = some d ∧ r.mem = s.mem ∧ r.units = s.units
    (∃ r, exec (.contextDestroy by_ ctx) s = .next r ∧ r.mgmt = some ⟨.success, []⟩ ∧ SMap.look r.ctxs ctx = none ∧
      (∀ e ∈ r.units, e.2.who.ctx ≠ ctx) ∧ (∀ e ∈ r.windows, e.2.ctx ≠ ctx) ∧ (∀ e ∈ r.queues, e.2.desc.ctx ≠ ctx)) ∧
    (∀ v, rootOk s v = true → set (.setPageTableRoot by_ ctx v) { c with root := v }) ∧
    (∀ a b, a ≤ b → b < 2 ^ 56 → ∃ r v, exec (.invalidateRange by_ ctx a b) s = .next r ∧ r.mgmt = some ⟨.success, []⟩ ∧
      r.fl.invals = s.fl.invals ++ [v] ∧ v.ctx = ctx ∧ v.first = a ∧ v.last = b ∧ v.moved = none) ∧
    (∀ d a n w t x, c.tenant = some t → SMap.look s.tenants t = some x → d % 4096 = 0 → a % 4096 = 0 → n % 4096 = 0 → 0 < n →
      d + n ≤ 2 ^ 56 → a + n ≤ x.size →
      set (.mapLentRange by_ ctx d a n w) { c with maps := (d, a, n, w) :: c.maps }) ∧
    (∀ q d k, d.ctx = ctx → SMap.look s.queues q = none → q < 65536 → freeIndex s d.tenant = some k → descOk s d = true →
      (∀ t, d.tenant = some t → may by_ (some t) = true) →
      ∃ r h, exec (.queueCreate by_ q d) s = .next r ∧ r.mgmt = some ⟨.success, [k]⟩ ∧ SMap.look r.queues q = some h ∧
        h.desc = d ∧ h.tidx = k ∧ h.head = 0 ∧ h.tail = 0 ∧ h.stat = 0) ∧
    (∀ q h, SMap.look s.queues q = some h → h.desc.ctx = ctx →
      ∃ r, exec (.queueDestroy by_ q) s = .next r ∧ r.mgmt = some ⟨.success, []⟩ ∧ SMap.look r.queues q = none ∧
        (∀ k, k ≠ q → SMap.look r.queues k = SMap.look s.queues k) ∧ (∀ g ∈ r.grids, g.2.queue ≠ some q)))

/-- R103, R155, R156, R172, R175, R270, R275, R285, R287, R288, R352, R361: commands that give a context its objects, and those
of its debugger, by an issuer to whom the context belongs, within their limits. (Return codes of refused commands and what a detach resumes are the model's reading: log 25 and 27.) -/
def Obligations.ObjectCommands : Prop :=
  ∀ s by_ ctx c, SMap.look s.ctxs ctx = some c → may by_ c.tenant = true → c.resetting = false →
    let set (i : Instr) (d : Ctx) : Prop := ∃ r, exec i s = .next r ∧ r.mgmt = some ⟨.success, []⟩ ∧
      SMap.look r.ctxs ctx = some d ∧ r.mem = s.mem ∧ r.units = s.units
    let fits (off n : Nat) : Prop := off + n ≤ Config.sliceBytes
    (∀ f n e, 0 < n → f + n ≤ 4096 → (∀ k, k < n → SMap.look c.tls (f + k) = none) →
      ∃ r d, exec (.allocateTimelines by_ ctx f n e) s = .next r ∧ r.mgmt = some ⟨.success, []⟩ ∧ SMap.look r.ctxs ctx = some d ∧
        (∀ k, SMap.look d.tls k =
          (if f ≤ k ∧ k < f + n then some ⟨if e then .engine else .software, 0⟩ else SMap.look c.tls k))) ∧
    (∀ l b k d w, l < 4096 → SMap.look c.lists l = none → d < 8 → b < 2 ^ 32 → b % (if w then 8 else 4) = 0 →
      fits (b % 2 ^ 22) (2 ^ k * (if w then 8 else 4)) → set (.createWorkList by_ ctx l b k d w)
        { c with lists := SMap.put c.lists l ⟨b, k, w, d, 0, 0, []⟩ }) ∧
    (∀ g m, g < 65536 → m ≠ [] → (∀ x ∈ m, x < 2 ^ 18) →
      set (.defineCollectiveGroup by_ ctx g m) { c with groups := SMap.put c.groups g m }) ∧
    (∀ h, imageBad h.sbase h.slen 4 4 = false → imageBad h.lbase h.llen 12 16 = false → h.entry < h.slen →
      set (.setSupervisorHandler by_ ctx h) { c with handler := some h }) ∧
    (∀ o, fits o 33792 → set (.setTrapSaveArea by_ ctx o) { c with saveOff := some o }) ∧
    (∀ k o n, k < 1024 → 0 < n → o % 128 = 0 → fits o n →
      set (.setShadowArea by_ ctx k o n) { c with shadows := SMap.put c.shadows k ⟨o, n⟩ }) ∧
    (∀ d k, 6 ≤ k → k ≤ 16 → d + 2 ^ k * 64 ≤ 2 ^ 56 → set (.setFaultLog by_ ctx d k) { c with log := some ⟨d, k, 0⟩ }) ∧
    (∀ d, d < 2 ^ 56 → set (.setEvictionSaveArea by_ ctx d) { c with evictDva := some d }) ∧
    (∀ m, m ≤ 2 → set (.touchstoneEnable by_ ctx m) { c with tsOn := true, tsStart := m }) ∧
    set (.debugAttach by_ ctx) { c with debug := true } ∧
    (∃ r, exec (.debugDetach by_ ctx) s = .next r ∧ r.mgmt = some ⟨.success, []⟩ ∧
      SMap.look r.ctxs ctx = some { c with debug := false } ∧ r.paths.holds = [] ∧ r.paths.loss = [] ∧
      (∀ e ∈ r.units, e.2.who.ctx = ctx → e.2.stopped = false) ∧ (∀ p ∈ r.fl.stores, p.lostAck = false)) ∧
    (c.debug = true → ∀ a b, a < 8 → b < 8 →
      (∃ r, exec (.aqueductHold by_ ctx a b) s = .next r ∧ r.mgmt = some ⟨.success, []⟩ ∧ r.paths.holds.contains (a, b) = true ∧
        r.fl = s.fl) ∧
      (∃ r, exec (.aqueductUnhold by_ ctx a b) s = .next r ∧ r.mgmt = some ⟨.success, []⟩ ∧ r.paths.holds.contains (a, b) = false ∧
        r.fl.stores.map (fun p => p.seq) = s.fl.stores.map (fun p => p.seq)) ∧
      (∀ k, k < 2 ^ 27 → ∃ r, exec (.injectAckloss by_ ctx a k) s = .next r ∧ r.mgmt = some ⟨.success, []⟩ ∧
        r.paths.loss = s.paths.loss ++ [(a, k)])) ∧
    (∀ id u n k, c.debug = true → s.unit? id = some u → u.id = id → u.who.ctx = ctx → u.stopped = true → 0 < n → n < 64 → k < 64 →
      u.pend = [] → u.owesWord = false → ∃ r y, exec (.replicaFlip by_ ctx id (.s n) k) s = .next r ∧ r.mgmt = some ⟨.success, []⟩ ∧ r.unit? id = some y ∧
        y.rs (BitVec.ofNat 6 n) = u.rs (BitVec.ofNat 6 n) ^^^ BitVec.ofNat 64 (2 ^ k) ∧
        (∀ m, m ≠ BitVec.ofNat 6 n → y.rs m = u.rs m) ∧ y.lS = u.lS) ∧
    (∀ id u, s.unit? id = some u → u.id = id → u.who.rset = 0 →
      exec (.debugResume id) s = .next { s with units := SMap.upd s.units (ukey id) (fun y => { y with stopped := false }) })

/-- R233, R268, R272, R330, R331, R363: a context reset ends its units and keeps its tables; poison cleared is zero and sound;
windows are set and cleared once the accesses that the old entry admitted have completed; a pre-emption request runs in the background, and its release opens the clusters. (Return codes of refused commands are the model's reading: log 25, 51 and 63.) -/
def Obligations.WindowCommands : Prop :=
  ∀ s by_ ctx c, SMap.look s.ctxs ctx = some c → may by_ c.tenant = true → c.resetting = false →
    (∃ r d, exec (.resetContext by_ ctx) s = .next r ∧ r.mgmt = some ⟨.success, []⟩ ∧ (∀ e ∈ r.units, e.2.who.ctx ≠ ctx) ∧
      (∀ e ∈ r.grids, e.2.ctx ≠ ctx) ∧ SMap.look r.ctxs ctx = some d ∧ d.resetting = true ∧ d.tls = c.tls ∧ d.root = c.root ∧
      r.windows = s.windows) ∧
    (∀ k, clearOk s by_ ctx (.home k) = true → s.mem.badHome.contains k = true →
      ∃ r, exec (.clearPoison by_ ctx (.home k)) s = .next r ∧ r.mgmt = some ⟨.success, []⟩ ∧
        r.mem.badHome.contains k = false ∧
        (∀ a, ¬ bellByte s a → homeByte r a = (if k * 32 ≤ a ∧ a < k * 32 + 32 then 0 else homeByte s a))) ∧
    (∀ w, w.ctx = ctx → w.core < 1024 → w.idx < 16 → w.base ≤ w.limit → w.limit ≤ 767 → entryMine s by_ w.core w.idx = true →
      (∀ x ∈ guarded s w.core, (w.limit + 1) * 4096 ≤ x.1 ∨ x.2 ≤ w.base * 4096) →
      (entryOpen s w.core w.idx = true → exec (.setWindowEntry by_ w) s = .next s) ∧
      (entryOpen s w.core w.idx = false → ∃ r, exec (.setWindowEntry by_ w) s = .next r ∧ r.mgmt = some ⟨.success, []⟩ ∧ r.mem = s.mem ∧
        SMap.look r.windows (winKey w.core w.idx) = some ⟨ctx, w.base, w.limit, w.rd, w.wr, w.at_⟩ ∧
        (∀ k, k ≠ winKey w.core w.idx → SMap.look r.windows k = SMap.look s.windows k))) ∧
    (∀ k i w, k < 1024 → i < 16 → SMap.look s.windows (winKey k i) = some w → w.ctx = ctx →
      (entryOpen s k i = true → exec (.clearWindowEntry by_ k i) s = .next s) ∧
      (entryOpen s k i = false → ∃ r, exec (.clearWindowEntry by_ k i) s = .next r ∧ r.mgmt = some ⟨.success, []⟩ ∧ r.mem = s.mem ∧
        SMap.look r.windows (winKey k i) = none ∧ (∀ j, j ≠ winKey k i → SMap.look r.windows j = SMap.look s.windows j))) ∧
    (∀ m, (∀ r ∈ s.preempts, r.running = true → ∀ k ∈ r.clusters, k ∉ maskClusters s ctx m) →
      ∃ r, exec (.requestPreemption .owner ctx m) s = .next r ∧ r.mgmt = some ⟨.background, []⟩ ∧
        (∃ x ∈ r.preempts, x.id = s.nextKey ∧ x.ctx = ctx ∧ x.clusters = maskClusters s ctx m ∧ x.for_ = none)) ∧
    (∃ r, exec (.releasePreemption .owner ctx) s = .next r ∧ r.mgmt = some ⟨.success, []⟩ ∧
      (∀ x ∈ r.preempts, x.ctx = ctx → x.for_ ≠ none) ∧ (∀ x ∈ s.preempts, x.ctx ≠ ctx → x ∈ r.preempts))

/-- R242, R263, R268, R270, R295, R327 to R329, R337, R339, R344, R345, R352: the owner's settings take the values of their
ranges and Invalid Input outside them; a die, a time source, a channel, a checkpoint, the resets and the life cycle are as the
owner sets them; an opcode of the range that the table does not list is Unsupported. (Return codes of refused commands and what a reset keeps are the model's reading: log 25, 59 and 60.) -/
def Obligations.OwnerCommands : Prop :=
  let did (i : Instr) (s t : State) : Prop := exec i s = .next { t with mgmt := some ⟨.success, []⟩ }
  let no (i : Instr) (s : State) (rc : Rc) : Prop := exec i s = .next { s with mgmt := some ⟨rc, []⟩ }
  (∀ s v, let put (i : Instr) (ok : Prop) (x : Settings) : Prop :=
      (ok → did i s { s with set := x }) ∧ (¬ ok → no i s .invalidInput)
    put (.setCoreBudget .owner v) (16 ≤ v ∧ v ≤ 512) { s.set with budget := v } ∧
    put (.setPreemptTimeout .owner v) (10 ≤ v ∧ v ≤ 10000) { s.set with preempt := v * 2000 } ∧
    put (.setEvictionThreshold .owner v) (v = 0 ∨ (10 ≤ v ∧ v ≤ 100000)) { s.set with evict := v * 2000 } ∧
    put (.setCompareTimeout .owner v) (100 ≤ v ∧ v ≤ 100000) { s.set with compare := v * 2000 } ∧
    put (.setActivationLevel .owner v) (16 ≤ v ∧ v ≤ 256 ∧ v % 16 = 0) { s.set with level := v }) ∧
  (∀ s d, d < 8 → dieOn s d = true → s.plant.ckpt = none → ∃ r, exec (.takeDieOffline .owner d) s = .next r ∧
    r.mgmt = some ⟨.success, []⟩ ∧ evacuating r d = true ∧ r.units = s.units ∧ r.mem.sram = s.mem.sram) ∧
  (∀ s d, s.plant.ckpt ≠ none → no (.takeDieOffline .owner d) s .busy) ∧
  (∀ s p, (p < 16 → did (.selectTimeSource .owner (.fabric p)) s { s with clk := { s.clk with src := some (.fabric p) } }) ∧
    (p < 4 → did (.selectTimeSource .owner (.ptm p)) s { s with clk := { s.clk with src := some (.ptm p) } })) ∧
  (∀ s n d c, SMap.look s.ctxs d.ctx = some c → c.resetting = false → SMap.look s.channels n = none →
    SMap.look c.tls d.tl = none ∨ SMap.look c.tls d.tl = some ⟨.engine, 0⟩ →
    chanOk s d = true → d.cDva = false → ∃ r y, exec (.createIngressChannel .owner n d) s = .next r ∧ r.mgmt = some ⟨.success, []⟩ ∧
      SMap.look r.channels n = some y ∧ y.desc = d ∧ y.w = 0 ∧ y.seq = 0 ∧ y.dropped = 0 ∧ y.gap = false ∧
      timelineOf r d.ctx d.tl = some ⟨.channel, 0⟩ ∧ holds s r d.cidx 8 0 ∧ onlyBytes s r d.cidx 8) ∧
  (∀ s n c, SMap.look s.channels n = some c →
    exec (.ingressChannelStatus .owner n) s = .next { s with mgmt := some ⟨.success, [c.dropped]⟩ }) ∧
  (∀ s, s.plant.ckpt = none → ∀ d, d < 2 ^ 18 → ∃ r k, exec (.checkpoint .owner (.fabric d)) s = .next r ∧
    r.mgmt = some ⟨.background, []⟩ ∧ r.plant.ckpt = some k ∧ k.tier = .fabric d ∧ k.blocks = 0 ∧ r.plant.frozen = true ∧
    r.units = s.units ∧ r.mem = s.mem) ∧
  (∀ s f, ∃ r, exec (.warmReset .owner f) s = .next r ∧ r.mgmt = some ⟨.success, []⟩ ∧ r.units = [] ∧ r.ctxs = [] ∧ r.grids = [] ∧
    r.queues = [] ∧ r.windows = [] ∧ r.mem = s.mem ∧ r.set = s.set ∧
    r.tenants.map (fun e => (e.1, e.2.key, e.2.dir, e.2.decs, e.2.active)) = s.tenants.map (fun e => (e.1, e.2.key, e.2.dir, e.2.decs, e.2.active)) ∧
    ((∀ d, evacuating s d = false) → r.tenants = s.tenants) ∧ (∀ d, evacuating r d = false)) ∧
  (let cold (i : Instr) (s : State) : Prop := ∃ r, exec i s = .next r ∧ r.mgmt = some ⟨.success, []⟩ ∧ r.units = [] ∧
      r.ctxs = [] ∧ r.mem = State.reset.mem ∧ r.set = State.reset.set ∧ (∀ e ∈ r.tenants, e.2.active = false ∧ e.2.pages = [])
   ∀ s, (∀ f, f = true ∨ anyActive s = false → cold (.coldReset .owner f) s) ∧ cold (.forcedReset .owner) s ∧
    (anyActive s = true → no (.coldReset .owner false) s .invalidInput ∧ no (.tsiIslandReset .owner false) s .invalidInput) ∧
    (∀ f, f = true ∨ anyActive s = false → did (.tsiIslandReset .owner f) s (tsiReset s))) ∧
  (∀ s n, (nextLife s.plant.life = some n → ∃ r, exec (.lifecycleTransition .owner n true) s = .next r ∧
      r.mgmt = some ⟨.success, []⟩ ∧ r.plant.life = n ∧ r.tenants = [] ∧ r.mem = State.reset.mem ∧ r.units = []) ∧
    (nextLife s.plant.life ≠ some n → no (.lifecycleTransition .owner n true) s .invalidInput) ∧
    no (.lifecycleTransition .owner n false) s .invalidInput) ∧
  (∀ s b o, 0xC000 ≤ o → o ≤ 0xFFFF → o ∉ listedOps → no (.mgmtUnlistedOpcode b o) s .unsupported)

/-! ## Division, and the codes of computing words -/

/-- R87: division never traps: a ready divide or remainder word completes; by zero the quotient is all ones and the
remainder a; the most negative number by −1 gives itself and 0; and a nonzero signed remainder has the sign of a. -/
def Obligations.DivisionCorners : Prop :=
  ∀ s u m d a b, SReady s u [d, a, b] →
    let x := u.rs a; let y := u.rs b
    let gives (i : Instr) (v : Word) : Prop := exec i s = .next (sNext s u m 40 [.s d v])
    ∃ qu qs ru rs, gives (.divU64 m d a b) qu ∧ gives (.divS64 m d a b) qs ∧ gives (.remU64 m d a b) ru ∧
      gives (.remS64 m d a b) rs ∧
      (y = 0 → qu = 0xFFFFFFFFFFFFFFFF ∧ qs.toInt = -1 ∧ ru = x ∧ rs = x) ∧
      (x.toInt = -(2 ^ 63) → y.toInt = -1 → qs.toInt = -(2 ^ 63) ∧ rs = 0) ∧
      (rs ≠ 0 → (rs.toInt < 0 ↔ x.toInt < 0))

/-! ## The step and the decoder -/

/-- The step, whole: a turn of the agenda that lets an eligible stream issue fetches the word at its program counter, decodes
it, and is `exec` of the instruction it decodes to, in the same machine with that turn taken off, the cursor at the unit and
the mark of a parked word cleared; a word that parks makes no progress. A word that is no instruction runs as the
illegal-instruction event with its cause (R64), and a stream past the end of its image takes 0x0026 at its last word (R9).
A turn of an event runs it; with an empty agenda a due event runs, and then the scheduler's choice. The word at the counter
is what memory holds at that index of the image, or, for a unit that ran while a store changed it, what it was before (R10).
(The agenda is the
model's own: log 1; older code: log 28.) -/
def Obligations.StepRunsTheWord : Prop :=
  let adv (t : State) : State := if t.sch.parked then t else { t with sch := { t.sch with progress := t.sch.progress + 1 } }
  let runs (s t : State) (i : Instr) (f : State → State) : Prop :=
    step s = match exec i { t with sch := { t.sch with parked := false } } with
      | .next r => .next (f r)
      | .fault e => .fault e
      | .refused e => .refused e
  let decoded (u : Machine.Unit) (st : Strm) (w : Nat) : Dec := match st with | .s => decodeS u.who.isLm w | _ => decodeL w
  (∀ s id st rest u, s.agenda = .issue id st :: rest → s.plant.powered = true → s.unit? id = some u → eligible s u st = true →
    let t := { s with agenda := rest, cur := u.id, curS := st }
    let on := settle (some ⟨portOf u st, 0, id, st⟩)
    (portFree s u st = false → step s = .next (tick s)) ∧
    (portFree s u st = true →
      (impNow s u st = true → runs s t (.impreciseTrapTake u.id) on) ∧
      (impNow s u st = false → u.pcOf st < imageLen s u st →
        (∀ i, decoded u st (rawAt s u st) = .ok i → runs s t i on) ∧
        (∀ c b, decoded u st (rawAt s u st) = .bad c b → runs s t (.illegalInstruction c b (rawAt s u st)) on)) ∧
      (impNow s u st = false → imageLen s u st ≤ u.pcOf st →
        runs s (t.setUnit (u.setPc st (imageLen s u st - 1))) (.illegalInstruction 0x26 (imageLen s u st) 0) on))) ∧
  (∀ s i rest, s.agenda = .ev i :: rest → eventOk s i = true → runs s { s with agenda := rest } i adv) ∧
  (∀ s i, s.agenda = [] → s.plant.powered = true → s.plant.frozen = false → dueEvent s = some i → runs s s i adv) ∧
  (∀ s c u i, s.agenda = [] → s.plant.powered = true → s.plant.frozen = false → dueEvent s = none → pick s = some c →
    s.unit? c.unit = some u → eligible s u c.strm = true → impNow s u c.strm = false → u.pcOf c.strm < imageLen s u c.strm →
    decoded u c.strm (rawAt s u c.strm) = .ok i → runs s { s with cur := u.id, curS := c.strm } i (settle (some c))) ∧
  (∀ s rest, s.agenda = .idle :: rest → s.plant.frozen = false → ∃ t, step s = .next t ∧ t.clk.now = s.clk.now + 1 ∧ t.mem = s.mem) ∧
  (∀ s u st, let n := if st = .s then 4 else 12
    let a := if st = .s then (images s u).1 + 4 * u.pcOf st else (images s u).2.2.1 + 12 * u.pcOf st
    rawAt s u st = leNat (readN (homeByte s) n a) ∨ ∃ x ∈ u.code, x.at_ = a ∧ x.raw = rawAt s u st)

/-- R50 to R65: words written out bit by bit from the encoding tables, one or more of each group of formats, are the
instructions that the spec's text says they are; the all-zero word and a word with a reserved field set are refused. -/
def Obligations.WordsDecode : Prop :=
  decodeTableWord 32 0x02200040 = some (.addImm false 4 0 64) ∧
  decodeTableWord 32 0x80288300 = some (.add true 5 4 6) ∧
  decodeTableWord 32 0x12202F00 = some (.shin false 4 0x2F00) ∧
  decodeTableWord 32 0xA63FFFFF = some (.loop true 7 0x7FFFF) ∧
  decodeTableWord 32 0x34480001 = some (.rdmb false 9 0) ∧
  decodeTableWord 32 0x3C389142 = some (.ldg false 7 4 .u32 .acq .die false 2) ∧
  decodeTableWord 32 0x44508118 = some (.atom false 10 4 .add true .rlx .dev false) ∧
  decodeTableWord 32 0x4618B103 = some (.nbarArrive false 3 5 .rel .cl) ∧
  decodeTableWord 32 0x50041480 = some (.cp false .d2g 4 5 8) ∧
  decodeTableWord 32 0x608020C2 = some (.mma false 2 (.tile 0 false) (.sram 8) 12) ∧
  decodeTableWord 32 0x640428C0 = some (.mspl false 0 4 10 12) ∧
  decodeTableWord 32 0xF8000000 = some (.exit true) ∧
  decodeTableWord 32 0 = none ∧
  decodeTableWord 96 0x3000302C1000280000000000 =
    some (.laneAddI ⟨false, ⟨false, 0⟩, .v 3, .v 2, .small 1, .v 0, .dyn, false, .u32, 0, 0⟩) ∧
  decodeTableWord 96 0x5200402C1000A02000000000 =
    some (.laneLsw ⟨false, ⟨false, 0⟩, .v 4, .v 2, .small 1, .v 0, .dyn, false, .b32, 2, 0⟩) ∧
  decodeTableWord 96 0x530908500000003000000000 =
    some (.lanePoll ⟨false, ⟨false, 0⟩, .mb 0, .q 1, .v 0, .v 0, .dyn, false, .none, 3, 0⟩) ∧
  decodeTableWord 96 0x7300002090002CE000000040 =
    some (.laneStg ⟨false, ⟨false, 0⟩, .v 0, .v 2, .v 9, .v 0, .u32, .rel, .dev, true, false, 0, 0x40⟩) ∧
  decodeTableWord 96 0x790000802000D01000000000 =
    some (.xfeed ⟨false, ⟨false, 0⟩, .v 0, .v 8, .v 2, .v 0, .dyn, false, .b128, 1, 0⟩) ∧
  decodeTableWord 96 0x7B0000406000A80000000000 =
    some (.wapp ⟨false, ⟨false, 0⟩, .v 0, .v 4, .v 6, .v 0, .dyn, false, .b64, 0, 0⟩) ∧
  decodeTableWord 96 0xE8A000000000000000000003 = some (.lbr ⟨true, ⟨true, 2⟩, 3⟩) ∧
  decodeTableWord 96 0x3000302C1004280000000000 = none

/-- R8, R178, R263, R268, R270, R295, R315, R340, R344, R345: after a cold reset nothing is resident and nothing exists; memory
is zero and in canonical form; the settings are the stated defaults; every cluster has the reset pulse pattern and a clear
engine; and the invariant of the steps holds. A unit at its start holds zero registers, except those that read as constants,
which ignore every write. (What else the reset state holds is the model's choice: log 5 and 6.) -/
def Obligations.ResetState : Prop :=
  let r := State.reset
  (r.units = [] ∧ r.wgs = [] ∧ r.teams = [] ∧ r.grids = [] ∧ r.ctxs = [] ∧ r.queues = [] ∧ r.windows = [] ∧ r.tenants = [] ∧
    r.preempts = [] ∧ r.channels = [] ∧ r.irqs = [] ∧ r.fl.stores = [] ∧ r.fl.atoms = [] ∧ r.fl.jobs = [] ∧ r.fl.tlb = []) ∧
  (∀ a, homeByte r a = 0) ∧ r.Inv ∧
  (r.set.budget = 64 ∧ r.set.preempt = 250 * 2000 ∧ r.set.evict = 100 * 2000 ∧ r.set.compare = 2000 * 2000 ∧
    r.set.level = 64 ∧ r.set.agePeriodUs = 10000 ∧ r.set.hot = 64 ∧ r.set.cold = 2) ∧
  (∀ c, (r.cluster c).pulse.pat = 0x5555 ∧ (r.cluster c).pulse.frz = 64 ∧ (r.cluster c).engine.queue = [] ∧
    (r.cluster c).engine.resv = [] ∧ (∀ k, SMap.get 0 (r.cluster c).engine.acc k = 0 ∧ SMap.get 0 (r.cluster c).engine.o k = 0 ∧
      SMap.get 0 (r.cluster c).engine.scale k = 0 ∧ SMap.get 0 (r.cluster c).engine.drain k = 0)) ∧
  (∀ id who pc ts age, let u := newUnit id who pc ts age
    (∀ n, u.rs n = 0) ∧ (∀ p, p ≠ 0 → u.rp p = false) ∧ (∀ n l, u.rv n l = 0) ∧ (∀ q, q ≠ 0 → u.rq q = 0) ∧
    (∀ n, SMap.get 0 u.mbVal n = 0 ∧ SMap.get 0 u.sS.kst n = 0) ∧ u.fpmode = 1 ∧ u.trap.tcause = 0 ∧ u.trap.tpath = 0 ∧
    u.sS.spc = pc ∧ u.pend = [] ∧ u.laneIdle = true) ∧
  (∀ (u : Machine.Unit) v b i, (u.ws 0 v).rs 0 = 0 ∧ u.ws 0 v = u ∧ (u.wp 0 b).rp 0 = true ∧ u.wp 0 b = u ∧
    u.rq 0 = 0xFFFFFFFF ∧ (∀ e w m x, (u.land i ⟨e, w, .q 0 m x⟩).lS.q = u.lS.q))

/-- Decoding the encoding of a well-formed instruction gives it back, with every operand at every value that its fields admit:
no bit of an encoding is dropped (R50 to R63). -/
def Obligations.EncodeDecode : Prop :=
  ∀ i n w, i.wf = true → encode i = some (n, w) → decodeTableWord n w = some i

/-- Every word that decodes is the encoding of a well-formed instruction, and of one only: reserved fields and unassigned values do not fall
through to a neighbour (R64). -/
def Obligations.DecodeEncode : Prop :=
  ∀ i n w, w < 2 ^ n → decodeTableWord n w = some i → i.wf = true ∧ encode i = some (n, w)

/-- Every step keeps the canonical form of memory and every unit at its own place. -/
def Obligations.StepInvariant : Prop :=
  ∀ s t, s.Inv → step s = .next t → t.Inv

/-! ## Frames -/

/-- R8, R21, R22, R84: the frame of the S words that only compute. A word whose registers are ready completes, and changes
its own unit alone: the stream stands at the next word, no register changes before its result is written, and when every
result in flight is written, every `s` register but its destination and every `p` register but its destination hold what they
would have held without the word. -/
def Obligations.RegisterWordFrame : Prop :=
  ∀ i regs ds dp s u, regWord i = some (regs, ds, dp) → SReady s u regs →
    ∃ t v, exec i s = .next t ∧ t.unit? s.cur = some v ∧ v.sS.spc = u.sS.spc + 1 ∧ sameRegs u v ∧
      otherUnits s t s.cur ∧ t = { s with units := t.units } ∧
      (∀ r, some r ≠ ds → v.landEvery.rs r = u.landEvery.rs r) ∧ (∀ p, some p ≠ dp → v.landEvery.rp p = u.landEvery.rp p)

/-- R8, R22, R29, R109: the frame of the integer, move, poll and mask lane words. Whatever it does, issue or stall, such a word
changes its own unit alone, and of it no S register, predicate, staging, trap or mode register; a mailbox only where it is
the destination; and when the results of its slot are written, every lane of every `v` register outside the destination or not
active holds what it would have held without the word, and so does every mask register bit. -/
def Obligations.LaneWordFrame : Prop :=
  ∀ j w s t u, laneOnly j = some w → s.unit? s.cur = some u → u.id = s.cur → exec j s = .next t →
    let i := strmSlot s.curS
    let act := laneAct s u i w.g
    ∃ v, t.unit? s.cur = some v ∧ v.sS = u.sS ∧ v.trap = u.trap ∧ v.fpmode = u.fpmode ∧ v.pend = u.pend ∧ v.who = u.who ∧
      v.lS.v = u.lS.v ∧ v.lS.q = u.lS.q ∧ (v.slot i).em = (u.slot i).em ∧ v.slot (!i) = u.slot (!i) ∧
      (∀ k : BitVec 2, w.dst ≠ .mb k → SMap.get 0 v.mbVal k.toNat = SMap.get 0 u.mbVal k.toNat) ∧
      otherUnits s t s.cur ∧ sameMem s t ∧
      (∀ r l, r < 128 → l < 32 → (act.getLsbD l = false ∨ ∀ d, w.dst = .v d → r < d.toNat ∨ d.toNat + tyRegs w.ty ≤ r) →
        (v.landSlot i).rv r l = (u.landSlot i).rv r l) ∧
      (∀ (q : BitVec 3) l, l < 32 → (act.getLsbD l = false ∨ w.dst ≠ .q q) →
        ((v.landSlot i).rq q).getLsbD l = ((u.landSlot i).rq q).getLsbD l)
end

