-- ==== Sys2Proof/Laws/Exec.lean ====
section
/-! SUPPORT. The meaning of each constructor, as a rewriting rule: `exec` is its own meaning, by definition. -/

namespace Sys2Proof.Machine

@[simp] theorem exec_add {m d a b} (s : State) :
    exec (.add m d a b) s = execAdd m d a b s := rfl
@[simp] theorem exec_sub {m d a b} (s : State) :
    exec (.sub m d a b) s = execSub m d a b s := rfl
@[simp] theorem exec_and {m d a b} (s : State) :
    exec (.and m d a b) s = execAnd m d a b s := rfl
@[simp] theorem exec_or {m d a b} (s : State) :
    exec (.or m d a b) s = execOr m d a b s := rfl
@[simp] theorem exec_xor {m d a b} (s : State) :
    exec (.xor m d a b) s = execXor m d a b s := rfl
@[simp] theorem exec_shl {m d a b} (s : State) :
    exec (.shl m d a b) s = execShl m d a b s := rfl
@[simp] theorem exec_shr {m d a b} (s : State) :
    exec (.shr m d a b) s = execShr m d a b s := rfl
@[simp] theorem exec_sar {m d a b} (s : State) :
    exec (.sar m d a b) s = execSar m d a b s := rfl
@[simp] theorem exec_mul {m d a b} (s : State) :
    exec (.mul m d a b) s = execMul m d a b s := rfl
@[simp] theorem exec_mulhiU64 {m d a b} (s : State) :
    exec (.mulhiU64 m d a b) s = execMulhiU64 m d a b s := rfl
@[simp] theorem exec_mulhiS64 {m d a b} (s : State) :
    exec (.mulhiS64 m d a b) s = execMulhiS64 m d a b s := rfl
@[simp] theorem exec_minS64 {m d a b} (s : State) :
    exec (.minS64 m d a b) s = execMinS64 m d a b s := rfl
@[simp] theorem exec_minU64 {m d a b} (s : State) :
    exec (.minU64 m d a b) s = execMinU64 m d a b s := rfl
@[simp] theorem exec_maxS64 {m d a b} (s : State) :
    exec (.maxS64 m d a b) s = execMaxS64 m d a b s := rfl
@[simp] theorem exec_maxU64 {m d a b} (s : State) :
    exec (.maxU64 m d a b) s = execMaxU64 m d a b s := rfl
@[simp] theorem exec_divU64 {m d a b} (s : State) :
    exec (.divU64 m d a b) s = execDivU64 m d a b s := rfl
@[simp] theorem exec_divS64 {m d a b} (s : State) :
    exec (.divS64 m d a b) s = execDivS64 m d a b s := rfl
@[simp] theorem exec_remU64 {m d a b} (s : State) :
    exec (.remU64 m d a b) s = execRemU64 m d a b s := rfl
@[simp] theorem exec_remS64 {m d a b} (s : State) :
    exec (.remS64 m d a b) s = execRemS64 m d a b s := rfl
@[simp] theorem exec_andn {m d a b} (s : State) :
    exec (.andn m d a b) s = execAndn m d a b s := rfl
@[simp] theorem exec_orn {m d a b} (s : State) :
    exec (.orn m d a b) s = execOrn m d a b s := rfl
@[simp] theorem exec_popc {m d a} (s : State) :
    exec (.popc m d a) s = execPopc m d a s := rfl
@[simp] theorem exec_clz {m d a} (s : State) :
    exec (.clz m d a) s = execClz m d a s := rfl
@[simp] theorem exec_ctz {m d a} (s : State) :
    exec (.ctz m d a) s = execCtz m d a s := rfl
@[simp] theorem exec_addImm {m d a imm} (s : State) :
    exec (.addImm m d a imm) s = execAddImm m d a imm s := rfl
@[simp] theorem exec_andImm {m d a imm} (s : State) :
    exec (.andImm m d a imm) s = execAndImm m d a imm s := rfl
@[simp] theorem exec_orImm {m d a imm} (s : State) :
    exec (.orImm m d a imm) s = execOrImm m d a imm s := rfl
@[simp] theorem exec_xorImm {m d a imm} (s : State) :
    exec (.xorImm m d a imm) s = execXorImm m d a imm s := rfl
@[simp] theorem exec_shlImm {m d a n} (s : State) :
    exec (.shlImm m d a n) s = execShlImm m d a n s := rfl
@[simp] theorem exec_shrImm {m d a n} (s : State) :
    exec (.shrImm m d a n) s = execShrImm m d a n s := rfl
@[simp] theorem exec_sarImm {m d a n} (s : State) :
    exec (.sarImm m d a n) s = execSarImm m d a n s := rfl
@[simp] theorem exec_mulImm {m d a imm} (s : State) :
    exec (.mulImm m d a imm) s = execMulImm m d a imm s := rfl
@[simp] theorem exec_shin {m d imm} (s : State) :
    exec (.shin m d imm) s = execShin m d imm s := rfl
@[simp] theorem exec_cmp {m p c a b} (s : State) :
    exec (.cmp m p c a b) s = execCmp m p c a b s := rfl
@[simp] theorem exec_cmpImm {m p c a imm} (s : State) :
    exec (.cmpImm m p c a imm) s = execCmpImm m p c a imm s := rfl
@[simp] theorem exec_pand {m p pa na pb nb} (s : State) :
    exec (.pand m p pa na pb nb) s = execPand m p pa na pb nb s := rfl
@[simp] theorem exec_por {m p pa na pb nb} (s : State) :
    exec (.por m p pa na pb nb) s = execPor m p pa na pb nb s := rfl
@[simp] theorem exec_pxor {m p pa na pb nb} (s : State) :
    exec (.pxor m p pa na pb nb) s = execPxor m p pa na pb nb s := rfl
@[simp] theorem exec_sel {m d a b neg p} (s : State) :
    exec (.sel m d a b neg p) s = execSel m d a b neg p s := rfl
@[simp] theorem exec_br {m neg p off} (s : State) :
    exec (.br m neg p off) s = execBr m neg p off s := rfl
@[simp] theorem exec_call {m neg p off} (s : State) :
    exec (.call m neg p off) s = execCall m neg p off s := rfl
@[simp] theorem exec_jr {m a} (s : State) :
    exec (.jr m a) s = execJr m a s := rfl
@[simp] theorem exec_callr {m a} (s : State) :
    exec (.callr m a) s = execCallr m a s := rfl
@[simp] theorem exec_ret {m} (s : State) :
    exec (.ret m) s = execRet m s := rfl
@[simp] theorem exec_loop {m c off} (s : State) :
    exec (.loop m c off) s = execLoop m c off s := rfl
@[simp] theorem exec_lk {m k a} (s : State) :
    exec (.lk m k a) s = execLk m k a s := rfl
@[simp] theorem exec_lq {m mask entry} (s : State) :
    exec (.lq m mask entry) s = execLq m mask entry s := rfl
@[simp] theorem exec_lqw {m} (s : State) :
    exec (.lqw m) s = execLqw m s := rfl
@[simp] theorem exec_rdmb {m d n} (s : State) :
    exec (.rdmb m d n) s = execRdmb m d n s := rfl
@[simp] theorem exec_rsr {m d n} (s : State) :
    exec (.rsr m d n) s = execRsr m d n s := rfl
@[simp] theorem exec_wsr {m n b} (s : State) :
    exec (.wsr m n b) s = execWsr m n b s := rfl
@[simp] theorem exec_ldp {m d a ty o sc rb off} (s : State) :
    exec (.ldp m d a ty o sc rb off) s = execLdp m d a ty o sc rb off s := rfl
@[simp] theorem exec_stp {m d a ty o sc ef off} (s : State) :
    exec (.stp m d a ty o sc ef off) s = execStp m d a ty o sc ef off s := rfl
@[simp] theorem exec_ldg {m d a ty o sc rb off} (s : State) :
    exec (.ldg m d a ty o sc rb off) s = execLdg m d a ty o sc rb off s := rfl
@[simp] theorem exec_stg {m d a ty o sc ef off} (s : State) :
    exec (.stg m d a ty o sc ef off) s = execStg m d a ty o sc ef off s := rfl
@[simp] theorem exec_ldh {m d a ty o sc rb off} (s : State) :
    exec (.ldh m d a ty o sc rb off) s = execLdh m d a ty o sc rb off s := rfl
@[simp] theorem exec_sth {m d a ty o sc ef off} (s : State) :
    exec (.sth m d a ty o sc ef off) s = execSth m d a ty o sc ef off s := rfl
@[simp] theorem exec_atom {m d a op w o sc pad} (s : State) :
    exec (.atom m d a op w o sc pad) s = execAtom m d a op w o sc pad s := rfl
@[simp] theorem exec_fence {m o sc} (s : State) :
    exec (.fence m o sc) s = execFence m o sc s := rfl
@[simp] theorem exec_barArrive {m a o sc} (s : State) :
    exec (.barArrive m a o sc) s = execBarArrive m a o sc s := rfl
@[simp] theorem exec_barWait {m o sc} (s : State) :
    exec (.barWait m o sc) s = execBarWait m o sc s := rfl
@[simp] theorem exec_nbarArrive {m n a o sc} (s : State) :
    exec (.nbarArrive m n a o sc) s = execNbarArrive m n a o sc s := rfl
@[simp] theorem exec_nbarWait {m n o sc} (s : State) :
    exec (.nbarWait m n o sc) s = execNbarWait m n o sc s := rfl
@[simp] theorem exec_dbarArrive {m a o sc} (s : State) :
    exec (.dbarArrive m a o sc) s = execDbarArrive m a o sc s := rfl
@[simp] theorem exec_dbarWait {m o sc} (s : State) :
    exec (.dbarWait m o sc) s = execDbarWait m o sc s := rfl
@[simp] theorem exec_mon {m a} (s : State) :
    exec (.mon m a) s = execMon m a s := rfl
@[simp] theorem exec_mwait {m a} (s : State) :
    exec (.mwait m a) s = execMwait m a s := rfl
@[simp] theorem exec_monitorTimeout {u} (s : State) :
    exec (.monitorTimeout u) s = execMonitorTimeout u s := rfl
@[simp] theorem exec_hgive {m a b} (s : State) :
    exec (.hgive m a b) s = execHgive m a b s := rfl
@[simp] theorem exec_htake {m d a} (s : State) :
    exec (.htake m d a) s = execHtake m d a s := rfl
@[simp] theorem exec_tlw {m a b} (s : State) :
    exec (.tlw m a b) s = execTlw m a b s := rfl
@[simp] theorem exec_tls {m a b} (s : State) :
    exec (.tls m a b) s = execTls m a b s := rfl
@[simp] theorem exec_tlr {m d a} (s : State) :
    exec (.tlr m d a) s = execTlr m d a s := rfl
@[simp] theorem exec_tsnOff {m} (s : State) :
    exec (.tsnOff m) s = execTsnOff m s := rfl
@[simp] theorem exec_tsnLog {m} (s : State) :
    exec (.tsnLog m) s = execTsnLog m s := rfl
@[simp] theorem exec_tsnTrap {m} (s : State) :
    exec (.tsnTrap m) s = execTsnTrap m s := rfl
@[simp] theorem exec_cp {m dir a b c} (s : State) :
    exec (.cp m dir a b c) s = execCp m dir a b c s := rfl
@[simp] theorem exec_cp2 {m dir a b c} (s : State) :
    exec (.cp2 m dir a b c) s = execCp2 m dir a b c s := rfl
@[simp] theorem exec_cp3 {m dir a b c} (s : State) :
    exec (.cp3 m dir a b c) s = execCp3 m dir a b c s := rfl
@[simp] theorem exec_cpsc {m g a b c} (s : State) :
    exec (.cpsc m g a b c) s = execCpsc m g a b c s := rfl
@[simp] theorem exec_cpm {m a b c} (s : State) :
    exec (.cpm m a b c) s = execCpm m a b c s := rfl
@[simp] theorem exec_cpmCreditTake {u} (s : State) :
    exec (.cpmCreditTake u) s = execCpmCreditTake u s := rfl
@[simp] theorem exec_cbat {m c} (s : State) :
    exec (.cbat m c) s = execCbat m c s := rfl
@[simp] theorem exec_cwait {m a} (s : State) :
    exec (.cwait m a) s = execCwait m a s := rfl
@[simp] theorem exec_launch {m a c} (s : State) :
    exec (.launch m a c) s = execLaunch m a c s := rfl
@[simp] theorem exec_wtake {m nb a c} (s : State) :
    exec (.wtake m nb a c) s = execWtake m nb a c s := rfl
@[simp] theorem exec_qsnc {m} (s : State) :
    exec (.qsnc m) s = execQsnc m s := rfl
@[simp] theorem exec_quiescenceReport {ctx} (s : State) :
    exec (.quiescenceReport ctx) s = execQuiescenceReport ctx s := rfl
@[simp] theorem exec_collAr {m a c} (s : State) :
    exec (.collAr m a c) s = execCollAr m a c s := rfl
@[simp] theorem exec_collRs {m a c} (s : State) :
    exec (.collRs m a c) s = execCollRs m a c s := rfl
@[simp] theorem exec_collAg {m a c} (s : State) :
    exec (.collAg m a c) s = execCollAg m a c s := rfl
@[simp] theorem exec_collBc {m a c} (s : State) :
    exec (.collBc m a c) s = execCollBc m a c s := rfl
@[simp] theorem exec_collAa {m a c} (s : State) :
    exec (.collAa m a c) s = execCollAa m a c s := rfl
@[simp] theorem exec_collectiveComplete {job lost} (s : State) :
    exec (.collectiveComplete job lost) s = execCollectiveComplete job lost s := rfl
@[simp] theorem exec_mma {m t a b c} (s : State) :
    exec (.mma m t a b c) s = execMma m t a b c s := rfl
@[simp] theorem exec_mzero {m t} (s : State) :
    exec (.mzero m t) s = execMzero m t s := rfl
@[simp] theorem exec_mdrn {m t a b c} (s : State) :
    exec (.mdrn m t a b c) s = execMdrn m t a b c s := rfl
@[simp] theorem exec_mspl {m t a b c} (s : State) :
    exec (.mspl m t a b c) s = execMspl m t a b c s := rfl
@[simp] theorem exec_mrowMig {m a b} (s : State) :
    exec (.mrowMig m a b) s = execMrowMig m a b s := rfl
@[simp] theorem exec_mrowReg {m a} (s : State) :
    exec (.mrowReg m a) s = execMrowReg m a s := rfl
@[simp] theorem exec_mage {m halve a b} (s : State) :
    exec (.mage m halve a b) s = execMage m halve a b s := rfl
@[simp] theorem exec_mchkRd {m t c} (s : State) :
    exec (.mchkRd m t c) s = execMchkRd m t c s := rfl
@[simp] theorem exec_mchkClr {m t} (s : State) :
    exec (.mchkClr m t) s = execMchkClr m t s := rfl
@[simp] theorem exec_mchkInj {m t a} (s : State) :
    exec (.mchkInj m t a) s = execMchkInj m t a s := rfl
@[simp] theorem exec_msl {m a b c} (s : State) :
    exec (.msl m a b c) s = execMsl m a b c s := rfl
@[simp] theorem exec_matrixWordPerform {cl} (s : State) :
    exec (.matrixWordPerform cl) s = execMatrixWordPerform cl s := rfl
@[simp] theorem exec_reservationGrant {cl obj} (s : State) :
    exec (.reservationGrant cl obj) s = execReservationGrant cl obj s := rfl
@[simp] theorem exec_trap {m code} (s : State) :
    exec (.trap m code) s = execTrap m code s := rfl
@[simp] theorem exec_rft {m} (s : State) :
    exec (.rft m) s = execRft m s := rfl
@[simp] theorem exec_brk {m imm} (s : State) :
    exec (.brk m imm) s = execBrk m imm s := rfl
@[simp] theorem exec_yield {m} (s : State) :
    exec (.yield m) s = execYield m s := rfl
@[simp] theorem exec_exit {m} (s : State) :
    exec (.exit m) s = execExit m s := rfl
@[simp] theorem exec_nop {m} (s : State) :
    exec (.nop m) s = execNop m s := rfl
@[simp] theorem exec_rand {m d} (s : State) :
    exec (.rand m d) s = execRand m d s := rfl
@[simp] theorem exec_fixedResultWrite {u st} (s : State) :
    exec (.fixedResultWrite u st) s = execFixedResultWrite u st s := rfl
@[simp] theorem exec_variableResultArrive {u id} (s : State) :
    exec (.variableResultArrive u id) s = execVariableResultArrive u id s := rfl
@[simp] theorem exec_laneAddF {w} (s : State) :
    exec (.laneAddF w) s = execLaneAddF w s := rfl
@[simp] theorem exec_laneSubF {w} (s : State) :
    exec (.laneSubF w) s = execLaneSubF w s := rfl
@[simp] theorem exec_laneMulF {w} (s : State) :
    exec (.laneMulF w) s = execLaneMulF w s := rfl
@[simp] theorem exec_laneFma {w} (s : State) :
    exec (.laneFma w) s = execLaneFma w s := rfl
@[simp] theorem exec_laneFms {w} (s : State) :
    exec (.laneFms w) s = execLaneFms w s := rfl
@[simp] theorem exec_laneFnma {w} (s : State) :
    exec (.laneFnma w) s = execLaneFnma w s := rfl
@[simp] theorem exec_laneMinF {w} (s : State) :
    exec (.laneMinF w) s = execLaneMinF w s := rfl
@[simp] theorem exec_laneMaxF {w} (s : State) :
    exec (.laneMaxF w) s = execLaneMaxF w s := rfl
@[simp] theorem exec_laneMinp {w} (s : State) :
    exec (.laneMinp w) s = execLaneMinp w s := rfl
@[simp] theorem exec_laneMaxp {w} (s : State) :
    exec (.laneMaxp w) s = execLaneMaxp w s := rfl
@[simp] theorem exec_laneAbsF {w} (s : State) :
    exec (.laneAbsF w) s = execLaneAbsF w s := rfl
@[simp] theorem exec_laneNegF {w} (s : State) :
    exec (.laneNegF w) s = execLaneNegF w s := rfl
@[simp] theorem exec_laneCmpF {w} (s : State) :
    exec (.laneCmpF w) s = execLaneCmpF w s := rfl
@[simp] theorem exec_laneClamp {w} (s : State) :
    exec (.laneClamp w) s = execLaneClamp w s := rfl
@[simp] theorem exec_laneCsgn {w} (s : State) :
    exec (.laneCsgn w) s = execLaneCsgn w s := rfl
@[simp] theorem exec_laneDot2 {w} (s : State) :
    exec (.laneDot2 w) s = execLaneDot2 w s := rfl
@[simp] theorem exec_laneFcls {w} (s : State) :
    exec (.laneFcls w) s = execLaneFcls w s := rfl
@[simp] theorem exec_laneRint {w} (s : State) :
    exec (.laneRint w) s = execLaneRint w s := rfl
@[simp] theorem exec_laneAddF64 {w} (s : State) :
    exec (.laneAddF64 w) s = execLaneAddF64 w s := rfl
@[simp] theorem exec_laneSubF64 {w} (s : State) :
    exec (.laneSubF64 w) s = execLaneSubF64 w s := rfl
@[simp] theorem exec_laneMulF64 {w} (s : State) :
    exec (.laneMulF64 w) s = execLaneMulF64 w s := rfl
@[simp] theorem exec_laneFmaF64 {w} (s : State) :
    exec (.laneFmaF64 w) s = execLaneFmaF64 w s := rfl
@[simp] theorem exec_laneMinF64 {w} (s : State) :
    exec (.laneMinF64 w) s = execLaneMinF64 w s := rfl
@[simp] theorem exec_laneMaxF64 {w} (s : State) :
    exec (.laneMaxF64 w) s = execLaneMaxF64 w s := rfl
@[simp] theorem exec_laneCmpF64 {w} (s : State) :
    exec (.laneCmpF64 w) s = execLaneCmpF64 w s := rfl
@[simp] theorem exec_laneDivF64 {w} (s : State) :
    exec (.laneDivF64 w) s = execLaneDivF64 w s := rfl
@[simp] theorem exec_laneSqrtF64 {w} (s : State) :
    exec (.laneSqrtF64 w) s = execLaneSqrtF64 w s := rfl
@[simp] theorem exec_laneRcp {w} (s : State) :
    exec (.laneRcp w) s = execLaneRcp w s := rfl
@[simp] theorem exec_laneRsqrt {w} (s : State) :
    exec (.laneRsqrt w) s = execLaneRsqrt w s := rfl
@[simp] theorem exec_laneSqrt {w} (s : State) :
    exec (.laneSqrt w) s = execLaneSqrt w s := rfl
@[simp] theorem exec_laneEx2 {w} (s : State) :
    exec (.laneEx2 w) s = execLaneEx2 w s := rfl
@[simp] theorem exec_laneLg2 {w} (s : State) :
    exec (.laneLg2 w) s = execLaneLg2 w s := rfl
@[simp] theorem exec_laneSin {w} (s : State) :
    exec (.laneSin w) s = execLaneSin w s := rfl
@[simp] theorem exec_laneCos {w} (s : State) :
    exec (.laneCos w) s = execLaneCos w s := rfl
@[simp] theorem exec_laneTanh {w} (s : State) :
    exec (.laneTanh w) s = execLaneTanh w s := rfl
@[simp] theorem exec_laneDivF32 {w} (s : State) :
    exec (.laneDivF32 w) s = execLaneDivF32 w s := rfl
@[simp] theorem exec_laneAddI {w} (s : State) :
    exec (.laneAddI w) s = execLaneAddI w s := rfl
@[simp] theorem exec_laneSubI {w} (s : State) :
    exec (.laneSubI w) s = execLaneSubI w s := rfl
@[simp] theorem exec_laneMulI {w} (s : State) :
    exec (.laneMulI w) s = execLaneMulI w s := rfl
@[simp] theorem exec_laneMulhi {w} (s : State) :
    exec (.laneMulhi w) s = execLaneMulhi w s := rfl
@[simp] theorem exec_laneMad {w} (s : State) :
    exec (.laneMad w) s = execLaneMad w s := rfl
@[simp] theorem exec_laneMinI {w} (s : State) :
    exec (.laneMinI w) s = execLaneMinI w s := rfl
@[simp] theorem exec_laneMaxI {w} (s : State) :
    exec (.laneMaxI w) s = execLaneMaxI w s := rfl
@[simp] theorem exec_laneAnd {w} (s : State) :
    exec (.laneAnd w) s = execLaneAnd w s := rfl
@[simp] theorem exec_laneOr {w} (s : State) :
    exec (.laneOr w) s = execLaneOr w s := rfl
@[simp] theorem exec_laneXor {w} (s : State) :
    exec (.laneXor w) s = execLaneXor w s := rfl
@[simp] theorem exec_laneAndn {w} (s : State) :
    exec (.laneAndn w) s = execLaneAndn w s := rfl
@[simp] theorem exec_laneShl {w} (s : State) :
    exec (.laneShl w) s = execLaneShl w s := rfl
@[simp] theorem exec_laneShr {w} (s : State) :
    exec (.laneShr w) s = execLaneShr w s := rfl
@[simp] theorem exec_laneCmpI {w} (s : State) :
    exec (.laneCmpI w) s = execLaneCmpI w s := rfl
@[simp] theorem exec_lanePopc {w} (s : State) :
    exec (.lanePopc w) s = execLanePopc w s := rfl
@[simp] theorem exec_laneClz {w} (s : State) :
    exec (.laneClz w) s = execLaneClz w s := rfl
@[simp] theorem exec_laneCtz {w} (s : State) :
    exec (.laneCtz w) s = execLaneCtz w s := rfl
@[simp] theorem exec_laneBrev {w} (s : State) :
    exec (.laneBrev w) s = execLaneBrev w s := rfl
@[simp] theorem exec_laneAbsI {w} (s : State) :
    exec (.laneAbsI w) s = execLaneAbsI w s := rfl
@[simp] theorem exec_laneNegI {w} (s : State) :
    exec (.laneNegI w) s = execLaneNegI w s := rfl
@[simp] theorem exec_laneBdot {w} (s : State) :
    exec (.laneBdot w) s = execLaneBdot w s := rfl
@[simp] theorem exec_laneCvt {w} (s : State) :
    exec (.laneCvt w) s = execLaneCvt w s := rfl
@[simp] theorem exec_lanePack {w} (s : State) :
    exec (.lanePack w) s = execLanePack w s := rfl
@[simp] theorem exec_laneUnpk {w} (s : State) :
    exec (.laneUnpk w) s = execLaneUnpk w s := rfl
@[simp] theorem exec_laneScl {w} (s : State) :
    exec (.laneScl w) s = execLaneScl w s := rfl
@[simp] theorem exec_laneMov {w} (s : State) :
    exec (.laneMov w) s = execLaneMov w s := rfl
@[simp] theorem exec_laneSel {w} (s : State) :
    exec (.laneSel w) s = execLaneSel w s := rfl
@[simp] theorem exec_laneLsw {w} (s : State) :
    exec (.laneLsw w) s = execLaneLsw w s := rfl
@[simp] theorem exec_lanePoll {w} (s : State) :
    exec (.lanePoll w) s = execLanePoll w s := rfl
@[simp] theorem exec_laneRed {w} (s : State) :
    exec (.laneRed w) s = execLaneRed w s := rfl
@[simp] theorem exec_laneBsel {w} (s : State) :
    exec (.laneBsel w) s = execLaneBsel w s := rfl
@[simp] theorem exec_laneScan {w} (s : State) :
    exec (.laneScan w) s = execLaneScan w s := rfl
@[simp] theorem exec_qand {w} (s : State) :
    exec (.qand w) s = execQand w s := rfl
@[simp] theorem exec_qor {w} (s : State) :
    exec (.qor w) s = execQor w s := rfl
@[simp] theorem exec_qxor {w} (s : State) :
    exec (.qxor w) s = execQxor w s := rfl
@[simp] theorem exec_qandn {w} (s : State) :
    exec (.qandn w) s = execQandn w s := rfl
@[simp] theorem exec_qmov {w} (s : State) :
    exec (.qmov w) s = execQmov w s := rfl
@[simp] theorem exec_qcnt {w} (s : State) :
    exec (.qcnt w) s = execQcnt w s := rfl
@[simp] theorem exec_emwr {w} (s : State) :
    exec (.emwr w) s = execEmwr w s := rfl
@[simp] theorem exec_lbr {w} (s : State) :
    exec (.lbr w) s = execLbr w s := rfl
@[simp] theorem exec_ljoin {w} (s : State) :
    exec (.ljoin w) s = execLjoin w s := rfl
@[simp] theorem exec_lend {w} (s : State) :
    exec (.lend w) s = execLend w s := rfl
@[simp] theorem exec_lbrk {w} (s : State) :
    exec (.lbrk w) s = execLbrk w s := rfl
@[simp] theorem exec_ljmp {w} (s : State) :
    exec (.ljmp w) s = execLjmp w s := rfl
@[simp] theorem exec_laneLdp {w} (s : State) :
    exec (.laneLdp w) s = execLaneLdp w s := rfl
@[simp] theorem exec_laneStp {w} (s : State) :
    exec (.laneStp w) s = execLaneStp w s := rfl
@[simp] theorem exec_laneLdg {w} (s : State) :
    exec (.laneLdg w) s = execLaneLdg w s := rfl
@[simp] theorem exec_laneStg {w} (s : State) :
    exec (.laneStg w) s = execLaneStg w s := rfl
@[simp] theorem exec_laneLdh {w} (s : State) :
    exec (.laneLdh w) s = execLaneLdh w s := rfl
@[simp] theorem exec_laneSth {w} (s : State) :
    exec (.laneSth w) s = execLaneSth w s := rfl
@[simp] theorem exec_laneAtom {w} (s : State) :
    exec (.laneAtom w) s = execLaneAtom w s := rfl
@[simp] theorem exec_laneFence {w} (s : State) :
    exec (.laneFence w) s = execLaneFence w s := rfl
@[simp] theorem exec_laneBarArrive {w} (s : State) :
    exec (.laneBarArrive w) s = execLaneBarArrive w s := rfl
@[simp] theorem exec_laneBarWait {w} (s : State) :
    exec (.laneBarWait w) s = execLaneBarWait w s := rfl
@[simp] theorem exec_laneNbarArrive {w} (s : State) :
    exec (.laneNbarArrive w) s = execLaneNbarArrive w s := rfl
@[simp] theorem exec_laneNbarWait {w} (s : State) :
    exec (.laneNbarWait w) s = execLaneNbarWait w s := rfl
@[simp] theorem exec_xreqReserve {w} (s : State) :
    exec (.xreqReserve w) s = execXreqReserve w s := rfl
@[simp] theorem exec_xreqRelease {w} (s : State) :
    exec (.xreqRelease w) s = execXreqRelease w s := rfl
@[simp] theorem exec_xfeed {w} (s : State) :
    exec (.xfeed w) s = execXfeed w s := rfl
@[simp] theorem exec_xread {w} (s : State) :
    exec (.xread w) s = execXread w s := rfl
@[simp] theorem exec_wapp {w} (s : State) :
    exec (.wapp w) s = execWapp w s := rfl
@[simp] theorem exec_impreciseTrapTake {u} (s : State) :
    exec (.impreciseTrapTake u) s = execImpreciseTrapTake u s := rfl
@[simp] theorem exec_homeWriteSerialize {seq} (s : State) :
    exec (.homeWriteSerialize seq) s = execHomeWriteSerialize seq s := rfl
@[simp] theorem exec_remoteAtomicPerform {seq} (s : State) :
    exec (.remoteAtomicPerform seq) s = execRemoteAtomicPerform seq s := rfl
@[simp] theorem exec_ackArrive {seq} (s : State) :
    exec (.ackArrive seq) s = execAckArrive seq s := rfl
@[simp] theorem exec_ackRetransmitTimeout {seq} (s : State) :
    exec (.ackRetransmitTimeout seq) s = execAckRetransmitTimeout seq s := rfl
@[simp] theorem exec_poisonNotice {seq} (s : State) :
    exec (.poisonNotice seq) s = execPoisonNotice seq s := rfl
@[simp] theorem exec_sramUncorrectable {e} (s : State) :
    exec (.sramUncorrectable e) s = execSramUncorrectable e s := rfl
@[simp] theorem exec_registerUncorrectable {u} (s : State) :
    exec (.registerUncorrectable u) s = execRegisterUncorrectable u s := rfl
@[simp] theorem exec_patrolScrub {corrected} (s : State) :
    exec (.patrolScrub corrected) s = execPatrolScrub corrected s := rfl
@[simp] theorem exec_bargeChunkMove {job} (s : State) :
    exec (.bargeChunkMove job) s = execBargeChunkMove job s := rfl
@[simp] theorem exec_copyComplete {job} (s : State) :
    exec (.copyComplete job) s = execCopyComplete job s := rfl
@[simp] theorem exec_pageWalkComplete {walk} (s : State) :
    exec (.pageWalkComplete walk) s = execPageWalkComplete walk s := rfl
@[simp] theorem exec_invalidationComplete {inv} (s : State) :
    exec (.invalidationComplete inv) s = execInvalidationComplete inv s := rfl
@[simp] theorem exec_refreshMgmtIssue {stack channel bank} (s : State) :
    exec (.refreshMgmtIssue stack channel bank) s = execRefreshMgmtIssue stack channel bank s := rfl
@[simp] theorem exec_stackCriticalTemp {stack} (s : State) :
    exec (.stackCriticalTemp stack) s = execStackCriticalTemp stack s := rfl
@[simp] theorem exec_stackThermalClear {stack} (s : State) :
    exec (.stackThermalClear stack) s = execStackThermalClear stack s := rfl
@[simp] theorem exec_pageEvacuationInstant {die ctx dva entry} (s : State) :
    exec (.pageEvacuationInstant die ctx dva entry) s = execPageEvacuationInstant die ctx dva entry s := rfl
@[simp] theorem exec_evacuationEnd {die} (s : State) :
    exec (.evacuationEnd die) s = execEvacuationEnd die s := rfl
@[simp] theorem exec_qtailWrite {b v} (s : State) :
    exec (.qtailWrite b v) s = execQtailWrite b v s := rfl
@[simp] theorem exec_qstatWrite {b v} (s : State) :
    exec (.qstatWrite b v) s = execQstatWrite b v s := rfl
@[simp] theorem exec_doorbellOtherWrite {t off v} (s : State) :
    exec (.doorbellOtherWrite t off v) s = execDoorbellOtherWrite t off v s := rfl
@[simp] theorem exec_queuePacketTake {src} (s : State) :
    exec (.queuePacketTake src) s = execQueuePacketTake src s := rfl
@[simp] theorem exec_gridStart {g} (s : State) :
    exec (.gridStart g) s = execGridStart g s := rfl
@[simp] theorem exec_teamPlace {g} (s : State) :
    exec (.teamPlace g) s = execTeamPlace g s := rfl
@[simp] theorem exec_ladingStage {wg} (s : State) :
    exec (.ladingStage wg) s = execLadingStage wg s := rfl
@[simp] theorem exec_gridRetire {g} (s : State) :
    exec (.gridRetire g) s = execGridRetire g s := rfl
@[simp] theorem exec_deadlineMiss {g} (s : State) :
    exec (.deadlineMiss g) s = execDeadlineMiss g s := rfl
@[simp] theorem exec_deadlinePreemptRequest {g} (s : State) :
    exec (.deadlinePreemptRequest g) s = execDeadlinePreemptRequest g s := rfl
@[simp] theorem exec_preemptTimerExpire {req} (s : State) :
    exec (.preemptTimerExpire req) s = execPreemptTimerExpire req s := rfl
@[simp] theorem exec_evictTeam {team} (s : State) :
    exec (.evictTeam team) s = execEvictTeam team s := rfl
@[simp] theorem exec_teamReadmit {team} (s : State) :
    exec (.teamReadmit team) s = execTeamReadmit team s := rfl
@[simp] theorem exec_contextResetDone {ctx} (s : State) :
    exec (.contextResetDone ctx) s = execContextResetDone ctx s := rfl
@[simp] theorem exec_waitForWalk (s : State) :
    exec .waitForWalk s = execWaitForWalk s := rfl
@[simp] theorem exec_replicaCompare {set} (s : State) :
    exec (.replicaCompare set) s = execReplicaCompare set s := rfl
@[simp] theorem exec_compareTimeout {set} (s : State) :
    exec (.compareTimeout set) s = execCompareTimeout set s := rfl
@[simp] theorem exec_outvoteComplete {set} (s : State) :
    exec (.outvoteComplete set) s = execOutvoteComplete set s := rfl
@[simp] theorem exec_hostMemRead {t addr own} (s : State) :
    exec (.hostMemRead t addr own) s = execHostMemRead t addr own s := rfl
@[simp] theorem exec_hostMemWrite {t addr data be} (s : State) :
    exec (.hostMemWrite t addr data be) s = execHostMemWrite t addr data be s := rfl
@[simp] theorem exec_bisnpResponse {snp data} (s : State) :
    exec (.bisnpResponse snp data) s = execBisnpResponse snp data s := rfl
@[simp] theorem exec_bisnpTimeout {snp} (s : State) :
    exec (.bisnpTimeout snp) s = execBisnpTimeout snp s := rfl
@[simp] theorem exec_hostLinkDown {t} (s : State) :
    exec (.hostLinkDown t) s = execHostLinkDown t s := rfl
@[simp] theorem exec_hostLdReset {t} (s : State) :
    exec (.hostLdReset t) s = execHostLdReset t s := rfl
@[simp] theorem exec_hostLinkUp {t} (s : State) :
    exec (.hostLinkUp t) s = execHostLinkUp t s := rfl
@[simp] theorem exec_memoryActiveSet {t} (s : State) :
    exec (.memoryActiveSet t) s = execMemoryActiveSet t s := rfl
@[simp] theorem exec_globalPersistentFlush {t} (s : State) :
    exec (.globalPersistentFlush t) s = execGlobalPersistentFlush t s := rfl
@[simp] theorem exec_ptmRequest {port} (s : State) :
    exec (.ptmRequest port) s = execPtmRequest port s := rfl
@[simp] theorem exec_compressedPageExpand {t page} (s : State) :
    exec (.compressedPageExpand t page) s = execCompressedPageExpand t page s := rfl
@[simp] theorem exec_tsiAgeingPeriod (s : State) :
    exec .tsiAgeingPeriod s = execTsiAgeingPeriod s := rfl
@[simp] theorem exec_pageMigrationInstant {t page} (s : State) :
    exec (.pageMigrationInstant t page) s = execPageMigrationInstant t page s := rfl
@[simp] theorem exec_ptpEventMessage {ns} (s : State) :
    exec (.ptpEventMessage ns) s = execPtpEventMessage ns s := rfl
@[simp] theorem exec_timeSourceLost (s : State) :
    exec .timeSourceLost s = execTimeSourceLost s := rfl
@[simp] theorem exec_ingressRecord {ch src payload} (s : State) :
    exec (.ingressRecord ch src payload) s = execIngressRecord ch src payload s := rfl
@[simp] theorem exec_fabricPacketReceive {src cls seq payload} (s : State) :
    exec (.fabricPacketReceive src cls seq payload) s = execFabricPacketReceive src cls seq payload s := rfl
@[simp] theorem exec_linkDead {port} (s : State) :
    exec (.linkDead port) s = execLinkDead port s := rfl
@[simp] theorem exec_checkpointBlock (s : State) :
    exec .checkpointBlock s = execCheckpointBlock s := rfl
@[simp] theorem exec_checkpointEnd (s : State) :
    exec .checkpointEnd s = execCheckpointEnd s := rfl
@[simp] theorem exec_safeTierPathLoss (s : State) :
    exec .safeTierPathLoss s = execSafeTierPathLoss s := rfl
@[simp] theorem exec_pulsePatternWrite {cl v} (s : State) :
    exec (.pulsePatternWrite cl v) s = execPulsePatternWrite cl v s := rfl
@[simp] theorem exec_patternRampStep {cl} (s : State) :
    exec (.patternRampStep cl) s = execPatternRampStep cl s := rfl
@[simp] theorem exec_droopDetect {cl} (s : State) :
    exec (.droopDetect cl) s = execDroopDetect cl s := rfl
@[simp] theorem exec_droopFreezeEnd {cl} (s : State) :
    exec (.droopFreezeEnd cl) s = execDroopFreezeEnd cl s := rfl
@[simp] theorem exec_currentComparatorTrip {die} (s : State) :
    exec (.currentComparatorTrip die) s = execCurrentComparatorTrip die s := rfl
@[simp] theorem exec_thermalTrip1 {die} (s : State) :
    exec (.thermalTrip1 die) s = execThermalTrip1 die s := rfl
@[simp] theorem exec_thermalTrip1Clear {die} (s : State) :
    exec (.thermalTrip1Clear die) s = execThermalTrip1Clear die s := rfl
@[simp] theorem exec_thermalTrip2 {die} (s : State) :
    exec (.thermalTrip2 die) s = execThermalTrip2 die s := rfl
@[simp] theorem exec_powerWatchdogExpire (s : State) :
    exec .powerWatchdogExpire s = execPowerWatchdogExpire s := rfl
@[simp] theorem exec_modulePowerUp (s : State) :
    exec .modulePowerUp s = execModulePowerUp s := rfl
@[simp] theorem exec_tsiSupplyCycle (s : State) :
    exec .tsiSupplyCycle s = execTsiSupplyCycle s := rfl
@[simp] theorem exec_tenantCreate {by_ t size queues port} (s : State) :
    exec (.tenantCreate by_ t size queues port) s = execTenantCreate by_ t size queues port s := rfl
@[simp] theorem exec_tenantWithdraw {by_ t force} (s : State) :
    exec (.tenantWithdraw by_ t force) s = execTenantWithdraw by_ t force s := rfl
@[simp] theorem exec_loadKey {by_ t wrapped} (s : State) :
    exec (.loadKey by_ t wrapped) s = execLoadKey by_ t wrapped s := rfl
@[simp] theorem exec_setSysatMark {by_ t first last mark} (s : State) :
    exec (.setSysatMark by_ t first last mark) s = execSetSysatMark by_ t first last mark s := rfl
@[simp] theorem exec_readTenantMap {by_ t first count} (s : State) :
    exec (.readTenantMap by_ t first count) s = execReadTenantMap by_ t first count s := rfl
@[simp] theorem exec_setAgeing {by_ periodUs hot cold} (s : State) :
    exec (.setAgeing by_ periodUs hot cold) s = execSetAgeing by_ periodUs hot cold s := rfl
@[simp] theorem exec_declareHostCrashed {by_ t} (s : State) :
    exec (.declareHostCrashed by_ t) s = execDeclareHostCrashed by_ t s := rfl
@[simp] theorem exec_contextCreate {by_ ctx tenant} (s : State) :
    exec (.contextCreate by_ ctx tenant) s = execContextCreate by_ ctx tenant s := rfl
@[simp] theorem exec_contextDestroy {by_ ctx} (s : State) :
    exec (.contextDestroy by_ ctx) s = execContextDestroy by_ ctx s := rfl
@[simp] theorem exec_setPageTableRoot {by_ ctx root} (s : State) :
    exec (.setPageTableRoot by_ ctx root) s = execSetPageTableRoot by_ ctx root s := rfl
@[simp] theorem exec_invalidateRange {by_ ctx first last} (s : State) :
    exec (.invalidateRange by_ ctx first last) s = execInvalidateRange by_ ctx first last s := rfl
@[simp] theorem exec_mapLentRange {by_ ctx dva addr len wr} (s : State) :
    exec (.mapLentRange by_ ctx dva addr len wr) s = execMapLentRange by_ ctx dva addr len wr s := rfl
@[simp] theorem exec_queueCreate {by_ q desc} (s : State) :
    exec (.queueCreate by_ q desc) s = execQueueCreate by_ q desc s := rfl
@[simp] theorem exec_queueDestroy {by_ q} (s : State) :
    exec (.queueDestroy by_ q) s = execQueueDestroy by_ q s := rfl
@[simp] theorem exec_allocateTimelines {by_ ctx first count engine} (s : State) :
    exec (.allocateTimelines by_ ctx first count engine) s = execAllocateTimelines by_ ctx first count engine s := rfl
@[simp] theorem exec_createWorkList {by_ ctx list base k die wide} (s : State) :
    exec (.createWorkList by_ ctx list base k die wide) s = execCreateWorkList by_ ctx list base k die wide s := rfl
@[simp] theorem exec_defineCollectiveGroup {by_ ctx group members} (s : State) :
    exec (.defineCollectiveGroup by_ ctx group members) s = execDefineCollectiveGroup by_ ctx group members s := rfl
@[simp] theorem exec_setSupervisorHandler {by_ ctx h} (s : State) :
    exec (.setSupervisorHandler by_ ctx h) s = execSetSupervisorHandler by_ ctx h s := rfl
@[simp] theorem exec_setTrapSaveArea {by_ ctx off} (s : State) :
    exec (.setTrapSaveArea by_ ctx off) s = execSetTrapSaveArea by_ ctx off s := rfl
@[simp] theorem exec_setShadowArea {by_ ctx core off size} (s : State) :
    exec (.setShadowArea by_ ctx core off size) s = execSetShadowArea by_ ctx core off size s := rfl
@[simp] theorem exec_setFaultLog {by_ ctx dva k} (s : State) :
    exec (.setFaultLog by_ ctx dva k) s = execSetFaultLog by_ ctx dva k s := rfl
@[simp] theorem exec_setEvictionSaveArea {by_ ctx dva} (s : State) :
    exec (.setEvictionSaveArea by_ ctx dva) s = execSetEvictionSaveArea by_ ctx dva s := rfl
@[simp] theorem exec_touchstoneEnable {by_ ctx mode} (s : State) :
    exec (.touchstoneEnable by_ ctx mode) s = execTouchstoneEnable by_ ctx mode s := rfl
@[simp] theorem exec_debugAttach {by_ ctx} (s : State) :
    exec (.debugAttach by_ ctx) s = execDebugAttach by_ ctx s := rfl
@[simp] theorem exec_debugDetach {by_ ctx} (s : State) :
    exec (.debugDetach by_ ctx) s = execDebugDetach by_ ctx s := rfl
@[simp] theorem exec_debugResume {u} (s : State) :
    exec (.debugResume u) s = execDebugResume u s := rfl
@[simp] theorem exec_aqueductHold {by_ ctx a b} (s : State) :
    exec (.aqueductHold by_ ctx a b) s = execAqueductHold by_ ctx a b s := rfl
@[simp] theorem exec_aqueductUnhold {by_ ctx a b} (s : State) :
    exec (.aqueductUnhold by_ ctx a b) s = execAqueductUnhold by_ ctx a b s := rfl
@[simp] theorem exec_injectAckloss {by_ ctx die sector} (s : State) :
    exec (.injectAckloss by_ ctx die sector) s = execInjectAckloss by_ ctx die sector s := rfl
@[simp] theorem exec_replicaFlip {by_ ctx u r bit} (s : State) :
    exec (.replicaFlip by_ ctx u r bit) s = execReplicaFlip by_ ctx u r bit s := rfl
@[simp] theorem exec_resetContext {by_ ctx} (s : State) :
    exec (.resetContext by_ ctx) s = execResetContext by_ ctx s := rfl
@[simp] theorem exec_clearPoison {by_ ctx e} (s : State) :
    exec (.clearPoison by_ ctx e) s = execClearPoison by_ ctx e s := rfl
@[simp] theorem exec_setWindowEntry {by_ w} (s : State) :
    exec (.setWindowEntry by_ w) s = execSetWindowEntry by_ w s := rfl
@[simp] theorem exec_clearWindowEntry {by_ core idx} (s : State) :
    exec (.clearWindowEntry by_ core idx) s = execClearWindowEntry by_ core idx s := rfl
@[simp] theorem exec_requestPreemption {by_ ctx mask} (s : State) :
    exec (.requestPreemption by_ ctx mask) s = execRequestPreemption by_ ctx mask s := rfl
@[simp] theorem exec_releasePreemption {by_ ctx} (s : State) :
    exec (.releasePreemption by_ ctx) s = execReleasePreemption by_ ctx s := rfl
@[simp] theorem exec_setCoreBudget {by_ v} (s : State) :
    exec (.setCoreBudget by_ v) s = execSetCoreBudget by_ v s := rfl
@[simp] theorem exec_setPreemptTimeout {by_ v} (s : State) :
    exec (.setPreemptTimeout by_ v) s = execSetPreemptTimeout by_ v s := rfl
@[simp] theorem exec_setEvictionThreshold {by_ v} (s : State) :
    exec (.setEvictionThreshold by_ v) s = execSetEvictionThreshold by_ v s := rfl
@[simp] theorem exec_setCompareTimeout {by_ v} (s : State) :
    exec (.setCompareTimeout by_ v) s = execSetCompareTimeout by_ v s := rfl
@[simp] theorem exec_setActivationLevel {by_ v} (s : State) :
    exec (.setActivationLevel by_ v) s = execSetActivationLevel by_ v s := rfl
@[simp] theorem exec_takeDieOffline {by_ die} (s : State) :
    exec (.takeDieOffline by_ die) s = execTakeDieOffline by_ die s := rfl
@[simp] theorem exec_selectTimeSource {by_ src} (s : State) :
    exec (.selectTimeSource by_ src) s = execSelectTimeSource by_ src s := rfl
@[simp] theorem exec_createIngressChannel {by_ ch desc} (s : State) :
    exec (.createIngressChannel by_ ch desc) s = execCreateIngressChannel by_ ch desc s := rfl
@[simp] theorem exec_ingressChannelStatus {by_ ch} (s : State) :
    exec (.ingressChannelStatus by_ ch) s = execIngressChannelStatus by_ ch s := rfl
@[simp] theorem exec_checkpoint {by_ tier} (s : State) :
    exec (.checkpoint by_ tier) s = execCheckpoint by_ tier s := rfl
@[simp] theorem exec_warmReset {by_ force} (s : State) :
    exec (.warmReset by_ force) s = execWarmReset by_ force s := rfl
@[simp] theorem exec_coldReset {by_ force} (s : State) :
    exec (.coldReset by_ force) s = execColdReset by_ force s := rfl
@[simp] theorem exec_tsiIslandReset {by_ force} (s : State) :
    exec (.tsiIslandReset by_ force) s = execTsiIslandReset by_ force s := rfl
@[simp] theorem exec_forcedReset {by_} (s : State) :
    exec (.forcedReset by_) s = execForcedReset by_ s := rfl
@[simp] theorem exec_lifecycleTransition {by_ next tokenOk} (s : State) :
    exec (.lifecycleTransition by_ next tokenOk) s = execLifecycleTransition by_ next tokenOk s := rfl
@[simp] theorem exec_mgmtUnlistedOpcode {by_ op} (s : State) :
    exec (.mgmtUnlistedOpcode by_ op) s = execMgmtUnlistedOpcode by_ op s := rfl
@[simp] theorem exec_illegalInstruction {code bit word} (s : State) :
    exec (.illegalInstruction code bit word) s = execIllegalInstruction code bit word s := rfl
@[simp] theorem exec_bankRefresh {stack channel bank} (s : State) :
    exec (.bankRefresh stack channel bank) s = execBankRefresh stack channel bank s := rfl
@[simp] theorem exec_powerWatchdogRefresh (s : State) :
    exec .powerWatchdogRefresh s = execPowerWatchdogRefresh s := rfl
@[simp] theorem exec_hdmDecoderCommit {t r commit} (s : State) :
    exec (.hdmDecoderCommit t r commit) s = execHdmDecoderCommit t r commit s := rfl
@[simp] theorem exec_aqueductPathDown {a b k} (s : State) :
    exec (.aqueductPathDown a b k) s = execAqueductPathDown a b k s := rfl

end Sys2Proof.Machine
end

