-- ==== Sys2Proof/Laws/SMap.lean ====
section
/-! SUPPORT. Laws of sparse maps: what is read after each update, and that every update keeps the canonical form. -/

namespace Sys2Proof.Machine

variable {α : Type}

@[simp] theorem SMap.look_nil (k : Nat) : SMap.look ([] : SMap α) k = none := rfl
@[simp] theorem SMap.get_nil (d : α) (k : Nat) : SMap.get d [] k = d := rfl

theorem SMap.look_del (m : SMap α) (k j : Nat) : (m.del k).look j = if j = k then none else m.look j := by
  induction m with
  | nil => simp [SMap.del, SMap.look]
  | cons e t ih =>
    obtain ⟨i, v⟩ := e
    simp only [SMap.del, SMap.look]
    split
    · rw [ih]; split <;> simp_all [eq_comm]
    · simp only [SMap.look, ih]; split <;> simp_all

theorem SMap.look_ins (m : SMap α) (k : Nat) (v : α) (j : Nat) (h : m.look k = none) :
    (m.ins k v).look j = if j = k then some v else m.look j := by
  induction m with
  | nil => simp only [SMap.ins, SMap.look]; split <;> simp_all [eq_comm]
  | cons e t ih =>
    obtain ⟨i, w⟩ := e
    simp only [SMap.look] at h
    simp only [SMap.ins]
    split
    · simp only [SMap.look]; split <;> simp_all [eq_comm]
    · split at h
      · simp at h
      · simp only [SMap.look, ih h]; split <;> split <;> simp_all

/-- What is read after a put. -/
@[simp] theorem SMap.look_put (m : SMap α) (k : Nat) (v : α) (j : Nat) :
    (m.put k v).look j = if j = k then some v else m.look j := by
  rw [SMap.put, SMap.look_ins _ _ _ _ (by simp [SMap.look_del]), SMap.look_del]; split <;> simp_all

theorem SMap.look_put_self (m : SMap α) (k : Nat) (v : α) : (m.put k v).look k = some v := by simp

theorem SMap.look_put_ne (m : SMap α) (k : Nat) (v : α) (j : Nat) (h : j ≠ k) : (m.put k v).look j = m.look j := by simp [h]

/-- What is read after an update of a listed key. -/
theorem SMap.look_upd (m : SMap α) (k : Nat) (f : α → α) (j : Nat) :
    (m.upd k f).look j = if j = k then (m.look j).map f else m.look j := by
  induction m with
  | nil => simp [SMap.upd, SMap.look]
  | cons e t ih =>
    obtain ⟨i, v⟩ := e
    simp only [SMap.upd, SMap.look]
    split
    · simp only [SMap.look]; split <;> simp_all [eq_comm]
    · simp only [SMap.look, ih]; split <;> split <;> simp_all

/-- What is read after every value was mapped. -/
theorem SMap.look_map {β : Type} (m : SMap α) (f : α → β) (k : Nat) :
    SMap.look (m.map (fun (e : Nat × α) => (e.1, f e.2))) k = (m.look k).map f := by
  induction m with
  | nil => rfl
  | cons e t ih => simp only [List.map_cons, SMap.look]; split <;> simp_all

/-- A listed pair that is found is in the list. -/
theorem SMap.mem_of_look {m : SMap α} {k : Nat} {v : α} (h : m.look k = some v) : (k, v) ∈ m := by
  induction m with
  | nil => simp [SMap.look] at h
  | cons e t ih =>
    obtain ⟨i, w⟩ := e
    simp only [SMap.look] at h
    split at h
    · simp_all
    · exact List.mem_cons_of_mem _ (ih h)

section Canonical
variable [DecidableEq α] (d : α)

/-- What is read after a write: the value there, and elsewhere what was read before. -/
@[simp] theorem SMap.get_set (m : SMap α) (k : Nat) (v : α) (j : Nat) :
    SMap.get d (SMap.set d m k v) j = if j = k then v else SMap.get d m j := by
  unfold SMap.set SMap.get
  split
  · rw [SMap.look_del]; split <;> simp_all
  · rw [SMap.look_put]; split <;> simp_all

omit [DecidableEq α] in
theorem SMap.get_put (m : SMap α) (k : Nat) (v : α) (j : Nat) :
    SMap.get d (m.put k v) j = if j = k then v else SMap.get d m j := by
  unfold SMap.get; rw [SMap.look_put]; split <;> simp_all

/-- Whether a bound lies below a key. -/
def SMap.under (b : Option Nat) (k : Nat) : Prop := match b with | none => True | some j => j < k

omit [DecidableEq α] in
theorem SMap.rising_cons (b : Option Nat) (k : Nat) (v : α) (t : SMap α) :
    SMap.rising b ((k, v) :: t) = true ↔ SMap.under b k ∧ SMap.rising (some k) t = true := by
  cases b <;> simp [SMap.rising, SMap.under]

omit [DecidableEq α] in
theorem SMap.rising_weaken {b : Option Nat} {k : Nat} {t : SMap α} (hb : SMap.under b k)
    (h : SMap.rising (some k) t = true) : SMap.rising b t = true := by
  cases t with
  | nil => rfl
  | cons e t =>
    obtain ⟨i, v⟩ := e
    simp only [SMap.rising, Bool.and_eq_true, decide_eq_true_eq] at h ⊢
    refine ⟨?_, h.2⟩
    cases b with
    | none => rfl
    | some j => simp only [SMap.under] at hb; simp; omega

omit [DecidableEq α] in
theorem SMap.rising_filter (p : Nat × α → Bool) {b : Option Nat} {m : SMap α} (h : SMap.rising b m = true) :
    SMap.rising b (m.filter p) = true := by
  induction m generalizing b with
  | nil => simpa using h
  | cons e t ih =>
    obtain ⟨i, v⟩ := e
    have h' : SMap.under b i ∧ SMap.rising (some i) t = true := by
      cases b <;> simpa [SMap.rising, SMap.under] using h
    rw [List.filter_cons]
    split
    · have := ih h'.2
      cases b <;> simp_all [SMap.rising, SMap.under]
    · exact SMap.rising_weaken h'.1 (ih h'.2)

omit [DecidableEq α] in
theorem SMap.del_eq_filter (m : SMap α) (k : Nat) : m.del k = m.filter (fun e => decide (e.1 ≠ k)) := by
  induction m with
  | nil => rfl
  | cons e t ih => obtain ⟨i, v⟩ := e; simp only [SMap.del, List.filter_cons, ih]; split <;> simp_all

omit [DecidableEq α] in
theorem SMap.rising_ins {b : Option Nat} {m : SMap α} {k : Nat} {v : α} (hb : SMap.under b k)
    (h : SMap.rising b m = true) (hn : m.look k = none) : SMap.rising b (m.ins k v) = true := by
  induction m generalizing b with
  | nil => cases b <;> simp_all [SMap.ins, SMap.rising, SMap.under]
  | cons e t ih =>
    obtain ⟨i, w⟩ := e
    have h' : SMap.under b i ∧ SMap.rising (some i) t = true := by
      cases b <;> simpa [SMap.rising, SMap.under] using h
    simp only [SMap.look] at hn
    simp only [SMap.ins]
    split
    · rename_i hk
      have hi : SMap.rising (some k) ((i, w) :: t) = true := by simp [SMap.rising, h'.2, hk]
      cases b <;> simp_all [SMap.rising, SMap.under]
    · split at hn
      · simp at hn
      · have hk : SMap.under (some i) k := by simp only [SMap.under]; omega
        have := ih hk h'.2 hn
        cases b <;> simp_all [SMap.rising, SMap.under]

/-- A filter keeps the canonical form. -/
theorem SMap.wf_filter (p : Nat × α → Bool) {m : SMap α} (h : SMap.wf d m = true) : SMap.wf d (m.filter p) = true := by
  simp only [SMap.wf, Bool.and_eq_true, List.all_eq_true] at h ⊢
  exact ⟨SMap.rising_filter p h.1, fun e he => h.2 e (List.mem_of_mem_filter he)⟩

omit [DecidableEq α] in
theorem SMap.mem_ins {m : SMap α} {k : Nat} {v : α} {e : Nat × α} (h : e ∈ m.ins k v) : e = (k, v) ∨ e ∈ m := by
  induction m with
  | nil => simp [SMap.ins] at h; simp [h]
  | cons x t ih =>
    obtain ⟨i, w⟩ := x
    simp only [SMap.ins] at h
    split at h
    · simp at h; rcases h with h | h | h <;> simp [h]
    · simp at h
      rcases h with h | h
      · simp [h]
      · rcases ih h with h | h <;> simp [h]

/-- A write keeps the canonical form: writing the default removes the entry. -/
theorem SMap.wf_set {m : SMap α} (k : Nat) (v : α) (h : SMap.wf d m = true) : SMap.wf d (SMap.set d m k v) = true := by
  unfold SMap.set
  split
  · rw [SMap.del_eq_filter]; exact SMap.wf_filter d _ h
  · rename_i hv
    have hd : SMap.wf d (m.del k) = true := by rw [SMap.del_eq_filter]; exact SMap.wf_filter d _ h
    simp only [SMap.wf, Bool.and_eq_true, List.all_eq_true, decide_eq_true_eq] at hd ⊢
    refine ⟨SMap.rising_ins trivial hd.1 (by simp [SMap.look_del]), fun e he => ?_⟩
    rcases SMap.mem_ins he with rfl | h'
    · exact hv
    · exact hd.2 e h'

@[simp] theorem SMap.wf_nil : SMap.wf d ([] : SMap α) = true := rfl

end Canonical

end Sys2Proof.Machine
end

