-- ==== Sys2Proof/Laws/State.lean ====
section
/-! SUPPORT. Laws of the state: one lemma for each field and each named update, true by definition, and what is read back
after an update. -/

namespace Sys2Proof.Machine

/-! ## Fields after an update -/

@[simp] theorem setUnit_far (s : State) (u : Unit) : (s.setUnit u).far = s.far := rfl
@[simp] theorem dropUnit_far (s : State) (u : UnitId) : (s.dropUnit u).far = s.far := rfl
@[simp] theorem setCluster_far (s : State) (k : Nat) (c : Cluster) : (s.setCluster k c).far = s.far := rfl
@[simp] theorem holdPort_far (s : State) (core iv : Nat) : (holdPort s core iv).far = s.far := rfl
@[simp] theorem unparked_far (s : State) : (unparked s).far = s.far := rfl
@[simp] theorem spendFree_far (s : State) (u : Unit) : (spendFree s u).far = s.far := by unfold spendFree; split <;> rfl
@[simp] theorem setUnit_agenda (s : State) (u : Unit) : (s.setUnit u).agenda = s.agenda := rfl
@[simp] theorem dropUnit_agenda (s : State) (u : UnitId) : (s.dropUnit u).agenda = s.agenda := rfl
@[simp] theorem setCluster_agenda (s : State) (k : Nat) (c : Cluster) : (s.setCluster k c).agenda = s.agenda := rfl
@[simp] theorem holdPort_agenda (s : State) (core iv : Nat) : (holdPort s core iv).agenda = s.agenda := rfl
@[simp] theorem unparked_agenda (s : State) : (unparked s).agenda = s.agenda := rfl
@[simp] theorem spendFree_agenda (s : State) (u : Unit) : (spendFree s u).agenda = s.agenda := by unfold spendFree; split <;> rfl
@[simp] theorem setUnit_cur (s : State) (u : Unit) : (s.setUnit u).cur = s.cur := rfl
@[simp] theorem dropUnit_cur (s : State) (u : UnitId) : (s.dropUnit u).cur = s.cur := rfl
@[simp] theorem setCluster_cur (s : State) (k : Nat) (c : Cluster) : (s.setCluster k c).cur = s.cur := rfl
@[simp] theorem holdPort_cur (s : State) (core iv : Nat) : (holdPort s core iv).cur = s.cur := rfl
@[simp] theorem unparked_cur (s : State) : (unparked s).cur = s.cur := rfl
@[simp] theorem spendFree_cur (s : State) (u : Unit) : (spendFree s u).cur = s.cur := by unfold spendFree; split <;> rfl
@[simp] theorem setUnit_curS (s : State) (u : Unit) : (s.setUnit u).curS = s.curS := rfl
@[simp] theorem dropUnit_curS (s : State) (u : UnitId) : (s.dropUnit u).curS = s.curS := rfl
@[simp] theorem setCluster_curS (s : State) (k : Nat) (c : Cluster) : (s.setCluster k c).curS = s.curS := rfl
@[simp] theorem holdPort_curS (s : State) (core iv : Nat) : (holdPort s core iv).curS = s.curS := rfl
@[simp] theorem unparked_curS (s : State) : (unparked s).curS = s.curS := rfl
@[simp] theorem spendFree_curS (s : State) (u : Unit) : (spendFree s u).curS = s.curS := by unfold spendFree; split <;> rfl
@[simp] theorem setUnit_free (s : State) (u : Unit) : (s.setUnit u).free = s.free := rfl
@[simp] theorem dropUnit_free (s : State) (u : UnitId) : (s.dropUnit u).free = s.free := rfl
@[simp] theorem setCluster_free (s : State) (k : Nat) (c : Cluster) : (s.setCluster k c).free = s.free := rfl
@[simp] theorem holdPort_free (s : State) (core iv : Nat) : (holdPort s core iv).free = s.free := rfl
@[simp] theorem unparked_free (s : State) : (unparked s).free = s.free := rfl
@[simp] theorem setUnit_clk (s : State) (u : Unit) : (s.setUnit u).clk = s.clk := rfl
@[simp] theorem dropUnit_clk (s : State) (u : UnitId) : (s.dropUnit u).clk = s.clk := rfl
@[simp] theorem setCluster_clk (s : State) (k : Nat) (c : Cluster) : (s.setCluster k c).clk = s.clk := rfl
@[simp] theorem holdPort_clk (s : State) (core iv : Nat) : (holdPort s core iv).clk = s.clk := rfl
@[simp] theorem unparked_clk (s : State) : (unparked s).clk = s.clk := rfl
@[simp] theorem spendFree_clk (s : State) (u : Unit) : (spendFree s u).clk = s.clk := by unfold spendFree; split <;> rfl
@[simp] theorem setUnit_mem (s : State) (u : Unit) : (s.setUnit u).mem = s.mem := rfl
@[simp] theorem dropUnit_mem (s : State) (u : UnitId) : (s.dropUnit u).mem = s.mem := rfl
@[simp] theorem setCluster_mem (s : State) (k : Nat) (c : Cluster) : (s.setCluster k c).mem = s.mem := rfl
@[simp] theorem holdPort_mem (s : State) (core iv : Nat) : (holdPort s core iv).mem = s.mem := rfl
@[simp] theorem unparked_mem (s : State) : (unparked s).mem = s.mem := rfl
@[simp] theorem spendFree_mem (s : State) (u : Unit) : (spendFree s u).mem = s.mem := by unfold spendFree; split <;> rfl
@[simp] theorem setUnit_fl (s : State) (u : Unit) : (s.setUnit u).fl = s.fl := rfl
@[simp] theorem dropUnit_fl (s : State) (u : UnitId) : (s.dropUnit u).fl = s.fl := rfl
@[simp] theorem setCluster_fl (s : State) (k : Nat) (c : Cluster) : (s.setCluster k c).fl = s.fl := rfl
@[simp] theorem holdPort_fl (s : State) (core iv : Nat) : (holdPort s core iv).fl = s.fl := rfl
@[simp] theorem unparked_fl (s : State) : (unparked s).fl = s.fl := rfl
@[simp] theorem spendFree_fl (s : State) (u : Unit) : (spendFree s u).fl = s.fl := by unfold spendFree; split <;> rfl
@[simp] theorem setUnit_paths (s : State) (u : Unit) : (s.setUnit u).paths = s.paths := rfl
@[simp] theorem dropUnit_paths (s : State) (u : UnitId) : (s.dropUnit u).paths = s.paths := rfl
@[simp] theorem setCluster_paths (s : State) (k : Nat) (c : Cluster) : (s.setCluster k c).paths = s.paths := rfl
@[simp] theorem holdPort_paths (s : State) (core iv : Nat) : (holdPort s core iv).paths = s.paths := rfl
@[simp] theorem unparked_paths (s : State) : (unparked s).paths = s.paths := rfl
@[simp] theorem spendFree_paths (s : State) (u : Unit) : (spendFree s u).paths = s.paths := by unfold spendFree; split <;> rfl
@[simp] theorem setCluster_units (s : State) (k : Nat) (c : Cluster) : (s.setCluster k c).units = s.units := rfl
@[simp] theorem holdPort_units (s : State) (core iv : Nat) : (holdPort s core iv).units = s.units := rfl
@[simp] theorem unparked_units (s : State) : (unparked s).units = s.units := rfl
@[simp] theorem spendFree_units (s : State) (u : Unit) : (spendFree s u).units = s.units := by unfold spendFree; split <;> rfl
@[simp] theorem setUnit_wgs (s : State) (u : Unit) : (s.setUnit u).wgs = s.wgs := rfl
@[simp] theorem dropUnit_wgs (s : State) (u : UnitId) : (s.dropUnit u).wgs = s.wgs := rfl
@[simp] theorem setCluster_wgs (s : State) (k : Nat) (c : Cluster) : (s.setCluster k c).wgs = s.wgs := rfl
@[simp] theorem holdPort_wgs (s : State) (core iv : Nat) : (holdPort s core iv).wgs = s.wgs := rfl
@[simp] theorem unparked_wgs (s : State) : (unparked s).wgs = s.wgs := rfl
@[simp] theorem spendFree_wgs (s : State) (u : Unit) : (spendFree s u).wgs = s.wgs := by unfold spendFree; split <;> rfl
@[simp] theorem setUnit_teams (s : State) (u : Unit) : (s.setUnit u).teams = s.teams := rfl
@[simp] theorem dropUnit_teams (s : State) (u : UnitId) : (s.dropUnit u).teams = s.teams := rfl
@[simp] theorem setCluster_teams (s : State) (k : Nat) (c : Cluster) : (s.setCluster k c).teams = s.teams := rfl
@[simp] theorem holdPort_teams (s : State) (core iv : Nat) : (holdPort s core iv).teams = s.teams := rfl
@[simp] theorem unparked_teams (s : State) : (unparked s).teams = s.teams := rfl
@[simp] theorem spendFree_teams (s : State) (u : Unit) : (spendFree s u).teams = s.teams := by unfold spendFree; split <;> rfl
@[simp] theorem setUnit_grids (s : State) (u : Unit) : (s.setUnit u).grids = s.grids := rfl
@[simp] theorem dropUnit_grids (s : State) (u : UnitId) : (s.dropUnit u).grids = s.grids := rfl
@[simp] theorem setCluster_grids (s : State) (k : Nat) (c : Cluster) : (s.setCluster k c).grids = s.grids := rfl
@[simp] theorem holdPort_grids (s : State) (core iv : Nat) : (holdPort s core iv).grids = s.grids := rfl
@[simp] theorem unparked_grids (s : State) : (unparked s).grids = s.grids := rfl
@[simp] theorem spendFree_grids (s : State) (u : Unit) : (spendFree s u).grids = s.grids := by unfold spendFree; split <;> rfl
@[simp] theorem setUnit_nextKey (s : State) (u : Unit) : (s.setUnit u).nextKey = s.nextKey := rfl
@[simp] theorem dropUnit_nextKey (s : State) (u : UnitId) : (s.dropUnit u).nextKey = s.nextKey := rfl
@[simp] theorem setCluster_nextKey (s : State) (k : Nat) (c : Cluster) : (s.setCluster k c).nextKey = s.nextKey := rfl
@[simp] theorem holdPort_nextKey (s : State) (core iv : Nat) : (holdPort s core iv).nextKey = s.nextKey := rfl
@[simp] theorem unparked_nextKey (s : State) : (unparked s).nextKey = s.nextKey := rfl
@[simp] theorem spendFree_nextKey (s : State) (u : Unit) : (spendFree s u).nextKey = s.nextKey := by unfold spendFree; split <;> rfl
@[simp] theorem setUnit_clusters (s : State) (u : Unit) : (s.setUnit u).clusters = s.clusters := rfl
@[simp] theorem dropUnit_clusters (s : State) (u : UnitId) : (s.dropUnit u).clusters = s.clusters := rfl
@[simp] theorem holdPort_clusters (s : State) (core iv : Nat) : (holdPort s core iv).clusters = s.clusters := rfl
@[simp] theorem unparked_clusters (s : State) : (unparked s).clusters = s.clusters := rfl
@[simp] theorem spendFree_clusters (s : State) (u : Unit) : (spendFree s u).clusters = s.clusters := by unfold spendFree; split <;> rfl
@[simp] theorem setUnit_windows (s : State) (u : Unit) : (s.setUnit u).windows = s.windows := rfl
@[simp] theorem dropUnit_windows (s : State) (u : UnitId) : (s.dropUnit u).windows = s.windows := rfl
@[simp] theorem setCluster_windows (s : State) (k : Nat) (c : Cluster) : (s.setCluster k c).windows = s.windows := rfl
@[simp] theorem holdPort_windows (s : State) (core iv : Nat) : (holdPort s core iv).windows = s.windows := rfl
@[simp] theorem unparked_windows (s : State) : (unparked s).windows = s.windows := rfl
@[simp] theorem spendFree_windows (s : State) (u : Unit) : (spendFree s u).windows = s.windows := by unfold spendFree; split <;> rfl
@[simp] theorem setUnit_ctxs (s : State) (u : Unit) : (s.setUnit u).ctxs = s.ctxs := rfl
@[simp] theorem dropUnit_ctxs (s : State) (u : UnitId) : (s.dropUnit u).ctxs = s.ctxs := rfl
@[simp] theorem setCluster_ctxs (s : State) (k : Nat) (c : Cluster) : (s.setCluster k c).ctxs = s.ctxs := rfl
@[simp] theorem holdPort_ctxs (s : State) (core iv : Nat) : (holdPort s core iv).ctxs = s.ctxs := rfl
@[simp] theorem unparked_ctxs (s : State) : (unparked s).ctxs = s.ctxs := rfl
@[simp] theorem spendFree_ctxs (s : State) (u : Unit) : (spendFree s u).ctxs = s.ctxs := by unfold spendFree; split <;> rfl
@[simp] theorem setUnit_queues (s : State) (u : Unit) : (s.setUnit u).queues = s.queues := rfl
@[simp] theorem dropUnit_queues (s : State) (u : UnitId) : (s.dropUnit u).queues = s.queues := rfl
@[simp] theorem setCluster_queues (s : State) (k : Nat) (c : Cluster) : (s.setCluster k c).queues = s.queues := rfl
@[simp] theorem holdPort_queues (s : State) (core iv : Nat) : (holdPort s core iv).queues = s.queues := rfl
@[simp] theorem unparked_queues (s : State) : (unparked s).queues = s.queues := rfl
@[simp] theorem spendFree_queues (s : State) (u : Unit) : (spendFree s u).queues = s.queues := by unfold spendFree; split <;> rfl
@[simp] theorem setUnit_preempts (s : State) (u : Unit) : (s.setUnit u).preempts = s.preempts := rfl
@[simp] theorem dropUnit_preempts (s : State) (u : UnitId) : (s.dropUnit u).preempts = s.preempts := rfl
@[simp] theorem setCluster_preempts (s : State) (k : Nat) (c : Cluster) : (s.setCluster k c).preempts = s.preempts := rfl
@[simp] theorem holdPort_preempts (s : State) (core iv : Nat) : (holdPort s core iv).preempts = s.preempts := rfl
@[simp] theorem unparked_preempts (s : State) : (unparked s).preempts = s.preempts := rfl
@[simp] theorem spendFree_preempts (s : State) (u : Unit) : (spendFree s u).preempts = s.preempts := by unfold spendFree; split <;> rfl
@[simp] theorem setUnit_tenants (s : State) (u : Unit) : (s.setUnit u).tenants = s.tenants := rfl
@[simp] theorem dropUnit_tenants (s : State) (u : UnitId) : (s.dropUnit u).tenants = s.tenants := rfl
@[simp] theorem setCluster_tenants (s : State) (k : Nat) (c : Cluster) : (s.setCluster k c).tenants = s.tenants := rfl
@[simp] theorem holdPort_tenants (s : State) (core iv : Nat) : (holdPort s core iv).tenants = s.tenants := rfl
@[simp] theorem unparked_tenants (s : State) : (unparked s).tenants = s.tenants := rfl
@[simp] theorem spendFree_tenants (s : State) (u : Unit) : (spendFree s u).tenants = s.tenants := by unfold spendFree; split <;> rfl
@[simp] theorem setUnit_channels (s : State) (u : Unit) : (s.setUnit u).channels = s.channels := rfl
@[simp] theorem dropUnit_channels (s : State) (u : UnitId) : (s.dropUnit u).channels = s.channels := rfl
@[simp] theorem setCluster_channels (s : State) (k : Nat) (c : Cluster) : (s.setCluster k c).channels = s.channels := rfl
@[simp] theorem holdPort_channels (s : State) (core iv : Nat) : (holdPort s core iv).channels = s.channels := rfl
@[simp] theorem unparked_channels (s : State) : (unparked s).channels = s.channels := rfl
@[simp] theorem spendFree_channels (s : State) (u : Unit) : (spendFree s u).channels = s.channels := by unfold spendFree; split <;> rfl
@[simp] theorem setUnit_set (s : State) (u : Unit) : (s.setUnit u).set = s.set := rfl
@[simp] theorem dropUnit_set (s : State) (u : UnitId) : (s.dropUnit u).set = s.set := rfl
@[simp] theorem setCluster_set (s : State) (k : Nat) (c : Cluster) : (s.setCluster k c).set = s.set := rfl
@[simp] theorem holdPort_set (s : State) (core iv : Nat) : (holdPort s core iv).set = s.set := rfl
@[simp] theorem unparked_set (s : State) : (unparked s).set = s.set := rfl
@[simp] theorem spendFree_set (s : State) (u : Unit) : (spendFree s u).set = s.set := by unfold spendFree; split <;> rfl
@[simp] theorem setUnit_plant (s : State) (u : Unit) : (s.setUnit u).plant = s.plant := rfl
@[simp] theorem dropUnit_plant (s : State) (u : UnitId) : (s.dropUnit u).plant = s.plant := rfl
@[simp] theorem setCluster_plant (s : State) (k : Nat) (c : Cluster) : (s.setCluster k c).plant = s.plant := rfl
@[simp] theorem holdPort_plant (s : State) (core iv : Nat) : (holdPort s core iv).plant = s.plant := rfl
@[simp] theorem unparked_plant (s : State) : (unparked s).plant = s.plant := rfl
@[simp] theorem spendFree_plant (s : State) (u : Unit) : (spendFree s u).plant = s.plant := by unfold spendFree; split <;> rfl
@[simp] theorem setUnit_sch (s : State) (u : Unit) : (s.setUnit u).sch = s.sch := rfl
@[simp] theorem dropUnit_sch (s : State) (u : UnitId) : (s.dropUnit u).sch = s.sch := rfl
@[simp] theorem setCluster_sch (s : State) (k : Nat) (c : Cluster) : (s.setCluster k c).sch = s.sch := rfl
@[simp] theorem spendFree_sch (s : State) (u : Unit) : (spendFree s u).sch = s.sch := by unfold spendFree; split <;> rfl
@[simp] theorem setUnit_mgmt (s : State) (u : Unit) : (s.setUnit u).mgmt = s.mgmt := rfl
@[simp] theorem dropUnit_mgmt (s : State) (u : UnitId) : (s.dropUnit u).mgmt = s.mgmt := rfl
@[simp] theorem setCluster_mgmt (s : State) (k : Nat) (c : Cluster) : (s.setCluster k c).mgmt = s.mgmt := rfl
@[simp] theorem holdPort_mgmt (s : State) (core iv : Nat) : (holdPort s core iv).mgmt = s.mgmt := rfl
@[simp] theorem unparked_mgmt (s : State) : (unparked s).mgmt = s.mgmt := rfl
@[simp] theorem spendFree_mgmt (s : State) (u : Unit) : (spendFree s u).mgmt = s.mgmt := by unfold spendFree; split <;> rfl
@[simp] theorem setUnit_irqs (s : State) (u : Unit) : (s.setUnit u).irqs = s.irqs := rfl
@[simp] theorem dropUnit_irqs (s : State) (u : UnitId) : (s.dropUnit u).irqs = s.irqs := rfl
@[simp] theorem setCluster_irqs (s : State) (k : Nat) (c : Cluster) : (s.setCluster k c).irqs = s.irqs := rfl
@[simp] theorem holdPort_irqs (s : State) (core iv : Nat) : (holdPort s core iv).irqs = s.irqs := rfl
@[simp] theorem unparked_irqs (s : State) : (unparked s).irqs = s.irqs := rfl
@[simp] theorem spendFree_irqs (s : State) (u : Unit) : (spendFree s u).irqs = s.irqs := by unfold spendFree; split <;> rfl
@[simp] theorem setUnit_host (s : State) (u : Unit) : (s.setUnit u).host = s.host := rfl
@[simp] theorem dropUnit_host (s : State) (u : UnitId) : (s.dropUnit u).host = s.host := rfl
@[simp] theorem setCluster_host (s : State) (k : Nat) (c : Cluster) : (s.setCluster k c).host = s.host := rfl
@[simp] theorem holdPort_host (s : State) (core iv : Nat) : (holdPort s core iv).host = s.host := rfl
@[simp] theorem unparked_host (s : State) : (unparked s).host = s.host := rfl
@[simp] theorem spendFree_host (s : State) (u : Unit) : (spendFree s u).host = s.host := by unfold spendFree; split <;> rfl

/-! ## Units read back -/

@[simp] theorem unit?_setUnit_self (s : State) (u : Unit) : (s.setUnit u).unit? u.id = some u := by
  simp [State.unit?, State.setUnit]

theorem unit?_setUnit (s : State) (u : Unit) (k : UnitId) :
    (s.setUnit u).unit? k = if ukey k = ukey u.id then some u else s.unit? k := by
  simp [State.unit?, State.setUnit]

/-- Setting a unit leaves every other place as it is. -/
theorem otherUnits_setUnit (s : State) (u : Unit) : otherUnits s (s.setUnit u) u.id := by
  intro k h; simp [unit?_setUnit, h]

theorem unit?_dropUnit (s : State) (u k : UnitId) :
    (s.dropUnit u).unit? k = if ukey k = ukey u then none else s.unit? k := by
  simp [State.unit?, State.dropUnit, SMap.look_del]

@[simp] theorem cluster_setCluster (s : State) (k : Nat) (c : Cluster) (j : Nat) :
    (s.setCluster k c).cluster j = if j = k then c else s.cluster j := by
  simp [State.cluster, State.setCluster, SMap.get_put]

@[simp] theorem unit?_holdPort (s : State) (core iv : Nat) (k : UnitId) : (holdPort s core iv).unit? k = s.unit? k := rfl
@[simp] theorem unit?_spendFree (s : State) (u : Unit) (k : UnitId) : (spendFree s u).unit? k = s.unit? k := by
  unfold spendFree; split <;> rfl

/-! ## What every step keeps -/

/-- Every unit of a table stands at its own place. -/
def Placed (m : SMap Unit) : Prop := ∀ e ∈ m, e.1 = ukey e.2.id

theorem State.Inv.wf {s : State} (h : s.Inv) : Memory.wf s.mem = true := h.1
theorem State.Inv.placed {s : State} (h : s.Inv) : Placed s.units := h.2

theorem State.inv_iff (s : State) : s.Inv ↔ Memory.wf s.mem = true ∧ Placed s.units := Iff.rfl

/-- A machine that differs in neither memory nor units keeps the invariant. -/
theorem State.Inv.of_eq {s t : State} (h : s.Inv) (hm : t.mem = s.mem) (hu : t.units = s.units) : t.Inv :=
  ⟨hm ▸ h.1, fun e he => h.2 e (hu ▸ he)⟩

theorem SMap.mem_del {α : Type} {m : SMap α} {k : Nat} {e : Nat × α} (h : e ∈ m.del k) : e ∈ m := by
  rw [SMap.del_eq_filter] at h; exact List.mem_of_mem_filter h

theorem SMap.mem_put {α : Type} {m : SMap α} {k : Nat} {v : α} {e : Nat × α} (h : e ∈ m.put k v) : e = (k, v) ∨ e ∈ m := by
  rcases SMap.mem_ins h with h | h
  · exact .inl h
  · exact .inr (SMap.mem_del h)

theorem SMap.mem_upd {α : Type} {m : SMap α} {k : Nat} {f : α → α} {e : Nat × α} (h : e ∈ m.upd k f) :
    e ∈ m ∨ ∃ x ∈ m, e = (x.1, f x.2) := by
  induction m with
  | nil => simp [SMap.upd] at h
  | cons y t ih =>
    obtain ⟨i, w⟩ := y
    simp only [SMap.upd] at h
    split at h
    · rcases List.mem_cons.mp h with rfl | h
      · exact .inr ⟨_, List.mem_cons_self, rfl⟩
      · exact .inl (List.mem_cons_of_mem _ h)
    · rcases List.mem_cons.mp h with rfl | h
      · exact .inl List.mem_cons_self
      · rcases ih h with h | ⟨x, hx, rfl⟩
        · exact .inl (List.mem_cons_of_mem _ h)
        · exact .inr ⟨x, List.mem_cons_of_mem _ hx, rfl⟩

theorem Placed.put {m : SMap Unit} (h : Placed m) (u : Unit) : Placed (m.put (ukey u.id) u) := by
  intro e he
  rcases SMap.mem_put he with rfl | he
  · rfl
  · exact h e he

theorem Placed.del {m : SMap Unit} (h : Placed m) (k : Nat) : Placed (m.del k) := fun e he => h e (SMap.mem_del he)

theorem Placed.filter {m : SMap Unit} (h : Placed m) (p : Nat × Unit → Bool) : Placed (m.filter p) :=
  fun e he => h e (List.mem_of_mem_filter he)

/-- Units changed in place under their own keys stay at their places. -/
theorem Placed.map {m : SMap Unit} (h : Placed m) {f : Nat × Unit → Nat × Unit}
    (hf : ∀ e, (f e).1 = e.1 ∧ (f e).2.id = e.2.id) : Placed (m.map f) := by
  intro e he
  obtain ⟨x, hx, rfl⟩ := List.mem_map.mp he
  rw [(hf x).1, (hf x).2]; exact h x hx

theorem Placed.upd {m : SMap Unit} (h : Placed m) (k : Nat) {f : Unit → Unit} (hf : ∀ u, (f u).id = u.id) :
    Placed (m.upd k f) := by
  intro e he
  rcases SMap.mem_upd he with he | ⟨x, hx, rfl⟩
  · exact h e he
  · rw [hf]; exact h x hx

theorem State.Inv.setUnit {s : State} (h : s.Inv) (u : Unit) : (s.setUnit u).Inv := ⟨h.1, Placed.put h.2 u⟩
theorem State.Inv.dropUnit {s : State} (h : s.Inv) (u : UnitId) : (s.dropUnit u).Inv := ⟨h.1, Placed.del h.2 _⟩
theorem State.Inv.setCluster {s : State} (h : s.Inv) (k : Nat) (c : Cluster) : (s.setCluster k c).Inv := ⟨h.1, h.2⟩
theorem State.Inv.holdPort {s : State} (h : s.Inv) (core iv : Nat) : (holdPort s core iv).Inv := ⟨h.1, h.2⟩
theorem State.Inv.spendFree {s : State} (h : s.Inv) (u : Unit) : (spendFree s u).Inv := h.of_eq (by simp) (by simp)

/-- Units changed in place under their own keys keep the invariant. -/
theorem State.Inv.mapUnits {s t : State} (h : s.Inv) (f : Unit → Unit) (hf : ∀ u, (f u).id = u.id) (hm : t.mem = s.mem)
    (hu : t.units = s.units.map (fun (e : Nat × Unit) => (e.1, f e.2))) : t.Inv :=
  ⟨hm ▸ h.1, fun e he => Placed.map (f := fun e => (e.1, f e.2)) h.2 (fun e => ⟨rfl, hf e.2⟩) e (hu ▸ he)⟩

/-- A fold of steps that each keep the invariant keeps it. -/
theorem State.Inv.foldl {β : Type} (f : State → β → State) (hf : ∀ s b, State.Inv s → (f s b).Inv) (l : List β) {s : State}
    (h : s.Inv) : (l.foldl f s).Inv := by
  induction l generalizing s with
  | nil => exact h
  | cons b t ih => exact ih (hf s b h)

/-! ## The lines that a unit has written (R285) -/

@[simp] theorem Unit.dirt_id (u : Unit) (k : Nat) : (u.dirt k).id = u.id := rfl
@[simp] theorem Unit.dirt_who (u : Unit) (k : Nat) : (u.dirt k).who = u.who := rfl
@[simp] theorem Unit.dirt_sS (u : Unit) (k : Nat) : (u.dirt k).sS = u.sS := rfl
@[simp] theorem Unit.dirt_lS (u : Unit) (k : Nat) : (u.dirt k).lS = u.lS := rfl
@[simp] theorem Unit.dirt_mbVal (u : Unit) (k : Nat) : (u.dirt k).mbVal = u.mbVal := rfl
@[simp] theorem Unit.dirt_mbCnt (u : Unit) (k : Nat) : (u.dirt k).mbCnt = u.mbCnt := rfl
@[simp] theorem Unit.dirt_fpmode (u : Unit) (k : Nat) : (u.dirt k).fpmode = u.fpmode := rfl
@[simp] theorem Unit.dirt_trap (u : Unit) (k : Nat) : (u.dirt k).trap = u.trap := rfl
@[simp] theorem Unit.dirt_pend (u : Unit) (k : Nat) : (u.dirt k).pend = u.pend := rfl
@[simp] theorem Unit.dirt_mon (u : Unit) (k : Nat) : (u.dirt k).mon = u.mon := rfl
@[simp] theorem Unit.dirt_tags (u : Unit) (k : Nat) : (u.dirt k).tags = u.tags := rfl
@[simp] theorem Unit.dirt_lqwSeq (u : Unit) (k : Nat) : (u.dirt k).lqwSeq = u.lqwSeq := rfl
@[simp] theorem Unit.dirt_joinSeq (u : Unit) (k : Nat) : (u.dirt k).joinSeq = u.joinSeq := rfl
@[simp] theorem Unit.dirt_lastBatch (u : Unit) (k : Nat) : (u.dirt k).lastBatch = u.lastBatch := rfl
@[simp] theorem Unit.dirt_tsMode (u : Unit) (k : Nat) : (u.dirt k).tsMode = u.tsMode := rfl
@[simp] theorem Unit.dirt_assay (u : Unit) (k : Nat) : (u.dirt k).assay = u.assay := rfl
@[simp] theorem Unit.dirt_stopped (u : Unit) (k : Nat) : (u.dirt k).stopped = u.stopped := rfl
@[simp] theorem Unit.dirt_outvoted (u : Unit) (k : Nat) : (u.dirt k).outvoted = u.outvoted := rfl
@[simp] theorem Unit.dirt_code (u : Unit) (k : Nat) : (u.dirt k).code = u.code := rfl
@[simp] theorem Unit.dirt_mbOld (u : Unit) (k : Nat) : (u.dirt k).mbOld = u.mbOld := rfl
@[simp] theorem Unit.dirt_dirty (u : Unit) (k : Nat) : (u.dirt k).dirty = setAdd u.dirty k := rfl

/-! ## Registers -/

@[simp] theorem Unit.rs_zero (u : Unit) : u.rs 0 = 0 := rfl
@[simp] theorem Unit.rp_zero (u : Unit) : u.rp 0 = true := rfl
@[simp] theorem Unit.rq_zero (u : Unit) : u.rq 0 = 0xFFFFFFFF := rfl
@[simp] theorem Unit.ws_zero (u : Unit) (v : Word) : u.ws 0 v = u := rfl
@[simp] theorem Unit.wp_zero (u : Unit) (b : Bool) : u.wp 0 b = u := rfl

/-- What an `s` register reads after a write of one. -/
theorem Unit.rs_ws (u : Unit) (d r : SReg) (v : Word) : (u.ws d v).rs r = if r = 0 then 0 else if r = d then v else u.rs r := by
  unfold Unit.rs Unit.ws
  split
  · rfl
  · by_cases h : d = 0
    · simp_all
    · simp only [h, if_false]
      by_cases e : r = d
      · simp [e]
      · simp [e, BitVec.toNat_inj]

/-- What a `p` register reads after a write of one. -/
theorem Unit.rp_wp (u : Unit) (d r : PReg) (b : Bool) :
    (u.wp d b).rp r = if r = 0 then true else if r = d then b else u.rp r := by
  unfold Unit.rp Unit.wp
  split
  · rfl
  · by_cases h : d = 0
    · simp_all
    · simp only [h, if_false]
      by_cases e : r = d
      · simp [e]
      · simp [e, BitVec.toNat_inj]

@[simp] theorem Unit.ws_id (u : Unit) (d : SReg) (v : Word) : (u.ws d v).id = u.id := by unfold Unit.ws; split <;> rfl
@[simp] theorem Unit.wp_id (u : Unit) (d : PReg) (b : Bool) : (u.wp d b).id = u.id := by unfold Unit.wp; split <;> rfl
@[simp] theorem Unit.sDone_id (u : Unit) (m : Bool) (l : List Fly) (pc : Nat) : (u.sDone m l pc).id = u.id := rfl
@[simp] theorem Unit.setSlot_id (u : Unit) (i : Bool) (x : Slot) : (u.setSlot i x).id = u.id := by
  unfold Unit.setSlot; split <;> rfl
@[simp] theorem Unit.lDone_id (u : Unit) (i m : Bool) (l : List Fly) (pc : Nat) : (u.lDone i m l pc).id = u.id := by
  simp [Unit.lDone]
@[simp] theorem Unit.setPark_id (u : Unit) (st : Strm) (p : Option Park) : (u.setPark st p).id = u.id := by
  cases st <;> simp [Unit.setPark]
@[simp] theorem Unit.slot_setSlot (u : Unit) (i j : Bool) (x : Slot) :
    (u.setSlot i x).slot j = if j = i then x else u.slot j := by
  cases i <;> cases j <;> rfl

end Sys2Proof.Machine
end

