-- ==== Sys2Proof/Laws/Memory.lean ====
section
/-! SUPPORT. Laws of memory: what a byte reads after a write, and that every write keeps the canonical form and the
invariant of the steps. -/

namespace Sys2Proof.Machine

/-! ## Byte lists -/

@[simp] theorem leBytes_length (n v : Nat) : (leBytes n v).length = n := by
  induction n generalizing v with
  | zero => rfl
  | succ k ih => simp [leBytes, ih]

/-- The byte listed at `x` among the bytes of a run from `a`. -/
theorem look_bytesAt (a : Nat) (l : List Byte) (x : Nat) :
    SMap.look (bytesAt a l) x = if a ≤ x then l[x - a]? else none := by
  induction l generalizing a with
  | nil => simp [bytesAt]
  | cons b t ih =>
    simp only [bytesAt, SMap.look, ih]
    by_cases h : a = x
    · simp [h]
    · simp only [h, if_false]
      by_cases h1 : a ≤ x
      · have h2 : a + 1 ≤ x := by omega
        simp only [h1, h2, if_true]
        obtain ⟨j, rfl⟩ : ∃ j, x = a + 1 + j := ⟨x - (a + 1), by omega⟩
        have e1 : a + 1 + j - a = j + 1 := by omega
        have e2 : a + 1 + j - (a + 1) = j := by omega
        simp [e1, e2]
      · have h2 : ¬ a + 1 ≤ x := by omega
        simp [h1, h2]

/-! ## Writes -/

/-- What a byte reads after a list of writes without repeated places. -/
theorem get_writeAll (m : SMap Byte) (l : List (Nat × Byte)) (h : (l.map (fun e => e.1)).Nodup) (x : Nat) :
    SMap.get 0 (writeAll m l) x = (SMap.look l x).getD (SMap.get 0 m x) := by
  induction l generalizing m with
  | nil => rfl
  | cons e t ih =>
    obtain ⟨a, b⟩ := e
    simp only [List.map_cons, List.nodup_cons] at h
    simp only [writeAll, ih _ h.2, SMap.get_set, SMap.look]
    by_cases ha : a = x
    · subst ha
      have : SMap.look t a = none := by
        by_contra hc
        obtain ⟨v, hv⟩ := Option.ne_none_iff_exists'.mp hc
        exact h.1 (List.mem_map.mpr ⟨_, SMap.mem_of_look hv, rfl⟩)
      simp [this]
    · simp [ha, Ne.symm ha]

/-- A list of writes leaves every place that it does not list. -/
theorem get_writeAll_of_none (m : SMap Byte) (l : List (Nat × Byte)) (x : Nat) (h : ∀ e ∈ l, e.1 ≠ x) :
    SMap.get 0 (writeAll m l) x = SMap.get 0 m x := by
  induction l generalizing m with
  | nil => rfl
  | cons e t ih =>
    obtain ⟨a, b⟩ := e
    simp only [writeAll]
    rw [ih _ (fun e he => h e (List.mem_cons_of_mem _ he)), SMap.get_set]
    have := h (a, b) List.mem_cons_self
    simp [Ne.symm this]

theorem wf_writeAll {m : SMap Byte} (l : List (Nat × Byte)) (h : SMap.wf 0 m = true) : SMap.wf 0 (writeAll m l) = true := by
  induction l generalizing m with
  | nil => exact h
  | cons e t ih => exact ih (SMap.wf_set 0 _ _ h)

theorem wf_zeroRange {m : SMap Byte} (a n : Nat) (h : SMap.wf 0 m = true) : SMap.wf 0 (zeroRange m a n) = true :=
  SMap.wf_filter 0 _ h

/-- What a byte reads after a range was zeroed. -/
theorem get_zeroRange (m : SMap Byte) (a n x : Nat) :
    SMap.get 0 (zeroRange m a n) x = if a ≤ x ∧ x < a + n then 0 else SMap.get 0 m x := by
  have key : SMap.look (zeroRange m a n) x = if a ≤ x ∧ x < a + n then none else SMap.look m x := by
    unfold zeroRange
    induction m with
    | nil => simp
    | cons e t ih =>
      obtain ⟨i, v⟩ := e
      rw [List.filter_cons]
      by_cases hi : i < a ∨ a + n ≤ i
      · rw [if_pos (by simpa using hi)]
        simp only [SMap.look, ih]
        by_cases hx : i = x
        · subst hx
          rw [if_pos rfl, if_pos rfl, if_neg (by omega)]
        · rw [if_neg hx, if_neg hx]
      · rw [if_neg (by simpa using hi), ih]
        by_cases hx : i = x
        · subst hx; rw [if_pos (by omega), if_pos (by omega)]
        · simp only [SMap.look]; rw [if_neg hx]
  unfold SMap.get
  rw [key]; split <;> rfl

/-- The parts of a canonical memory. -/
theorem Memory.wf_iff (m : Memory) : Memory.wf m = true ↔
    SMap.wf 0 m.sram = true ∧ SMap.wf 0 m.hbm = true ∧ SMap.wf 0 m.far = true ∧ SMap.wf 0 m.mirror = true := by
  simp [Memory.wf, Bool.and_eq_true, and_assoc]

/-- A new global SRAM in canonical form, with any poison, keeps the invariant. -/
theorem State.Inv.sram {s t : State} (h : s.Inv) (hw : SMap.wf 0 t.mem.sram = true) (h1 : t.mem.hbm = s.mem.hbm)
    (h2 : t.mem.far = s.mem.far) (h3 : t.mem.mirror = s.mem.mirror) (hu : t.units = s.units) : t.Inv := by
  obtain ⟨a, b⟩ := h
  rw [Memory.wf_iff] at a
  exact ⟨by rw [Memory.wf_iff, h1, h2, h3]; exact ⟨hw, a.2⟩, fun e he => b e (hu ▸ he)⟩

/-- Poison alone leaves the invariant. -/
theorem State.Inv.poison {s t : State} (h : s.Inv) (h0 : t.mem.sram = s.mem.sram) (h1 : t.mem.hbm = s.mem.hbm)
    (h2 : t.mem.far = s.mem.far) (h3 : t.mem.mirror = s.mem.mirror) (hu : t.units = s.units) : t.Inv :=
  h.sram (by rw [h0]; exact ((Memory.wf_iff _).mp h.1).1) h1 h2 h3 hu

/-! ## The named writes -/

theorem fireOne_id (hit : UnitId → Bool) (sec : Nat) (u : Unit) : (fireOne hit sec u).id = u.id := by
  unfold fireOne; split
  · split <;> rfl
  · rfl

theorem State.Inv.fireMonitors {s : State} (h : s.Inv) (hit : UnitId → Bool) (sec : Nat) : (fireMonitors s hit sec).Inv :=
  h.mapUnits (fireOne hit sec) (fireOne_id hit sec) rfl rfl

/-- Keeping older code changes nothing else of a unit. -/
theorem Unit.keepOld_eq (s : State) (l : List (Nat × Byte)) (u : Unit) : u.keepOld s l = { u with code := (u.keepOld s l).code } := rfl

theorem State.Inv.keepOld {s : State} (h : s.Inv) (l : List (Nat × Byte)) : (keepOld s l).Inv :=
  h.mapUnits (Unit.keepOld s l) (fun _ => rfl) rfl rfl

/-- Keeping older code changes no byte of memory. -/
@[simp] theorem keepOld_mem (s : State) (l : List (Nat × Byte)) : (keepOld s l).mem = s.mem := rfl

/-- A unit that no store has touched fetches its code from home (R10). -/
theorem codeWord_of_nil (s : State) (u : Unit) (lane : Bool) (a : Nat) (h : u.code = []) :
    codeWord s u lane a = leNat (readN (homeByte s) (codeBytes lane) a) := by
  unfold codeWord; simp [h]

theorem State.Inv.putHome {s : State} (h : s.Inv) (l : List (Nat × Byte)) : (putHome s l).Inv := by
  unfold Sys2Proof.Machine.putHome
  refine State.Inv.foldl _ (fun t _ ht => ht.fireMonitors _ _) _ ?_
  exact (h.keepOld l).sram (wf_writeAll _ ((Memory.wf_iff _).mp h.1).1) rfl rfl rfl rfl

theorem State.Inv.syncBell {s : State} (h : s.Inv) (q : HwQueue) : (syncBell s q).Inv := by
  unfold Sys2Proof.Machine.syncBell
  split
  · exact h
  · exact h.putHome _

theorem State.Inv.setQueue {s : State} (h : s.Inv) (k : Nat) (q : HwQueue) : (setQueue s k q).Inv := by
  have key : ({ s with queues := SMap.put s.queues k q } : State).Inv := h.of_eq rfl rfl
  unfold Sys2Proof.Machine.setQueue
  split
  · split
    · exact key
    · exact key.syncBell q
  · exact key.syncBell q

theorem State.Inv.ringBells {s : State} (h : s.Inv) (l : List (Nat × Byte)) : (ringBells s l).Inv := by
  unfold Sys2Proof.Machine.ringBells
  apply State.Inv.foldl _ _ _ h
  intro t e ht
  simp only
  split
  · exact ht.setQueue _ _
  · exact ht

theorem State.Inv.writeHome {s : State} (h : s.Inv) (l : List (Nat × Byte)) : (writeHome s l).Inv :=
  (h.putHome l).ringBells l

theorem State.Inv.clearBad {s : State} (h : s.Inv) (sec : Nat) : (clearBad s sec).Inv := h.poison rfl rfl rfl rfl rfl

theorem State.Inv.mirrorBit {s : State} (h : s.Inv) (d line : Nat) (b : Bool) : (mirrorBit s d line b).Inv := by
  obtain ⟨x, y⟩ := h
  rw [Memory.wf_iff] at x
  exact ⟨(Memory.wf_iff _).mpr ⟨x.1, x.2.1, x.2.2.1, SMap.wf_set 0 _ _ x.2.2.2⟩, y⟩

theorem State.Inv.evictLine {s : State} (h : s.Inv) (d line : Nat) : (evictLine s d line).Inv :=
  (h.mirrorBit d line false).poison rfl rfl rfl rfl rfl

theorem State.Inv.takeLine {s : State} (h : s.Inv) (d line : Nat) : (takeLine s d line).Inv := by
  have key : ({ s with free := s.free + 1 } : State).Inv := h.of_eq rfl rfl
  unfold Sys2Proof.Machine.takeLine
  split
  · exact h
  · simp only
    split
    · exact h.mirrorBit _ _ _
    · exact (key.evictLine _ _).mirrorBit _ _ _

theorem State.Inv.touchMirror {s : State} (h : s.Inv) (d a : Nat) : (touchMirror s d a).Inv := by
  unfold Sys2Proof.Machine.touchMirror
  split
  · exact h
  · exact h.takeLine _ _

theorem State.Inv.putDram {s : State} (h : s.Inv) (p : Phys) (l : List Byte) : (putDram s p l).Inv := by
  obtain ⟨x, y⟩ := h
  rw [Memory.wf_iff] at x
  cases p with
  | hbm a => exact ⟨(Memory.wf_iff _).mpr ⟨x.1, wf_writeAll _ x.2.1, x.2.2⟩, y⟩
  | far a => exact ⟨(Memory.wf_iff _).mpr ⟨x.1, x.2.1, wf_writeAll _ x.2.2.1, x.2.2.2⟩, y⟩
  | lent t a => exact ⟨(Memory.wf_iff _).mpr x, y⟩

theorem State.Inv.putTwins {s : State} (h : s.Inv) (p : Phys) (l : List Byte) (n : Nat) : (putTwins s p l n).Inv := by
  induction n generalizing s p l with
  | zero => exact h
  | succ n ih =>
    unfold Sys2Proof.Machine.putTwins
    split
    · exact h
    · exact ih (h.foldl _ (fun _ _ k => k.putDram _ _) _) _ _

theorem State.Inv.writeDram {s : State} (h : s.Inv) (p : Phys) (l : List Byte) : (writeDram s p l).Inv := by
  unfold Sys2Proof.Machine.writeDram
  split
  · exact h.putDram _ _
  · exact (h.putDram _ _).putTwins _ _ _

end Sys2Proof.Machine
end

