-- ==== Sys2Proof/Laws/Words.lean ====
section
/-! SUPPORT. Laws of the shared gates of words: what a ready word does, what a word that must wait does, and that a word which
parks changes nothing but its park. -/

namespace Sys2Proof.Machine

/-! ## Words of the S-stream -/

/-- A ready S word runs its meaning on its unit. -/
theorem sWord_ready {s : State} {u : Unit} {regs : List SReg} (h : SReady s u regs) (k : Unit → Res) :
    sWord s regs k = k u := by
  obtain ⟨h1, -, h2, h3⟩ := h
  simp only [sWord, withUnit, h1, h2, h3]; rfl

/-- An S word whose register is pending parks. -/
theorem sWord_pending {s : State} {u : Unit} {regs : List SReg} (h1 : s.unit? s.cur = some u) (h2 : u.handlerMb regs = none)
    (h3 : regs.any u.sPend = true) (k : Unit → Res) : sWord s regs k = parkAt s u .s .pendingReg := by
  simp only [sWord, withUnit, h1, h2, h3, if_true]

/-- A word at a place where no unit is resident is the model's one fault. -/
theorem sWord_noUnit {s : State} {regs : List SReg} (h : s.unit? s.cur = none) (k : Unit → Res) :
    sWord s regs k = .fault .noUnit := by simp only [sWord, withUnit, h]

/-- A retiring S word answers the machine after it. -/
theorem retireS_eq (s : State) (u : Unit) (m : Bool) (lat : Nat) (rs : List FRes) :
    retireS s u m lat rs = .next (sNext s u m lat rs) := rfl

theorem aluS_ready {s : State} {u : Unit} {d a b : SReg} (h : SReady s u [d, a, b]) (m : Bool) (lat : Nat)
    (f : Word → Word → Word) : aluS s m d a b lat f = .next (sNext s u m lat [.s d (f (u.rs a) (u.rs b))]) := by
  rw [aluS, sWord_ready h]; rfl

theorem aluS1_ready {s : State} {u : Unit} {d a : SReg} (h : SReady s u [d, a]) (m : Bool) (lat : Nat) (f : Word → Word) :
    aluS1 s m d a lat f = .next (sNext s u m lat [.s d (f (u.rs a))]) := by
  rw [aluS1, sWord_ready h]; rfl

/-- The unit after an S word issued. -/
theorem sAfter_unit {s : State} {u : Unit} (m : Bool) (lat : Nat) (rs : List FRes) (pc : Nat) :
    (sAfter s u m lat rs pc).unit? u.id =
      some (u.sDone m (flights s u.id.core lat rs) pc) := by
  simpa [sAfter] using unit?_setUnit_self s (u.sDone m (flights s u.id.core lat rs) pc)

/-- An S word that issued leaves its registers, its lane side and its trap registers, until its results land. -/
theorem sDone_sameRegs (u : Unit) (m : Bool) (l : List Fly) (pc : Nat) : sameRegs u (u.sDone m l pc) :=
  ⟨fun _ => rfl, fun _ => rfl, rfl, rfl, rfl, rfl, rfl, rfl, rfl⟩

/-- A transfer whose target lies in the image jumps. -/
theorem transferS_in {s : State} {u : Unit} {t : Int} (h : inImage s u t) (m : Bool) (rs : List FRes) :
    transferS s u m t rs = jumpS s u m t.toNat rs := by
  have : ¬ (t < 0 ∨ (sLen s u : Int) ≤ t) := by obtain ⟨a, b⟩ := h; omega
  rw [transferS, if_neg this]

/-- A transfer whose target lies outside the image takes the code-range trap. -/
theorem transferS_out {s : State} {u : Unit} {t : Int} (h : ¬ inImage s u t) (m : Bool) (rs : List FRes) :
    transferS s u m t rs = trapS s u 0x26 (wrapInt 64 t) 0 := by
  have : t < 0 ∨ (sLen s u : Int) ≤ t := by
    by_contra hc
    exact h ⟨by omega, by omega⟩
  rw [transferS, if_pos this]

/-! ## Words of the lane stream -/

/-- A ready lane word runs its meaning on its unit, its slot and its active lanes. -/
theorem laneWord_ready {s : State} {u : Unit} {i : Bool} {regs : List (Nat × Nat)} (h : LReady s u i regs) (g : Guard)
    (k : Unit → Bool → Mask → Res) : laneWord s g regs k = k u i (laneAct s u i g) := by
  obtain ⟨h1, -, -, h4, h5⟩ := h
  simp only [laneWord, withUnit, h1, h4, h5, laneAct]; rfl

/-- A lane word whose register is pending parks. -/
theorem laneWord_pending {s : State} {u : Unit} {regs : List (Nat × Nat)} (h1 : s.unit? s.cur = some u)
    (h2 : regs.any (fun r => u.vPend r.1 r.2) = true) (g : Guard) (k : Unit → Bool → Mask → Res) :
    laneWord s g regs k = parkAt s u (slotStrm (strmSlot s.curS)) .pendingReg := by
  simp only [laneWord, withUnit, h1, h2, if_true]

theorem laneWord_noUnit {s : State} {regs : List (Nat × Nat)} (h : s.unit? s.cur = none) (g : Guard)
    (k : Unit → Bool → Mask → Res) : laneWord s g regs k = .fault .noUnit := by simp only [laneWord, withUnit, h]

theorem retireL_eq (s : State) (u : Unit) (i m : Bool) (iv lat : Nat) (rs : List FRes) :
    retireL s u i m iv lat rs = .next (lNext s u i m iv lat rs) := rfl

theorem writeLane_v (s : State) (u : Unit) (i m : Bool) (act : Mask) (iv lat : Nat) (r : BitVec 7) (n : Nat)
    (vals : List (Nat × Nat)) :
    writeLane s u i m act iv lat (.v r) n vals = .next (lNext s u i m iv lat (vRes r.toNat n act vals)) := rfl

theorem writeMask_q (s : State) (u : Unit) (i m : Bool) (act : Mask) (iv lat : Nat) (q : BitVec 3) (bits : Mask) :
    writeMask s u i m act iv lat (.q q) bits = .next (lNext s u i m iv lat [.q q act bits]) := rfl

/-- The unit after a lane word issued. -/
theorem lNext_unit {s : State} {u : Unit} (i m : Bool) (iv lat : Nat) (rs : List FRes) :
    (lNext s u i m iv lat rs).unit? u.id = some (u.lDone i m
      (flights s u.id.core lat rs) ((u.slot i).lpc + 1)) := by
  simpa [lNext] using unit?_setUnit_self s (u.lDone i m (flights s u.id.core lat rs)
    ((u.slot i).lpc + 1))

/-! ## Parks and traps -/

/-- A word that parks answers a machine in which only its own park has changed. -/
theorem parkAt_next (s : State) (u : Unit) (st : Strm) (why : Why) :
    ∃ t p, parkAt s u st why = .next t ∧ t.unit? u.id = some (u.setPark st (some p)) ∧ p.why = why ∧
      t.mem = s.mem ∧ otherUnits s t u.id ∧ t.sch.parked = true := by
  let p : Park := { why := why, since := (match u.parkOf st with
    | some p => if p.why = why then p.since else s.clk.now
    | none => s.clk.now), tick := s.sch.progress }
  have hid : (u.setPark st (some p)).id = u.id := Unit.setPark_id u st _
  refine ⟨_, p, rfl, ?_, rfl, rfl, ?_, rfl⟩
  · have := unit?_setUnit_self s (u.setPark st (some p))
    rw [hid] at this
    exact this
  · intro k hk
    have := unit?_setUnit s (u.setPark st (some p)) k
    rw [hid, if_neg hk] at this
    exact this

/-- Inside a handler a precise trap is a double trap. -/
theorem trapS_inHandler {s : State} {u : Unit} (h : u.inHandler = true) (cause addr info : Nat) (hc : cause ≠ 0x20) :
    trapS s u cause addr info = .next (doubleTrap s u cause) := by
  simp [trapS, takeTrap, h, hc]

/-- A cause that the supervisor takes enters its handler, once every result that R23 waits for has come. -/
theorem trapS_enter {s : State} {u : Unit} {cause : Nat} {hd : Handler} {off : Nat} (h1 : u.inHandler = false)
    (h0 : u.trap.due = none) (h2 : u.settled = true) (h3 : mcCause cause = false) (h4 : handlerOf s u = some (hd, off))
    (addr info : Nat) :
    trapS s u cause addr info =
      .next (enterTrap s u .s hd off (preciseFrame s u .s cause addr info 0 false)) := by
  simp [trapS, takeTrap, beginTrap, h0, h1, h2, h3, h4]

/-- A trap waits for the results that R23 names: neither stream issues while it is due (R276). -/
theorem trapS_waits {s : State} {u : Unit} {cause : Nat} {hd : Handler} {off : Nat} (h1 : u.inHandler = false)
    (h0 : u.trap.due = none) (h2 : u.settled = false) (h3 : mcCause cause = false) (h4 : handlerOf s u = some (hd, off))
    (addr info : Nat) :
    trapS s u cause addr info = .next (s.setUnit (u.owing
      (Due.mk .s (preciseFrame s u .s cause addr info 0 false) none none))) := by
  simp [trapS, takeTrap, beginTrap, h0, h1, h2, h3, h4, Unit.owing]

/-- A word that would trap while a trap of its warp is due counts as unissued (R277). -/
theorem trapS_second {s : State} {u : Unit} {cause : Nat} (h1 : u.inHandler = false) (h0 : u.trap.due.isSome = true)
    (addr info : Nat) : trapS s u cause addr info = parkAt s u .s .results := by
  simp [trapS, takeTrap, h0, h1]

/-- A release with nothing to wait for passes its gate. -/
theorem releaseGate_clear {s : State} {u : Unit} {st : Strm} {sc : Scope} (h : relClear s u st sc) (k : Res) :
    releaseGate s u st sc k = k := by
  simp [releaseGate, h.1, h.2]

end Sys2Proof.Machine
end

