-- ==== Sys2Proof/Tests/Slice0.lean ====
section
/-! SUPPORT. Tests: ill-formed terms that the checks refuse, words written out from the encoding tables, and for every
statement with hypotheses a small machine that meets them. -/

namespace Sys2Proof.Tests

open Sys2Proof Sys2Proof.Machine

/-! ## A small machine -/

/-- Who the unit of the small machine is: a warp of workgroup 1, team 1, grid 1, context 1, or their lockmaster. -/
def tWho (lm : Bool) : Ident :=
  { ctx := 1, grid := 1, team := 1, wg := 1, isLm := lm, producer := true, leader := true, cls := 0, rset := 0, rep := 0,
    rmode := 0, warpid := 0, wgid := 0, teamid := 0, dieid := 0, gridid := 0, coreid := 0, sbase := 0x1000, slen := 64,
    lbase := 0x2000, llen := 64 }

/-- A unit at word 8, with s4 = 64, s5 = 3 and every other register 0, and nothing outstanding. -/
def tUnit (lm : Bool) : Machine.Unit :=
  let u := newUnit ⟨0, if lm then 32 else 0⟩ (tWho lm) 8 0 1
  { u with sS := { u.sS with s := [(4, 64), (5, 3)] } }

/-- A launch packet of one team of one workgroup of one warp. -/
def tPkt : Packet :=
  { sbase := 0x1000, lbase := 0x2000, sentry := 0, warps := 0, producer := 0, wgs := 0, slen := 64, mtl := 0, lmentry := 0,
    energy := 0, cls := 0, redund := 0, slabs := 1, lm := true, llen := 64, ladn := 0, mtk := 0, pad := 0, bufsz := 0,
    bufn := 0, teams := 1, maxrun := 0, lading := 0, deadline := 0, wtl := 0, ctl := 0, wen := false, cen := false,
    wval := 0, cval := 0, reserved := false }

/-- The context of the small machine: a supervisor handler, software timeline 5 at 3, and work list 2 with one item. -/
def tCtx : Ctx :=
  { tenant := none, root := 0, tls := [(5, ⟨.software, 3⟩)],
    lists := [(2, { base := 0x3000, k := 3, wide := false, die := 0, head := 0, tail := 1, waiters := [] })], groups := [],
    handler := some { sbase := 0x8000, slen := 64, lbase := 0x9000, llen := 64, entry := 1 }, saveOff := some 0x10000,
    shadows := [], log := none, lost := 0, evictDva := none, tsOn := false, tsStart := 0, stamps := [], raceLog := [],
    debug := false, kids := [[], [], [], []], nextGrid := 2, maps := [], resetting := false }

def tWg : Wg :=
  { grid := 1, team := 1, core := 0, warps := 1, padBase := 0x40000, padP := 0x4000, charge := 1,
    bar := Barrier.init, shadow := none, eligible := false, touched := [], rolled := false, mism := false, staged := true, peers := [1] }

def tTeam : Team :=
  { grid := 1, slab := 0, j := 0, die := 0, cluster := 0, rep := 0, wgs := [1], lm := true, mtl := 0, mnum := 0,
    nbar := [], peers := [1], nwarps := 1, evicted := none }

def tGrid : Grid :=
  { ctx := 1, num := 1, depth := 0, parent := none, queue := none, pkt := tPkt, lads := [], enq := 0, order := 0,
    started := true, slabs := [{ dies := [0], next := 1, dbars := [Barrier.init] }], aborted := false, missed := false,
    kids := 0, ctr := none }

/-- The machine with one unit, which stands at the cursor on stream `st`; context 1 may access all of the first slice. -/
def tState (u : Machine.Unit) (st : Strm) : State :=
  { State.reset with
    cur := u.id, curS := st, units := [(ukey u.id, u)], wgs := [(1, tWg)], teams := [(1, tTeam)], grids := [(1, tGrid)],
    ctxs := [(1, tCtx)], nextKey := 2,
    windows := [(0, { ctx := 1, base := 0, limit := 767, rd := true, wr := true, at_ := true })] }

/-- The small machine at an S word of its warp, at one of its lockmaster, and at a lane word with lanes 0 to 3 active. -/
def tWarp : State := tState (tUnit false) .s
def tLock : State := tState (tUnit true) .s
def tLaneUnit : Machine.Unit :=
  let u := tUnit false
  { u with lS := { u.lS with
      v := [(64, 5), (65, 7), (66, 9), (67, 2)], q := [(1, 0b0101)],
      slot0 := { Slot.idle with live := true, lpc := 8, em := 0b1111 },
      running := some { entry := 8, k := [0, 0, 0, 0], mask := 0, lqSeq := 0 } } }
def tLane : State := tState tLaneUnit .l0

theorem tWarp_ready : SReady tWarp (tUnit false) [4, 5, 6] := ⟨rfl, rfl, rfl, rfl⟩
theorem tLane_ready : LReady tLane tLaneUnit false [(2, 1), (3, 1)] := ⟨rfl, rfl, rfl, rfl, rfl⟩

/-- The small machine with other S registers. -/
def tRegs (l : SMap Word) : State :=
  let u := tUnit false
  tState { u with sS := { u.sS with s := l } } .s
def tRegsU (l : SMap Word) : Machine.Unit := { tUnit false with sS := { (tUnit false).sS with s := l } }

/-- What a trap has set aside. -/
def tSaved : Saved :=
  { queue := [], running := none, slot0 := Slot.idle, slot1 := Slot.idle, mbCnt := [0, 0, 0, 0], mbVal := [0, 0, 0, 0],
    bank := [1, 2, 3, 4], turn := false, seq := 0, sup := false, passed := none }

/-- The warp inside its handler. -/
def tInUnit : Machine.Unit :=
  { tUnit false with trap := { (tUnit false).trap with tcause := 0x80020020, tspc := 8, saved := some tSaved, sup := true } }
def tIn : State := tState tInUnit .s

/-- The machine with its context replaced. -/
def tCtxS (c : Ctx) : State := { tWarp with ctxs := [(1, c)] }

/-! ## What meets the hypotheses: words of the S stream that compute -/

theorem wit_AluResults : SReady tWarp (tUnit false) [4, 5, 6] := ⟨rfl, rfl, rfl, rfl⟩
theorem wit_ImmediateResults : SReady tWarp (tUnit false) [4, 4] ∧ SReady tWarp (tUnit false) [4, 0] :=
  ⟨⟨rfl, rfl, rfl, rfl⟩, ⟨rfl, rfl, rfl, rfl⟩⟩
theorem wit_PredicateResults : SReady tWarp (tUnit false) [4, 5, 6] ∧ SReady tWarp (tUnit false) [] ∧
    (bf (0x0A * 2 ^ 25 + 1) 25 6 = 0x0A ∧ bf (0x0A * 2 ^ 25 + 1) 0 7 ≠ 0) ∧
    (bf (0x0C * 2 ^ 25 + 0x3000) 25 6 = 0x0C ∧ bf (0x0C * 2 ^ 25 + 0x3000) 12 2 = 3) ∧
    (bf (0x0C * 2 ^ 25 + 0x2800) 12 2 = 2 ∧ bf (0x0C * 2 ^ 25 + 0x2800) 0 12 ≠ 0) ∧
    (bf (0x0D * 2 ^ 25 + 4) 25 6 = 0x0D ∧ bf (0x0D * 2 ^ 25 + 4) 0 3 ≠ 0) :=
  ⟨⟨rfl, rfl, rfl, rfl⟩, ⟨rfl, rfl, rfl, rfl⟩, by decide, by decide, by decide, by decide⟩

/-- Targets 0 and 63 lie in the image of 64 words; −1 and 64 lie outside. -/
theorem wit_TransferWords : inImage tWarp (tUnit false) 0 ∧ inImage tWarp (tUnit false) 63 ∧
    ¬ inImage tWarp (tUnit false) (-1) ∧ ¬ inImage tWarp (tUnit false) 64 := by
  unfold inImage; decide
theorem wit_TransferWords_regs : SReady (tRegs [(4, 64), (60, 63)]) (tRegsU [(4, 64), (60, 63)]) [4, 60] ∧
    xor ((tUnit false).rp 0) false = true ∧ xor ((tUnit false).rp 1) false = false ∧
    1 < ((tRegsU [(4, 64)]).rs 4).toNat ∧ ((tRegsU [(4, 1)]).rs 4).toNat = 1 ∧ ((tRegsU []).rs 4).toNat = 0 :=
  ⟨⟨rfl, rfl, rfl, rfl⟩, by decide, by decide, by decide, by decide, by decide⟩

theorem wit_StagingResults : SReady tWarp (tUnit false) [4] ∧ SReady tWarp (tUnit false) [] ∧
    (63#24).toNat < lLen tWarp (tUnit false) ∧ (tUnit false).queueUse < 8 ∧ (tUnit false).laneIdle = true :=
  ⟨⟨rfl, rfl, rfl, rfl⟩, ⟨rfl, rfl, rfl, rfl⟩, by decide, by decide, by decide⟩
theorem wit_SpecialRegisterWords : SReady tWarp (tUnit false) [5] ∧ SReady tLock (tUnit true) [5] ∧ SReady tIn tInUnit [4] ∧
    (tUnit false).who.isLm = false ∧ (tUnit true).who.isLm = true ∧ (tUnit false).laneIdle = true ∧ (tUnit false).who.rset = 0 ∧
    tInUnit.inHandler = true ∧ (tUnit false).inHandler = false ∧ ((tUnit false).rs 5).toNat % 8 = 3 ∧
    ((tUnit false).rs 4).toNat % 8 = 0 :=
  ⟨⟨rfl, rfl, rfl, rfl⟩, ⟨rfl, rfl, rfl, rfl⟩, ⟨rfl, rfl, rfl, rfl⟩, rfl, rfl, rfl, rfl, rfl, rfl, by decide, by decide⟩
theorem wit_PlainWords : SReady tWarp (tUnit false) [4] ∧ SReady tWarp (tUnit false) [] ∧ (tUnit false).who.rset = 0 ∧
    (tUnit false).laneIdle = true ∧ exitHeld (tUnit false) = false ∧ relClear tWarp (tUnit false) .s .dev :=
  ⟨⟨rfl, rfl, rfl, rfl⟩, ⟨rfl, rfl, rfl, rfl⟩, rfl, rfl, rfl, rfl, rfl⟩

theorem wit_PlainWords_exit : tWarp.placed ∧ (tUnit false).sS.fly = [] ∧
    relClear tWarp { tUnit false with lqwSeq := tWarp.fl.seq } .s .dev := by
  refine ⟨?_, rfl, rfl, rfl⟩
  intro e h; simp only [tWarp, tState, List.mem_singleton] at h; subst h; rfl

/-! ## Traps -/

theorem wit_TrapEntry : tWarp.unit? tWarp.cur = some (tUnit false) ∧ (tUnit false).inHandler = false ∧
    (tUnit false).settled = true ∧ mcCause 0x22 = false ∧ (handlerOf tWarp (tUnit false)).isSome = true ∧
    (tUnit false).trap.due = none ∧ (tUnit false).committed = false :=
  ⟨rfl, rfl, rfl, rfl, rfl, rfl, rfl⟩
/-- `tclk` on its way to s7: a trap of its warp waits. -/
def tPend : Pend :=
  { id := 1, strm := .s, dst := .s 7, what := .tclk, acq := false, idx := 8, raw := 0, act := 1, vals := [], bad := 0,
    saved := false, share := none, flip := [], own := [] }
theorem wit_TrapEntry_waits : let u := { tUnit false with pend := [tPend] }
    u.settled = false ∧ u.inHandler = false ∧ u.trap.due = none ∧ (handlerOf (tState u .s) u).isSome = true := ⟨rfl, rfl, rfl, rfl⟩
theorem wit_FatalTraps : tInUnit.inHandler = true ∧ (tUnit false).inHandler = false ∧ mcCause 0x26 = true ∧
    handlerOf (tCtxS { tCtx with handler := none }) (tUnit false) = none := ⟨rfl, rfl, rfl, rfl⟩
theorem wit_TrapAndBreakWords : SReady tWarp (tUnit false) [] ∧ (tUnit false).settled = true ∧
    (handlerOf tWarp (tUnit false)).isSome = true ∧ debugged tWarp (tUnit false) = false ∧
    SReady (tCtxS { tCtx with debug := true }) (tUnit false) [] ∧ debugged (tCtxS { tCtx with debug := true }) (tUnit false) = true :=
  ⟨⟨rfl, rfl, rfl, rfl⟩, rfl, rfl, rfl, ⟨rfl, rfl, rfl, rfl⟩, rfl⟩
theorem wit_ReturnFromTrap : SReady tIn tInUnit [] ∧ tInUnit.inHandler = true ∧ tInUnit.trap.saved = some tSaved ∧
    tInUnit.laneIdle = true ∧ tInUnit.badReturn tSaved = none ∧ SReady tWarp (tUnit false) [] ∧ (tUnit false).inHandler = false :=
  ⟨⟨rfl, rfl, rfl, rfl⟩, rfl, rfl, rfl, by decide, ⟨rfl, rfl, rfl, rfl⟩, rfl⟩

/-! ## Memory words of the S stream -/

/-- The machine in whose cluster the unit holds buffer 3 of generation 7; s6 = 0x307 names it, s7 names generation 8. -/
def tBuf (h : Handle) : State :=
  { tRegs [(4, 64), (5, 3), (6, 0x307), (7, 0x308)] with
    clusters := [(0, { Cluster.init with handles := [(3, h)] })] }
def tBufU : Machine.Unit := tRegsU [(4, 64), (5, 3), (6, 0x307), (7, 0x308)]
def tHnd : Handle :=
  { team := 1, base := 0x50000, size := 64, gen := 7, holder := some ⟨0, 0⟩, offer := none, opened := false }

theorem wit_plain : plain tWarp (tUnit false) ∧ (∀ o sc, relOk tWarp (tUnit false) .s o sc) :=
  ⟨⟨rfl, rfl⟩, fun _ sc _ => ⟨rfl, by cases sc <;> rfl⟩⟩
theorem wit_ScalarMemoryWords : checkGsa tWarp 1 64 8 0 0 = .ok 64 ∧ checkGsa tWarp 1 64 8 1 1 = .ok 64 ∧
    checkPad tWarp (tUnit false) 64 8 0 = .ok 0x40040 ∧ checkPad tWarp (tUnit false) 64 8 1 = .ok 0x40040 ∧
    SReady (tBuf tHnd) tBufU [4, 6] ∧ checkHnd (tBuf tHnd) tBufU 0x307 56 8 0 = .ok 0x50038 ∧
    checkHnd (tBuf tHnd) tBufU 0x307 56 8 1 = .ok 0x50038 ∧ acquireHeld (tUnit false) .s = false ∧
    loadsHeld (afterRel (tUnit false) .rlx .wg) .s = false ∧ ackUse tWarp (tUnit false) = 0 := by
  refine ⟨by decide, by decide, by decide, by decide, ⟨rfl, rfl, rfl, rfl⟩, by decide, by decide, rfl, rfl, rfl⟩
theorem wit_AccessFaults_scalar : SReady tWarp (tUnit false) [6, 5] ∧ checkGsa tWarp 1 3 2 0 0 = .bad 0x22 3 (misInfo 2 0) ∧
    checkPad tWarp (tUnit false) 3 2 1 = .bad 0x22 3 (misInfo 2 1) ∧
    checkGsa tWarp 1 (2 ^ 22) 8 1 1 = .bad 0x23 (2 ^ 22) 1 := ⟨⟨rfl, rfl, rfl, rfl⟩, by decide, by decide, by decide⟩
/-- The end of the slice and of the buffer, one byte inside and one outside; the wrong holder and the wrong generation. -/
theorem wit_AccessFaults_edges : Config.sliceBytes < (Config.sliceBytes - 1) % 2 ^ 22 + 2 ∧
    (Config.sliceBytes - 8) % 2 ^ 22 + 8 ≤ Config.sliceBytes ∧
    SMap.look ((tBuf tHnd).cluster tBufU.cluster).handles (0x307 / 256 % 256) = some tHnd ∧
    tHnd.size < 60 + 8 ∧ 56 + 8 ≤ tHnd.size ∧ tHnd.gen ≠ 0x308 % 256 ∧ tHnd.holder = some tBufU.id := by
  refine ⟨by decide, by decide, rfl, by decide, by decide, by decide, rfl⟩
theorem wit_ScalarAtomics : SReady tWarp (tUnit false) [8, 4, 9] ∧ checkPad tWarp (tUnit false) 64 8 2 = .ok 0x40040 ∧
    checkGsa tWarp 1 64 8 2 2 = .ok 64 ∧ checkGsa tWarp 1 64 4 2 2 = .ok 64 :=
  ⟨⟨rfl, rfl, rfl, rfl⟩, by decide, by decide, by decide⟩

/-! ## Synchronisation words of the S stream -/

theorem wit_FenceAndBarrierWords : (tUnit false).who.rset = 0 ∧ SReady tWarp (tUnit false) [6] ∧
    loadsHeld (afterRel (tUnit false) .acqrel .dev) .s = false ∧
    (barGet tWarp (tUnit false) 0 0).arrived.contains (ukey (tUnit false).id) = false ∧ 1 ≤ barFull tWarp (tUnit false) 0 ∧
    (barGet tWarp (tUnit false) 1 15).arrived.contains (ukey (tUnit false).id) = false ∧ 2 ≤ barFull tWarp (tUnit false) 1 ∧
    (barGet tWarp (tUnit false) 2 0).arrived.contains (ukey (tUnit false).id) = false ∧ 1 ≤ barFull tWarp (tUnit false) 2 ∧
    (barGet tWarp (tUnit false) 0 0).count = 0 ∧ SMap.look tWarp.wgs (tUnit false).who.wg = some tWg :=
  ⟨rfl, ⟨rfl, rfl, rfl, rfl⟩, rfl, by decide, by decide, by decide, by decide, by decide, by decide, rfl, rfl⟩

/-- A warp that waits in `mwait` with a timeout of 10 since mclk 0, at mclk 11. -/
def tMonU : Machine.Unit :=
  { tUnit false with sS := { (tUnit false).sS with park := some { why := .monitor 10, since := 0, tick := 0 } },
                     mon := some { addr := 64, fired := false } }
def tMon : State := { tState tMonU .s with clk := { State.reset.clk with now := 11 } }
theorem wit_MonitorAndHandleWords_mon : checkGsa tWarp 1 (64 % 2 ^ 32) 1 0 0 = .ok (64 % 2 ^ 32) ∧ SReady tWarp (tUnit false) [4] ∧
    (tUnit false).mon = none ∧ tMon.unit? tMonU.id = some tMonU ∧
    tMonU.sS.park = some { why := .monitor 10, since := 0, tick := 0 } ∧ 0 + 10 < tMon.clk.now ∧ tMonU.settled = true ∧
    tMonU.inHandler = false ∧ (handlerOf tMon tMonU).isSome = true :=
  ⟨by decide, ⟨rfl, rfl, rfl, rfl⟩, rfl, rfl, rfl, by decide, rfl, rfl, rfl⟩
/-- R172: `wapp.b64` with a = 143: imm32 must be 0, and a nonzero one takes cause 0x0015. -/
theorem test_wapp_imm : decodeL 0x7B0008F06000A80000000001 = .bad 0x15 0 := by decide
/-- R347: in the mclk of its expiry, since 0 and with a timeout of 10, an `mwait` may still retire: the timeout comes with the next mclk. -/
theorem test_mwait_expiry : let s := { tMon with clk := { State.reset.clk with now := 10 } }
    exec (.monitorTimeout ⟨0, 0⟩) s = .next s := rfl
/-- `s6` holds the handle 0x307; it is given to slot 1 of core 0 (s8 = 1), and taken where it is offered to the warp. -/
theorem wit_MonitorAndHandleWords_give : SReady (tBuf tHnd) tBufU [6, 8] ∧ relClear (tBuf tHnd) tBufU .s .cl ∧
    SMap.look ((tBuf tHnd).cluster tBufU.cluster).handles ((tBufU.rs 6).toNat % 2 ^ 16 / 256) = some tHnd ∧
    tHnd.gen = (tBufU.rs 6).toNat % 256 ∧ recipient tBufU 1 = some ⟨0, 1⟩ ∧ recipient tBufU 0x1000 = some ⟨0, 32⟩ :=
  ⟨⟨rfl, rfl, rfl, rfl⟩, ⟨rfl, rfl⟩, rfl, by decide, by decide, by decide⟩
theorem wit_MonitorAndHandleWords_take :
    let h : Handle := { tHnd with holder := none, offer := some ⟨0, 0⟩ }
    SReady (tBuf h) tBufU [9, 6] ∧ SMap.look ((tBuf h).cluster tBufU.cluster).handles ((tBufU.rs 6).toNat / 256 % 256) = some h ∧
      h.offer = some tBufU.id ∧ tHnd.offer ≠ some tBufU.id ∧ tHnd.opened = false :=
  ⟨⟨rfl, rfl, rfl, rfl⟩, rfl, rfl, by decide, rfl⟩

/-- `s4` = 5 names timeline 5, at 3; `s6` = 6 names one that is not allocated. -/
theorem wit_TimelineWords :
    let u := tRegsU [(4, 5), (5, 3), (6, 6)]
    let s := tRegs [(4, 5), (5, 3), (6, 6)]
    SReady s u [4, 5] ∧ timelineOf s 1 ((u.rs 4).toNat % 4096) = some ⟨.software, 3⟩ ∧ (u.rs 5).toNat ≤ 3 ∧
      relClear s u .s .dev ∧ SReady s u [6, 5] ∧ timelineOf s 1 ((u.rs 6).toNat % 4096) = none ∧
      SMap.look s.ctxs u.who.ctx = some tCtx :=
  ⟨⟨rfl, rfl, rfl, rfl⟩, by decide, by decide, ⟨rfl, rfl⟩, ⟨rfl, rfl, rfl, rfl⟩, by decide, rfl⟩

/-! ## Lane words -/

/-- An LA word without a rounding field, with guard `q0`, and an LM word. -/
def tLA (d a b c : Sel) (ty : LTy) (md : BitVec 7) : LA := ⟨false, ⟨false, 0⟩, d, a, b, c, .dyn, false, ty, md, 0⟩
def tLM (d a b c : Sel) (ty : LTy) (fn : BitVec 8) (off : BitVec 24) : LM :=
  ⟨false, ⟨false, 0⟩, d, a, b, c, ty, .rlx, .wg, false, false, fn, off⟩

theorem wit_LaneIntegerResults : LReady tLane tLaneUnit false (intRegs (tLA (.v 3) (.v 2) (.v 4) (.v 6) .u32 0) 3) ∧
    LReady tLane tLaneUnit false (intRegs (tLA (.v 4) (.v 2) (.small 1) (.v 0) .s64 0) 2) ∧ 0xFFFFFFFF < 2 ^ 32 ∧ 31 < 32 :=
  ⟨⟨rfl, rfl, rfl, rfl, rfl⟩, ⟨rfl, rfl, rfl, rfl, rfl⟩, by decide, by decide⟩
theorem wit_LaneCompareAndMaskWords : LReady tLane tLaneUnit false [(2, 1), (3, 1)] ∧ LReady tLane tLaneUnit false [] ∧
    tLaneUnit.dual = false ∧ (tLA (.q 2) (.q 1) (.q 0) (.v 0) .none 0).dst = .q 2 :=
  ⟨⟨rfl, rfl, rfl, rfl, rfl⟩, ⟨rfl, rfl, rfl, rfl, rfl⟩, rfl, rfl⟩

/-- Lane 0 holds 1.5 in v2 and 2.0 in v3, lane 1 infinities of both signs; with te = 16 an invalid operation traps. -/
def tFloatUnit (em : Mask) (mode : BitVec 32) : Machine.Unit :=
  { tLaneUnit with
    fpmode := mode,
    lS := { tLaneUnit.lS with v := [(64, 0x3FC00000), (65, 0x7F800000), (96, 0x40000000), (97, 0xFF800000)],
                              slot0 := { tLaneUnit.lS.slot0 with em := em } } }
theorem wit_LaneFloatResults :
    let u := tFloatUnit 1 1
    let w := tLA (.v 4) (.v 2) (.v 3) (.v 3) .f32 0
    LReady (tState u .l0) u false (laRegs w 3) ∧ tyFmt w.ty = some .f32 ∧
      (∀ e ∈ floatLanes u w .f32 (laneAct (tState u .l0) u false w.g) elAdd, e.2.2 &&& u.te = 0) ∧
      (∀ e ∈ floatLanes u w .f32 (laneAct (tState u .l0) u false w.g) elFma, e.2.2 &&& u.te = 0) :=
  ⟨⟨rfl, rfl, rfl, rfl, rfl⟩, rfl, by decide, by decide⟩
theorem wit_LaneFloatTests :
    let u := tFloatUnit 3 (1 + 0x7C00)
    let w := tLA (.v 4) (.v 2) (.v 3) (.v 3) .f32 0
    LReady (tState u .l0) u false (laRegs w 3) ∧
      (∃ e ∈ floatLanes u w .f32 (laneAct (tState u .l0) u false w.g) elAdd, e.2.2 &&& u.te ≠ 0) ∧
      (tLA (.q 2) (.v 2) (.v 3) (.v 0) .f32 0).dst = .q 2 :=
  ⟨⟨rfl, rfl, rfl, rfl, rfl⟩, by decide, rfl⟩
theorem wit_LaneConversionResults :
    let u := tFloatUnit 1 1
    let w := tLA (.v 4) (.v 2) (.v 3) (.v 0) .s32 0x2C
    LReady (tState u .l0) u false (selRegs w.dst (tyRegs w.ty) ++ selRegs w.a (tyRegs (convSrc w.md))) ∧
      (∀ l ∈ lanesOf (laneAct (tState u .l0) u false w.g),
        (convert (convSrc w.md) w.ty (u.effRm w.rnd) w.sat u.fzi u.fzo
          (pickElem (convSrc w.md) (w.md.toNat % 4) (u.opVal (convSrc w.md) 0 w.a l))).2 &&& u.te = 0) :=
  ⟨⟨rfl, rfl, rfl, rfl, rfl⟩, by decide⟩
theorem wit_FormatRoundTrip : (0x3FC00000 : Nat) < 2 ^ Fmt.width .f32 ∧ (∀ q, Fmt.decode .f32 0x3FC00000 ≠ .nan q) ∧
    (∀ q, Fmt.decode .f32 0x7F800000 ≠ .nan q) ∧ (∀ q, Fmt.decode .f32 0 ≠ .nan q) := by
  decide
theorem wit_LaneMoveResults : LReady tLane tLaneUnit false [(2, 1), (3, 1), (6, 1)] ∧
    lanesOf (laneAct tLane tLaneUnit false ⟨false, 0⟩) = 0 :: [1, 2, 3] ∧ laneAct tLane tLaneUnit false ⟨false, 0⟩ ≠ 0 ∧
    tLaneUnit.dual = false ∧ LReady tLane tLaneUnit false [] :=
  ⟨⟨rfl, rfl, rfl, rfl, rfl⟩, by decide, by decide, rfl, ⟨rfl, rfl, rfl, rfl, rfl⟩⟩
theorem wit_LaneReductionResults :
    let w := tLA (.v 4) (.v 2) (.v 0) (.v 0) .u32 0
    let f := combine w.ty w.md.toNat tLaneUnit.fzi tLaneUnit.fzo
    let act := laneAct tLane tLaneUnit false w.g
    LReady tLane tLaneUnit false (selRegs w.dst (tyRegs w.ty) ++ selRegs w.a (tyRegs w.ty)) ∧
      (treeGo f 5 ((List.range 32).map (fun l =>
        if act.getLsbD l then some (BitVec.ofNat 32 (2 ^ l), tLaneUnit.redVal w l) else none)) []).1 = some (15, 23) ∧
      (scanGo f ((lanesOf act).map (fun l => (l, tLaneUnit.redVal w l))) none).1 = [(0, 5), (1, 12), (2, 21), (3, 23)] ∧
      lanesOf (laneAct (tState (tFloatUnit 1 1) .l0) (tFloatUnit 1 1) false ⟨false, 0⟩) = [0] :=
  ⟨⟨rfl, rfl, rfl, rfl, rfl⟩, by decide, by decide, by decide⟩

/-- Guard `q0` names every active lane, `q2` none, and `q1` lanes 0 and 2: a jump, a word that goes on, and a division. -/
theorem wit_LaneControlWords : LReady tLane tLaneUnit false [] ∧
    laneAct tLane tLaneUnit false ⟨false, 0⟩ = (tLaneUnit.slot false).em ∧ laneAct tLane tLaneUnit false ⟨false, 0⟩ ≠ 0 ∧
    laneAct tLane tLaneUnit false ⟨false, 2⟩ = 0 ∧ laneAct tLane tLaneUnit false ⟨false, 1⟩ = 0b0101 ∧
    (tLaneUnit.slot false).stack = [] ∧ (tLaneUnit.slot (!false)).live = false ∧ debugged tLane tLaneUnit = false ∧
    tLaneUnit.dual = false ∧ (tLaneUnit.slot false).fly = [] ∧ tLaneUnit.pend = [] ∧
    (0 ≤ (8 : Int) + 55 ∧ (8 : Int) + 55 < (lLen tLane tLaneUnit : Int)) :=
  ⟨⟨rfl, rfl, rfl, rfl, rfl⟩, by decide, by decide, by decide, by decide, rfl, rfl, rfl, rfl, rfl, rfl, by decide⟩

/-! ## Memory, synchronisation and feed words of the lane stream -/

/-- Lanes 0 to 3 address bytes 0, 4, 8 and 12 of v2; v3 holds the handle 0x307 of buffer 3. -/
def tMemUnit : Machine.Unit :=
  { tLaneUnit with lS := { tLaneUnit.lS with v := [(65, 4), (66, 8), (67, 12), (96, 0x307), (97, 0x307), (98, 0x307), (99, 0x307)] } }
def tMem : State := { tState tMemUnit .l0 with clusters := [(0, { Cluster.init with handles := [(3, tHnd)] })] }
theorem wit_AccessFaults_lane :
    let w := tLM (.v 4) (.v 2) (.v 0) (.v 0) .u32 0 2
    LReady tMem tMemUnit false (selRegs w.dst (tyRegs w.ty) ++ selRegs w.a 1) ∧
      laneFail (checksL tMem tMemUnit .gsa w w.b 0 (laneAct tMem tMemUnit false w.g)) = some (0x22, 2, misInfo 4 0, 15) ∧
      (∃ l ∈ lanesOf (laneAct tMem tMemUnit false w.g), checkL tMem tMemUnit .gsa w w.b 0 l = .bad 0x22 2 (misInfo 4 0)) :=
  ⟨⟨rfl, rfl, rfl, rfl, rfl⟩, by decide, by decide⟩
theorem wit_LaneMemoryWords :
    let w := tLM (.v 4) (.v 2) (.v 3) (.v 3) .u32 0 0
    let act := laneAct tMem tMemUnit false w.g
    LReady tMem tMemUnit false [(4, 1), (2, 1), (3, 1)] ∧ plain tMem tMemUnit ∧ relOk tMem tMemUnit .l0 .rel .dev ∧
      laneFail (checksL tMem tMemUnit .gsa w w.b 0 act) = none ∧ laneFail (checksL tMem tMemUnit .pad w w.b 0 act) = none ∧
      laneFail (checksL tMem tMemUnit .hnd w w.b 0 act) = none ∧ laneFail (checksL tMem tMemUnit .gsa w w.c 1 act) = none ∧
      laneFail (checksL tMem tMemUnit .pad w w.c 1 act) = none ∧ laneFail (checksL tMem tMemUnit .hnd w w.c 1 act) = none ∧
      acquireHeld tMemUnit .l0 = false ∧ loadsHeld (afterRel tMemUnit .rel .dev) .l0 = false ∧ ackUse tMem tMemUnit = 0 :=
  ⟨⟨rfl, rfl, rfl, rfl, rfl⟩, ⟨rfl, rfl⟩, fun _ => ⟨rfl, rfl⟩, by decide, by decide, by decide, by decide, by decide,
    by decide, rfl, rfl, rfl⟩
theorem wit_LaneAtomics :
    let w (fn : BitVec 8) := tLM (.v 4) (.v 2) (.v 5) (.v 3) .u32 fn 0
    LReady tMem tMemUnit false [(4, 1), (2, 1), (5, 1), (3, 1)] ∧
      lmSpace (w 0).fn = .gsa ∧ laneFail (checksL tMem tMemUnit .gsa (w 0) (w 0).c 2 (laneAct tMem tMemUnit false ⟨false, 0⟩)) = none ∧
      lmSpace (w 4).fn = .pad ∧ laneFail (checksL tMem tMemUnit .pad (w 4) (w 4).c 2 (laneAct tMem tMemUnit false ⟨false, 0⟩)) = none ∧
      lmSpace (w 8).fn = .hnd ∧ laneFail (checksL tMem tMemUnit .hnd (w 8) (w 8).c 2 (laneAct tMem tMemUnit false ⟨false, 0⟩)) = none :=
  ⟨⟨rfl, rfl, rfl, rfl, rfl⟩, by decide, by decide, by decide, by decide, by decide, by decide⟩
theorem wit_LaneSyncWords :
    let w := tLM (.v 0) (.small 1) (.small 2) (.v 0) .none 0 0
    LReady tLane tLaneUnit false [] ∧ tLaneUnit.who.rset = 0 ∧ relOk tLane tLaneUnit .l0 .rel .cl ∧
      lanesOf (laneAct tLane tLaneUnit false w.g) = 0 :: [1, 2, 3] ∧ tLaneUnit.opVal .b32 0 w.a 0 = 1 ∧
      tLaneUnit.opVal .b32 0 w.b 0 % 16 = 2 ∧ 1 ≤ barFull tLane tLaneUnit 0 ∧ 1 ≤ barFull tLane tLaneUnit 1 ∧
      (barGet tLane tLaneUnit 1 2).arrived.contains (ukey tLaneUnit.id) = false ∧ (barGet tLane tLaneUnit 1 2).count = 0 ∧
      lanesOf (laneAct tLane tLaneUnit false ⟨false, 2⟩) = [] :=
  ⟨⟨rfl, rfl, rfl, rfl, rfl⟩, rfl, fun _ => ⟨rfl, rfl⟩, by decide, by decide, by decide, by decide, by decide, by decide,
    by decide, by decide⟩
theorem wit_LaneSyncWords_joined :
    (arriveBar (tLane.setUnit (tLaneUnit.done .l0 false [])) tLaneUnit 0 0 1).sch.parked = false ∧
      (arriveBar (tLane.setUnit (tLaneUnit.done .l0 false [])) tLaneUnit 1 2 1).sch.parked = false := by decide

/-- The machine whose warp holds tile half 1 and the drain buffer granted. -/
def tResv : Resv := { obj := 1, unit := ⟨0, 0⟩, prio := 0, arr := 0, granted := true }
def tFeed : State :=
  { tState tMemUnit .l0 with
    clusters := [(0, { Cluster.init with engine := { Engine.init with resv := [tResv, { tResv with obj := 8 }] } })] }
theorem wit_FeedWords :
    let w := tLA (.v 4) (.v 3) (.v 2) (.v 0) .b32 4
    let x := tLA (.v 4) (.v 2) (.v 0) (.v 0) .b32 0
    hasEngine tFeed tMemUnit = true ∧ laneAct tFeed tMemUnit false w.g ≠ 0 ∧ tMemUnit.dual = false ∧
      LReady tFeed tMemUnit false (selRegs w.a 1 ++ selRegs w.b 1) ∧ LReady tFeed tMemUnit false [] ∧
      resvOf tFeed tMemUnit 2 = none ∧ (engineOf tFeed tMemUnit).resv.length < 16 ∧ (resvOf tFeed tMemUnit 1).isSome = true ∧
      fld w.md.toNat 0 2 * 2 + fld w.md.toNat 2 1 = 1 ∧ resvOf tFeed tMemUnit 1 = some tResv ∧
      (∀ l ∈ lanesOf (laneAct tFeed tMemUnit false w.g), tMemUnit.opVal .b32 0 w.b l % 2 ^ 14 % 4 = 0) ∧
      LReady tFeed tMemUnit false (selRegs x.dst 1 ++ selRegs x.a 1) ∧ (resvOf tFeed tMemUnit 8).map (fun r => r.granted) = some true ∧
      (∀ l ∈ lanesOf (laneAct tFeed tMemUnit false x.g), tMemUnit.opVal .b32 0 x.a l % 2 ^ 17 % 4 = 0) :=
  ⟨rfl, by decide, rfl, ⟨rfl, rfl, rfl, rfl, rfl⟩, ⟨rfl, rfl, rfl, rfl, rfl⟩, by decide, by decide, by decide, by decide, by decide,
    by decide, ⟨rfl, rfl, rfl, rfl, rfl⟩, by decide, by decide⟩

/-! ## Commands of the S stream -/

/-- The machine with memory bytes in SRAM. -/
def tBytes (s : State) (l : List Host.Cell) : State := { s with mem := { s.mem with sram := l } }

/-- s8 names the destination, s9 the source and s12 on a group: 32 bytes, 2 rows 64 bytes apart, 1 plane. -/
def tCopyRegs : SMap Word := [(8, 64), (9, 0x3000), (10, 0x100), (12, 32), (13, 2), (14, 64), (15, 64), (16, 1)]
theorem wit_CopyWords :
    let s := tRegs tCopyRegs
    let u := tRegsU tCopyRegs
    u.who.producer = true ∧ relClear s u .s .dev ∧ (jobsOf s u).length < 64 ∧ ccwSts (u.rs 12).toNat = 0 ∧
      SReady s u (8 :: 9 :: groupRegs 12 7) ∧ copyFail s u 1 (dirEnds .g2g) 8 9 12 = none ∧
      copyFail s u 4 (dirEnds .g2g) 8 9 12 = none ∧ copyFail s u 7 (dirEnds .g2g) 8 9 12 = none ∧
      copyFail s u 1 (dirEnds .d2p) 8 9 12 = none ∧ copyFail s u 1 (.scale, .gsa) 8 9 12 = none :=
  ⟨rfl, ⟨rfl, rfl⟩, by decide, by decide, ⟨rfl, rfl, rfl, rfl⟩, by decide, by decide, by decide, by decide, by decide⟩
/-- One receiver, with the credit at 0x100: none where memory is empty, one where it holds 1. -/
theorem wit_CopyWords_multicast :
    let l : SMap Word := [(9, 0x3000), (10, 0x100), (12, 32), (14, 1)]
    let s := tRegs l
    let u := tRegsU l
    SReady s u (10 :: 9 :: groupRegs 12 4) ∧ cpmFail s u 10 9 12 = none ∧ parkedAs u .reported = false ∧
      creditsReady s 0x100 1 = false ∧ creditsReady (tBytes s [(0x100, 1)]) 0x100 1 = true ∧
      cpmFail (tBytes s [(0x100, 1)]) u 10 9 12 = none :=
  ⟨⟨rfl, rfl, rfl, rfl⟩, by decide, by decide, by decide, by decide, by decide⟩

/-- A descriptor at 64 of a collective of one element of type 5, of group 0 with one member, and engine timeline 0. -/
def tColl : State :=
  tBytes (tCtxS { tCtx with groups := [(0, [0])], tls := [(0, ⟨.engine, 0⟩)] }) [(80, 1), (84, 5)]
theorem wit_BatchAndCollectiveWords : SReady tWarp (tUnit false) [4] ∧ SReady tWarp (tUnit false) [6] ∧
    ((tUnit false).rs 6).toNat ≤ (tUnit false).lastBatch ∧ batchOpen tWarp (tUnit false) 0 = false ∧
    (tUnit false).lastBatch < ((tUnit false).rs 4).toNat ∧ SReady tColl (tUnit false) [4] ∧
    checkGsa tColl 1 64 64 7 0 = .ok 64 ∧ bad64 tColl (tUnit false) 64 = false ∧
    (∀ op, op < 5 → collBad tColl 1 (collOf op (read64 tColl (tUnit false) 64)) (read64 tColl (tUnit false) 64) = none) ∧
    relClear tColl (tUnit false) .s .dev :=
  ⟨⟨rfl, rfl, rfl, rfl⟩, ⟨rfl, rfl, rfl, rfl⟩, by decide, by decide, by decide, ⟨rfl, rfl, rfl, rfl⟩, by decide, by decide,
    by decide, ⟨rfl, rfl⟩⟩

/-- A packet at 64: S image of 64 words at 0x1000, L image of 64 words at 0x2000, one team of one warp. -/
def tLaunch : State := tBytes tWarp [(65, 0x10), (69, 0x20), (76, 64), (84, 64), (92, 1)]
theorem wit_WorkWords_launch :
    let p := packetOf (read64 tLaunch (tUnit false) 64)
    SReady tLaunch (tUnit false) [4] ∧ teamLeader (tUnit false) = true ∧ relClear tLaunch (tUnit false) .s .dev ∧
      checkGsa tLaunch 1 64 64 7 0 = .ok 64 ∧ bad64 tLaunch (tUnit false) 64 = false ∧ readLads tLaunch (unitWho ⟨0, 0⟩) 1 p = .ok [] ∧
      fld (tUnit false).who.gridid.toNat 32 4 < 10 ∧ packetCheck tLaunch 1 p (some (ladingsOf p.ladn [])) = none ∧
      (kidsOf tLaunch 1 p.cls).length < 256 ∧ (SMap.look tLaunch.ctxs 1).map (fun k => k.kids.length) = some 4 :=
  ⟨⟨rfl, rfl, rfl, rfl⟩, by decide, ⟨rfl, rfl⟩, by decide, by decide, by decide, by decide, by decide, by decide, by decide⟩
theorem wit_WorkWords_take :
    let s := tRegs [(4, 2)]
    let u := tRegsU [(4, 2)]
    SReady s u [4, 8, 9] ∧ parkedAs u .reported = false ∧ (listOf s 1 2).map (fun w => (w.items, w.waiters)) = some (1, []) ∧
      SReady s (tRegsU [(4, 2)]) [] :=
  ⟨⟨rfl, rfl, rfl, rfl⟩, rfl, by decide, ⟨rfl, rfl, rfl, rfl⟩⟩
theorem wit_WorkWords_quiet :
    let u := { tUnit false with sS := { (tUnit false).sS with park := some { why := .reported, since := 0, tick := 0 } } }
    SReady (tState u .s) u [] ∧ parkedAs u .reported = true := ⟨⟨rfl, rfl, rfl, rfl⟩, by decide⟩
theorem wit_WorkWords_append :
    let w := tLA (.v 0) (.v 2) (.small 2) (.v 0) .b32 0
    let items := (lanesOf (laneAct tLane tLaneUnit false w.g)).map (fun l =>
      (tLaneUnit.opVal .b32 0 w.b l % 4096, tLaneUnit.opVal w.ty 0 w.a l % 2 ^ 32))
    LReady tLane tLaneUnit false (selRegs w.a 1 ++ selRegs w.b 1) ∧ relClear tLane tLaneUnit .l0 .dev ∧ items.length = 4 ∧
      (∀ e ∈ items, (listOf tLane 1 e.1).map (fun x => x.itemSize) = some 4) ∧ listsRoom tLane 1 items = true :=
  ⟨⟨rfl, rfl, rfl, rfl, rfl⟩, ⟨rfl, rfl⟩, by decide, by decide, by decide⟩

/-! ## Matrix words -/

/-- A lockmaster with other S registers. -/
def tLmU (l : SMap Word) : Machine.Unit := { tUnit true with sS := { (tUnit true).sS with s := l } }
def tLm (l : SMap Word) : State := tState (tLmU l) .s
theorem wit_MatrixWords_ready : SReady (tLm []) (tLmU []) [4, 5, 6, 7] ∧ (tLmU []).who.isLm = true ∧
    (engineOf (tLm []) (tLmU [])).queue.length < 8 ∧ (tLmU []).mxWait = none ∧
    mmaFail (tLm []) (tLmU []) (.tile 0 false) (.tile 1 false) 12 = none :=
  ⟨⟨rfl, rfl, rfl, rfl⟩, rfl, by decide, rfl, by decide⟩

/-- A split table at 0x400 of one row with no hot row, hot region at 0x800, in a state; s4 and s5 name the table and 1. -/
def tTable (state : Byte) : State :=
  tBytes (tLm [(4, 0x400), (5, 1)]) ([(0x409, 8), (0x40C, 1)] ++ (if state = 0 then [] else [(0x422, state)]))
theorem wit_MatrixWords_tables :
    let u := tLmU [(4, 0x400), (5, 1)]
    SReady (tTable 1) u [6, 7, 4, 8] ∧ msplFail (tTable 1) u 6 4 8 = none ∧ tabFail (tTable 1) u 0x400 .mig = none ∧
      tabFail (tTable 0) u 0x400 .reg = none ∧ tabFail (tTable 1) u 0x400 .use = none ∧ mslFail (tTable 1) u 6 7 8 = none :=
  ⟨⟨rfl, rfl, rfl, rfl⟩, by decide, by decide, by decide, by decide, by decide⟩
/-- A drain to the buffer; and a lockmaster whose word 3 has completed with status `w`. -/
def tDone (w : Word) : State :=
  let u := { tUnit true with sS := { (tUnit true).sS with park := some { why := .mxDone 3, since := 0, tick := 0 } } }
  { tState u .s with clusters := [(0, { Cluster.init with engine := { Engine.init with doneNum := 3, doneStat := some (3, w) } })] }
theorem wit_MatrixWords_status :
    mdrnFail (tLm []) (tLmU []) 0 6 = none ∧ (tUnit true).who.rset = 0 ∧
      (∀ w, ((tDone w).unit? ⟨0, 32⟩).bind (fun u => u.mxWait) = some 3) ∧
      (∀ w, ((tDone w).unit? ⟨0, 32⟩).bind (fun u => (engineOf (tDone w) u).doneStat) = some (3, w)) ∧
      BitVec.getLsbD (0 : Word) 17 = false ∧ BitVec.getLsbD (0x20000 : Word) 17 = true :=
  ⟨by decide, rfl, fun _ => rfl, fun _ => rfl, by decide, by decide⟩

/-- An engine with one queued word, and one whose queue is empty and where two units ask for tile half 1. -/
def tTurn (k : MKind) : State :=
  { tLock with clusters := [(0, { Cluster.init with engine := { Engine.init with
      queue := [{ num := 1, seq := 1, kind := k, arr := 0, done := 0, idx := 8, raw := 0 }] } })] }
theorem wit_MatrixTurns :
    (((tTurn (.mzero 7)).cluster 0).engine.queue.head?).map (fun w => (wordReady (tTurn (.mzero 7)) 0 w, w.kind.passes)) =
        some (true, 1) ∧
      (((tTurn (.mma 0 none none 0 1 0x7000)).cluster 0).engine.queue.head?).map
        (fun w => wordReady (tTurn (.mma 0 none none 0 1 0x7000)) 0 w) = some true ∧
      nextGrant { Engine.init with resv := [{ tResv with granted := false, arr := 1 },
        { tResv with granted := false, prio := 3, arr := 2, unit := ⟨0, 1⟩ }] } 1 1 =
        some { tResv with granted := false, prio := 3, arr := 2, unit := ⟨0, 1⟩ } :=
  ⟨by decide, by decide, by decide⟩

/-! ## Results -/

/-- An imprecise fault; a warp with s6 in flight, held by a marker or not; one with an imprecise fault. -/
def tImp : Imp :=
  { code := 0x42, addr := 64, info := 0, idx := 3, strm := .s, raw := 0, act := 0, origWarp := 0, wgNum := 0, other := false,
    origCode := 0x42, zero := none, zdst := none, held := false, at_ := 0 }
def tLate (m : Bool) (due : Nat) : Machine.Unit :=
  { tUnit false with sS := { (tUnit false).sS with fly := [⟨due, 0, .s 6 9⟩], marked := m }, pend := [tPend] }
def tLateP : Machine.Unit := { tUnit false with sS := { (tUnit false).sS with fly := [⟨0, 0, .p 3 true⟩], marked := true } }
def tLateL : Machine.Unit :=
  { tLaneUnit with lS := { tLaneUnit.lS with
      slot0 := { tLaneUnit.lS.slot0 with fly := [⟨0, 0, .v 4 15 (List.replicate 32 7)⟩], marked := true } } }
def tAt (s : State) (n : Nat) : State := { s with clk := { s.clk with now := n } }
def tFaulty : Machine.Unit := { tUnit false with trap := { (tUnit false).trap with imp := [tImp] } }
theorem wit_ResultEvents_fixed : (tState (tLate true 0) .s).unit? ⟨0, 0⟩ = some (tLate true 0) ∧ (tLate true 0).id = ⟨0, 0⟩ ∧
    (tLate true 0).sS.marked = true ∧ (tLate true 0).sS.fly = [⟨0, 0, .s 6 9⟩] ∧ tLateP.sS.fly = [⟨0, 0, .p 3 true⟩] ∧
    0 ≤ pulses (tState (tLate true 0) .s) 0 ∧ pulses (tState (tLate true 9) .s) 0 < 9 ∧
    (tLate false 0).sS.marked = false ∧ (tLate false 0).sS.park = none ∧
    tLateL.lS.slot0.marked = true ∧ tLateL.lS.slot0.fly = [⟨0, 0, .v 4 15 (List.replicate 32 7)⟩] :=
  ⟨rfl, rfl, rfl, rfl, rfl, by decide, by decide, rfl, rfl, rfl, rfl⟩
theorem wit_ResultEvents_arrive :
    let u := tLate true 0
    u.pend.find? (fun q => decide (q.id = tPend.id)) = some tPend ∧ pendReady (tState u .s) u tPend = true ∧ tPend.what = .tclk ∧
      tPend.dst = .s 7 ∧ tPend.saved = false ∧ tPend.flip = [] := ⟨rfl, by decide, rfl, rfl, rfl, rfl⟩
/-- A trap whose entry waits: settled, or with a result outstanding. -/
def tOwing (l : List Pend) : Machine.Unit :=
  { tUnit false with pend := l }.owing ⟨.s, ⟨true, false, 0x20, 0, 7, 0, 9, 0, 0, 0, 0⟩, none, none⟩
theorem wit_ResultEvents_traps :
    tFaulty.nextImp 1 = some tImp ∧ tFaulty.trap.due = none ∧ tFaulty.inHandler = false ∧ tFaulty.stopped = false ∧
      tFaulty.settled = true ∧ (handlerOf (tAt (tState tFaulty .s) 1) tFaulty).isSome = true ∧ (tOwing []).trap.due.isSome = true ∧
      (tOwing []).settled = true ∧ (tOwing [tPend]).settled = false ∧ (handlerOf (tState (tOwing []) .s) (tOwing [])).isSome = true :=
  ⟨rfl, rfl, rfl, rfl, rfl, rfl, rfl, rfl, rfl, rfl⟩

/-! ## The memory system -/

/-- A store of one byte at `a` from die 0, and the machine in which it is outstanding, at mclk 2000. -/
def tStore (a : Nat) (r : Nat) (ap : Bool) : PStore :=
  { seq := 5, die := 0, unit := none, strm := .s, lqSeq := 0, ef := false, bytes := [(a, 1)], full := false, idx := 0, raw := 0,
    act := 0, applied := ap, sent := true, out := true, sentAt := 0, retrans := r, lostAck := false, ord := 0, rset := 0, cseq := 0, via := none, back := none }
def tSend (p : PStore) : State :=
  { tWarp with fl := { tWarp.fl with stores := [p], seq := 6 }, clk := { tWarp.clk with now := 2000 } }
theorem wit_StoreEvents_store :
    storeAt (tSend (tStore 64 0 false)) 5 = some (tStore 64 0 false) ∧ storeReady (tSend (tStore 64 0 false)) (tStore 64 0 false) = true ∧
      (tStore 64 0 false).die = (tStore 64 0 false).home ∧ storeReady (tSend (tStore (2 ^ 29) 0 false)) (tStore (2 ^ 29) 0 false) = true ∧
      (tStore (2 ^ 29) 0 false).die ≠ (tStore (2 ^ 29) 0 false).home ∧
      linked (tSend (tStore (2 ^ 29) 0 true)) 0 (tStore (2 ^ 29) 0 true).home = true ∧
      ackLate (tSend (tStore (2 ^ 29) 2 true)) (tStore (2 ^ 29) 2 true) = true ∧
      ackLate (tSend (tStore (2 ^ 29) 3 true)) (tStore (2 ^ 29) 3 true) = true ∧
      storeAt (tSend (tStore (2 ^ 29) 4 true)) 5 = some (tStore (2 ^ 29) 4 true) :=
  ⟨rfl, by decide, by decide, by decide, by decide, by decide, by decide, by decide, rfl⟩
/-- A second write-back of a dead issuer's atomic to a part of a poisoned sector; the home keeps the number of the first store. -/
theorem wit_StoreEvents_back :
    let p := { tStore 64 0 false with via := some (.hub 0) }
    let s := { tSend p with mem := { (tSend p).mem with badHome := [2], recent := [(p.path, [5])] } }
    storeReady s p = true ∧ s.mem.badHome.contains p.sector = true ∧ p.full = false ∧ p.via.isSome = true ∧ p.unit = none ∧
      (SMap.get [] s.mem.recent p.path).contains 5 = true := by
  refine ⟨by decide, by decide, rfl, rfl, rfl, by decide⟩
theorem wit_StoreEvents_loss :
    let p := { tStore (2 ^ 29) 3 true with unit := some ⟨0, 0⟩ }
    ackLate (tSend p) p = true ∧ (tSend p).unit? ⟨0, 0⟩ = some (tUnit false) ∧ (tUnit false).trap.imp.length < 8 ∧
      (∀ q ∈ (tSend p).fl.stores, q.die < 8) ∧ p.sector < 2 ^ 27 := by
  refine ⟨by decide, rfl, by decide, ?_, by decide⟩
  intro q h; simp only [tSend, List.mem_singleton] at h; subst h; decide
theorem wit_ScalarMemoryWords_ef : wayFree tWarp 0 (lineOf (2 ^ 29)) = true ∧ gsaDie (2 ^ 29) ≠ 0 := by decide
/-- An atomic at the home slice, and the warp that waits for its value. -/
def tAtom : PAtom :=
  { seq := 3, unit := ⟨0, 0⟩, strm := .s, op := .add, size := 4, place := .slice, die := 0, accs := [⟨0, 64, 1, 0⟩], pend := 3, idx := 8, raw := 0, act := 0,
    stamp := none }
theorem wit_StoreEvents_atom :
    let s := { tState { tUnit false with pend := [{ tPend with id := 3, what := .atom 3 }] } .s with
               fl := { State.reset.fl with atoms := [tAtom] } }
    s.fl.atoms.find? (fun x => decide (x.seq = 3)) = some tAtom ∧ atomReady s tAtom = true ∧ atomLinked s tAtom = true ∧
      s.mem.badHome.contains (sectorOf 64) = false := by decide

/-- A warp of an eligible workgroup with a shadow, and the same where the workgroup has been rolled back. -/
def tShadow (rolled : Bool) : State :=
  { tWarp with
    wgs := [(1, { tWg with eligible := true, rolled := rolled, shadow := some { units := [tUnit false], pad := [], arr := [] } })],
    ctxs := [(1, { tCtx with shadows := [(0, { off := 0x20000, size := 0x8000 })] })] }
theorem wit_StorageEvents : (tShadow false).unit? ⟨0, 0⟩ = some (tUnit false) ∧
    (SMap.look (tShadow false).wgs 1).map (fun w => (eligibleNow (tShadow false) w, w.rolled)) = some (true, false) ∧
    (SMap.look (tShadow true).wgs 1).map (fun w => w.rolled) = some true ∧ (tUnit false).who.isLm = false := by
  refine ⟨rfl, by decide, by decide, rfl⟩

/-! ## Engines -/

/-- A copy of one element of 8 bytes from 0x3000 to 64, with the parts `moved`. -/
def tJob (moved : List (Nat × Nat)) : Job :=
  { id := 4, unit := ⟨0, 0⟩, ctx := 1, wgroup := 1, wgNum := 0, warp := 0, grid := 1, cls := 0, src := .gsa 0x3000, dst := .gsa 64,
    es := 3, len := 8, rows := 1, srp := 0, drp := 0, planes := 1, spp := 0, dpp := 0, recv := [], part := 0, coll := none,
    moved := moved, pre := [], batch := none, idx := 8, raw := 0, die := 0, barge := 0, code := 0, info := 0, seq := 4 }
def tCopy (moved : List (Nat × Nat)) : State := { tWarp with fl := { tWarp.fl with jobs := [tJob moved] } }
theorem wit_EngineEvents_copy :
    (tCopy []).fl.jobs.find? (fun x => decide (x.id = 4)) = some (tJob []) ∧ (tJob []).todo ≠ [] ∧
      (tJob [(0, 8)]).todo = [] ∧ jobPick (tCopy []) (tJob []) = (0, 8) ∧ jobSpan (tJob []) 0 = (0, 0, 8) ∧ outranked (tCopy []) (tJob []) = false ∧
      admitted (tCopy []) 1 (gsaCore 0x3000) (0x3000 % 2 ^ 22) 1 0 = true ∧ admitted (tCopy []) 1 (gsaCore 64) (64 % 2 ^ 22) 1 1 = true ∧
      (∀ i, i < 8 → sectorBad (tCopy []) 0 (0x3000 + i) = false ∧ (tCopy []).mem.badHome.contains (sectorOf (64 + i)) = false) :=
  ⟨rfl, by decide, by decide, by decide, by decide, by decide, by decide, by decide, by decide⟩
/-- A copy of one element in two rows to one place: the later row has moved first. -/
theorem wit_EngineEvents_late :
    let j := { tJob [(8, 8)] with rows := 2, srp := 8, pre := [(4 * 64, (0, 9))] }
    j.todo = [(0, 8)] ∧ jobPick (tCopy []) j = (0, 8) ∧ jobSpan j 0 = (0, 0, 8) ∧ SMap.look j.pre (4 * 64) = some (0, 9) ∧
      beaten j 0 (.sram [64]) = true := by
  refine ⟨by decide, by decide, by decide, rfl, by decide⟩

/-- The machine whose context maps 4 GiB from DVA 0 by one leaf of the far tier; its tables lie at 0 and 0x8000 there. -/
def tLeaf : BitVec 64 := 0x100000A9B
def tPaged (data : List Host.Cell) : State :=
  { tWarp with
    mem := { tWarp.mem with far := [(0, 0x81), (1, 0x80), (0x8000, 0x9B), (0x8001, 0x0A), (0x8004, 1)] ++ data },
    ctxs := [(1, { tCtx with root := 0x81, groups := [(0, [0])], tls := [(0, ⟨.engine, 0⟩)] })],
    fl := { tWarp.fl with walks := [{ id := 2, share := 0, ctx := 1, dva := 0x5000 }], invals := [{ id := 3, ctx := 1, first := 0, last := 4095, moved := none }] } }
theorem wit_EngineEvents_walk : (tPaged []).fl.walks.find? (fun x => decide (x.id = 2)) = some { id := 2, share := 0, ctx := 1, dva := 0x5000 } ∧
    walk (tPaged []) 1 0x5000 = .leaf tLeaf ∧ walk (tPaged []) 1 (2 ^ 32 - 1) = .leaf tLeaf ∧ walk (tPaged []) 1 (2 ^ 32) = .absent ∧
    shareWalk (tPaged []) 1 0x5000 = .leaf tLeaf ∧ shareWalk (tPaged []) 1 (2 ^ 32) = .absent ∧
    (tPaged []).fl.invals.find? (fun x => decide (x.id = 3)) = some { id := 3, ctx := 1, first := 0, last := 4095, moved := none } :=
  ⟨rfl, by decide, by decide, by decide, by decide, by decide, rfl⟩
/-- A collective of one member and one element of type 5 between two mapped places. -/
def tCollOp : Coll := { op := 0, src := 0x1000, dst := 0x2000, elems := 1, ty := 5, red := 0, group := 0, root := 0, tl := 0, val := 1 }
theorem wit_EngineEvents_collective :
    let s := { tPaged [] with fl := { (tPaged []).fl with jobs := [{ tJob [] with coll := some tCollOp }] } }
    collSize s 1 0 = some 1 ∧ readRun s 1 0x1000 (1 * collBytes 5) = .ok [0, 0, 0, 0] ∧
      collOutranked s { tJob [] with coll := some tCollOp } = false ∧ ({ tJob [] with coll := some tCollOp } : Job).collWait s tCollOp = none ∧
      (putDva (touchDva (readDone s (jobWho 4)) 1 0x1000 4) 1 0x2000 [0, 0, 0, 0] 4).2 = none := by
  refine ⟨by decide, rfl, by decide, by decide, by decide⟩
theorem wit_EngineEvents_park :
    let u := { tUnit false with sS := { (tUnit false).sS with park := some { why := .credit 0x100 1, since := 0, tick := 0 } } }
    let s := tBytes (tState u .s) [(0x100, 1)]
    s.unit? ⟨0, 0⟩ = some u ∧ creditsReady s 0x100 1 = true ∧
      quiescent (tCtxS { tCtx with lists := [] }) 1 = false ∧ quiescent { tCtxS { tCtx with lists := [] } with units := [] } 1 = true := by
  refine ⟨rfl, by decide, by decide, by decide⟩

/-! ## Queues and grids -/

/-- Queue 1, of a tenant or of none, whose ring is at DVA 0 and holds the packet of `tLaunch` in entry 0. -/
def tQueue (t : Option Nat) : HwQueue :=
  { desc := { ctx := 1, tenant := t, ringDva := true, ring := 0, k := 4, vector := 0, raise := false, bell := 0x100, ctr := none },
    tidx := 0, head := 0, tail := 1, stat := 0, enqs := [] }
def tQueued (teams : Byte) : State :=
  { tPaged ([(2 ^ 32 + 1, 0x10), (2 ^ 32 + 5, 0x20), (2 ^ 32 + 12, 64), (2 ^ 32 + 20, 64)] ++
      (if teams = 0 then [] else [(2 ^ 32 + 28, teams)])) with queues := [(1, tQueue none)] }
theorem wit_QueueEvents_packet :
    (match headOf (tQueued 1) (.hw 1) with
      | .some h => h.ctx = 1 ∧ (∃ p, h.pkt = some p ∧ readLads (tQueued 1) (queueWho 1) 1 p = .ok [] ∧ packetCheck (tQueued 1) 1 p (some []) = none)
      | _ => False) ∧ scanPick (tQueued 1) = some (.hw 1) := by
  refine ⟨⟨rfl, _, rfl, ?_, ?_⟩, ?_⟩ <;> decide
theorem wit_QueueEvents_reason :
    (match headOf (tQueued 0) (.hw 1) with
      | .some h => (∃ p, h.pkt = some p ∧ packetCheck (tQueued 0) 1 p (some []) = some 3)
      | _ => False) ∧ scanPick (tQueued 0) = some (.hw 1) := by
  refine ⟨⟨_, rfl, ?_⟩, ?_⟩ <;> decide
theorem wit_QueueEvents_bell : let s := { tWarp with queues := [(1, tQueue (some 6))] }
    tenantQueue s 6 0 = some (1, tQueue (some 6)) ∧ tenantQueue s 6 1 = none ∧ tenantQueue s 5 0 = none := by decide
def tKid : Child := { pkt := { tPkt with lm := false }, lads := [], depth := 1, parent := 1, enq := 0, num := 2 }
theorem wit_QueueEvents_child :
    let s := tCtxS { tCtx with kids := [[tKid], [], [], []] }
    (match headOf s (.child 1 0) with | .some h => h.kid = some tKid | _ => False) ∧ scanPick s = some (.child 1 0) := by
  refine ⟨rfl, ?_⟩; decide

/-- A grid that has been accepted and waits, of a class, started or not. -/
def tWait (cls : Nat) (started : Bool) : Grid :=
  { tGrid with pkt := { tPkt with cls := cls, lm := false, cen := true, ctl := 5 }, started := started, num := 2, order := 1,
               slabs := if started then [{ dies := [0], next := 0, dbars := [Barrier.init] }] else [] }
def tGrids (g : Grid) : State := { tWarp with grids := [(1, tGrid), (2, g)], nextKey := 3 }
theorem wit_GridEvents_start :
    startDies (tGrids { tWait 0 false with pkt := { (tWait 0 false).pkt with slabs := 0 } })
        { tWait 0 false with pkt := { (tWait 0 false).pkt with slabs := 0 } } = some [[1]] ∧
      placeable (tGrids (tWait 0 true)) (woken (tGrids (tWait 0 true))) (tWait 0 true) =
        some (0, [{ cluster := 0, wgs := [(1, 0)], bufs := [] }]) := by
  refine ⟨by decide, by decide⟩
theorem wit_GridEvents_end :
    (match stageAll { tWarp with wgs := [(1, { tWg with staged := false })] } (gridWho 1) 1 [{ tWg with staged := false }] [] with
      | .ok _ => True | _ => False) ∧
      canRetire { tGrids tGrid with teams := [], grids := [(1, tGrid)] } 1 tGrid = true ∧
      ctrStep { tGrids tGrid with teams := [], grids := [(1, tGrid)] } 1 tGrid = .go ∧
      missDue { tGrids (tWait 3 true) with clk := { State.reset.clk with now := 2000 } } (tWait 3 true) = true ∧
      timelineOf (tGrids tGrid) 1 5 = some ⟨.software, 3⟩ := by
  refine ⟨trivial, by decide, by decide, by decide, by decide⟩

/-- Every cluster of die 0 closed to context 1, so that a grid of it cannot be placed there. -/
def tClosed : Preempt :=
  { id := 90, for_ := none, ctx := 1, clusters := List.range 32, at_ := 0, limit := 500000, running := true, wasReset := false }
theorem wit_SchedulerEvents_request :
    let s := { tGrids (tWait 3 true) with
      preempts := [tClosed], ctxs := [(1, tCtx), (7, tCtx)],
      units := [(ukey ⟨0, 0⟩, { tUnit false with who := { tWho false with ctx := 7 } })] }
    requestDue s 2 (tWait 3 true) = some 0 ∧ (residents s 0).map (fun u => u.who.ctx) = [7] := by decide
theorem wit_SchedulerEvents_timer :
    let s := { tGrids tGrid with preempts := [tClosed], clk := { State.reset.clk with now := 500000 } }
    s.preempts.find? (fun x => decide (x.id = 90)) = some tClosed ∧ tClosed.at_ + tClosed.limit ≤ s.clk.now := by decide
/-- A team of one warp parked at a timeline for longer than the threshold, while another grid of its context waits. -/
def tParkedU : Machine.Unit :=
  { tUnit false with sS := { (tUnit false).sS with park := some { why := .timeline 5 9, since := 0, tick := 0 } } }
def tEvict : State :=
  { tGrids (tWait 0 true) with
    preempts := [tClosed], units := [(ukey ⟨0, 0⟩, tParkedU)], clk := { State.reset.clk with now := 300000 },
    teams := [(1, { tTeam with lm := false })], ctxs := [(1, { tCtx with evictDva := some 0 })] }
theorem wit_SchedulerEvents_evict : evictable tEvict 1 { tTeam with lm := false } = true := by decide +kernel
/-- The same team written out, woken, with its dies free again. -/
def tOut : Team :=
  { tTeam with lm := false, evicted := some {
      units := [tParkedU], wgs := [(1, tWg)], pads := [], handles := [], bufs := [], engine := Engine.init, dArr := [], woken := true } }
theorem wit_SchedulerEvents_readmit :
    let s := { tWarp with units := [], wgs := [], teams := [(1, tOut)] }
    tOut.evicted.isSome = true ∧ woken s tOut = true ∧ (readmitSpots s tOut).isSome = true := by decide
/-- Two replicas at a compare that agree, one that has come and one that has not, and a minority of three. -/
def tRep (slot rep ways : Nat) (at_ : Option (List Byte)) (out : Bool) : Machine.Unit :=
  { tUnit false with
    id := ⟨0, slot⟩, who := { tWho false with rset := 4, rep := rep, leader := decide (rep = 0), rmode := BitVec.ofNat 64 (ways - 1) },
    assay := { (tUnit false).assay with at_ := at_ }, outvoted := out }
def tReps (l : List Machine.Unit) (now : Nat) : State :=
  { tWarp with units := l.map (fun u => (ukey u.id, u)), clk := { State.reset.clk with now := now } }
theorem wit_SchedulerEvents_replicas :
    let a := tReps [tRep 0 0 2 (some [1]) false, tRep 1 1 2 (some [1]) false] 0
    let b := tReps [tRep 0 0 2 (some [1]) false, tRep 1 1 2 (some [2]) false] 0
    let c := tReps [tRep 0 0 2 (some [1]) false, tRep 1 1 2 none false] 4000000
    let d := tReps [tRep 0 0 3 none false, tRep 1 1 3 none false, tRep 2 2 3 none true] 0
    setReady (setUnits a 4) = true ∧ (setUnits a 4).map (fun u => u.id.slot) = [0, 1] ∧ setReady (setUnits b 4) = true ∧
      setWgs (setUnits b 4) = [1] ∧ (∀ x, SMap.look b.wgs 1 = some x → eligibleNow b x = false ∨ x.rolled = true) ∧
      setLate c (setUnits c 4) = true ∧ (copyDue d 4).map (fun p => (p.1.id.slot, p.2.id.slot)) = some (2, 1) := by
  refine ⟨by decide, by decide, by decide, by decide, ?_, by decide, by decide⟩
  intro x h; cases h; exact .inl rfl
theorem wit_SchedulerEvents_signatures :
    (tRep 0 0 2 (some [1]) false).finalSig = (tRep 1 1 2 (some [1]) false).finalSig ∧
      (tRep 0 0 2 (some [1]) false).finalSig ≠ (tRep 1 1 2 (some [2]) false).finalSig := by decide

/-! ## Hosts and tenants -/

/-- A tenant of 256 MiB with page 0 plain, page 1 compressed, page 2 migrating, and every other page zero. -/
def tTen : Tenant :=
  { size := 2 ^ 28, queues := 1, port := 0,
    pages := [(0, 0x2000000000100005), (1, 0x4000000000110000), (2, 0x6000000000120003)],
    side := [(2, 0x130000)], cold := [], dir := [(0, .exclusive)], poison := [3], comp := [], wbuf := [], fresh := [], key := none,
    nvKey := none, decs := [(0, 2 ^ 29, 2 ^ 28)], active := true, linkUp := true, crashed := false, heldVecs := [2], events := [] }
def tHost (x : Tenant) : State := { tCtxS { tCtx with tenant := some 6 } with tenants := [(6, x)] }
theorem wit_HostEvents_memory :
    hostReaches tTen (2 ^ 29) = some 0 ∧ hostReaches tTen (2 ^ 29 + 2 ^ 28 - 1) = some (2 ^ 28 - 1) ∧
      hostReaches tTen (2 ^ 29 + 2 ^ 28) = none ∧ hostReaches tTen (2 ^ 29 - 1) = none ∧ snooped (tHost tTen) 6 0 = false ∧
      dirFull (tHost tTen) 6 0 = [] ∧ decoderOk { tTen with decs := [] } ⟨3, 0, 2 ^ 28⟩ = true ∧ decoderOk tTen ⟨1, 0, 2 ^ 28⟩ = false ∧
      lineHeld (tHost tTen) 6 0 = false ∧ entState (tTen.entry 0) = 1 ∧ (tTen.entry 0).testBit 59 = false ∧
      (SMap.look (countAccess (tHost tTen) 6 0).tenants 6).map (fun y =>
        (linePoison (countAccess (tHost tTen) 6 0) y 0, linePoison (countAccess (tHost tTen) 6 0) y 3)) = some (false, true) := by
  refine ⟨by decide, by decide, by decide, by decide, by decide, by decide, by decide, by decide, by decide, by decide, by decide,
    by decide⟩
/-- Sixteen lines of one set fill it: which lines share a set is the hardware's (log 82). -/
theorem wit_HostEvents_full (h : ∀ k l, Config.dirSet k l = Config.dirSet 6 99) :
    dirFull (tHost { tTen with dir := (List.range 16).map (fun i => (i, .shared)) }) 6 99 ≠ [] := by
  simp [dirFull, tHost, tCtxS, h, List.range, List.range.loop]
theorem wit_HostEvents_snoop :
    let x : Snoop := { id := 8, tenant := 6, line := 0, kind := .inv, go := .read 0, at_ := 0 }
    let s := { tHost tTen with fl := { State.reset.fl with snoops := [x] }, clk := { State.reset.clk with now := 100000 } }
    s.fl.snoops.find? (fun y => decide (y.id = 8)) = some x ∧ x.kind ≠ .cur ∧ x.at_ + 100000 ≤ s.clk.now ∧
      SMap.look s.tenants 6 = some tTen := by decide
/-- A grid of queue 1 of tenant 6 that ends, its counter at the tenant address `a` (R231, R321). -/
def tCtrGrid : Grid := { tGrid with queue := some 1 }
def tCtrQ (a : Nat) : HwQueue := { tQueue (some 6) with desc := { (tQueue (some 6)).desc with ctr := some a } }
def tCtrS (a : Nat) : State :=
  { tHost { tTen with dir := [] } with teams := [], grids := [(1, tCtrGrid)], queues := [(1, tCtrQ a)] }
theorem wit_GridEvents_read :
    SMap.look (tCtrS 8).grids 1 = some tCtrGrid ∧ canRetire (tCtrS 8) 1 tCtrGrid = true ∧ ctrStep (tCtrS 8) 1 tCtrGrid = .read 0 := by
  refine ⟨rfl, by decide, by decide⟩
/-- Page 1 is compressed; its index lies in a sound granule of stack 0, or in a poisoned one. -/
theorem wit_PageAndFabricEvents_index :
    indexBad (tHost tTen) (tTen.entry 1) = false ∧ (anyFrame (tHost tTen)).isSome = true ∧
      indexBad { tHost tTen with mem := { State.reset.mem with badHbm := [(0x110000 : Nat) / 32] } } (tTen.entry 1) = true := by
  refine ⟨by decide, by decide, by decide⟩
theorem wit_PageAndFabricEvents_page :
    entState (tTen.entry 1) = 2 ∧ entState (tTen.entry 2) = 3 ∧ SMap.look tTen.side 2 = some 0x130000 ∧ tTen.wbuf = [] ∧
      State.reset.set.cold ≤ 5 ∧ State.reset.clk.now < State.reset.plant.ageAt ∧ (0x2000000000100005 : BitVec 64).toNat % 256 = 5 := by decide
/-- A channel into a ring of 2^6 slots at 0x4000 with its consumer index at 0x100, empty; and the same one full. -/
def tChan (w : Nat) : Channel :=
  { desc := { ctx := 1, cls := 0, window := none, ringDva := false, ring := 0x4000, k := 6, cDva := false, cidx := 0x100, tl := 9 },
    w := w, seq := w, dropped := 0, gap := false, inq := [] }
def tChans (w : Nat) : State :=
  { tCtxS { tCtx with tls := [(9, ⟨.channel, 0⟩)] } with
    channels := [(2, tChan w)],
    plant := { State.reset.plant with flows := [{ src := 1, cls := 0, next := 7, held := [] }],
                                      ckpt := some { tier := .fabric 0, blocks := imageTotal State.reset / 2 ^ 20 + 1, crc := 0, marks := [] } } }
theorem wit_PageAndFabricEvents_channel :
    (tChan 0).consumer (tChans 0) = some 0 ∧ 0 + (16 + 4096 + 63) / 64 ≤ 0 + 2 ^ 7 ∧ 63 + (16 + 48 + 63) / 64 ≤ 0 + 2 ^ 6 ∧
      0 + 2 ^ 6 < 64 + (16 + 1 + 63) / 64 ∧ (tChan 64).consumer (tChans 64) = some 0 ∧ (tChan 0).inq = [] ∧ srcOk (tChans 0) (tChan 0) 5 = true ∧
      chanSnoop (tChans 0) 2 { tChan 0 with inq := [⟨0, 5, [1]⟩] } 1 = none ∧ timelineOf (tChans 0) 1 9 = some ⟨.channel, 0⟩ := by
  refine ⟨by decide, by decide, by decide, by decide, by decide, rfl, by decide, by decide, by decide⟩
/-- The number of blocks of a context's device state is the hardware's (log 84): without a context the image is the memories alone. -/
theorem wit_PageAndFabricEvents_fabric :
    let s := { tChans 0 with ctxs := [] }
    let lost := { s with plant := { s.plant with deadLinks := List.range 16 } }
    s.plant.flows.find? (fun x => decide (x.src = 1) && decide (x.cls = 0)) = some { src := 1, cls := 0, next := 7, held := [] } ∧
      (∃ c, s.plant.ckpt = some c ∧ pathLost s c = false ∧ ckptBlocks s ≤ c.blocks ∧ pathLost s { c with blocks := 0 } = false ∧
        ({ c with blocks := 0 } : Ckpt).blocks < ckptBlocks s ∧ pathLost lost c = true) ∧
      packetOk s { src := 1, cls := 0, next := 7, held := [] } 7 [1] = true ∧ packetOk s { src := 1, cls := 0, next := 7, held := [] } 9 [1] = true ∧
      packetOk s { src := 1, cls := 0, next := 7, held := [] } 263 [1] = false ∧ livePorts lost = [] :=
  ⟨rfl, ⟨_, rfl, by decide, by decide, by decide, by decide, by decide⟩, by decide, by decide, by decide, by decide⟩
/-- Die 3 is being evacuated; context 1 maps 16 KiB from DVA 0 on its stack, and the new leaf lies on stack 2. -/
def tMoving : State :=
  { tWarp with
    mem := { tWarp.mem with far := [(0, 0x81), (1, 0x80), (0x8000, 0x81), (0x8002, 0x01), (0x10000, 0x81), (0x10001, 0x80),
      (0x10002, 0x01), (0x18000, 0x1B), (0x18002, 0x10), (0x18007, 0x08)] },
    ctxs := [(1, { tCtx with root := 0x81 })],
    plant := { State.reset.plant with dies := [.on, .on, .on, .evacuating, .on, .on, .on, .on] } }
theorem wit_PageAndFabricEvents_evacuation :
    walk tMoving 1 0 = .leaf 0x080000000010001B ∧ evacuating tMoving 3 = true ∧ (pteOf 0x080000000010001B).onStack 3 = true ∧
      moveOk tMoving 3 (pteOf 0x080000000010001B) (pteOf 0x040000000010001B) = true ∧ lentOn tMoving 3 = false ∧ lentLeaving tMoving 3 = false ∧
      lentOn { tMoving with tenants := [(6, { tTen with pages := [(0, 0x2300000000100000)] })] } 3 = true := by
  refine ⟨by decide, by decide, by decide, by decide, by decide, by decide, by decide⟩
theorem wit_PageAndFabricEvents_place : pageMoving tMoving 1 0 = false ∧ pageLeaving tMoving 3 = false ∧ noMoves tMoving ∧ Memory.wf tMoving.mem = true ∧
    (match (rootTable tMoving 1).bind (fun q => leafTable tMoving 3 q 0) with | some (p, l) => (l, pageOff (pteOf 0x040000000010001B) p) | none => (9, none)) = (0, none) := by
  refine ⟨by decide, by decide, ?_, by decide, by decide⟩
  intro v h; simp [tMoving, tWarp, tState, State.reset] at h

/-! ## Power, and the management commands -/

theorem wit_PowerEvents :
    rampDue { Pulse.init with target := 0xFFFF } 16 = true ∧ kept 0x5555 < kept 0xFFFF ∧ rampDue { Pulse.init with target := 0x1111 } 16 = true ∧
      kept 0x1111 ≤ kept 0x5555 ∧ heldDown { tWarp with plant := { State.reset.plant with thermal1 := [0] } } 31 = true ∧
      heldDown tWarp 31 = false ∧ State.reset.plant.watchdog + 20000000 ≤ 20000000 ∧
      ({ State.reset.plant with powered := false } : Plant).powered = false := by decide
theorem wit_TenantCommands : SMap.look tWarp.tenants 15 = none ∧ 2 ^ 41 % 2 ^ 28 = 0 ∧ lentTotal tWarp + unionLen (devExtents tWarp) + 2 ^ 28 ≤ capacity tWarp ∧
    (tWarp.tenants.map (fun e => e.2.queues)).sum + 65536 ≤ 65536 ∧ SMap.look (tHost tTen).tenants 6 = some tTen ∧ ({ tTen with decs := [] } : Tenant).decs = [] ∧
    (tTen.size / 4096 - 1) * 4096 < tTen.size ∧ may (.tenant 6) (some 6) = true ∧ (0 + 3) * 4096 ≤ tTen.size ∧
    tTen.decs ≠ [] := by
  refine ⟨rfl, by decide, by decide, by decide, rfl, rfl, by decide, by decide, by decide, by decide⟩
/-- Whether a wrapped key unwraps is not stated by the model (log 83): either case may be. -/
theorem wit_TenantCommands_key (w : Nat) : Config.keyUnwrap w = none ∨ ∃ k, Config.keyUnwrap w = some k := by
  cases Config.keyUnwrap w <;> simp
theorem wit_ContextCommands :
    let d := (tQueue (some 6)).desc
    SMap.look (tHost tTen).ctxs 255 = none ∧ (SMap.look (tHost tTen).tenants 6).isSome = true ∧ may (.tenant 6) (some 6) = true ∧
      may .owner none = true ∧ SMap.look tWarp.ctxs 1 = some tCtx ∧ tCtx.resetting = false ∧ rootOk tWarp 0x81 = true ∧
      0 + 4096 ≤ tTen.size ∧ SMap.look (tHost tTen).queues 65535 = none ∧ (freeIndex (tHost tTen) (some 6)).isSome = true ∧
      descOk (tHost tTen) d = true ∧ SMap.look (tQueued 1).queues 1 = some (tQueue none) := by
  refine ⟨rfl, rfl, by decide, rfl, rfl, rfl, by decide, by decide, rfl, by decide, by decide, rfl⟩
theorem wit_ObjectCommands :
    SMap.look tWarp.ctxs 1 = some tCtx ∧ may .owner tCtx.tenant = true ∧ tCtx.resetting = false ∧
      (∀ k, k < 2 → SMap.look tCtx.tls (4094 + k) = none) ∧ SMap.look tCtx.lists 4095 = none ∧
      imageBad 0x8000 64 4 4 = false ∧ imageBad 0x9000 64 12 16 = false ∧
      (tState { tUnit false with stopped := true } .s).unit? ⟨0, 0⟩ = some { tUnit false with stopped := true } := by
  refine ⟨rfl, rfl, rfl, by decide, rfl, by decide, by decide, rfl⟩
theorem wit_WindowCommands :
    let s := { tWarp with mem := { tWarp.mem with badHome := [2] }, wgs := [] }
    clearOk s .owner 1 (.home 2) = true ∧ s.mem.badHome.contains 2 = true ∧ entryMine s .owner 1023 15 = true ∧ entryOpen s 1023 15 = false ∧ entryOpen s 0 0 = false ∧
      entryOpen { s with fl := { s.fl with stores := [tStore 64 0 true] } } 0 0 = true ∧
      (∀ x ∈ guarded s 1023, (767 + 1) * 4096 ≤ x.1 ∨ x.2 ≤ 0 * 4096) ∧
      SMap.look s.windows (winKey 0 0) = some { ctx := 1, base := 0, limit := 767, rd := true, wr := true, at_ := true } ∧
      (∀ r ∈ s.preempts, r.running = true → ∀ k ∈ r.clusters, k ∉ maskClusters s 1 1) := by
  refine ⟨by decide, by decide, by decide, by decide, by decide, by decide, by decide, rfl, by decide⟩
theorem wit_OwnerCommands :
    dieOn tWarp 7 = true ∧ tWarp.plant.ckpt = none ∧ (tChans 0).plant.ckpt ≠ none ∧ SMap.look tWarp.channels 3 = none ∧
      SMap.look tCtx.tls 9 = none ∧ SMap.look { tCtx with tls := SMap.put tCtx.tls 9 ⟨.engine, 0⟩ }.tls 9 = some ⟨.engine, 0⟩ ∧ chanOk tWarp (tChan 0).desc = true ∧ SMap.look (tChans 0).channels 2 = some (tChan 0) ∧
      anyActive tWarp = false ∧ anyActive (tHost tTen) = true ∧ nextLife .deployed = some .returned ∧ nextLife .deployed ≠ some .deployed ∧
      0xFFFF ∉ listedOps := by
  refine ⟨by decide, rfl, by decide, rfl, rfl, rfl, by decide, rfl, by decide, by decide, by decide, by decide, by decide⟩

/-! ## The step, encodings, invariants and frames -/

theorem wit_DivisionCorners : SReady (tRegs [(4, 0x8000000000000000)]) (tRegsU [(4, 0x8000000000000000)]) [6, 4, 5] ∧
    ((tRegsU [(4, 0x8000000000000000)]).rs 4).toInt = -0x8000000000000000 ∧ ((tRegsU [(5, BitVec.allOnes 64)]).rs 5).toInt = -1 ∧
    (tRegsU []).rs 5 = 0 := ⟨⟨rfl, rfl, rfl, rfl⟩, by decide, by decide, rfl⟩

/-- The S image at 0x1000 holds `add s4, s0, 64` at word 8, or nothing; the warp stands at word 8 or at the end. -/
def tStep (w : List Host.Cell) (pc : Nat) (a : List Turn) : State :=
  let u := { tUnit false with sS := { (tUnit false).sS with spc := pc } }
  { tBytes (tState u .s) w with agenda := a }
def tAdd : List Host.Cell := [(0x1020, 0x40), (0x1022, 0x20), (0x1023, 0x02)]
theorem wit_StepRunsTheWord :
    let s := tStep tAdd 8 [.issue ⟨0, 0⟩ .s]
    ∃ u, s.unit? ⟨0, 0⟩ = some u ∧ s.plant.powered = true ∧ eligible s u .s = true ∧ portFree s u .s = true ∧ impNow s u .s = false ∧
      u.pcOf .s < imageLen s u .s ∧ decodeS u.who.isLm (rawAt s u .s) = .ok (.addImm false 4 0 64) := by
  refine ⟨_, rfl, rfl, ?_, ?_, rfl, ?_, ?_⟩ <;> decide
/-- Every second pulse is swallowed after a reset: at mclk 1 no port takes a word (R340). -/
theorem wit_StepRunsTheWord_swallowed :
    let s := tAt (tStep tAdd 8 [.issue ⟨0, 0⟩ .s]) 1
    ∃ u, s.unit? ⟨0, 0⟩ = some u ∧ eligible s u .s = true ∧ portFree s u .s = false := by
  refine ⟨_, rfl, ?_, ?_⟩ <;> decide
theorem wit_StepRunsTheWord_refused :
    let s := tStep [] 8 [.issue ⟨0, 0⟩ .s]
    ∃ u, s.unit? ⟨0, 0⟩ = some u ∧ eligible s u .s = true ∧ decodeS u.who.isLm (rawAt s u .s) = .bad 0x10 25 := by
  refine ⟨_, rfl, ?_, ?_⟩ <;> decide
theorem wit_StepRunsTheWord_end :
    let s := tStep [] 64 [.issue ⟨0, 0⟩ .s]
    ∃ u, s.unit? ⟨0, 0⟩ = some u ∧ impNow s u .s = false ∧ imageLen s u .s ≤ u.pcOf .s := by
  refine ⟨_, rfl, rfl, ?_⟩; decide
theorem wit_StepRunsTheWord_events :
    eventOk (tStep [] 8 [.ev (.waitForWalk)]) (.currentComparatorTrip 0) = true ∧
      dueEvent { State.reset with clk := { State.reset.clk with now := 20000000 } } ≠ none ∧ State.reset.plant.frozen = false ∧
      impNow (tAt (tState tFaulty .s) 1) tFaulty .s = true := by
  refine ⟨by decide, by decide +kernel, rfl, by decide⟩
theorem wit_StepRunsTheWord_scheduler :
    let s := tStep tAdd 8 []
    dueEvent s = none ∧ (pick s).map (fun c => (c.unit, c.strm)) = some (⟨0, 0⟩, .s) := by decide +kernel
theorem wit_EncodeDecode : (Instr.addImm false 4 0 64).wf = true ∧ encode (.addImm false 4 0 64) = some (32, 0x02200040) ∧
    (Instr.laneAddI ⟨false, ⟨false, 0⟩, .v 3, .v 2, .small 1, .v 0, .dyn, false, .u32, 0, 0⟩).wf = true ∧
    encode (.laneAddI ⟨false, ⟨false, 0⟩, .v 3, .v 2, .small 1, .v 0, .dyn, false, .u32, 0, 0⟩) = some (96, 0x3000302C1000280000000000) := by
  refine ⟨by decide, by decide, by decide, by decide⟩
theorem wit_DecodeEncode : 0x02200040 < 2 ^ 32 ∧ decodeTableWord 32 0x02200040 = some (.addImm false 4 0 64) := by decide
theorem reset_inv : State.reset.Inv := ⟨by decide, fun _ h => nomatch h⟩
theorem wit_StepInvariant : (tStep tAdd 8 []).Inv := by
  refine ⟨by decide, ?_⟩
  intro e h
  simp only [tStep, tBytes, tState, List.mem_singleton] at h
  subst h; rfl
theorem wit_RegisterWordFrame : regWord (.add false 6 4 5) = some ([6, 4, 5], some 6, none) ∧ SReady tWarp (tUnit false) [6, 4, 5] ∧
    regWord (.cmp false 3 .eq 4 5) = some ([4, 5], none, some 3) := ⟨rfl, ⟨rfl, rfl, rfl, rfl⟩, rfl⟩
theorem wit_LaneWordFrame : laneOnly (.laneAddI (tLA (.v 3) (.v 2) (.small 1) (.v 0) .u32 0)) = some (tLA (.v 3) (.v 2) (.small 1) (.v 0) .u32 0) ∧
    tLane.unit? tLane.cur = some tLaneUnit ∧
    (match exec (.laneAddI (tLA (.v 3) (.v 2) (.small 1) (.v 0) .u32 0)) tLane with | .next _ => True | _ => False) :=
  ⟨rfl, rfl, trivial⟩
theorem wit_AtomicValues : (0 < 4 ∧ 0xFFFFFFFF < 2 ^ (8 * 4)) := by decide

/-! ## Ill-formed terms that the checks refuse (R52, R55, R56, R145, R146, R160, R186; and R64 for L words) -/

theorem test_wf_all_zero_word : (Instr.add false 0 0 0).wf = false ∧ (Instr.add true 0 0 0).wf = true := by decide
theorem test_wf_load_order : (Instr.ldg false 4 5 .u32 .rel .cl false 0).wf = false ∧ (Instr.barWait false .rel .cl).wf = false := by decide
theorem test_wf_store : (Instr.stg false 4 5 .u32 .acq .cl false 0).wf = false ∧ (Instr.stg false 4 5 .s32 .rlx .cl false 0).wf = false ∧
    (Instr.barArrive false 4 .acq .cl).wf = false := by decide
theorem test_wf_cas_pair : (Instr.atom false 5 4 .cas false .rlx .cl false).wf = false ∧
    (Instr.atom false 6 4 .cas false .rlx .cl false).wf = true := by decide
theorem test_wf_fence : (Instr.fence false .rlx .cl).wf = false := by decide
theorem test_wf_groups : (Instr.cp2 false .g2g 4 5 6).wf = false ∧ (Instr.cp3 false .g2g 4 5 12).wf = false ∧
    (Instr.cpm false 4 5 6).wf = false ∧ (Instr.wtake false false 4 5).wf = false ∧ (Instr.mdrn false 0 5 6 7).wf = false ∧
    (Instr.mspl false 0 5 6 7).wf = false ∧ (Instr.mma false 0 (.sram 5) (.tile 0 false) 6).wf = false := by decide
theorem test_wf_lane_register_group : (Instr.laneAddI ⟨false, ⟨false, 0⟩, .v 3, .v 2, .small 1, .v 0, .dyn, false, .u64, 0, 0⟩).wf = false := by
  decide
theorem test_wf_lane_reserved : (Instr.laneAddI ⟨false, ⟨false, 0⟩, .v 3, .v 2, .small 1, .v 0, .rtz, false, .u32, 0, 0⟩).wf = false := by
  decide
theorem test_wf_lane_memory : (Instr.laneLdg ⟨false, ⟨false, 0⟩, .v 3, .v 2, .v 0, .v 0, .u32, .rel, .cl, false, false, 0, 0⟩).wf = false := by
  decide
theorem test_wf_feed_release : (Instr.xreqReserve ⟨false, ⟨false, 0⟩, .v 0, .v 0, .v 0, .v 0, .dyn, false, .none, 2, 0⟩).wf = false := by
  decide

/-! ## Words written out bit by bit from the encoding tables (R50 to R63) -/

theorem test_decode_alu : decodeTableWord 32 0b0_000001_000100_000000_0000001000000 = some (.addImm false 4 0 64) := by decide
theorem test_decode_reg : decodeTableWord 32 0b1_000000_000101_000100_000110_0000000 = some (.add true 5 4 6) := by decide
theorem test_decode_load : decodeTableWord 32 0x3C389142 = some (.ldg false 7 4 .u32 .acq .die false 2) := by decide
theorem test_decode_mma : decodeTableWord 32 0x608020C2 = some (.mma false 2 (.tile 0 false) (.sram 8) 12) := by decide
theorem test_decode_lane :
    decodeTableWord 96 0x3000302C1000280000000000 =
      some (.laneAddI ⟨false, ⟨false, 0⟩, .v 3, .v 2, .small 1, .v 0, .dyn, false, .u32, 0, 0⟩) := by decide
theorem test_decode_branch : decodeTableWord 96 0xE8A000000000000000000003 = some (.lbr ⟨true, ⟨true, 2⟩, 3⟩) := by decide
/-- R65: a nonzero reserved rounding field of `add.u32` is cause 0x0015 at bit 49. -/
theorem test_decode_reserved : (match decodeL 0x3000302C1004280000000000 with | .bad c b => (c, b) | _ => (0, 0)) = (0x15, 49) := by decide
theorem test_decode_zero : (match decodeS false 0 with | .bad c b => (c, b) | _ => (0, 0)) = (0x10, 25) := by decide
theorem test_decode_event : decodeTableWord 16 0 = none := by decide

/-! ## One step. Time counts kept pulses (R4); that of mclk 0 is the first, so that 4 mclk end at the fifth, and 40 at the 41st. -/

/-- R86: a sum wraps at 2^64. -/
theorem test_add_wraps :
    (match exec (.add false 6 4 5) (tRegs [(4, BitVec.allOnes 64), (5, 3)]) with
      | .next t => (t.unit? ⟨0, 0⟩).map (fun u => u.sS.fly) | _ => none) = some [⟨5, 1, .s 6 2⟩] := by decide
/-- R87: division by zero. -/
theorem test_div_zero :
    (match exec (.divU64 false 6 4 0) tWarp with | .next t => (t.unit? ⟨0, 0⟩).map (fun u => u.sS.fly) | _ => none) =
      some [⟨41, 1, .s 6 0xFFFFFFFFFFFFFFFF⟩] := by decide
/-- R95: `loop` at a count of 1 writes 0 and goes on. -/
theorem test_loop_one :
    (match exec (.loop false 4 (-3)) (tRegs [(4, 1)]) with | .next t => (t.unit? ⟨0, 0⟩).map (fun u => (u.sS.spc, u.sS.fly)) | _ => none) =
      some (9, [⟨5, 1, .s 4 0⟩]) := by decide
/-- R118: an integer add in lanes 0 to 3; the results are in flight. -/
theorem test_lane_add :
    (match exec (.laneAddI (tLA (.v 3) (.v 2) (.small 1) (.v 0) .u32 0)) tLane with
      | .next t => (t.unit? ⟨0, 0⟩).map (fun u => u.lS.slot0.fly.map (fun f => match f.res with | .v d m x => (f.due, d, m.toNat, x.take 4) | _ => (0, 0, 0, []))) | _ => none) =
      some [(5, 3, 15, [6, 8, 10, 3])] := by decide
/-- R145: a pad store stands at home at once. -/
theorem test_store_pad :
    (match exec (.stp false 5 4 .u8 .rlx .wg false 1) tWarp with | .next t => some (t.mem.sram) | _ => none) = some [(0x40041, 3)] := by decide
/-- R276: `trap` enters the handler at its entry index with the cause recorded. -/
theorem test_trap :
    (match exec (.trap false 7) tWarp with
      | .next t => (t.unit? ⟨0, 0⟩).map (fun u => (u.sS.spc, u.trap.tcause.toNat % 65536, u.trap.tinfo, u.trap.tspc)) | _ => none) =
      some (1, 0x20, 7, 9) := by decide
/-- R30: the check value of the fold over the nine characters 1 to 9. -/
theorem test_sig_fold : sigBytes 0 [0x31, 0x32, 0x33, 0x34, 0x35, 0x36, 0x37, 0x38, 0x39] = 0x6C40DF5F0B497347 := by
  set_option maxRecDepth 4000 in decide
/-- R10: a store to a word of its own code leaves the older word for the running unit to fetch. -/
theorem test_code_store :
    (writeHome (tBytes tWarp [(0x1004, 5)]) [(0x1004, 7)]).units.map (fun e => e.2.code) =
      [[{ at_ := 0x1004, lane := false, raw := 5 }]] := by decide

/-! ## What meets the conditions that the clauses add -/

theorem wit_FatalTraps_double : tInUnit.inHandler = true ∧ (0x22 : Nat) ≠ 0x20 ∧ SReady tIn tInUnit [] := ⟨rfl, by decide, rfl, rfl, rfl, rfl⟩
theorem wit_TrapEntry_cursor : (tUnit false).id = tWarp.cur ∧ saveArea (tUnit false) 0x10000 % 4 = 0 := ⟨rfl, by decide⟩
/-- A handler that left `tpath` with a sibling, over two live slots and a stack of one entry. -/
def tSavedTwo : Saved :=
  { tSaved with
    running := some { entry := 8, k := [0, 0, 0, 0], mask := 0, lqSeq := 0 },
    slot0 := { Slot.idle with live := true, lpc := 9, em := 0b0011, stack := [⟨.pair, 0b1111, none⟩] },
    slot1 := { Slot.idle with live := true, lpc := 20, em := 0b1100 } }
def tTwoUnit : Machine.Unit :=
  { tInUnit with trap := { tInUnit.trap with tlpc := 9, tpath := BitVec.ofNat 64 (20 * 2 ^ 40 + 0b1100 * 2 ^ 8 + 2 ^ 7 + 1), saved := some tSavedTwo } }
theorem wit_ReturnFromTrap_slots : SReady (tState tTwoUnit .s) tTwoUnit [] ∧ tTwoUnit.trap.saved = some tSavedTwo ∧ tTwoUnit.laneIdle = true ∧
    tTwoUnit.badReturn tSavedTwo = none ∧ tTwoUnit.trap.tpath.getLsbD 6 = false ∧ tTwoUnit.trap.tpath.getLsbD 7 = true :=
  ⟨⟨rfl, rfl, rfl, rfl⟩, rfl, rfl, by decide, by decide, by decide⟩

theorem wit_ScalarMemoryWords_reads : readsNow tWarp (tUnit false) .s 8 [(0, 0x40040)] ∧ readsNow (tBuf tHnd) tBufU .s 8 [(0, 0x50038)] ∧
    tWarp.mem.badHome.contains (sectorOf 0x40040) = false ∧ (tUnit false).trap.imp.length < 8 ∧
    sectorBad { tBuf tHnd with mem := { tWarp.mem with badHome := [sectorOf 0x50038] } } 0 0x50038 = true := by
  refine ⟨⟨rfl, rfl, ?_⟩, ⟨rfl, rfl, ?_⟩, by decide, by decide, by decide⟩ <;>
    (intro e h; simp only [List.mem_singleton] at h; subst h; decide)
theorem wit_AccessFaults_more : checkPad tWarp (tUnit false) 3 4 2 = .bad 0x22 3 (misInfo 4 2) ∧ checkGsa tWarp 1 3 4 2 2 = .bad 0x22 3 (misInfo 4 2) ∧
    checkHnd (tBuf tHnd) tBufU 0x307 60 8 0 = .bad 0x22 60 (misInfo 8 0) ∧ checkHnd (tBuf tHnd) tBufU 0x308 56 8 1 = .bad 0x24 0x308 1 := by decide
/-- The code 0x3F800000 is 1 and 0x40000000 is 2; so is the code of 2 in FP64, and that of a signed integer. -/
theorem wit_AtomicValues_fadd : Fmt.num .f32 0x3F800000 = some 1 ∧ Fmt.num .f32 0x40000000 = some (1 + 1) ∧
    Fmt.num .f64 0x3FF0000000000000 = some 1 ∧ Fmt.num .f64 0x4000000000000000 = some (1 + 1) ∧ (∃ q, Fmt.decode .f32 0x7FC00000 = .nan q) := by
  have a : Fmt.decode .f32 0x3F800000 = .fin false (2 ^ 23) (-23) := by decide
  have b : Fmt.decode .f32 0x40000000 = .fin false (2 ^ 23) (-22) := by decide
  have c : Fmt.decode .f64 0x3FF0000000000000 = .fin false (2 ^ 52) (-52) := by decide
  have d : Fmt.decode .f64 0x4000000000000000 = .fin false (2 ^ 52) (-51) := by decide
  refine ⟨?_, ?_, ?_, ?_, false, by decide⟩
  · norm_num [Fmt.num, a, FVal.num]
  · norm_num [Fmt.num, b, FVal.num]
  · norm_num [Fmt.num, c, FVal.num]
  · norm_num [Fmt.num, d, FVal.num]
theorem one_num : Fmt.num .f32 0x3F800000 = some 1 := wit_AtomicValues_fadd.1
/-- 1 + 1, 1 · 1 and 1 · 1 + 1 are nonzero numbers of FP32, and 1 < 2. -/
theorem wit_ExactResults : Fmt.num .f32 0x3F800000 = some 1 ∧ Fmt.num .f32 0x40000000 = some 2 ∧ (0x40000000 : Nat) < 2 ^ Fmt.width .f32 ∧
    (2 : Rat) = 1 + 1 ∧ (2 : Rat) = 1 * 1 + 1 ∧ (1 : Rat) * 1 = 1 ∧ (1 : Rat) < 2 ∧ (2 : Rat) ≠ 0 := by
  refine ⟨one_num, ?_, by decide, ?_, ?_, ?_, ?_, ?_⟩
  · have h := wit_AtomicValues_fadd.2.1; norm_num at h ⊢; exact h
  all_goals norm_num
/-- 1 is a number of FP16, of FP32 and a signed integer. -/
theorem wit_ExactConversions : tyFmt .f32 = some .f32 ∧ tyFmt .f16 = some .f16 ∧ tyFmt .s32 = none ∧ Fmt.num .f32 0x3F800000 = some 1 ∧
    Fmt.num .f16 0x3C00 = some 1 ∧ readInt (tySigned .s32) (elBits .s32) 1 = 1 ∧ intLo (tySigned .s32) (elBits .s32) ≤ 1 ∧
    1 ≤ intHi (tySigned .s32) (elBits .s32) := by
  have a : Fmt.decode .f16 0x3C00 = .fin false (2 ^ 10) (-10) := by decide
  refine ⟨rfl, rfl, rfl, one_num, ?_, by decide, by decide, by decide⟩
  norm_num [Fmt.num, a, FVal.num]
theorem wit_BarrierWords_count : barFull tWarp (tUnit false) 0 < 5 ∧ (let b : Barrier := { Barrier.init with count := 2 }
    let s := { tWarp with wgs := [(1, { tWg with bar := b, warps := 3 })] }
    (barGet s (tUnit false) 0 0).count ≠ 0 ∧ (barGet s (tUnit false) 0 0).count ≠ 3 ∧ 3 ≤ barFull s (tUnit false) 0) := by decide

/-! Lane words. -/
theorem wit_MaskWordResults_lands :
    let v := { tLaneUnit with lS := { tLaneUnit.lS with slot0 := { tLaneUnit.lS.slot0 with fly := [⟨0, 0, .em 0b0011⟩], marked := true } } }
    (tState v .l0).unit? ⟨0, 0⟩ = some v ∧ v.id = ⟨0, 0⟩ ∧ (v.slot false).fly = [⟨0, 0, .em 0b0011⟩] ∧ (v.slot false).marked = true ∧
      0 ≤ pulses (tState v .l0) 0 := ⟨rfl, rfl, rfl, rfl, by decide⟩
/-- A compare of a NaN in lane 0, with the invalid exception enabled. -/
theorem wit_LaneFloatTests_trap :
    let u := { tFloatUnit 1 (1 + 0x7C00) with lS := { (tFloatUnit 1 1).lS with v := [(64, 0x7F800001), (96, 0x40000000)] } }
    let w := tLA (.q 2) (.v 2) (.v 3) (.v 0) .f32 0
    LReady (tState u .l0) u false (laRegs w 2) ∧ (∃ l ∈ lanesOf (laneAct (tState u .l0) u false w.g),
      ((elemsOf 32 1 (u.opVal w.ty 0 w.a l)).zip (elemsOf 32 1 (u.opVal w.ty 0 w.b l))).foldl (fun x p =>
        x ||| (fcompare 0 (Fmt.decodeFz .f32 u.fzi p.1) (Fmt.decodeFz .f32 u.fzi p.2)).2) flNone &&& u.te ≠ 0) :=
  ⟨⟨rfl, rfl, rfl, rfl, rfl⟩, by decide⟩
theorem wit_RunEnd : tLaneUnit.lS.running = some { entry := 8, k := [0, 0, 0, 0], mask := 0, lqSeq := 0 } ∧ tLaneUnit.lS.queue = [] := ⟨rfl, rfl⟩
/-- The lane unit with stacks and a second path. -/
def tPaths (st : List StackE) (st1 : List StackE) (live1 at1 : Bool) : Machine.Unit :=
  { tLaneUnit with lS := { tLaneUnit.lS with
      slot0 := { tLaneUnit.lS.slot0 with stack := st },
      slot1 := { Slot.idle with live := live1, lpc := 8, em := 0b10000, stack := st1, park := if at1 then some { why := .join, since := 0, tick := 0 } else none } } }
theorem wit_LaneJoins :
    let p (l : List StackE) := tPaths l [] true false
    let z := tPaths [] [⟨.pair, 0b11111, none⟩] true true
    LReady (tState (p []) .l0) (p []) false [] ∧ laneAct (tState (p []) .l0) (p []) false ⟨false, 1⟩ = 0b0101 ∧
      ((p []).slot false).em = 0b1111 ∧ ((p []).slot true).live = true ∧
      pathHeld (tState (p [⟨.pending, 1, some 20⟩, ⟨.join, 15, none⟩]) .l0) (p [⟨.pending, 1, some 20⟩, ⟨.join, 15, none⟩]) .l0 = false ∧
      ((p [⟨.join, 15, some 8⟩]).slot false).stack = [⟨.join, 15, some 8⟩] ∧ ((p []).slot false).lpc = 8 ∧
      ((p [⟨.pair, 31, none⟩]).slot true).atJoin = false ∧ (z.slot true).atJoin = true ∧ (z.slot false).lpc = (z.slot true).lpc ∧
      pathHeld (tState z .l0) z .l0 = false ∧ pathHeld (tState z .l0) z .l1 = false ∧ (z.slot true).stack = [⟨.pair, 0b11111, none⟩] :=
  ⟨⟨rfl, rfl, rfl, rfl, rfl⟩, by decide, rfl, rfl, by decide, rfl, rfl, rfl, rfl, rfl, by decide, by decide, rfl⟩
theorem wit_LaneControlTraps :
    let deep := tPaths (List.replicate 15 ⟨.join, 15, none⟩) [] true false
    let full := tPaths (List.replicate 16 ⟨.join, 15, none⟩) [] false false
    let mis := tPaths [⟨.join, 15, some 9⟩] [] false false
    let pair := { tPaths [⟨.pair, 31, none⟩] [] true true with lS := { (tPaths [⟨.pair, 31, none⟩] [] true true).lS with
      slot1 := { (tPaths [] [] true true).lS.slot1 with lpc := 9 } } }
    14 < (deep.slot false).stack.length ∧ (deep.slot true).live = true ∧ 16 ≤ (full.slot false).stack.length ∧ (full.slot true).live = false ∧
      (mis.slot false).stack = [⟨.join, 15, some 9⟩] ∧ (mis.slot false).lpc = 8 ∧ (pair.slot true).atJoin = true ∧
      (pair.slot false).lpc ≠ (pair.slot true).lpc ∧ (tPaths [] [] true false).dual = true ∧
      LReady (tState deep .l0) deep false [] ∧ laneAct (tState deep .l0) deep false ⟨false, 1⟩ = 0b0101 ∧
      ¬ (0 ≤ (8 : Int) + (-9) ∧ (8 : Int) + (-9) < (lLen (tState deep .l0) deep : Int)) :=
  ⟨by decide, rfl, by decide, rfl, rfl, rfl, rfl, by decide, rfl, ⟨rfl, rfl, rfl, rfl, rfl⟩, by decide, by decide⟩

theorem wit_LaneMemoryWords_reads :
    let w := tLM (.v 4) (.v 2) (.v 3) (.v 3) .u32 0 0
    let act := laneAct tMem tMemUnit false w.g
    let bytes (sp : Space) : SMap Byte := storeBytes 4 ((okAddrs (checksL tMem tMemUnit sp w w.c 1 act)).map (fun e => (e.1, e.2, tMemUnit.opVal w.ty 0 w.b e.1)))
    readsNow tMem tMemUnit .l0 4 (okAddrs (checksL tMem tMemUnit .pad w w.b 0 act)) ∧
      readsNow tMem tMemUnit .l0 4 (okAddrs (checksL tMem tMemUnit .hnd w w.b 0 act)) ∧
      (∀ b ∈ bytes .pad, tMem.mem.badHome.contains (sectorOf b.1) = false) ∧ (∀ b ∈ bytes .hnd, tMem.mem.badHome.contains (sectorOf b.1) = false) ∧
      sectorsOf ((bytes .gsa).filter (fun b => decide (gsaDie b.1 ≠ tMemUnit.die))) = [] ∧ wayFree tMem 0 (2 ^ 22) = true := by
  refine ⟨⟨rfl, by decide, by decide⟩, ⟨rfl, by decide, by decide⟩, by decide, by decide, by decide, by decide⟩
theorem wit_LaneSyncWords_traps : (tPaths [] [] true false).dual = true ∧ barFull tLane tLaneUnit 0 < 5 := ⟨rfl, by decide⟩

/-! Commands, and the matrix engine. -/
theorem wit_BatchAndCollectiveWords_fault : reportedFault tFaulty = true ∧ reportedFault (tUnit false) = false := ⟨rfl, rfl⟩
/-- Every item goes to list 2, so that no two rings meet. -/
theorem wit_WorkWords_rings : ∀ e ∈ (lanesOf (laneAct tLane tLaneUnit false ⟨false, 0⟩)).map (fun l => (tLaneUnit.opVal .b32 0 (.small 2) l % 4096, 0)),
    ∀ f ∈ (lanesOf (laneAct tLane tLaneUnit false ⟨false, 0⟩)).map (fun l => (tLaneUnit.opVal .b32 0 (.small 2) l % 4096, 0)), e.1 = f.1 := by decide
theorem wit_MatrixTurns_snoop :
    wordSnoop (tTurn (.mzero 7)) 0 { num := 1, seq := 1, kind := .mzero 7, arr := 0, done := 0, idx := 8, raw := 0 } = none := by decide
/-- Tile halves in O as A and B, of format 2; and the product of 1 and 1. -/
theorem wit_MatrixProducts :
    let e := (tLock.cluster 0).engine
    let f := fmtBOf 0
    (∀ x, x < 128 → (lineIn tLock 0 none 0 0 x).ok = true ∧ (lineIn tLock 0 none 1 0 x).ok = true ∧
      scalesBad e (scaleAddrs f.afmt f.abl f.asa 0 x) = false ∧ scalesBad e (scaleAddrs f.bfmt f.bbl f.bsa 0 x) = false) ∧
      SMap.look e.inj 0 = none := by
  refine ⟨by decide, rfl⟩
theorem wit_MatrixProducts_sum : [FVal.fin false 1 0].map FVal.num = [(1 : Rat)].map some ∧
    Fmt.num .f32 0x3F800000 = some (List.zipWith (· * ·) [(1 : Rat)] [1]).sum := by
  refine ⟨by norm_num [FVal.num], ?_⟩
  rw [one_num]; norm_num

/-! Results. -/
theorem wit_ResultEvents_lane :
    (∀ f ∈ (tLateL.slot false).fly, f.due ≤ pulses (tState tLateL .l0) 0) ∧ tLateL.sibling true = false ∧
      (∀ f ∈ (tLateL.slot false).fly, ∀ d m x, f.res = .v d m x → x.length = 32) := by
  refine ⟨by decide, by decide, ?_⟩
  intro f h d m x e
  simp only [tLateL, Unit.slot, List.mem_singleton, Bool.false_eq_true, if_false] at h
  subst h; cases e; rfl
/-- A global load of the warp, to `s7` and to lanes; a read of mailbox 1, also one of the mclk of a write; a read of timeline 5. -/
def tLoad (w : PWhat) (d : PDst) : Machine.Unit :=
  { tUnit false with pend := [{ tPend with what := w, dst := d, act := 3 }], mbOld := [(1, (5, 9))] }
theorem wit_ResultEvents_delivers :
    let a := tLoad (.ldg [(0, 64)] 4 false) (.s 7)
    let l := tLoad (.ldg [(0, 64), (1, 68)] 4 false) (.v 4 1)
    let m := tLoad (.mailbox 1) (.s 7)
    let r := tLoad (.tlr 5) (.s 7)
    let p (u : Machine.Unit) : Pend := u.pend.headD tPend
    pendReady (tState a .s) a (p a) = true ∧ readsHome (tState a .s) a (p a) 4 [(0, 64)] ∧ pendReady (tState l .s) l (p l) = true ∧
      readsHome (tState l .s) l (p l) 4 [(0, 64), (1, 68)] ∧ pendReady (tState m .s) m (p m) = true ∧ SMap.look m.mbOld 1 = some (5, 9) ∧
      (tAt (tState m .s) 5).clk.now = 5 ∧ pendReady (tState r .s) r (p r) = true ∧ timelineOf (tState r .s) 1 5 = some ⟨.software, 3⟩ := by
  refine ⟨by decide, ⟨rfl, rfl, rfl, rfl, rfl, by decide⟩, by decide, ⟨rfl, rfl, rfl, rfl, rfl, by decide⟩, by decide, by decide, rfl, by decide, by decide⟩
theorem wit_StorageEvents_rollback : (tShadow false).placed ∧ ((tShadow false).units.map (fun e => e.1)).Nodup ∧
    (SMap.look (tShadow false).wgs 1).bind (fun w => w.shadow) = some { units := [tUnit false], pad := [], arr := [] } := by
  refine ⟨?_, by decide, rfl⟩
  intro e h; simp only [tShadow, tWarp, tState, List.mem_singleton] at h; subst h; rfl
theorem wit_GridEvents_place : ([(0 : Nat)]).Nodup ∧
    (∀ c, (List.range 32).countP (fun j => ((tGrids (tWait 0 true)).unit? ⟨c, j⟩).isSome) ≤ coreWarps (tGrids (tWait 0 true)) c) := by
  refine ⟨by decide, fun c => ?_⟩
  by_cases h : c = 0
  · subst h; decide
  · have z : (List.range 32).countP (fun j => ((tGrids (tWait 0 true)).unit? ⟨c, j⟩).isSome) = 0 := by
      rw [List.countP_eq_zero]
      intro j _
      have k : ¬ ukey ⟨0, 0⟩ = ukey ⟨c, j⟩ := by simp only [ukey]; omega
      simp [tGrids, tWarp, tState, State.unit?, SMap.look, tUnit, newUnit, k]
    rw [z]; exact Nat.zero_le _
/-- Three replicas, of which the last is the minority and the first the leader; and two that disagree. -/
theorem wit_SchedulerEvents_outvote :
    let x := tRep 0 0 3 (some [1]) false
    let y := tRep 1 1 3 (some [1]) false
    let z := tRep 2 2 3 (some [2]) false
    let s := tReps [x, y, z] 0
    setReady (setUnits s 4) = true ∧ setUnits s 4 = [x, y, z] ∧ ((setUnits s 4).map (fun u => ukey u.id)).Nodup ∧
      (∀ u ∈ setUnits s 4, s.unit? u.id = some u) ∧ x.finalSig = y.finalSig ∧ z.finalSig ≠ x.finalSig ∧ x.assay.bad = false ∧ x.assay.kind ≠ 8 ∧
      z.who.leader = false ∧ (tRep 1 1 3 none false).owesWord = false := by
  refine ⟨by decide, by decide, by decide, by decide, by decide, by decide, by decide, by decide, by decide, by decide⟩
/-- R300: three replicas whose leader is the minority, at a compare and at `exit`. -/
def tMoved (kind : Nat) : State :=
  tReps ([tRep 0 0 3 (some [2]) false, tRep 1 1 3 (some [1]) false, tRep 2 2 3 (some [1]) false].map
    (fun u => { u with assay := { u.assay with kind := kind } })) 0
theorem wit_SchedulerEvents_moved :
    (setUnits (tMoved 2) 4).map (fun u => (u.who.rep, u.who.leader, u.assay.bad, u.assay.kind)) =
      [(0, true, false, 2), (1, false, false, 2), (2, false, false, 2)] ∧
    (setUnits (tMoved 2) 4).map (fun u => decide (u.finalSig = (tRep 1 1 3 (some [1]) false).finalSig)) = [false, true, true] := by
  refine ⟨by decide, by decide⟩
/-- R300, R301: the lower-numbered replica of the majority leads, and each keeps its number. -/
theorem test_outvote_moves : (match exec (.replicaCompare 4) (tMoved 2) with
    | .next t => t.units.map (fun e => (e.1, e.2.who.rep, e.2.who.leader, e.2.outvoted))
    | _ => []) = [(0, 0, false, true), (1, 1, true, false), (2, 2, false, false)] := by decide
/-- R300: at `exit` nothing is copied, and the minority exits. -/
theorem test_outvote_exit : (match exec (.replicaCompare 4) (tMoved 8) with
    | .next t => t.units.map (fun e => (e.1, e.2.who.rep, e.2.who.leader, e.2.assay.passed.isSome))
    | _ => []) = [(1, 1, true, true), (2, 2, false, true)] := by decide
theorem wit_SchedulerEvents_apart :
    let a := tRep 0 0 2 (some [1]) false
    let b := tRep 1 1 2 (some [2]) false
    let c := { b with assay := { b.assay with bad := true } }
    setUnits (tReps [a, b] 0) 4 = [a, b] ∧ a.finalSig ≠ b.finalSig ∧ setUnits (tReps [a, c] 0) 4 = [a, c] ∧ c.assay.bad = true ∧
      1 ∈ setWgs [a, b] ∧ (SMap.look (tReps [a, b] 0).wgs 1).map (fun x => eligibleNow (tReps [a, b] 0) x) = some false := by
  refine ⟨by decide, by decide, by decide, by decide, by decide, by decide⟩

end Sys2Proof.Tests
end

namespace Sys2Proof.Machine

/-! ## Every step keeps the invariant

One lemma for each function of the model that answers a machine, in the order of their definitions: it keeps `State.Inv`
because what it is made of does. For a function that answers a result, `Keeps` says so of the machine in it. Where a function
names intermediate machines, the proof names them too. -/

/-- A result keeps the invariant of the steps: the machine that it answers, if any, meets it. -/
def Keeps (r : Res) : Prop := ∀ t, r = .next t → t.Inv

theorem Keeps.next {t : State} (h : t.Inv) : Keeps (.next t) := by
  rintro _ ⟨⟩; exact h

theorem Keeps.fault (f : Fault) : Keeps (.fault f) := by intro t h; cases h

theorem Keeps.refused (f : Refusal) : Keeps (.refused f) := by intro t h; cases h

theorem State.Inv.ite {c : Prop} [Decidable c] {s t : State} (hs : s.Inv) (ht : t.Inv) : (if c then s else t).Inv := by
  split <;> assumption

theorem Keeps.ite {c : Prop} [Decidable c] {r q : Res} (hr : Keeps r) (hq : Keeps q) : Keeps (if c then r else q) := by
  split <;> assumption

theorem State.Inv.wf_sram {s : State} (h : s.Inv) : SMap.wf 0 s.mem.sram = true := ((Memory.wf_iff _).mp h.1).1
theorem State.Inv.wf_hbm {s : State} (h : s.Inv) : SMap.wf 0 s.mem.hbm = true := ((Memory.wf_iff _).mp h.1).2.1
theorem State.Inv.wf_far {s : State} (h : s.Inv) : SMap.wf 0 s.mem.far = true := ((Memory.wf_iff _).mp h.1).2.2.1
theorem State.Inv.wf_mirror {s : State} (h : s.Inv) : SMap.wf 0 s.mem.mirror = true := ((Memory.wf_iff _).mp h.1).2.2.2

/-- A machine with another memory in canonical form keeps the invariant. -/
theorem State.Inv.withMem {s t : State} (h : s.Inv) (hm : Memory.wf t.mem = true) (hu : t.units = s.units) : t.Inv :=
  ⟨hm, fun e he => h.2 e (hu ▸ he)⟩

/-- As `withMem`, with each of the memories named. -/
theorem State.Inv.ofParts {s t : State} (h : s.Inv) (h0 : SMap.wf 0 t.mem.sram = true) (h1 : SMap.wf 0 t.mem.hbm = true)
    (h2 : SMap.wf 0 t.mem.far = true) (h3 : SMap.wf 0 t.mem.mirror = true) (hu : t.units = s.units) : t.Inv :=
  h.withMem ((Memory.wf_iff _).mpr ⟨h0, h1, h2, h3⟩) hu

/-- A machine with other units, each at its own place, keeps the invariant. -/
theorem State.Inv.withUnits {s t : State} (h : s.Inv) (hm : t.mem = s.mem) (hu : Placed t.units) : t.Inv := ⟨hm ▸ h.1, hu⟩

/-- A fold that carries a value along keeps the invariant where each of its steps does. -/
theorem State.Inv.foldl_fst {α β : Type} (f : State × α → β → State × α) (hf : ∀ r b, r.1.Inv → (f r b).1.Inv) (l : List β)
    {r : State × α} (h : r.1.Inv) : (l.foldl f r).1.Inv := by
  induction l generalizing r with
  | nil => exact h
  | cons b t ih => exact ih (hf r b h)

/-- Writes of single bytes, one after another, keep the canonical form. -/
theorem wf_foldl_set {α : Type} (k : α → Nat) (v : α → Byte) (l : List α) {m : SMap Byte} (h : SMap.wf 0 m = true) :
    SMap.wf 0 (l.foldl (fun m e => SMap.set 0 m (k e) (v e)) m) = true := by
  induction l generalizing m with
  | nil => exact h
  | cons e t ih => exact ih (SMap.wf_set 0 _ _ h)

/-- The fields that the invariant does not name may hold anything. -/
theorem State.Inv.frame {s : State} (h : s.Inv)
    {far : Bool} {agenda : List Turn} {cur : UnitId} {curS : Strm} {free nextKey : Nat} {clk : Clock} {fl : Flight}
    {paths : Paths} {wgs : SMap Wg} {teams : SMap Team} {grids : SMap Grid} {clusters : SMap Cluster}
    {windows : SMap Window} {ctxs : SMap Ctx} {queues : SMap HwQueue} {preempts : List Preempt} {tenants : SMap Tenant}
    {channels : SMap Channel} {set : Settings} {plant : Plant} {sch : Sched} {mgmt : Option MgmtReply}
    {irqs : List (Nat × Nat)} {host : Option HostAns} :
    State.Inv ({ far, agenda, cur, curS, free, clk, mem := s.mem, fl, paths, units := s.units, wgs, teams, grids,
                 nextKey, clusters, windows, ctxs, queues, preempts, tenants, channels, set, plant, sch, mgmt, irqs,
                 host } : State) :=
  ⟨h.1, h.2⟩

/-- The quiescence report changes how a unit is parked, not whose it is. -/
theorem Unit.report_id (u : Machine.Unit) : u.report.id = u.id := by
  unfold Unit.report
  split
  · exact Unit.setPark_id _ _ _
  · rfl

theorem State.Inv.tlbPut {s : State} (h : s.Inv) (x : Tlb) : (tlbPut s x).Inv := by
  unfold Machine.tlbPut
  exact h.frame

theorem State.Inv.tlbFill {s : State} (h : s.Inv) (place ctx dva : Nat) : (tlbFill s place ctx dva).Inv := by
  unfold Machine.tlbFill
  split
  · exact h
  · split
    · exact h.tlbPut _
    · exact h

theorem State.Inv.nodesPut {s : State} (h : s.Inv) (share ctx dva : Nat) (l : List (Nat × Phys × Nat)) :
    (nodesPut s share ctx dva l).Inv := by
  unfold Machine.nodesPut
  refine h.foldl _ (fun t x ht => ?_) _
  split
  · exact ht
  · exact ht.frame

theorem State.Inv.activate {s : State} (h : s.Inv) (p : Phys) : (activate s p).Inv := by
  unfold Machine.activate
  split
  · exact h.frame
  · exact h

theorem State.Inv.touchRun {s : State} (h : s.Inv) (p : Phys) (n : Nat) : (touchRun s p n).Inv := by
  unfold Machine.touchRun
  exact h.foldl _ (fun t x ht => ht.activate _) _

theorem State.Inv.touchPage {s : State} (h : s.Inv) (e : Pte) : (touchPage s e).Inv := by
  unfold Machine.touchPage
  refine h.foldl _ (fun t x ht => ?_) _
  split
  · exact ht.activate _
  · exact ht

theorem State.Inv.shareFill {s : State} (h : s.Inv) (ctx dva : Nat) : (shareFill s ctx dva).Inv := by
  unfold Machine.shareFill
  extract_lets k l s1
  have h1 : s1.Inv := (h.foldl _ (fun t x ht => ht.activate _) _).nodesPut _ _ _ _
  split
  · exact h1.tlbPut _
  · exact h1

theorem State.Inv.walkDone {s : State} (h : s.Inv) (w : Walk) : (walkDone s w).Inv := by
  unfold Machine.walkDone
  dsimp only
  split <;> exact (h.shareFill _ _).frame

theorem State.Inv.joinWalks {s : State} (h : s.Inv) (ctx dva : Nat) : (joinWalks s ctx dva).Inv := by
  have hs : ∀ l : List Walk, (l.foldl Machine.walkDone s).Inv := fun l => h.foldl _ (fun t x ht => ht.walkDone x) l
  unfold Machine.joinWalks
  dsimp only
  split
  · cases List.head? _ with
    | none => exact hs _
    | some w => exact (hs _).walkDone w
  · exact hs _

theorem State.Inv.useDva {s : State} (h : s.Inv) (ctx dva : Nat) : (useDva s ctx dva).Inv := by
  unfold Machine.useDva
  exact .ite h (.ite (h.joinWalks _ _) ((h.joinWalks _ _).shareFill _ _))

theorem State.Inv.setTenant {s : State} (h : s.Inv) (k : Nat) (t : Tenant) : (State.setTenant s k t).Inv := by
  unfold Machine.State.setTenant
  exact h.frame

theorem State.Inv.putRaw {s : State} (h : s.Inv) (p : Phys) (l : List Byte) : (putRaw s p l).Inv := by
  unfold Machine.putRaw
  split
  · exact h.ofParts h.wf_sram (wf_writeAll _ h.wf_hbm) h.wf_far h.wf_mirror rfl
  · exact h.ofParts h.wf_sram h.wf_hbm (wf_writeAll _ h.wf_far) h.wf_mirror rfl
  · exact h

theorem State.Inv.cipherRun {s : State} (h : s.Inv) (p : Phys) (n : Nat) : (cipherRun s p n).Inv := by
  unfold Machine.cipherRun
  exact h.frame.putRaw _ _

theorem State.Inv.putImage {s : State} (h : s.Inv) (p : Phys) (n : Nat) : (putImage s p n).Inv := by
  unfold Machine.putImage
  exact h.frame.writeDram _ _

theorem State.Inv.zeroFrame {s : State} (h : s.Inv) (e : Nat) : (zeroFrame s e).Inv := by
  unfold Machine.zeroFrame
  split
  · exact h.ofParts h.wf_sram (wf_zeroRange _ _ h.wf_hbm) h.wf_far h.wf_mirror rfl
  · exact h.ofParts h.wf_sram h.wf_hbm (wf_zeroRange _ _ h.wf_far) h.wf_mirror rfl
  · exact h

theorem State.Inv.expandPage {s : State} (h : s.Inv) (k p : Nat) : (expandPage s k p).Inv := by
  unfold Machine.expandPage
  split
  · exact h
  · refine .ite h (.ite ((h.cipherRun _ _).setTenant _ _) ?_)
    split
    · exact h
    · dsimp only
      exact (((((h.touchRun _ _).touchRun _ _).cipherRun _ _).zeroFrame _).writeDram _ _).setTenant _ _

theorem State.Inv.packPage {s : State} (h : s.Inv) (k p : Nat) : (packPage s k p).Inv := by
  unfold Machine.packPage
  split
  · exact h
  · dsimp only
    split
    · exact h
    · split
      · exact h
      · exact ((((h.frame.touchRun _ _).touchRun _ _).cipherRun _ _).putImage _ _).setTenant _ _

theorem State.Inv.openPage {s : State} (h : s.Inv) (k p : Nat) : (openPage s k p).Inv := by
  unfold Machine.openPage
  split
  · exact h
  · refine .ite h ?_
    split
    · exact h
    · exact ((h.touchRun _ _).zeroFrame _).setTenant _ _

theorem State.Inv.readyPage {s : State} (h : s.Inv) (k line : Nat) : (readyPage s k line).Inv := by
  unfold Machine.readyPage
  dsimp only
  split
  · exact h.openPage _ _
  · split
    · exact (h.openPage _ _).expandPage _ _
    · exact h.openPage _ _

theorem State.Inv.writeLine {s0 : State} (h : s0.Inv) (k line : Nat) (l : List (Nat × Byte)) :
    (writeLine s0 k line l).Inv := by
  unfold Machine.writeLine
  extract_lets s whole put
  have hs : s.Inv := h.readyPage _ _
  split
  · exact hs
  · extract_lets e t1 s1
    have hput : ∀ x f, x.Inv → (put x f).Inv := fun x f hx =>
      .ite (hx.writeDram _ _) (hx.foldl _ (fun y b hy => hy.writeDram _ _) _)
    have h1 : s1.Inv := hput _ _ (hs.setTenant _ _)
    refine .ite hs (.ite (hs.setTenant _ _) ?_)
    split
    · exact hput _ _ h1
    · exact h1

theorem State.Inv.writeLent {s : State} (h : s.Inv) (k a : Nat) (l : List Byte) (fuel : Nat) :
    (writeLent s k a l fuel).Inv := by
  induction fuel generalizing s a l with
  | zero => exact h
  | succ n ih =>
    unfold Machine.writeLent
    split
    · exact h
    · exact ih (h.writeLine _ _ _) _ _

theorem State.Inv.cipherAll {s : State} (h : s.Inv) (t : Tenant) : (cipherAll s t).Inv := by
  unfold Machine.cipherAll
  exact h.foldl _ (fun t1 x ht => .ite (ht.cipherRun _ _) ht) _

theorem State.Inv.sendSnoop {s : State} (h : s.Inv) (k line : Nat) (kind : SnpKind) (go : SnpThen) :
    (sendSnoop s k line kind go).Inv := by
  unfold Machine.sendSnoop
  split
  · exact h
  · exact h.frame

theorem State.Inv.putLine {s : State} (h : s.Inv) (k line : Nat) (l : List (Nat × Byte)) : (putLine s k line l).Inv
    := by
  unfold Machine.putLine
  split
  · exact h
  · split
    · exact h.sendSnoop _ _ _ _
    · exact h.writeLine _ _ _

theorem State.Inv.touchDva {s : State} (h : s.Inv) (ctx dva n : Nat) : (touchDva s ctx dva n).Inv := by
  unfold Machine.touchDva
  refine h.foldl _ (fun t x ht => ?_) _
  dsimp only
  split
  · exact (ht.useDva _ _).activate _
  · exact ht.useDva _ _

theorem State.Inv.putPiece {s : State} (h : s.Inv) (ctx dva : Nat) (l : List Byte) : (putPiece s ctx dva l).Inv := by
  unfold Machine.putPiece
  split
  · exact h.useDva _ _
  · exact (h.activate _).putLine _ _ _
  · exact ((h.useDva _ _).activate _).writeDram _ _

theorem State.Inv.putRun {s : State} (h : s.Inv) (ctx dva : Nat) (l : List Byte) (fuel : Nat) :
    (putRun s ctx dva l fuel).Inv := by
  induction fuel generalizing s dva l with
  | zero => exact h
  | succ n ih =>
    unfold Machine.putRun
    split
    · exact h
    · exact ih (h.putPiece _ _ _) _ _

theorem State.Inv.writeDva {s : State} (h : s.Inv) (ctx dva : Nat) (l : List Byte) : (writeDva s ctx dva l).Inv := by
  unfold Machine.writeDva
  exact h.putRun _ _ _ _

theorem State.Inv.withUnit {s : State} (h : s.Inv) (k : Unit → Res) (hk : ∀ u, Keeps (k u)) : Keeps (withUnit s k)
    := by
  unfold Machine.withUnit
  split
  · exact .fault _
  · exact hk _

theorem State.Inv.parkAt {s : State} (h : s.Inv) (u : Unit) (st : Strm) (why : Why) : Keeps (parkAt s u st why) := by
  unfold Machine.parkAt
  dsimp only
  exact .next ((h.setUnit _).frame)

theorem State.Inv.raiseVec {s : State} (h : s.Inv) (t v : Nat) : (raiseVec s t v).Inv := by
  unfold Machine.raiseVec
  split
  · split <;> exact h.frame
  · exact h

theorem State.Inv.writeLog {s : State} (h : s.Inv) (ctx : Nat) (r : LogRec) : (writeLog s ctx r).Inv := by
  unfold Machine.writeLog
  split
  · exact h
  · split
    · exact h.frame
    · split
      · exact h.frame
      · extract_lets s1 s2
        have h1 : s1.Inv := h.writeDva _ _ _
        have h2 : s2.Inv := h1.frame
        split
        · exact h2.raiseVec _ _
        · exact h2

theorem State.Inv.freeRun {s : State} (h : s.Inv) (a n : Nat) : (freeRun s a n).Inv := by
  exact h.ofParts (wf_zeroRange _ _ h.wf_sram) h.wf_hbm h.wf_far h.wf_mirror rfl

theorem State.Inv.zeroPad {s : State} (h : s.Inv) (w : Wg) : (zeroPad s w).Inv := by
  unfold Machine.zeroPad
  exact h.freeRun _ _

theorem State.Inv.freeBufs {s : State} (h : s.Inv) (cl team : Nat) : (freeBufs s cl team).Inv := by
  unfold Machine.freeBufs
  exact h.setCluster _ _

theorem State.Inv.clearEngine {s : State} (h : s.Inv) (cl : Nat) : (clearEngine s cl).Inv := by
  unfold Machine.clearEngine
  exact h.setCluster _ _

theorem State.Inv.resetQueues {s : State} (h : s.Inv) (ctx : Nat) : (resetQueues s ctx).Inv := by
  unfold Machine.resetQueues
  exact h.foldl _ (fun t x ht => .ite (ht.setQueue _ _) ht) _

theorem State.Inv.fireDie {s : State} (h : s.Inv) (d sec : Nat) : (fireDie s d sec).Inv := by
  unfold Machine.fireDie
  exact h.fireMonitors _ _

theorem State.Inv.sendOne {s : State} (h : s.Inv) (x : PStore) : (sendOne s x).Inv := by
  unfold Machine.sendOne
  exact h.frame

theorem State.Inv.sendOut {s : State} (h : s.Inv) : (sendOut s).Inv := by
  unfold Machine.sendOut
  exact h.foldl _ (fun t x ht => ht.sendOne _) _

theorem State.Inv.sendStore {s : State} (h : s.Inv) (x : PStore) : (sendStore s x).Inv := by
  unfold Machine.sendStore
  exact .ite ((h.frame.sendOut.takeLine _ _).fireDie _ _) h.frame.sendOut

theorem State.Inv.sendLoose {s : State} (h : s.Inv) : (sendLoose s).Inv := by
  unfold Machine.sendLoose
  exact h.foldl _ (fun t x ht => ht.sendStore _) _

theorem State.Inv.resetCtx {s : State} (h : s.Inv) (ctx : Nat) : (resetCtx s ctx).Inv := by
  unfold Machine.resetCtx
  extract_lets tms s2 ps st fl s3 s4
  have h2 : s2.Inv := h.foldl _ (fun t x ht => .ite ht (.ite ((ht.freeBufs _ _).clearEngine _) (ht.freeBufs _ _))) _
  have h3 : s3.Inv := by
    refine State.Inv.sendLoose (State.Inv.resetQueues ?_ _)
    exact h2.withUnits rfl (Placed.filter h2.placed _)
  have h4 : s4.Inv := by
    unfold s4
    split
    · exact h3.frame
    · exact h3
  split
  · extract_lets ls
    exact h4.frame
  · exact h4

theorem State.Inv.contextFatal {s : State} (h : s.Inv) (u : Unit) (st : Strm) (code kind addr info extra : Nat) :
    (contextFatal s u st code kind addr info extra).Inv := by
  unfold Machine.contextFatal
  exact (h.writeLog _ _).resetCtx _

theorem State.Inv.pushImp {s : State} (h : s.Inv) (u : Unit) (e : Imp) : (pushImp s u e).Inv := by
  unfold Machine.pushImp
  split
  · exact h.contextFatal _ _ _ _ _ _ _
  · exact h.setUnit _

theorem State.Inv.unattributable {s : State} (h : s.Inv) (issuer : UnitId) (ctx grid : Nat) (e : Imp) :
    (unattributable s issuer ctx grid e).Inv := by
  unfold Machine.unattributable
  exact (h.writeLog _ _).resetCtx _

theorem State.Inv.impreciseSet {s : State} (h : s.Inv) (issuer : UnitId) (wg ctx grid : Nat) (e : Imp) :
    (impreciseSet s issuer wg ctx grid e).Inv := by
  unfold Machine.impreciseSet
  split
  · refine h.foldl _ (fun t x ht => ?_) _
    split
    · exact ht.pushImp _ _
    · exact ht
  · exact h.unattributable _ _ _ _

theorem State.Inv.leaveLists {s : State} (h : s.Inv) (ctx : Nat) (id : UnitId) : (leaveLists s ctx id).Inv := by
  unfold Machine.leaveLists
  exact h.frame

theorem State.Inv.enterTrap {s : State} (hs : s.Inv) (u : Unit) (st : Strm) (h : Handler) (off : Nat) (f : Frame) :
    (enterTrap s u st h off f).Inv := by
  unfold Machine.enterTrap
  extract_lets save s1 fl s2
  have h1 : s1.Inv := hs.setUnit _
  have h2 : s2.Inv := h1.frame.leaveLists _ _
  exact h2.writeHome _

theorem State.Inv.doubleTrap {s : State} (h : s.Inv) (u : Unit) (inner : Nat) : (doubleTrap s u inner).Inv := by
  unfold Machine.doubleTrap
  exact (h.writeLog _ _).resetCtx _

theorem State.Inv.beginTrap {s : State} (hs : s.Inv) (u : Unit) (h : Handler) (off : Nat) (d : Due) :
    (beginTrap s u h off d).Inv := by
  unfold Machine.beginTrap
  split
  · exact hs.enterTrap _ _ _ _ _
  · exact hs.setUnit _

theorem State.Inv.takeTrap {s : State} (h : s.Inv) (u : Unit) (st : Strm) (cause addr info : Nat) (lanes : Mask)
    (adv : Bool) : Keeps (takeTrap s u st cause addr info lanes adv) := by
  unfold Machine.takeTrap
  split
  · exact .next (h.doubleTrap _ _)
  · split
    · exact h.parkAt _ _ _
    · dsimp only
      split
      · exact .next ((h.writeLog _ _).resetCtx _)
      · exact .next (h.beginTrap _ _ _ _)

theorem State.Inv.trapS {s : State} (h : s.Inv) (u : Unit) (cause addr info : Nat) : Keeps (trapS s u cause addr info)
    := by
  unfold Machine.trapS
  exact h.takeTrap _ _ _ _ _ _ _

theorem State.Inv.onShadow {s : State} (h : s.Inv) (u : Unit) (p : Pend) (f : Unit → Unit) : (onShadow s u p f).Inv
    := by
  unfold Machine.onShadow
  split
  · exact h
  · split
    · exact h.frame
    · exact h

theorem State.Inv.enterDue {s0 : State} (hs : s0.Inv) (u : Unit) (h : Handler) (off : Nat) (d : Due) :
    (State.enterDue s0 u h off d).Inv := by
  unfold Machine.State.enterDue
  dsimp only
  refine State.Inv.enterTrap ?_ _ _ _ _ _
  split
  · exact hs.onShadow _ _ _
  · exact hs

theorem State.Inv.takeImp {s : State} (h : s.Inv) (u : Unit) (st : Strm) (e : Imp) : Keeps (takeImp s u st e) := by
  unfold Machine.takeImp
  dsimp only
  split
  · exact .next ((h.setUnit _).contextFatal _ _ _ _ _ _ _)
  · exact .next (.ite ((h.setUnit _).enterDue _ _ _ _) (h.setUnit _))

theorem State.Inv.finishTrap {s : State} (h : s.Inv) (u : Unit) : Keeps (finishTrap s u) := by
  unfold Machine.finishTrap
  split
  · exact .next h
  · split
    · exact .next h
    · split
      · exact .next (h.contextFatal _ _ _ _ _ _ _)
      · exact .next (h.enterDue _ _ _ _)

theorem State.Inv.returnFromTrap {s : State} (h : s.Inv) (u : Unit) : Keeps (returnFromTrap s u) := by
  unfold Machine.returnFromTrap
  split
  · split
    · split
      · exact h.trapS _ _ _ _
      · exact .next (h.setUnit _)
    · exact h.parkAt _ _ _
  · exact h.trapS _ _ _ _

theorem State.Inv.sWord {s : State} (h : s.Inv) (regs : List SReg) (k : Unit → Res) (hk : ∀ u, Keeps (k u)) : Keeps
    (sWord s regs k) := by
  unfold Machine.sWord
  refine h.withUnit _ ?_
  intro v
  split
  · exact h.trapS _ _ _ _
  · split
    · exact h.parkAt _ _ _
    · exact hk _

theorem State.Inv.retireS {s : State} (h : s.Inv) (u : Unit) (m : Bool) (lat : Nat) (rs : List FRes) : Keeps
    (retireS s u m lat rs) := by
  unfold Machine.retireS
  exact .next (h.setUnit _)

theorem Keeps.thenDo (r : Res) (f : State → State) (hr : Keeps r) (hf : ∀ t, t.Inv → (f t).Inv) : Keeps (thenDo r f)
    := by
  intro t ht
  unfold Machine.thenDo at ht
  split at ht
  · obtain rfl := Host.Outcome.next.inj ht
    exact hf _ (hr _ rfl)
  · exact hr t ht

theorem State.Inv.releaseGate {s : State} (h : s.Inv) (u : Unit) (st : Strm) (sc : Scope) (k : Res) (hk : Keeps k)
    : Keeps (releaseGate s u st sc k) := by
  unfold Machine.releaseGate
  split
  · exact h.takeImp _ _ _
  · split
    · exact h.parkAt _ _ _
    · exact hk

theorem State.Inv.compareGate {s : State} (h : s.Inv) (u : Unit) (st : Strm) (kind : Nat) (bytes : List Byte)
    (k : Res) (hk : Keeps k) : Keeps (compareGate s u st kind bytes k) := by
  unfold Machine.compareGate
  exact .ite hk (Keeps.ite hk (.ite (h.parkAt _ _ _) (h.parkAt _ _ _)))

theorem State.Inv.pointGate {s : State} (h : s.Inv) (u : Unit) (st : Strm) (kind modes : Nat) (ops : List Nat)
    (k : Res) (hk : Keeps k) : Keeps (pointGate s u st kind modes ops k) := by
  unfold Machine.pointGate
  exact h.compareGate _ _ _ _ _ hk

theorem State.Inv.cmdGate {s : State} (h : s.Inv) (u : Unit) (st : Strm) (kind : Nat) (ops : List Nat) (k : Res)
    (hk : Keeps k) : Keeps (cmdGate s u st kind ops k) := by
  unfold Machine.cmdGate
  exact h.compareGate _ _ _ _ _ hk

theorem State.Inv.roomGate {s : State} (h : s.Inv) (u : Unit) (st : Strm) (n : Nat) (k : Res) (hk : Keeps k) : Keeps
    (roomGate s u st n k) := by
  unfold Machine.roomGate
  split
  · exact h.parkAt _ _ _
  · split
    · exact h.pointGate _ _ _ _ _ _ hk
    · exact hk

theorem State.Inv.shareVal {s : State} (h : s.Inv) (set n v : Nat) : (shareVal s set n v).Inv := by
  unfold Machine.shareVal
  exact h.frame

theorem State.Inv.checked {s : State} (h : s.Inv) (u : Unit) (st : Strm) (l : List (Nat × Chk))
    (k : List (Nat × Nat) → Res) (hk : ∀ l, Keeps (k l)) : Keeps (checked s u st l k) := by
  unfold Machine.checked
  split
  · exact h.takeTrap _ _ _ _ _ _ _
  · exact hk _

theorem State.Inv.putStamps {s : State} (h : s.Inv) (ctx : Nat) (x : Stamp) (l : List Nat) : (putStamps s ctx x l).Inv
    := by
  unfold Machine.putStamps
  exact h.frame

theorem State.Inv.tsMark (u : Unit) (kind : Nat) (rel : Bool) (sc : Scope) (accs : List (Nat × Nat))
    (recs : List (List Byte)) {s : State} (h : s.Inv) : (tsMark u kind rel sc accs recs s).Inv := by
  unfold Machine.tsMark
  exact .ite (h.frame.putStamps _ _ _) h.frame

theorem State.Inv.tsGate {s : State} (h : s.Inv) (u : Unit) (st : Strm) (kind : Nat) (rel : Bool) (sc : Scope)
    (accs : List (Nat × Nat)) (k : (State → State) → Res) (hk : ∀ f, (∀ t, t.Inv → (f t).Inv) → Keeps (k f)) : Keeps
    (tsGate s u st kind rel sc accs k) := by
  unfold Machine.tsGate
  split
  · exact hk _ (fun t ht => ht)
  · split
    · exact hk _ (fun t ht => ht)
    · dsimp only
      split
      · exact h.takeTrap _ _ _ _ _ _ _
      · exact hk _ (fun t ht => State.Inv.tsMark _ _ _ _ _ _ ht)

theorem State.Inv.issuePend {s : State} (h : s.Inv) (u : Unit) (st : Strm) (m : Bool) (n : Nat) (p : Pend) :
    (issuePend s u st m n p).Inv := by
  unfold Machine.issuePend
  dsimp only
  exact (h.setUnit _).frame

theorem State.Inv.onWg {s : State} (h : s.Inv) (u : Unit) (f : Wg → Wg) : (onWg s u f).Inv := by
  unfold Machine.onWg
  exact h.frame

theorem State.Inv.spoil {s : State} (h : s.Inv) (u : Unit) : (spoil s u).Inv := by
  unfold Machine.spoil
  exact h.onWg _ _

theorem State.Inv.touchPad {s : State} (h : s.Inv) (u : Unit) (l : List Nat) : (touchPad s u l).Inv := by
  unfold Machine.touchPad
  exact h.onWg _ _

theorem State.Inv.releaseStores {s : State} (h : s.Inv) (uid : UnitId) : (releaseStores s uid).Inv := by
  unfold Machine.releaseStores
  split
  · exact h
  · exact h.foldl _ (fun t x ht => .ite (ht.sendStore _) ht) _

theorem State.Inv.queueStores {s : State} (h : s.Inv) (uid : UnitId) (l : List PStore) : (queueStores s uid l).Inv
    := by
  unfold Machine.queueStores
  exact h.frame.releaseStores _

theorem State.Inv.issueStore {s : State} (h : s.Inv) (u : Unit) (st : Strm) (w : StoreW)
    (accs : List (Nat × Nat × Nat)) (ts : State → State) (hts : ∀ t, t.Inv → (ts t).Inv) : Keeps
    (issueStore s u st w accs ts) := by
  unfold Machine.issueStore
  extract_lets m cross go own s1
  have hgo : ∀ v, Keeps (go v) := by
    intro v
    unfold go
    extract_lets s2
    have h2 : s2.Inv := (h.setUnit _).queueStores _ _
    exact .ite (h.parkAt _ _ _) (.next (hts _ (.ite (h2.spoil _) h2)))
  have h1 : s1.Inv := h.setUnit _
  refine h.roomGate _ _ _ _ (.ite (h.compareGate _ _ _ _ _ (h.releaseGate _ _ _ _ ?_)) (.ite ?_ (hgo _)))
  · exact .ite (hgo _) (.next (hts _ ((h.setUnit _).spoil _)))
  · exact .next (hts _ h1.frame)

theorem State.Inv.localStore {s : State} (h : s.Inv) (u : Unit) (st : Strm) (w : StoreW)
    (accs : List (Nat × Nat × Nat)) : Keeps (localStore s u st w accs) := by
  unfold Machine.localStore
  extract_lets m go
  have hgo : ∀ v, Keeps (go v) := by
    intro v
    unfold go
    extract_lets parts s1 s2
    have h1 : s1.Inv := (h.setUnit _).writeHome _
    have h2 : s2.Inv := by
      refine h1.foldl _ (fun t p ht => .ite (ht.clearBad _) (.ite ?_ ht)) _
      split
      · exact ht.pushImp _ _
      · exact ht
    exact .ite (h.parkAt _ _ _) (.next (.ite (h2.touchPad _ _) h2))
  exact .ite (h.pointGate _ _ _ _ _ _ (h.releaseGate _ _ _ _ (hgo _))) (hgo _)

theorem State.Inv.atomHome {s : State} (h : s.Inv) (op : AtomOp) (n : Nat) (accs : List AtomAcc) :
    (atomHome s op n accs).1.Inv := by
  unfold Machine.atomHome
  refine State.Inv.foldl_fst _ (fun r e hr => ?_) _ h
  dsimp only
  exact hr.writeHome _

theorem State.Inv.issueAtom {s : State} (h : s.Inv) (u : Unit) (st : Strm) (w : AtomW) (accs : List AtomAcc)
    (ts : State → State) (hts : ∀ t, t.Inv → (ts t).Inv) : Keeps (issueAtom s u st w accs ts) := by
  unfold Machine.issueAtom
  extract_lets far go
  have hgo : ∀ v, Keeps (go v) := by
    intro v
    unfold go
    extract_lets key red x p st' a s1
    have h1 : s1.Inv := h.issuePend _ _ _ _ _
    refine .ite (.next (hts _ ((h.issuePend _ _ _ _ _).spoil _)))
        (.ite (h.parkAt _ _ _) (.next (hts _ (State.Inv.spoil ?_ _))))
    exact h1.frame
  exact h.roomGate _ _ _ _ (h.compareGate _ _ _ _ _ (.ite (h.releaseGate _ _ _ _ (hgo _)) (hgo _)))

theorem State.Inv.atomAgent {s : State} (h : s.Inv) (a : PAtom) (who : Option Pend) (accs : List AtomAcc) :
    (atomAgent s a who accs).1.Inv := by
  unfold Machine.atomAgent
  refine State.Inv.foldl_fst _ (fun r e hr => ?_) _ h
  dsimp only
  exact hr.frame

theorem State.Inv.tsPerform {s : State} (h : s.Inv) (a : PAtom) : (tsPerform s a).Inv := by
  unfold Machine.tsPerform
  split
  · dsimp only
    exact (State.Inv.ite (h.foldl _ (fun t x ht => ht.setUnit _) _) h).putStamps _ _ _
  · exact h

theorem State.Inv.performAtom {t : State} (h : t.Inv) (a : PAtom) : (performAtom t a).Inv := by
  unfold Machine.performAtom
  extract_lets s fl s0 isBad good bad r mask
  have h0 : s0.Inv := (h.tsPerform a).frame
  have hr : r.1.Inv := by
    unfold r
    split
    · exact h0.atomHome _ _ _
    · exact h0.atomAgent _ _ _
  split
  · exact hr.sendLoose
  · extract_lets u1 s1
    have h1 : s1.Inv := (hr.setUnit _).releaseStores _
    split
    · extract_lets u2 s2
      have h2 : s2.Inv := by
        unfold s2
        split
        · exact (h1.setUnit _).shareVal _ _ _
        · exact h1.setUnit _
      exact h2.pushImp _ _
    · exact h1

theorem State.Inv.localAtom {s : State} (h : s.Inv) (u : Unit) (st : Strm) (w : AtomW) (accs : List AtomAcc) : Keeps
    (localAtom s u st w accs) := by
  unfold Machine.localAtom
  extract_lets done r go
  have hdone : ∀ t v, t.Inv → (done t v).Inv := fun t v ht => .ite (ht.touchPad _ _) (ht.spoil _)
  have hr : r.1.Inv := h.atomHome _ _ _
  have hgo : ∀ v, Keeps (go v) := by
    intro v
    unfold go
    extract_lets p a
    refine .ite (h.parkAt _ _ _) (.ite (.next (hdone _ _ ((h.issuePend _ _ _ _ _).performAtom _))) ?_)
    split
    · exact .next hr
    · exact .next (hdone _ _ (hr.setUnit _))
  exact .ite (h.pointGate _ _ _ _ _ _ (h.releaseGate _ _ _ _ (hgo _))) (hgo _)

theorem State.Inv.releaseSet {s : State} (h : s.Inv) (u : Unit) : (releaseSet s u).Inv := by
  unfold Machine.releaseSet
  exact h.foldl _ (fun t x ht => ht.releaseStores _) _

theorem State.Inv.arriveAll {s : State} (h : s.Inv) (u : Unit) (p : Pend) (vals mem : List (Nat × Nat)) :
    (arriveAll s u p vals mem).Inv := by
  unfold Machine.arriveAll
  dsimp only
  refine State.Inv.releaseSet ?_ _
  split
  · exact ((h.setUnit _).onShadow _ _ _).shareVal _ _ _
  · exact (h.setUnit _).onShadow _ _ _

theorem State.Inv.arriveBad {s : State} (h : s.Inv) (u : Unit) (p : Pend) (vals mem : List (Nat × Nat)) (bad : Mask)
    (addr info : Nat) : (arriveBad s u p vals mem bad addr info).Inv := by
  unfold Machine.arriveBad
  dsimp only
  refine (State.Inv.releaseSet ?_ _).pushImp _ _
  split
  · exact ((h.setUnit _).onShadow _ _ _).shareVal _ _ _
  · exact (h.setUnit _).onShadow _ _ _

theorem State.Inv.arriveOne {s : State} (h : s.Inv) (u : Unit) (p : Pend) (v : Nat) : (arriveOne s u p v).Inv := by
  unfold Machine.arriveOne
  exact h.arriveAll _ _ _ _

theorem State.Inv.arrive {s : State} (h : s.Inv) (u : Unit) (p : Pend) : (arrive s u p).Inv := by
  unfold Machine.arrive
  split
  · dsimp only
    split
    · exact (h.foldl _ (fun t x ht => ht.touchMirror _ _) _).arriveAll _ _ _ _
    · exact (h.foldl _ (fun t x ht => ht.touchMirror _ _) _).arriveBad _ _ _ _ _ _ _
  · exact h.arriveAll _ _ _ _
  · exact h.arriveOne _ _ _
  · exact h.arriveOne _ _ _
  · exact h.arriveOne _ _ _
  · exact h.arriveAll _ _ _ _
  · exact h.arriveAll _ _ _ _
  · split
    · exact h
    · exact h.arriveOne _ _ _
  · split
    · exact h
    · exact .ite (h.arriveAll _ _ _ _) (h.arriveBad _ _ _ _ _ _ _)

theorem State.Inv.issueLoad {s : State} (h : s.Inv) (u : Unit) (st : Strm) (w : LoadW) (accs : List (Nat × Nat))
    (ts : State → State) (hts : ∀ t, t.Inv → (ts t).Inv) : Keeps (issueLoad s u st w accs ts) := by
  unfold Machine.issueLoad
  refine .ite (.ite (.next (hts _ (h.issuePend _ _ _ _ _))) (.next (hts _ (h.issuePend _ _ _ _ _))))
      (.ite (h.parkAt _ _ _) (.ite (.next ?_) (.next (h.setUnit _))))
  split
  · exact (h.issuePend _ _ _ _ _).arrive _ _
  · exact h.issuePend _ _ _ _ _

theorem State.Inv.laneWord {s : State} (h : s.Inv) (g : Guard) (regs : List (Nat × Nat))
    (k : Unit → Bool → Mask → Res) (hk : ∀ u i m, Keeps (k u i m)) : Keeps (laneWord s g regs k) := by
  unfold Machine.laneWord
  exact h.withUnit _ (fun v => .ite (h.parkAt _ _ _) (hk _ _ _))

theorem Keeps.portAfter (r : Res) (core iv : Nat) (hr : Keeps r) : Keeps (portAfter r core iv) := by
  cases r with
  | next t => exact .ite (.next (hr t rfl)) (.next ((hr t rfl).holdPort _ _))
  | fault f => exact .fault f
  | refused f => exact .refused f

theorem State.Inv.retireL {s : State} (h : s.Inv) (u : Unit) (i m : Bool) (iv lat : Nat) (rs : List FRes) : Keeps
    (retireL s u i m iv lat rs) := by
  unfold Machine.retireL
  exact .next (((h.setUnit _).spendFree _).holdPort _ _)

theorem State.Inv.writeLane {s : State} (h : s.Inv) (u : Unit) (i m : Bool) (act : Mask) (iv lat : Nat) (d : Sel)
    (n : Nat) (vals : List (Nat × Nat)) : Keeps (writeLane s u i m act iv lat d n vals) := by
  unfold Machine.writeLane
  split <;> exact h.retireL _ _ _ _ _ _

theorem State.Inv.writeMask {s : State} (h : s.Inv) (u : Unit) (i m : Bool) (act : Mask) (iv lat : Nat) (d : Sel)
    (bits : Mask) : Keeps (writeMask s u i m act iv lat d bits) := by
  unfold Machine.writeMask
  split <;> exact h.retireL _ _ _ _ _ _

theorem State.Inv.flagGate {s : State} (h : s.Inv) (u : Unit) (i : Bool) (l : List (Mask × Flags)) (k : Unit → Res)
    (hk : ∀ u, Keeps (k u)) : Keeps (flagGate s u i l k) := by
  unfold Machine.flagGate
  exact .ite (hk _) (h.takeTrap _ _ _ _ _ _ _)

theorem State.Inv.convWord {s : State} (h : s.Inv) (w : LA) (rmOf : Unit → Rm) : Keeps (convWord s w rmOf) := by
  unfold Machine.convWord
  exact h.laneWord _ _ _ (fun v x x1 => h.flagGate _ _ _ _ (fun v1 => h.writeLane _ _ _ _ _ _ _ _ _))

theorem State.Inv.aluS {s : State} (h : s.Inv) (m : Bool) (d a b : SReg) (lat : Nat) (f : Word → Word → Word) : Keeps
    (aluS s m d a b lat f) := by
  unfold Machine.aluS
  exact h.sWord _ _ (fun v => h.retireS _ _ _ _)

theorem State.Inv.aluS1 {s : State} (h : s.Inv) (m : Bool) (d a : SReg) (lat : Nat) (f : Word → Word) : Keeps
    (aluS1 s m d a lat f) := by
  unfold Machine.aluS1
  exact h.sWord _ _ (fun v => h.retireS _ _ _ _)

theorem State.Inv.predWord {s : State} (h : s.Inv) (m : Bool) (p pa : PReg) (na : Bool) (pb : PReg) (nb : Bool)
    (f : Bool → Bool → Bool) : Keeps (predWord s m p pa na pb nb f) := by
  unfold Machine.predWord
  exact h.sWord _ _ (fun v => h.retireS _ _ _ _)

theorem State.Inv.jumpS {s : State} (h : s.Inv) (u : Unit) (m : Bool) (t : Nat) (rs : List FRes) : Keeps
    (jumpS s u m t rs) := by
  unfold Machine.jumpS
  exact .next (h.setUnit _)

theorem State.Inv.transferS {s : State} (h : s.Inv) (u : Unit) (m : Bool) (t : Int) (rs : List FRes) : Keeps
    (transferS s u m t rs) := by
  unfold Machine.transferS
  split
  · exact h.trapS _ _ _ _
  · exact h.jumpS _ _ _ _

theorem State.Inv.stopSiblings {s : State} (h : s.Inv) (u : Unit) : (stopSiblings s u).Inv := by
  unfold Machine.stopSiblings
  split
  · exact h
  · exact h.foldl _ (fun t x ht => .ite ht ((ht.setUnit _).leaveLists _ _)) _

theorem State.Inv.stopAt {s : State} (h : s.Inv) (u : Unit) (st : Strm) (info : Nat) : (stopAt s u st info).Inv := by
  unfold Machine.stopAt
  exact ((h.setUnit _).leaveLists _ _).stopSiblings _

theorem State.Inv.laneCtl {s : State} (h : s.Inv) (g : Guard) (k : Unit → Bool → Mask → Res)
    (hk : ∀ u i m, Keeps (k u i m)) : Keeps (laneCtl s g k) := by
  unfold Machine.laneCtl
  exact h.laneWord _ _ _ (fun v x x1 => Keeps.portAfter _ _ _ (hk _ _ _))

theorem State.Inv.joinPair {s : State} (h : s.Inv) (u : Unit) (i o : Bool) : Keeps (joinPair s u i o) := by
  unfold Machine.joinPair
  exact .ite (h.parkAt _ _ _) (.ite (h.takeTrap _ _ _ _ _ _ _) (.ite (h.parkAt _ _ _) (.next (h.setUnit _))))

theorem State.Inv.floatWord {s : State} (h : s.Inv) (w : LA) (n iv lat : Nat) (fn : ElemFn) : Keeps
    (floatWord s w n iv lat fn) := by
  unfold Machine.floatWord
  refine h.laneWord _ _ _ ?_
  intro v x x1
  split
  · exact h.retireL _ _ _ _ _ _
  · exact h.flagGate _ _ _ _ (fun v1 => h.writeLane _ _ _ _ _ _ _ _ _)

theorem State.Inv.floatTest {s : State} (h : s.Inv) (w : LA) (n iv lat : Nat)
    (fn : Fmt → Bool → Nat → Nat → Bool × Flags) : Keeps (floatTest s w n iv lat fn) := by
  unfold Machine.floatTest
  refine h.laneWord _ _ _ ?_
  intro v x x1
  split
  · exact h.retireL _ _ _ _ _ _
  · exact h.flagGate _ _ _ _ (fun v1 => h.writeMask _ _ _ _ _ _ _ _)

theorem State.Inv.intWord {s : State} (h : s.Inv) (w : LA) (n : Nat) (slow : Bool) (fn : IntFn) : Keeps
    (intWord s w n slow fn) := by
  unfold Machine.intWord
  exact h.laneWord _ _ _ (fun v x x1 => h.writeLane _ _ _ _ _ _ _ _ _)

theorem State.Inv.maskWord {s : State} (h : s.Inv) (w : LA) (f : Mask → Mask → Mask) : Keeps (maskWord s w f) := by
  unfold Machine.maskWord
  exact h.laneWord _ _ _ (fun v x x1 => h.writeMask _ _ _ _ _ _ _ _)

theorem State.Inv.loadS {s : State} (h : s.Inv) (sp : Space) (m : Bool) (d a : SReg) (ty : MTy) (o : Order)
    (rb : Bool) (off : Nat) : Keeps (loadS s sp m d a ty o rb off) := by
  unfold Machine.loadS
  exact h.sWord _ _ (fun v => h.checked _ _ _ _ (fun x => .ite
      (h.tsGate _ _ _ _ _ _ _ (fun x1 hx => h.issueLoad _ _ _ _ _ hx)) (h.issueLoad _ _ _ _ _ (fun t ht => ht))))

theorem State.Inv.storeS {s : State} (h : s.Inv) (sp : Space) (m : Bool) (d a : SReg) (ty : MTy) (o : Order)
    (sc : Scope) (ef : Bool) (off : Nat) : Keeps (storeS s sp m d a ty o sc ef off) := by
  unfold Machine.storeS
  exact h.sWord _ _ (fun v => h.checked _ _ _ _ (fun x => .ite
      (h.tsGate _ _ _ _ _ _ _ (fun x1 hx => h.issueStore _ _ _ _ _ hx)) (h.localStore _ _ _ _)))

theorem State.Inv.loadL {s : State} (h : s.Inv) (sp : Space) (w : LM) : Keeps (loadL s sp w) := by
  unfold Machine.loadL
  exact h.laneWord _ _ _ (fun v x x1 => Keeps.portAfter _ _ _
      (h.checked _ _ _ _ (fun x2 => .ite (h.tsGate _ _ _ _ _ _ _ (fun x3 hx => h.issueLoad _ _ _ _ _ hx))
      (h.issueLoad _ _ _ _ _ (fun t ht => ht)))))

theorem State.Inv.storeL {s : State} (h : s.Inv) (sp : Space) (w : LM) : Keeps (storeL s sp w) := by
  unfold Machine.storeL
  exact h.laneWord _ _ _ (fun v x x1 => Keeps.portAfter _ _ _
      (h.checked _ _ _ _ (fun x2 => .ite (h.tsGate _ _ _ _ _ _ _ (fun x3 hx => h.issueStore _ _ _ _ _ hx))
      (h.localStore _ _ _ _))))

theorem State.Inv.barSet {s : State} (h : s.Inv) (u : Unit) (kind idx : Nat) (b : Barrier) :
    (barSet s u kind idx b).Inv := by
  unfold Machine.barSet
  split
  · exact h.frame
  · exact h.frame
  · split
    · exact h
    · exact h.frame

theorem State.Inv.capture {s : State} (h : s.Inv) (k ph : Nat) : (capture s k ph).Inv := by
  unfold Machine.capture
  split
  · exact h
  · refine h.withUnits rfl (Placed.map h.placed fun e => ?_)
    dsimp only
    split <;> exact ⟨rfl, rfl⟩

theorem State.Inv.rollback {s : State} (h : s.Inv) (k : Nat) (err : Bool) : (rollback s k err).Inv := by
  unfold Machine.rollback
  split
  · exact h
  · split
    · exact h
    · next w _ sh _ =>
      extract_lets us now back s1 s2 a sram w1
      have h1 : s1.Inv := by
        refine h.foldl _ (fun t e ht => ?_) _
        split
        · exact ht.barSet _ _ _ _
        · exact ht
      have h2 : s2.Inv := by
        refine h1.foldl _ (fun t u ht => ?_) _
        split
        · exact ht.setUnit _
        · exact ht
      have hs : SMap.wf 0 sram = true := wf_foldl_set (fun e => e.1) (fun e => e.2) sh.pad
          (wf_zeroRange _ _ h2.wf_sram)
      exact h2.ofParts hs h2.wf_hbm h2.wf_far h2.wf_mirror rfl

theorem State.Inv.spoilAll {s : State} (h : s.Inv) (l : List Nat) : (spoilAll s l).Inv := by
  unfold Machine.spoilAll
  refine h.foldl _ (fun t x ht => ?_) _
  split
  · exact ht.spoil _
  · exact ht

theorem State.Inv.arriveBar {s : State} (h : s.Inv) (u : Unit) (kind idx cnt : Nat) : (arriveBar s u kind idx cnt).Inv
    := by
  unfold Machine.arriveBar
  extract_lets b n l s1
  have h1 : s1.Inv := h.barSet _ _ _ _
  exact .ite (h.barSet _ _ _ _) (.ite (h1.capture _ _) (h1.spoilAll _))

theorem State.Inv.retireW {s : State} (h : s.Inv) (u : Unit) (st : Strm) (m : Bool) : Keeps (retireW s u st m) := by
  unfold Machine.retireW
  exact .next (h.setUnit _)

theorem State.Inv.fenceW {s : State} (h : s.Inv) (u : Unit) (st : Strm) (m : Bool) (o : Order) (sc : Scope) : Keeps
    (fenceW s u st m o sc) := by
  unfold Machine.fenceW
  exact .ite (h.pointGate _ _ _ _ _ _ (h.releaseGate _ _ _ _ (.ite (h.parkAt _ _ _) (h.retireW _ _ _))))
      (.ite (h.parkAt _ _ _) (h.retireW _ _ _))

theorem State.Inv.laneSync {s : State} (h : s.Inv) (w : LM) (regs : List (Nat × Nat)) (k : Unit → Strm → Mask → Res)
    (hk : ∀ a b c, Keeps (k a b c)) : Keeps (laneSync s w regs k) := by
  unfold Machine.laneSync
  exact h.laneWord _ _ _ (fun v x x1 => Keeps.portAfter _ _ _ (hk _ _ _))

theorem State.Inv.arriveW {s : State} (h : s.Inv) (u : Unit) (st : Strm) (m : Bool) (o : Order) (sc : Scope)
    (kind idx c : Nat) : Keeps (arriveW s u st m o sc kind idx c) := by
  unfold Machine.arriveW
  exact .ite (h.parkAt _ _ _) (.ite (h.takeTrap _ _ _ _ _ _ _)
      (.ite (h.takeTrap _ _ _ _ _ _ _) (.ite (h.pointGate _ _ _ _ _ _
      (h.releaseGate _ _ _ _ (.next ((h.setUnit _).arriveBar _ _ _ _)))) (.next ((h.setUnit _).arriveBar _ _ _ _)))))

theorem State.Inv.waitW {s : State} (h : s.Inv) (u : Unit) (st : Strm) (m : Bool) (kind idx : Nat) : Keeps
    (waitW s u st m kind idx) := by
  unfold Machine.waitW
  exact .ite (h.parkAt _ _ _) (h.retireW _ _ _)

theorem State.Inv.laneBar {s : State} (h : s.Inv) (w : LM) (regs : List (Nat × Nat)) (k : Unit → Strm → Nat → Res)
    (hk : ∀ a b c, Keeps (k a b c)) : Keeps (laneBar s w regs k) := by
  unfold Machine.laneBar
  refine h.laneSync _ _ _ (fun v x x1 => .ite (h.takeTrap _ _ _ _ _ _ _) ?_)
  split
  · exact h.retireW _ _ _
  · exact hk _ _ _

theorem State.Inv.tellReplicas {s : State} (h : s.Inv) (u : Unit) (v : Nat) : (tellReplicas s u v).Inv := by
  unfold Machine.tellReplicas
  split
  · exact h.shareVal _ _ _
  · exact h

theorem State.Inv.monTimeout {s : State} (h : s.Inv) (u : Unit) (t : Nat) : Keeps (monTimeout s u t) := by
  unfold Machine.monTimeout
  exact h.trapS _ _ _ _

theorem State.Inv.setHandle {s : State} (hs : s.Inv) (cl k : Nat) (h : Handle) : (setHandle s cl k h).Inv := by
  unfold Machine.setHandle
  exact hs.setCluster _ _

theorem State.Inv.raiseTimeline {s : State} (h : s.Inv) (ctx n v : Nat) : (raiseTimeline s ctx n v).Inv := by
  unfold Machine.raiseTimeline
  exact h.frame

theorem State.Inv.setTsn {s : State} (h : s.Inv) (m : Bool) (mode : Nat) : Keeps (setTsn s m mode) := by
  unfold Machine.setTsn
  exact h.sWord _ _ (fun v => .ite (h.retireW _ _ _) (h.retireW _ _ _))

theorem State.Inv.startMigration {s : State} (h : s.Inv) (k p : Nat) (f : Option Nat) : (startMigration s k p f).Inv
    := by
  unfold Machine.startMigration
  split
  · exact .ite h ((h.zeroFrame _).setTenant _ _)
  · exact h

theorem State.Inv.countAccess {s : State} (h : s.Inv) (k p : Nat) : (countAccess s k p).Inv := by
  unfold Machine.countAccess
  split
  · exact h
  · dsimp only
    split
    · exact h.setTenant _ _
    · split
      · exact (h.setTenant _ _).startMigration _ _ _
      · split
        · exact (h.setTenant _ _).expandPage _ _
        · exact h.setTenant _ _

theorem State.Inv.agePage {s : State} (h : s.Inv) (k p : Nat) : (agePage s k p).Inv := by
  unfold Machine.agePage
  split
  · exact h
  · extract_lets e n e1 due t1 s1
    have h1 : s1.Inv := h.setTenant _ _
    refine .ite h1 (.ite (h1.packPage _ _) ?_)
    split
    · exact h1.startMigration _ _ _
    · exact h1.packPage _ _

theorem State.Inv.evacPage {s : State} (h : s.Inv) (d k p : Nat) : (evacPage s d k p).Inv := by
  unfold Machine.evacPage
  split
  · exact h
  · refine .ite ?_ h
    split
    · exact h.startMigration _ _ _
    · exact h.packPage _ _

theorem State.Inv.readDone {s : State} (h : s.Inv) (who : Nat) : (readDone s who).Inv := by
  unfold Machine.readDone
  split
  · exact h.frame
  · exact h

theorem State.Inv.counterAdd {s : State} (h : s.Inv) (q : Nat) (old : Option Nat) : (counterAdd s q old).Inv := by
  unfold Machine.counterAdd
  split
  · exact h
  · split
    · split
      · exact h
      · split
        · exact h.writeLog _ _
        · exact h.writeLine _ _ _
    · exact h

theorem State.Inv.counterStart {s : State} (h : s.Inv) (q : Nat) (old : Option Nat) : (counterStart s q old).Inv := by
  unfold Machine.counterStart
  split
  · exact h
  · split
    · split
      · exact h
      · split
        · exact h.sendSnoop _ _ _ _
        · exact h.counterAdd _ _
    · exact h

theorem State.Inv.snoopGo {s : State} (h : s.Inv) (x : Snoop) : (snoopGo s x).Inv := by
  unfold Machine.snoopGo
  split
  · exact h.counterAdd _ _
  · exact h.writeLine _ _ _
  · exact h
  · exact h

theorem State.Inv.snoopDone {s : State} (h : s.Inv) (x : Snoop) (data : Option (List Byte)) : (snoopDone s x data).Inv
    := by
  unfold Machine.snoopDone
  extract_lets fl s1 held s2
  have h1 : s1.Inv := h.frame
  have h2 : s2.Inv := by
    unfold s2
    split
    · exact .ite (h1.writeLine _ _ _) h1
    · exact h1
  split
  · exact h2
  · exact (h2.setTenant _ _).snoopGo _

theorem State.Inv.hostCrash {s : State} (h : s.Inv) (k : Nat) : (hostCrash s k).Inv := by
  unfold Machine.hostCrash
  split
  · exact h
  · dsimp only
    exact (h.setTenant _ _).foldl _ (fun t x ht => ht.snoopDone _ _) _

theorem State.Inv.rightsGate {s : State} (h : s.Inv) (u : Unit) (ok : Bool) (major f : Nat) (k : Res) (hk : Keeps k)
    : Keeps (rightsGate s u ok major f k) := by
  unfold Machine.rightsGate
  split
  · exact hk
  · exact h.trapS _ _ _ _

theorem State.Inv.failGate {s : State} (h : s.Inv) (u : Unit) (f : Option (Nat × Nat × Nat)) (k : Res) (hk : Keeps k)
    : Keeps (failGate s u f k) := by
  unfold Machine.failGate
  split
  · exact h.trapS _ _ _ _
  · exact hk

theorem State.Inv.handOver {s : State} (h : s.Inv) (u : Unit) (m : Bool) (r : SReg) (j : Job) :
    (handOver s u m r j).Inv := by
  unfold Machine.handOver
  extract_lets v v' w s1
  have h1 : s1.Inv := (h.setUnit _).spoil _
  exact h1.frame

theorem State.Inv.statusGate {s : State} (h : s.Inv) (u : Unit) (r : SReg) (k : Res) (hk : Keeps k) : Keeps
    (statusGate s u r k) := by
  unfold Machine.statusGate
  split
  · exact hk
  · split
    · exact h.trapS _ _ _ _
    · split
      · exact h.parkAt _ _ _
      · exact hk

theorem State.Inv.commandGate {s : State} (h : s.Inv) (u : Unit) (kind : Nat) (ops : List Nat) (r : SReg) (k : Res)
    (hk : Keeps k) : Keeps (commandGate s u kind ops r k) := by
  unfold Machine.commandGate
  exact h.statusGate _ _ _ (.ite (h.parkAt _ _ _) (h.roomGate _ _ _ _
      (h.cmdGate _ _ _ _ _ (h.releaseGate _ _ _ _ hk))))

theorem State.Inv.copyWord {s : State} (h : s.Inv) (m : Bool) (major f n : Nat) (ends : EndK × EndK) (a b c : SReg)
    : Keeps (copyWord s m major f n ends a b c) := by
  unfold Machine.copyWord
  exact h.sWord _ _ (fun v => h.rightsGate _ _ _ _ _ (h.failGate _ _ _
      (h.commandGate _ _ _ _ _ (.next (h.handOver _ _ _ _)))))

theorem State.Inv.takeCredits {s : State} (h : s.Inv) (gsa mask : Nat) : (takeCredits s gsa mask).Inv := by
  unfold Machine.takeCredits
  exact h.writeHome _

theorem State.Inv.unreadable {s : State} (h : s.Inv) (u : Unit) (m : Bool) (r : SReg) (gsa status : Nat) :
    (unreadable s u m r gsa status).Inv := by
  unfold Machine.unreadable
  extract_lets v v' w imp s1 fl s2
  have h1 : s1.Inv := h.setUnit _
  have h2 : s2.Inv := h1.frame
  exact .ite (h2.impreciseSet _ _ _ _ _) h2

theorem State.Inv.collWord {s : State} (h : s.Inv) (m : Bool) (op : Nat) (a c : SReg) : Keeps (collWord s m op a c)
    := by
  unfold Machine.collWord
  refine h.sWord _ _ (fun v => h.rightsGate _ _ _ _ _ ?_)
  dsimp only
  split
  · exact h.trapS _ _ _ _
  · split
    · exact h.trapS _ _ _ _
    · exact h.commandGate _ _ _ _ _ (.ite (.next (h.unreadable _ _ _ _ _)) (.next (h.handOver _ _ _ _)))

theorem State.Inv.setList {s : State} (h : s.Inv) (ctx n : Nat) (w : WorkList) : (setList s ctx n w).Inv := by
  unfold Machine.setList
  exact h.frame

theorem State.Inv.appendItem {s : State} (h : s.Inv) (ctx n v : Nat) : (appendItem s ctx n v).Inv := by
  unfold Machine.appendItem
  split
  · exact h
  · exact (h.writeHome _).setList _ _ _

theorem State.Inv.takeDone {s : State} (h : s.Inv) (u : Unit) (m : Bool) (c : SReg) (item : Option Nat) : Keeps
    (takeDone s u m c item) := by
  unfold Machine.takeDone
  dsimp only
  exact (State.Inv.ite ((h.tellReplicas _ _).spoil _) (h.tellReplicas _ _)).retireS _ _ _ _

theorem State.Inv.askWalk {s : State} (h : s.Inv) (ctx dva : Nat) : (askWalk s ctx dva).Inv := by
  unfold Machine.askWalk
  exact .ite h h.frame

theorem State.Inv.lift {s : State} (h : s.Inv) (l : Loc) : (Loc.lift s l).Inv := by
  unfold Machine.Loc.lift
  split
  · exact h.foldl _ (fun t x ht => ht.clearBad _) _
  · exact h.poison rfl rfl rfl rfl rfl
  · exact h.poison rfl rfl rfl rfl rfl
  · exact h

theorem State.Inv.liftRun {s : State} (h : s.Inv) (j : Job) (g : Nat → Loc) (x n : Nat) : (liftRun s j g x n).Inv
    := by
  unfold Machine.liftRun
  exact h.foldl _ (fun t x1 ht => .ite (ht.lift _) ht) _

theorem State.Inv.writeRun {s : State} (h : s.Inv) (f : Nat → Loc) (l : List Byte) : (writeRun s f l).Inv := by
  unfold Machine.writeRun
  split
  · dsimp only
    exact (h.writeHome _).foldl _ (fun t x ht => .ite (ht.clearBad _) ht) _
  · exact h.writeLent _ _ _ _
  · exact h.writeDram _ _
  · exact h.foldl _ (fun t x ht => ht.setCluster _ _) _

theorem State.Inv.actLoc {s : State} (h : s.Inv) (l : Loc) : (actLoc s l).Inv := by
  unfold Machine.actLoc
  split
  · exact h.activate _
  · exact h

theorem State.Inv.setJob {s : State} (h : s.Inv) (j : Job) : (setJob s j).Inv := by
  unfold Machine.setJob
  exact h.frame

theorem State.Inv.jobFault {s : State} (h : s.Inv) (j : Job) (code addr : Nat) : (jobFault s j code addr).Inv := by
  unfold Machine.jobFault
  exact h.setJob _

theorem State.Inv.dropNegative {s : State} (h : s.Inv) (ctx dva : Nat) : (dropNegative s ctx dva).Inv := by
  unfold Machine.dropNegative
  exact h.frame

theorem State.Inv.moveRun {s : State} (h : s.Inv) (j : Job) (f g : Nat → Loc) (x n0 daddr saddr : Nat) :
    (moveRun s j f g x n0 daddr saddr).Inv := by
  unfold Machine.moveRun
  extract_lets late n j1 s0 l old bad s1 pre j2
  have h0 : s0.Inv := h.frame.readDone _
  have h1 : s1.Inv := (((h0.writeRun _ _).actLoc _).actLoc _).liftRun _ _ _ _
  split
  · exact h0.setJob _
  · split
    · exact h.jobFault _ _ _
    · clear_value bad
      split
      · exact h1.jobFault _ _ _
      · exact h1.setJob _

theorem State.Inv.fillEnds {s : State} (h : s.Inv) (j : Job) (d r : Nat) : (fillEnds s j d r).Inv := by
  unfold Machine.fillEnds
  dsimp only
  split
  · refine State.Inv.tlbFill ?_ _ _ _
    split
    · exact h.tlbFill _ _ _
    · exact h
  · split
    · exact h.tlbFill _ _ _
    · exact h

theorem State.Inv.deliver {s : State} (h : s.Inv) (u : UnitId) (what : PWhat) (v : Nat) : (deliver s u what v).Inv
    := by
  unfold Machine.deliver
  split
  · exact h
  · exact h.setUnit _

theorem State.Inv.endJob {s : State} (h : s.Inv) (j : Job) : (endJob s j).Inv := by
  unfold Machine.endJob
  exact .ite (h.frame.deliver _ _ _) ((h.frame.deliver _ _ _).impreciseSet _ _ _ _ _)

theorem State.Inv.putDva {s : State} (h : s.Inv) (ctx dva : Nat) (l : List Byte) (fuel : Nat) :
    (putDva s ctx dva l fuel).1.Inv := by
  induction fuel generalizing s dva l with
  | zero => exact h
  | succ n ih =>
    unfold Machine.putDva
    split
    · exact h
    · extract_lets c one
      split
      · exact h
      · extract_lets s1 s2
        have h1 : s1.Inv := by
          unfold s1
          split
          · exact h.writeLine _ _ _
          · exact h.writeDram _ _
        have h2 : s2.Inv := (h1.useDva _ _).activate _
        split
        · exact h2
        · exact ih h2 _ _

theorem State.Inv.putSome {s : State} (h : s.Inv) (base ctx dva z : Nat) (l : List Byte) :
    (putSome s base ctx dva z l).Inv := by
  unfold Machine.putSome
  exact h.foldl _ (fun t x ht => .ite ht (ht.putDva _ _ _ _)) _

theorem State.Inv.touchLads {s : State} (h : s.Inv) (ctx : Nat) (p : Packet) : (touchLads s ctx p).Inv := by
  unfold Machine.touchLads
  split
  · exact h
  · exact h.touchDva _ _ _

theorem State.Inv.takeNum {s : State} (h : s.Inv) (ctx : Nat) : (takeNum s ctx).1.Inv := by
  unfold Machine.takeNum
  split
  · exact h.frame
  · exact h

theorem State.Inv.addChild {s : State} (h : s.Inv) (u : Unit) (p : Packet) (lads : List Lading) :
    (addChild s u p lads).1.Inv := by
  unfold Machine.addChild
  dsimp only
  exact (h.takeNum _).frame

theorem State.Inv.launchRun {s : State} (h : s.Inv) (u : Unit) (p : Packet) (lads : Option (List Lading)) :
    (launchRun s u p lads).1.Inv := by
  unfold Machine.launchRun
  split
  · exact h
  · split
    · exact h
    · split
      · exact h
      · dsimp only
        exact h.addChild _ _ _

theorem State.Inv.launchDone {s : State} (h : s.Inv) (u : Unit) (m : Bool) (c : SReg) (code info : Nat) :
    (launchDone s u m c code info).Inv := by
  unfold Machine.launchDone
  extract_lets w v v' x s1 fl s2
  have h1 : s1.Inv := (h.setUnit _).spoil _
  have h2 : s2.Inv := h1.frame
  exact .ite (h2.impreciseSet _ _ _ _ _) h2

theorem State.Inv.queueVec {s : State} (hs : s.Inv) (h : HwQueue) : (queueVec s h).Inv := by
  unfold Machine.queueVec
  split
  · exact hs.raiseVec _ _
  · exact hs

theorem State.Inv.touchRing {s : State} (hs : s.Inv) (h : HwQueue) (i : Nat) : (touchRing s h i).Inv := by
  unfold Machine.touchRing
  refine .ite (hs.touchDva _ _ _) ?_
  split
  · exact hs.activate _
  · exact hs

theorem State.Inv.served {s : State} (h : s.Inv) (src : QSrc) (c : Nat) : (served s src c).Inv := by
  unfold Machine.served
  exact h.frame

theorem State.Inv.rejectHead {s : State} (h : s.Inv) (q rc : Nat) : (rejectHead s q rc).Inv := by
  unfold Machine.rejectHead
  split
  · exact h
  · exact (h.setQueue _ _).queueVec _

theorem State.Inv.addGrid {s : State} (h : s.Inv) (g : Grid) : (addGrid s g).Inv := by
  unfold Machine.addGrid
  exact h.frame

theorem State.Inv.seenAll {s : State} (h : s.Inv) (q : Nat) (p : Packet) : (seenAll s q p).Inv := by
  unfold Machine.seenAll
  dsimp only
  refine State.Inv.readDone ?_ _
  split
  · exact (h.touchRing _ _).touchLads _ _
  · exact h

theorem State.Inv.takeHw {s : State} (hs : s.Inv) (q : Nat) (h : Head) : (takeHw s q h).Inv := by
  unfold Machine.takeHw
  split
  · exact (hs.served _ _).rejectHead _ _
  · split
    · exact hs.sendSnoop _ _ _ _
    · dsimp only
      split
      · exact ((hs.served _ _).seenAll _ _).rejectHead _ _
      · exact (((hs.served _ _).seenAll _ _).takeNum _).addGrid _

theorem State.Inv.popHead {s : State} (h : s.Inv) (g : Grid) : (popHead s g).Inv := by
  unfold Machine.popHead
  split
  · split
    · exact h.setQueue _ _
    · exact h
  · exact h.frame

theorem State.Inv.countStart {s : State} (h : s.Inv) (c : Nat) : (countStart s c).Inv := by
  unfold Machine.countStart
  exact h.frame

theorem State.Inv.addUnit {s : State} (h : s.Inv) (id : UnitId) (who : Ident) (pc : Nat) : (addUnit s id who pc).Inv
    := by
  unfold Machine.addUnit
  dsimp only
  exact (h.setUnit _).frame

theorem State.Inv.addWg (b : Build) {s : State} (h : s.Inv) (w : Nat) (peers : List Nat) :
    (Build.addWg b s w peers).Inv := by
  unfold Machine.Build.addWg
  extract_lets p at_ x s1 s2
  have h1 : s1.Inv := h.frame.zeroPad _
  have h2 : s2.Inv := h1.foldl _ (fun t i ht => ht.addUnit _ _ _) _
  exact .ite (h2.capture _ _) h2

theorem State.Inv.addBufs (b : Build) {s : State} (h : s.Inv) : (Build.addBufs b s).Inv := by
  unfold Machine.Build.addBufs
  exact h.foldl _ (fun t x ht => (ht.freeRun _ _).setHandle _ _ _) _

theorem State.Inv.run (b : Build) {s : State} (h : s.Inv) (peers : List Nat) : (Build.run b s peers).Inv := by
  unfold Machine.Build.run
  extract_lets p flat n v0 t s1 s2 s3 c
  have h1 : s1.Inv := h.frame
  have h2 : s2.Inv := h1.foldl _ (fun t w ht => State.Inv.addWg b ht _ _) _
  have h3 : s3.Inv := State.Inv.addBufs b h2
  exact .ite ((h3.setCluster _ _).addUnit _ _ _) h3

theorem State.Inv.buildTeam {s : State} (h : s.Inv) (gk : Nat) (g : Grid) (slab j : Nat) (spots : List Spot) :
    (buildTeam s gk g slab j spots).Inv := by
  unfold Machine.buildTeam
  exact State.Inv.foldl _ (fun t r ht => State.Inv.run _ ht _) _ h.frame

theorem State.Inv.dropRequests {s : State} (h : s.Inv) (gk : Nat) : (dropRequests s gk).Inv := by
  unfold Machine.dropRequests
  exact h.frame

theorem State.Inv.placeTeam {s : State} (h : s.Inv) (gk : Nat) (g : Grid) (i : Nat) (l : List Spot) :
    (placeTeam s gk g i l).Inv := by
  unfold Machine.placeTeam
  extract_lets j s1
  have h1 : s1.Inv := h.buildTeam _ _ _ _ _
  exact h1.frame.dropRequests _

theorem State.Inv.openHandles {s : State} (h : s.Inv) (u : Unit) : (openHandles s u).Inv := by
  unfold Machine.openHandles
  exact h.setCluster _ _

theorem State.Inv.passEntries {s : State} (h : s.Inv) (u : Unit) : (passEntries s u).Inv := by
  unfold Machine.passEntries
  refine h.foldl _ (fun t x ht => ?_) _
  split
  · exact ht.pushImp _ _
  · exact ht.unattributable _ _ _ _

theorem State.Inv.leaveBars {s : State} (h : s.Inv) (u : Unit) : (leaveBars s u).Inv := by
  unfold Machine.leaveBars
  extract_lets gone one t
  have h1 : ∀ t k i, t.Inv → (one t k i).Inv := by
    intro t k i ht
    unfold one
    exact .ite (ht.barSet _ _ _ _) ht
  have ht : t.Inv := h1 _ _ _ (State.Inv.foldl _ (fun t i ht => h1 _ _ _ ht) _ (h1 _ _ _ h))
  exact ht.frame

theorem State.Inv.settlePreempts {s : State} (h : s.Inv) : (settlePreempts s).Inv := by
  unfold Machine.settlePreempts
  exact h.frame

theorem State.Inv.retireWg {s : State} (h : s.Inv) (k : Nat) : (retireWg s k).Inv := by
  unfold Machine.retireWg
  split
  · exact h
  · split
    · exact h.frame
    · exact h

theorem State.Inv.retireTeam {s : State} (h : s.Inv) (k : Nat) : (retireTeam s k).Inv := by
  unfold Machine.retireTeam
  split
  · exact h
  · split
    · exact h
    · dsimp only
      exact (State.Inv.ite ((h.freeBufs _ _).clearEngine _) (h.freeBufs _ _)).frame

theorem State.Inv.dropMigs {s : State} (h : s.Inv) (u : Unit) : (dropMigs s u).Inv := by
  unfold Machine.dropMigs
  split
  · dsimp only
    exact (h.foldl _ (fun t x ht => ht.writeHome _) _).setCluster _ _
  · exact h

theorem State.Inv.leave {s : State} (h : s.Inv) (u : Unit) : (leave s u).Inv := by
  unfold Machine.leave
  dsimp only
  exact ((((((((h.dropMigs _).leaveBars _).dropUnit _).openHandles _).leaveLists _ _).passEntries _).retireWg
      _).retireTeam _).settlePreempts

theorem State.Inv.abortGrid {s : State} (h : s.Inv) (gk : Nat) (g : Grid) (a : Nat) : (abortGrid s gk g a).Inv := by
  unfold Machine.abortGrid
  exact h.frame.writeLog _ _

theorem State.Inv.retireGrid {s : State} (h : s.Inv) (k : Nat) (g : Grid) : (retireGrid s k g).Inv := by
  unfold Machine.retireGrid
  extract_lets s1 s2 s3
  have h1 : s1.Inv := h.frame.dropRequests _
  have h2 : s2.Inv := .ite (h1.raiseTimeline _ _ _) h1
  have h3 : s3.Inv := by
    unfold s3
    split
    · exact State.Inv.counterStart (.ite (h2.queueVec _) h2) _ _
    · exact h2
  split
  · exact h3.frame
  · exact h3

theorem State.Inv.ctrRead {s : State} (h : s.Inv) (k : Nat) (g : Grid) (v : Nat) : (ctrRead s k g v).Inv := by
  unfold Machine.ctrRead
  exact h.frame.readDone _

theorem State.Inv.logMiss {s : State} (h : s.Inv) (k : Nat) (g : Grid) : (logMiss s k g).Inv := by
  unfold Machine.logMiss
  split
  · exact h.frame.writeLog _ _
  · exact h

theorem State.Inv.addPreempt {s : State} (h : s.Inv) (ctx : Nat) (cls : List Nat) (for_ : Option Nat) :
    (addPreempt s ctx cls for_).Inv := by
  unfold Machine.addPreempt
  exact h.frame.settlePreempts

theorem State.Inv.resetWith {s : State} (h : s.Inv) (ctx reason : Nat) : (resetWith s ctx reason).Inv := by
  unfold Machine.resetWith
  exact (h.writeLog _ _).resetCtx _

theorem State.Inv.putBytes {s : State} (h : s.Inv) (a : Nat) (m : SMap Byte) : (putBytes s a m).Inv := by
  unfold Machine.putBytes
  exact h.ofParts (wf_foldl_set (fun e => a + e.1) (fun e => e.2) m h.wf_sram) h.wf_hbm h.wf_far h.wf_mirror rfl

theorem State.Inv.renameOutside {s : State} (h : s.Inv) (t : Team) (ctx : Nat) (f : UnitId → UnitId) :
    (renameOutside s t ctx f).Inv := by
  exact h.mapUnits (Unit.renamePairs f) (fun _ => rfl) rfl rfl

theorem State.Inv.writeSave {s : State} (h : s.Inv) (ctx : Nat) : (writeSave s ctx).Inv := by
  unfold Machine.writeSave
  split
  · exact h
  · exact h.withMem (h.writeDva _ _ _).wf rfl

theorem State.Inv.evictOne {s : State} (h : s.Inv) (k : Nat) : (evictOne s k).Inv := by
  unfold Machine.evictOne
  split
  · exact h
  · extract_lets us ctx f ws c hs hold e t1 s2 s3 s4
    have h2 : s2.Inv := h.freeBufs _ _
    have h3 : s3.Inv := .ite (h2.clearEngine _) h2
    have h4 : s4.Inv := h3.withUnits rfl (Placed.filter h3.placed _)
    exact (h4.renameOutside _ _ _).writeSave _

theorem State.Inv.readmitUnit {s : State} (h : s.Inv) (u : Unit) (tk : Nat) (cl core slot : Nat) :
    (readmitUnit s u tk cl core slot).Inv := by
  unfold Machine.readmitUnit
  dsimp only
  exact (h.setUnit _).frame

theorem State.Inv.readmitOne {s : State} (h : s.Inv) (k : Nat) (x : Spot) : (readmitOne s k x).Inv := by
  unfold Machine.readmitOne
  split
  · exact h
  · split
    · exact h
    · extract_lets names f ctx done spoiled t1 s1 s2 s3 cl s4
      have h1 : s1.Inv := h.frame.renameOutside _ _ _
      have h2 : s2.Inv := by
        refine h1.foldl _ (fun m p hm => ?_) _
        exact (hm.frame.zeroPad _).putBytes _ _
      have h3 : s3.Inv := h2.foldl _ (fun m p hm => ((hm.freeRun _ _).setHandle _ _ _).putBytes _ _) _
      have h4 : s4.Inv := .ite (h3.setCluster _ _) h3
      exact h4.foldl _ (fun m u hm => hm.readmitUnit _ _ _ _ _) _

theorem State.Inv.logAgent {s : State} (h : s.Inv) {at_ : State} (hat_ : at_.Inv) (i : UnitId) (kind extra : Nat) :
    (logAgent s at_ i kind extra).Inv := by
  unfold Machine.logAgent
  dsimp only
  split
  · exact h.writeLog _ _
  · split
    · exact h.writeLog _ _
    · exact h

theorem State.Inv.logCycle {s : State} (h : s.Inv) (c : List UnitId) : (logCycle s c).Inv := by
  unfold Machine.logCycle
  split
  · exact h
  · exact (h.logAgent h _ _ _).foldl _ (fun t x ht => ht.logAgent h _ _ _) _

theorem State.Inv.logBudget {s : State} (h : s.Inv) : (logBudget s).Inv := by
  unfold Machine.logBudget
  exact h.foldl _ (fun t x ht => .ite (ht.writeLog _ _) ht) _

theorem State.Inv.dropStore {s : State} (h : s.Inv) (p : PStore) : (dropStore s p).Inv := by
  unfold Machine.dropStore
  refine State.Inv.sendOut (State.Inv.foldl _ (fun t x ht => ht.releaseStores _) _ ?_)
  exact h.mapUnits (fun u => { u with tags := u.tags.filter (fun t => decide (t ≠ p.seq)) }) (fun _ => rfl) rfl rfl

theorem State.Inv.storeImp {s : State} (h : s.Inv) (p : PStore) (code addr info : Nat) (held : Bool) :
    (storeImp s p code addr info held).Inv := by
  unfold Machine.storeImp
  split
  · exact h
  · split
    · exact h.arriveBad _ _ _ _ _ _ _
    · exact h.impreciseSet _ _ _ _ _

theorem State.Inv.noteSeq {s : State} (h : s.Inv) (p : PStore) : (noteSeq s p).Inv := by
  unfold Machine.noteSeq
  exact .ite h (h.poison rfl rfl rfl rfl rfl)

theorem State.Inv.onEngine {s : State} (h : s.Inv) (cl : Nat) (f : Engine → Engine) : (onEngine s cl f).Inv := by
  unfold Machine.onEngine
  exact h.setCluster _ _

theorem State.Inv.lowerBank {s : State} (h : s.Inv) (k : Nat) : (lowerBank s k).Inv := by
  unfold Machine.lowerBank
  exact h.frame

theorem State.Inv.mxWord {s : State} (h : s.Inv) (regs : List SReg) (k : Unit → Res) (hk : ∀ u, Keeps (k u)) : Keeps
    (mxWord s regs k) := by
  unfold Machine.mxWord
  exact h.sWord _ _ (fun v => .ite (h.trapS _ _ _ _) (.ite (h.parkAt _ _ _) (hk _)))

theorem State.Inv.pushWord {s : State} (h : s.Inv) (u : Unit) (kind : MKind) : (pushWord s u kind).Inv := by
  unfold Machine.pushWord
  extract_lets n w s1
  have h1 : s1.Inv := h.onEngine _ _
  exact h1.frame

theorem State.Inv.mxIssue {s : State} (h : s.Inv) (u : Unit) (m : Bool) (kind : MKind) : Keeps (mxIssue s u m kind)
    := by
  unfold Machine.mxIssue
  dsimp only
  exact .next ((h.pushWord _ _).setUnit _)

theorem State.Inv.mxAwait {s : State} (h : s.Inv) (u : Unit) (m : Bool) (t : Nat) (c : SReg) (kind : MKind)
    {issue : Res → Res} (hk : ∀ r, Keeps r → Keeps (issue r)) : Keeps (mxAwait s u m t c kind issue) := by
  unfold Machine.mxAwait
  split
  · split
    · exact .ite (.ite (h.trapS _ _ _ _) (h.retireS _ _ _ _)) (h.parkAt _ _ _)
    · exact h.parkAt _ _ _
  · exact hk _ ((h.pushWord _ _).parkAt _ _ _)

theorem State.Inv.tabWord {s : State} (h : s.Inv) (regs : List SReg) (a : SReg) (need : TabUse) (k : Unit → Nat → Res)
    (hk : ∀ a b, Keeps (k a b)) : Keeps (tabWord s regs a need k) := by
  unfold Machine.tabWord
  exact h.mxWord _ _ (fun v => h.failGate _ _ _ (hk _ _))

theorem State.Inv.feedFault {s : State} (h : s.Inv) (u : Unit) (st : Strm) (code : Nat) : Keeps
    (feedFault s u st code) := by
  unfold Machine.feedFault
  exact h.takeTrap _ _ _ _ _ _ _

theorem State.Inv.feedGate {s : State} (h : s.Inv) (u : Unit) (i : Bool) (obj n kind : Nat) (offs : List (Nat × Nat))
    (k : Res) (hk : Keeps k) : Keeps (feedGate s u i obj n kind offs k) := by
  unfold Machine.feedGate
  refine .ite (h.feedFault _ _ _) ?_
  split
  · exact h.feedFault _ _ _
  · split
    · exact h.takeTrap _ _ _ _ _ _ _
    · split
      · exact hk
      · exact h.parkAt _ _ _

theorem State.Inv.spoilTile {s : State} (h : s.Inv) (cl t : Nat) : (spoilTile s cl t).Inv := by
  unfold Machine.spoilTile
  extract_lets n s1
  have h1 : s1.Inv := h.onEngine _ _
  exact h1.frame

theorem State.Inv.applyPass {s : State} (h : s.Inv) (cl t : Nat) (g : List (List Sum)) : (applyPass s cl t g).Inv
    := by
  unfold Machine.applyPass
  exact h.onEngine _ _

theorem State.Inv.mmaPass {s : State} (h : s.Inv) (cl t : Nat) (a b : Option (Word × Word)) (ta tb_ : Nat) (w : Word)
    (i : Nat) : (mmaPass s cl t a b ta tb_ w i).Inv := by
  unfold Machine.mmaPass
  exact .ite (h.spoilTile _ _) (h.applyPass _ _ _)

theorem State.Inv.drainTile {s : State} (h : s.Inv) (cl t : Nat) (dst : Option (Word × Word)) (ctl : Word)
    (write : Bool) : (drainTile s cl t dst ctl write).1.Inv := by
  unfold Machine.drainTile
  dsimp only
  split
  · refine State.Inv.onEngine ?_ _ _
    split
    · exact h.onEngine _ _
    · split
      · exact h.foldl _ (fun t1 x ht => ht.writeHome _) _
      · exact h
  · split
    · exact h.onEngine _ _
    · split
      · exact h.foldl _ (fun t1 x ht => ht.writeHome _) _
      · exact h

theorem State.Inv.matrixFault {s : State} (h : s.Inv) (cl : Nat) (w : MWord) (code addr : Nat) :
    (matrixFault s cl w code addr).Inv := by
  unfold Machine.matrixFault
  split
  · exact h
  · exact h.impreciseSet _ _ _ _ _

theorem State.Inv.runMsl {s : State} (h : s.Inv) (cl : Nat) (w : MWord) (off src len : Nat) :
    (runMsl s cl w off src len).Inv := by
  unfold Machine.runMsl
  dsimp only
  split
  · exact (h.onEngine _ _).matrixFault _ _ _ _
  · exact h.onEngine _ _

theorem State.Inv.weirFill {s : State} (h : s.Inv) (ctx dva a : Nat) : (weirFill s ctx dva a).Inv := by
  unfold Machine.weirFill
  split
  · exact h
  · exact (h.useDva _ _).tlbFill _ _ _

theorem State.Inv.rowActivated {s : State} (h : s.Inv) (ctx dva n : Nat) : (rowActivated s ctx dva n).Inv := by
  unfold Machine.rowActivated
  refine h.foldl _ (fun t x ht => ?_) _
  split
  · exact (ht.weirFill _ _ _).activate _
  · exact ht.activate _
  · exact ht.useDva _ _

theorem State.Inv.registerRows {s : State} (h : s.Inv) (cl g ctx : Nat) (t : Tab) (rows : List (Nat × Row)) :
    (registerRows s cl g ctx t rows).1.Inv := by
  induction rows generalizing s with
  | nil => exact h
  | cons r rest ih =>
    unfold Machine.registerRows
    split
    · exact h
    · exact ih ((h.rowActivated _ _ _).writeHome _)

theorem State.Inv.runReg {s : State} (h : s.Inv) (cl : Nat) (w : MWord) (g : Nat) : (runReg s cl w g).Inv := by
  unfold Machine.runReg
  dsimp only
  split
  · exact ((h.registerRows _ _ _ _ _).writeHome _).matrixFault _ _ _ _
  · exact (h.registerRows _ _ _ _ _).writeHome _

theorem State.Inv.halveCounters {s : State} (h : s.Inv) (cl g : Nat) (t : Tab) : (halveCounters s cl g t).Inv := by
  unfold Machine.halveCounters
  exact h.writeHome _

theorem State.Inv.runMage {s : State} (h : s.Inv) (cl g a : Nat) (halve : Bool) : (runMage s cl g a halve).Inv := by
  unfold Machine.runMage
  dsimp only
  split
  · exact (h.writeHome _).halveCounters _ _ _
  · exact h.writeHome _

theorem State.Inv.migPair (cl g ctx : Nat) (t : Tab) (w : MWord) {acc : State × Nat} (h : acc.1.Inv)
    (p : (Nat × Row) × (Nat × Row)) : (migPair cl g ctx t w acc p).1.Inv := by
  unfold Machine.migPair
  dsimp only
  split <;> dsimp only
  · exact h.matrixFault _ _ _ _
  · exact (h.rowActivated _ _ _).writeHome _

theorem State.Inv.migrate {s : State} (h : s.Inv) (cl : Nat) (w : MWord) (g : Nat) : (migrate s cl w g).Inv := by
  unfold Machine.migrate
  exact (State.Inv.foldl_fst _ (fun r p hr => State.Inv.migPair _ _ _ _ _ hr p) _ h).writeHome _

theorem State.Inv.runMigs {s : State} (h : s.Inv) (cl : Nat) (w : MWord) : (runMigs s cl w).Inv := by
  unfold Machine.runMigs
  dsimp only
  exact (h.onEngine _ _).foldl _ (fun t x ht => .ite (ht.migrate _ _ _) ht) _

theorem State.Inv.hotPart {s : State} (h : s.Inv) (cl t : Nat) (tab : Tab) (x : List (List FVal))
    (rows : List (Nat × Row)) : (hotPart s cl t tab x rows).Inv := by
  unfold Machine.hotPart
  exact h.foldl _ (fun t1 x1 ht => .ite (ht.spoilTile _ _) (ht.applyPass _ _ _)) _

theorem State.Inv.runMspl {s : State} (h : s.Inv) (cl : Nat) (w : MWord) (t : Nat) (d0 d1 : Word) (g : Nat)
    (fmt : Word) : (runMspl s cl w t d0 d1 g fmt).Inv := by
  unfold Machine.runMspl
  extract_lets ctx f tab rows act x fired s1 cold s2 s3 parts s4 s5 ups n s6
  have h1 : s1.Inv := h.hotPart _ _ _ _ _
  have h2 : s2.Inv := h1.foldl _ (fun u c hu => hu.rowActivated _ _ _) _
  have h3 : s3.Inv := h2.foldl _ (fun u c hu => hu.matrixFault _ _ _ _) _
  have h4 : s4.Inv := h3.onEngine _ _
  have h5 : s5.Inv := .ite h4 (h4.spoilTile _ _)
  have h6 : s6.Inv := h5.writeHome _
  exact .ite (h6.halveCounters _ _ _) h6

theorem State.Inv.perform {s : State} (h : s.Inv) (cl : Nat) (w : MWord) : (perform s cl w).1.Inv := by
  unfold Machine.perform
  extract_lets e
  split
  · dsimp only
    exact h.mmaPass _ _ _ _ _ _ _ _
  · exact h.onEngine _ _
  · split
    · exact h
    · exact h.drainTile _ _ _ _ _
  · dsimp only
    exact h.runMspl _ _ _ _ _ _ _
  · exact h
  · dsimp only
    exact h.runReg _ _ _
  · dsimp only
    exact h.runMage _ _ _ _
  · exact h
  · exact h.onEngine _ _
  · exact h.onEngine _ _
  · dsimp only
    exact h.runMsl _ _ _ _ _

theorem State.Inv.tellTimeline {s : State} (h : s.Inv) (cl : Nat) : (tellTimeline s cl).Inv := by
  unfold Machine.tellTimeline
  split
  · exact h
  · exact h.raiseTimeline _ _ _

theorem State.Inv.completeWord {s : State} (h : s.Inv) (cl : Nat) (w : MWord) (st : Word) :
    (completeWord s cl w st).Inv := by
  unfold Machine.completeWord
  dsimp only
  exact ((h.onEngine _ _).runMigs _ _).tellTimeline _

theorem State.Inv.stampHeld {s : State} (h : s.Inv) (u : Unit) : (stampHeld s u).Inv := by
  unfold Machine.stampHeld
  split
  · split
    · exact h.putStamps _ _ _
    · exact h
  · exact h

theorem State.Inv.commitHeld {s0 : State} (h : s0.Inv) (u : Unit) : (commitHeld s0 u).Inv := by
  unfold Machine.commitHeld
  dsimp only
  exact (h.stampHeld _).queueStores _ _

theorem State.Inv.compareRec {s : State} (h : s.Inv) (l : List Unit) (a b : Word) (event minority : Nat)
    (moved late : Bool) : (compareRec s l a b event minority moved late).Inv := by
  unfold Machine.compareRec
  split
  · exact h
  · exact h.writeLog _ _

theorem State.Inv.dropLead {s : State} (h : s.Inv) (w : Nat) : (dropLead s w).Inv := by
  unfold Machine.dropLead
  refine h.foldl _ (fun t x ht => ?_) _
  split
  · exact ht.frame
  · exact ht

theorem State.Inv.mismatch {s : State} (h : s.Inv) (l : List Unit) (a b : Unit) (late : Bool) :
    (mismatch s l a b late).Inv := by
  unfold Machine.mismatch
  dsimp only
  split
  · exact (h.compareRec _ _ _ _ _ _ _).foldl _ (fun t x ht => (ht.rollback _ _).dropLead _) _
  · exact (h.compareRec _ _ _ _ _ _ _).resetCtx _

theorem Unit.agreed_id (seq : Nat) (u : Unit) : (u.agreed seq).id = u.id := rfl
theorem Unit.dethroned_id (u : Unit) : u.dethroned.id = u.id := rfl
theorem Unit.minority_id (u : Unit) : u.minority.id = u.id := rfl
theorem Unit.crowned_id (s : State) (z u : Unit) : (u.crowned s z).id = u.id := rfl

theorem State.Inv.updUnits {s : State} (h : s.Inv) (l : List Unit) (f : Unit → Unit) (hf : ∀ u, (f u).id = u.id) :
    (updUnits s l f).Inv := by
  unfold Machine.updUnits
  exact h.foldl _ (fun t x ht => ht.withUnits (t := { t with units := SMap.upd t.units (ukey x.id) f }) rfl
      (Placed.upd ht.placed _ hf)) _

theorem State.Inv.commitAll {s : State} (h : s.Inv) (l : List Unit) : (commitAll s l).Inv := by
  unfold Machine.commitAll
  refine State.Inv.updUnits ?_ _ _ (Unit.agreed_id _)
  split
  · exact h.commitHeld _
  · exact h

theorem State.Inv.outvote {s : State} (h : s.Inv) (x y z : Unit) (late : Bool) : (outvote s x y z late).Inv := by
  unfold Machine.outvote
  extract_lets moved x1 s1 p s2 s3
  have h1 : s1.Inv := .ite ((h.updUnits _ _ (Unit.crowned_id s z)).updUnits _ _ Unit.dethroned_id) h
  have h3 : s3.Inv := (h1.compareRec _ _ _ _ _ _ _).commitAll _
  exact .ite (h3.leave _) (h3.updUnits _ _ Unit.minority_id)

theorem State.Inv.compareSet {s : State} (h : s.Inv) (l : List Unit) (late : Bool) : (compareSet s l late).Inv := by
  unfold Machine.compareSet
  dsimp only
  split
  · split
    · exact h.commitAll _
    · exact h.mismatch _ _ _ _
  · split
    · exact h.mismatch _ _ _ _
    · split
      · exact h.commitAll _
      · split
        · exact h.outvote _ _ _ _
        · split
          · exact h.outvote _ _ _ _
          · split
            · exact h.outvote _ _ _ _
            · exact h.mismatch _ _ _ _
  · exact h

theorem State.Inv.copyPad {s : State} (h : s.Inv) (z y : Unit) : (copyPad s z y).Inv := by
  unfold Machine.copyPad
  split
  · refine State.Inv.frame (State.Inv.putBytes ?_ _ _)
    exact h.ofParts (wf_zeroRange _ _ h.wf_sram) h.wf_hbm h.wf_far h.wf_mirror rfl
  · exact h

theorem State.Inv.markUnit {s : State} (h : s.Inv) (e : Pte) (o : Nat) : (markUnit s e o).Inv := by
  unfold Machine.markUnit
  split
  · exact h.poison rfl rfl rfl rfl rfl
  · exact h.poison rfl rfl rfl rfl rfl
  · exact h

theorem State.Inv.putPageByte {s : State} (h : s.Inv) (e : Pte) (b : Nat × Byte) : (putPageByte s e b).Inv := by
  unfold Machine.putPageByte
  split
  · exact h.ofParts h.wf_sram (SMap.wf_set 0 _ _ h.wf_hbm) h.wf_far h.wf_mirror rfl
  · exact h.ofParts h.wf_sram h.wf_hbm (SMap.wf_set 0 _ _ h.wf_far) h.wf_mirror rfl
  · exact h

theorem State.Inv.fillPage {s : State} (h : s.Inv) (e : Pte) (cells : List (Nat × Byte)) (bads : List Nat) :
    (fillPage s e cells bads).Inv := by
  unfold Machine.fillPage
  refine State.Inv.foldl _ (fun t o ht => ht.markUnit _ _) _
      (State.Inv.foldl _ (fun t b ht => ht.putPageByte _ _) _ ?_)
  exact h.ofParts h.wf_sram (SMap.wf_filter 0 _ h.wf_hbm) (SMap.wf_filter 0 _ h.wf_far) h.wf_mirror rfl

theorem State.Inv.writeLeaves {s : State} (h : s.Inv) (ctx dva n : Nat) (v : BitVec 64) :
    (writeLeaves s ctx dva n v).Inv := by
  unfold Machine.writeLeaves
  split
  · exact h
  · exact h.foldl _ (fun t x ht => (ht.activate _).writeDram _ _) _

theorem State.Inv.beginInval {s : State} (h : s.Inv) (ctx first last : Nat) (moved : Option (BitVec 64 × BitVec 64)) :
    (beginInval s ctx first last moved).Inv := by
  unfold Machine.beginInval
  exact h.frame

theorem State.Inv.releasePages {s : State} (h : s.Inv) (d ctx : Nat) : (releasePages s d ctx).Inv := by
  unfold Machine.releasePages
  refine h.foldl _ (fun t x ht => ?_) _
  extract_lets u
  have h1 : u.Inv := ht.writeLeaves _ _ _ _
  exact h1.frame

theorem State.Inv.dieOff {s : State} (h : s.Inv) (d : Nat) : (dieOff s d).Inv := by
  exact h.ofParts (SMap.wf_filter 0 _ h.wf_sram) (SMap.wf_filter 0 _ h.wf_hbm) h.wf_far h.wf_mirror rfl

theorem State.Inv.putSlots {s : State} (h : s.Inv) (c : Channel) (w n : Nat) (l : List Byte) :
    (putSlots s c w n l).Inv := by
  induction n generalizing s w l with
  | zero => exact h
  | succ n ih =>
    unfold Machine.putSlots
    exact ih (.ite (h.writeDva _ _ _) (h.writeHome _)) _ _

theorem State.Inv.ingress {s : State} (h : s.Inv) (ch : Nat) (r : InRec) : (ingress s ch r).Inv := by
  unfold Machine.ingress
  split
  · exact h
  · extract_lets n s0 flags s1 s2
    have h0 : s0.Inv := .ite (h.touchDva _ _ _) h
    have h1 : s1.Inv := h0.putSlots _ _ _ _
    have h2 : s2.Inv := h1.frame
    split
    · exact h2.raiseTimeline _ _ _
    · exact h0.frame

theorem State.Inv.drainChan {s : State} (h : s.Inv) (ch fuel : Nat) : (drainChan s ch fuel).Inv := by
  induction fuel generalizing s with
  | zero => exact h
  | succ n ih =>
    unfold Machine.drainChan
    split
    · next m c hm hc =>
      obtain rfl := Nat.add_right_cancel hm
      split
      · exact h
      · split
        · exact h.sendSnoop _ _ _ _
        · exact ih ((h.frame.ingress _ _).readDone _)
    · exact h

theorem State.Inv.arriveRec {s : State} (h : s.Inv) (ch : Nat) (r : InRec) : (arriveRec s ch r).Inv := by
  unfold Machine.arriveRec
  split
  · exact h
  · exact h.frame.drainChan _ _

theorem State.Inv.deliverPacket {s : State} (h : s.Inv) (cls : Nat) (p : HeldPkt) : (deliverPacket s cls p).Inv := by
  unfold Machine.deliverPacket
  exact h.foldl _ (fun t x ht => ht.arriveRec _ _) _

theorem State.Inv.drainFlow {s : State} (h : s.Inv) (f : FabricFlow) (fuel : Nat) : (drainFlow s f fuel).1.Inv := by
  induction fuel generalizing s f with
  | zero => exact h
  | succ n ih =>
    unfold Machine.drainFlow
    split
    · exact h
    · exact ih (h.deliverPacket _ _) _

theorem State.Inv.endCkpt {s : State} (h : s.Inv) (rc : Rc) : (endCkpt s rc).Inv := by
  unfold Machine.endCkpt
  exact h.frame

theorem State.Inv.onPulse {s : State} (h : s.Inv) (cl : Nat) (f : Pulse → Pulse) : (onPulse s cl f).Inv := by
  unfold Machine.onPulse
  exact h.setCluster _ _

theorem State.Inv.throttle {s : State} (h : s.Inv) (l : List Nat) : (throttle s l).Inv := by
  unfold Machine.throttle
  exact h.foldl _ (fun t x ht => ht.onPulse _ _) _

theorem State.Inv.tsiReset {s : State} (h : s.Inv) : (tsiReset s).Inv := by
  unfold Machine.tsiReset
  dsimp only
  exact (h.foldl _ (fun t x ht => ht.cipherAll _) _).frame

theorem State.Inv.warmed {s : State} (h : s.Inv) : (warmed s).Inv := by
  exact ⟨h.wf, fun e he => nomatch he⟩

theorem State.inv_colded (s : State) : (colded s).Inv := ⟨rfl, fun e he => nomatch he⟩

theorem State.Inv.reply {s : State} (h : s.Inv) (rc : Rc) (out : List Nat) : Keeps (reply s rc out) := by
  unfold Machine.reply
  exact .next h.frame

theorem State.Inv.ok {s : State} (h : s.Inv) : Keeps (ok s) := by
  unfold Machine.ok
  exact h.reply _ _

theorem State.Inv.invalid {s : State} (h : s.Inv) : Keeps (invalid s) := by
  unfold Machine.invalid
  exact h.reply _ _

theorem State.Inv.busy {s : State} (h : s.Inv) : Keeps (busy s) := by
  unfold Machine.busy
  exact h.reply _ _

theorem State.Inv.ownerOnly {s : State} (h : s.Inv) (by_ : Issuer) (k : Res) (hk : Keeps k) : Keeps
    (ownerOnly s by_ k) := by
  unfold Machine.ownerOnly
  split
  · exact hk
  · exact h.reply _ _

theorem State.Inv.onCtx {s : State} (h : s.Inv) (by_ : Issuer) (ctx : Nat) (k : Ctx → Res) (hk : ∀ a, Keeps (k a))
    : Keeps (onCtx s by_ ctx k) := by
  unfold Machine.onCtx
  split
  · exact h.invalid
  · split
    · exact h.invalid
    · split
      · exact h.busy
      · exact hk _

theorem State.Inv.onTenant {s : State} (h : s.Inv) (by_ : Issuer) (t : Nat) (k : Tenant → Res) (hk : ∀ a, Keeps (k a))
    : Keeps (onTenant s by_ t k) := by
  unfold Machine.onTenant
  split
  · exact h.invalid
  · split
    · exact hk _
    · exact h.invalid

theorem State.Inv.okIf {s : State} (h : s.Inv) (b : Bool) {s1 : State} (hs1 : s1.Inv) : Keeps (okIf s b s1) := by
  unfold Machine.okIf
  split
  · exact hs1.ok
  · exact h.invalid

theorem State.Inv.setCtx {s : State} (h : s.Inv) (ctx : Nat) (c : Ctx) : (setCtx s ctx c).Inv := by
  unfold Machine.setCtx
  exact h.frame

theorem State.Inv.dropQueue {s : State} (h : s.Inv) (q : Nat) : (dropQueue s q).Inv := by
  unfold Machine.dropQueue
  exact h.frame

theorem State.Inv.destroyCtx {s : State} (h : s.Inv) (ctx : Nat) : (destroyCtx s ctx).Inv := by
  unfold Machine.destroyCtx
  dsimp only
  exact (h.resetCtx _).frame

theorem State.Inv.dropTenant {s0 : State} (h : s0.Inv) (t : Nat) : (dropTenant s0 t).Inv := by
  unfold Machine.dropTenant
  dsimp only
  refine ((State.Inv.foldl _ (fun t1 x ht => ht.destroyCtx _) _ ?_).foldl _ (fun t1 x ht => ht.dropQueue _) _).frame
  split
  · exact h.cipherAll _
  · exact h

theorem State.Inv.rekey {s : State} (h : s.Inv) (t : Nat) (x : Tenant) (key : Nat) : (rekey s t x key).Inv := by
  unfold Machine.rekey
  extract_lets s1 comp
  have h1 : s1.Inv := by
    unfold s1
    split
    · exact h
    · exact h.frame.cipherAll _
  exact h1.setTenant _ _

theorem State.Inv.dropLoss {s : State} (h : s.Inv) : (dropLoss s).Inv := by
  unfold Machine.dropLoss
  exact h.frame

theorem State.Inv.onDebug {s : State} (h : s.Inv) (by_ : Issuer) (ctx : Nat) (k : Res) (hk : Keeps k) : Keeps
    (onDebug s by_ ctx k) := by
  unfold Machine.onDebug
  exact h.onCtx _ _ _ (fun x => Keeps.ite hk h.invalid)

theorem State.Inv.setting {s : State} (h : s.Inv) (by_ : Issuer) (b : Bool) (f : Settings → Settings) : Keeps
    (setting s by_ b f) := by
  unfold Machine.setting
  exact h.ownerOnly _ _ (h.okIf _ h.frame)

theorem State.Inv.evacLent {s : State} (h : s.Inv) (d : Nat) : (evacLent s d).Inv := by
  unfold Machine.evacLent
  exact h.foldl _ (fun t x ht => ht.foldl _ (fun t1 x1 ht1 => ht1.evacPage _ _ _) _) _

theorem State.Inv.nextOf {s : State} (h : s.Inv) (u : Unit) (st : Strm) : (nextOf s u st).1.Inv := by
  have h1 : State.Inv { s with cur := u.id, curS := st } := h.frame
  unfold Machine.nextOf
  dsimp only
  split
  · exact h1
  · split
    · exact h1.setUnit _
    · exact h1

theorem State.Inv.dropStale {s : State} (h : s.Inv) : (dropStale s).Inv := by
  unfold Machine.dropStale
  split
  · exact h.frame
  · exact h

theorem State.Inv.drift {s : State} (h : s.Inv) : (drift s).Inv := by
  unfold Machine.drift
  split
  · exact h.frame
  · exact h

theorem State.Inv.takePatterns {s : State} (h : s.Inv) : (takePatterns s).Inv := by
  unfold Machine.takePatterns
  split
  · exact h.frame
  · exact h

theorem State.Inv.tick {s0 : State} (h : s0.Inv) : (tick s0).Inv := by
  have h1 := h.dropStale.drift
  unfold Machine.tick
  dsimp only
  split
  · exact h1.frame
  · exact State.Inv.takePatterns (h1.mapUnits (waited _) (fun _ => rfl) rfl rfl)

theorem State.Inv.turnOf {s : State} (h : s.Inv) (id : UnitId) (st : Strm) (c : Option Cand) :
    (turnOf s id st c).1.Inv := by
  unfold Machine.turnOf
  split
  · exact h
  · split
    · dsimp only
      exact h.nextOf _ _
    · exact h

theorem State.Inv.agendaTurn {s : State} (h : s.Inv) (id : UnitId) (st : Strm) (rest : List Turn) :
    (agendaTurn s id st rest).1.Inv := by
  have h1 : State.Inv { s with agenda := rest } := h.frame
  unfold Machine.agendaTurn
  split
  · exact h1
  · split
    · exact h1
    · split
      · exact h.turnOf _ _ _
      · split
        · exact h1.turnOf _ _ _
        · exact h.tick

theorem State.Inv.plan {s : State} (h : s.Inv) : (plan s).1.Inv := by
  have h1 : ∀ l, State.Inv { s with agenda := l } := fun l => h.frame
  unfold Machine.plan
  split
  · exact h.tick.frame
  · split
    · exact h
    · exact h1 _
  · split
    · exact h.agendaTurn _ _ _
    · exact h1 _
  · split
    · exact h
    · split
      · split
        · exact h
        · exact h.tick
      · split
        · exact h
        · split
          · exact h.turnOf _ _ _
          · exact h.tick

theorem State.Inv.unparked {s : State} (h : s.Inv) : (unparked s).Inv := by
  unfold Machine.unparked
  exact h.frame

theorem State.Inv.settle (c : Option Cand) {s : State} (h : s.Inv) : (settle c s).Inv := by
  unfold Machine.settle
  split
  · exact h
  · dsimp only
    split
    · exact h.frame
    · split
      · split
        · exact h.frame.setUnit _
        · exact h.frame
      · exact h.frame

theorem State.Inv.execLanePack (w : LA) {s : State} (h : s.Inv) : Keeps (execLanePack w s) := by
  unfold Machine.execLanePack
  exact h.laneWord _ _ _ (fun v x x1 => h.flagGate _ _ _ _ (fun v1 => h.writeLane _ _ _ _ _ _ _ _ _))

theorem State.Inv.execLaneScl (w : LA) {s : State} (h : s.Inv) : Keeps (execLaneScl w s) := by
  unfold Machine.execLaneScl
  refine h.laneWord _ _ _ ?_
  intro v x x1
  split
  · exact h.retireL _ _ _ _ _ _
  · exact h.flagGate _ _ _ _ (fun v1 => h.writeLane _ _ _ _ _ _ _ _ _)

theorem State.Inv.execLoop (m : Bool) (c : SReg) (off : BitVec 19) {s : State} (h : s.Inv) : Keeps
    (execLoop m c off s) := by
  unfold Machine.execLoop
  exact h.sWord _ _ (fun v => .ite (h.jumpS _ _ _ _) (.ite (h.transferS _ _ _ _) (h.jumpS _ _ _ _)))

theorem State.Inv.execLq (m : Bool) (mask : BitVec 4) (entry : BitVec 21) {s : State} (h : s.Inv) : Keeps
    (execLq m mask entry s) := by
  unfold Machine.execLq
  refine h.sWord _ _ fun u => .ite (h.trapS _ _ _ _) (.ite (h.parkAt _ _ _) ?_)
  exact .next (h.setUnit _).frame

theorem State.Inv.execRsr (m : Bool) (d n : SReg) {s : State} (h : s.Inv) : Keeps (execRsr m d n s) := by
  unfold Machine.execRsr
  exact h.sWord _ _ (fun v => .ite (h.trapS _ _ _ _) (.ite (h.parkAt _ _ _)
      (.ite (.ite (.next (h.issuePend _ _ _ _ _)) (.ite (.next (h.issuePend _ _ _ _ _))
      (.next (h.issuePend _ _ _ _ _)))) (h.retireS _ _ _ _))))

theorem State.Inv.execWsr (m : Bool) (n b : SReg) {s : State} (h : s.Inv) : Keeps (execWsr m n b s) := by
  unfold Machine.execWsr
  exact h.sWord _ _ (fun v => .ite (h.trapS _ _ _ _) (.ite
      (.ite (h.parkAt _ _ _) (.ite (h.trapS _ _ _ _) (.next (h.setUnit _)))) (.next (h.setUnit _))))

theorem State.Inv.execRand (m : Bool) (d : SReg) {s : State} (h : s.Inv) : Keeps (execRand m d s) := by
  unfold Machine.execRand
  refine h.sWord _ _ fun u => ?_
  extract_lets fresh s1 key
  have h1 : s1.Inv := h.frame
  refine .ite (h1.retireS _ _ _ _) ?_
  split
  · exact h.retireS _ _ _ _
  · exact (h1.shareVal _ _ _).retireS _ _ _ _

theorem State.Inv.execLbr (w : LC) {s : State} (h : s.Inv) : Keeps (execLbr w s) := by
  unfold Machine.execLbr
  refine h.laneCtl _ _ fun u i t => ?_
  extract_lets x n pc s1 j p
  have h1 : s1.Inv := h.spendFree _
  refine .ite (.next (h1.setUnit _)) (.ite (h.takeTrap _ _ _ _ _ _ _) (.ite (.next (h1.setUnit _)) (.ite ?_ ?_)))
  · exact .ite (h.takeTrap _ _ _ _ _ _ _) (.next (h1.setUnit _))
  · exact .ite (h.takeTrap _ _ _ _ _ _ _) (.next (h1.setUnit _))

theorem State.Inv.execLjoin (w : LC) {s : State} (h : s.Inv) : Keeps (execLjoin w s) := by
  unfold Machine.execLjoin
  refine h.laneCtl _ _ ?_
  intro v x x1
  dsimp only
  split
  · split
    · exact h.joinPair _ _ _
    · exact .next (h.setUnit _)
  · split
    · exact h.joinPair _ _ _
    · split
      · exact h.parkAt _ _ _
      · exact .next (h.setUnit _)
    · split
      · exact h.takeTrap _ _ _ _ _ _ _
      · split
        · exact h.parkAt _ _ _
        · exact .next (h.setUnit _)

theorem State.Inv.execLjmp (w : LC) {s : State} (h : s.Inv) : Keeps (execLjmp w s) := by
  unfold Machine.execLjmp
  exact h.laneCtl _ _ (fun v x x1 => .ite (h.takeTrap _ _ _ _ _ _ _) (.next (h.setUnit _)))

theorem State.Inv.execLbrk (w : LC) {s : State} (h : s.Inv) : Keeps (execLbrk w s) := by
  unfold Machine.execLbrk
  exact h.laneCtl _ _ fun u i t => .next (.ite ((h.spendFree _).stopAt _ _ _) ((h.spendFree _).setUnit _))

theorem State.Inv.execLend (w : LC) {s : State} (h : s.Inv) : Keeps (execLend w s) := by
  unfold Machine.execLend
  exact h.laneCtl _ _ (fun v x x1 => .ite (h.takeTrap _ _ _ _ _ _ _)
      (.ite (h.parkAt _ _ _) (.ite (h.parkAt _ _ _) (.next (h.setUnit _)))))

theorem State.Inv.execLaneDot2 (w : LA) {s : State} (h : s.Inv) : Keeps (execLaneDot2 w s) := by
  unfold Machine.execLaneDot2
  refine h.laneWord _ _ _ ?_
  intro v x x1
  split
  · exact h.retireL _ _ _ _ _ _
  · exact h.flagGate _ _ _ _ (fun v1 => h.writeLane _ _ _ _ _ _ _ _ _)

theorem State.Inv.execLaneLsw (w : LA) {s : State} (h : s.Inv) : Keeps (execLaneLsw w s) := by
  unfold Machine.execLaneLsw
  exact h.laneWord _ _ _ (fun v x x1 => h.writeLane _ _ _ _ _ _ _ _ _)

theorem State.Inv.execLanePoll (w : LA) {s : State} (h : s.Inv) : Keeps (execLanePoll w s) := by
  unfold Machine.execLanePoll
  refine h.laneWord _ _ _ (fun v x x1 => .ite (h.retireL _ _ _ _ _ _) ?_)
  split
  · exact h.writeMask _ _ _ _ _ _ _ _
  · exact h.writeMask _ _ _ _ _ _ _ _
  · exact h.writeMask _ _ _ _ _ _ _ _
  · exact h.writeLane _ _ _ _ _ _ _ _ _
  · exact h.writeLane _ _ _ _ _ _ _ _ _

theorem State.Inv.execLaneRed (w : LA) {s : State} (h : s.Inv) : Keeps (execLaneRed w s) := by
  unfold Machine.execLaneRed
  refine h.laneWord _ _ _ ?_
  intro v x x1
  dsimp only
  split
  · exact h.retireL _ _ _ _ _ _
  · exact h.flagGate _ _ _ _ (fun v1 => h.writeLane _ _ _ _ _ _ _ _ _)

theorem State.Inv.execLaneScan (w : LA) {s : State} (h : s.Inv) : Keeps (execLaneScan w s) := by
  unfold Machine.execLaneScan
  exact h.laneWord _ _ _ (fun v x x1 => h.flagGate _ _ _ _ (fun v1 => h.writeLane _ _ _ _ _ _ _ _ _))

theorem State.Inv.execAtom (m : Bool) (d a : SReg) (op : AtomOp) (w : Bool) (o : Order) (sc : Scope) (pad : Bool)
    {s : State} (h : s.Inv) : Keeps (execAtom m d a op w o sc pad s) := by
  unfold Machine.execAtom
  exact h.sWord _ _ (fun v => h.checked _ _ _ _ (fun x => .ite (h.localAtom _ _ _ _)
      (h.tsGate _ _ _ _ _ _ _ (fun x1 hx => h.issueAtom _ _ _ _ _ hx))))

theorem State.Inv.execLaneAtom (w : LM) {s : State} (h : s.Inv) : Keeps (execLaneAtom w s) := by
  unfold Machine.execLaneAtom
  exact h.laneWord _ _ _ (fun v x x1 => Keeps.portAfter _ _ _
      (h.checked _ _ _ _ (fun x2 => .ite (h.tsGate _ _ _ _ _ _ _ (fun x3 hx => h.issueAtom _ _ _ _ _ hx))
      (h.localAtom _ _ _ _))))

theorem State.Inv.execMon (m : Bool) (a : SReg) {s : State} (h : s.Inv) : Keeps (execMon m a s) := by
  unfold Machine.execMon
  refine h.sWord _ _ ?_
  intro v
  dsimp only
  split
  · exact h.trapS _ _ _ _
  · exact h.retireW _ _ _

theorem State.Inv.execMwait (m : Bool) (a : SReg) {s : State} (h : s.Inv) : Keeps (execMwait m a s) := by
  unfold Machine.execMwait
  refine h.sWord _ _ (fun v => Keeps.ite ?_ ?_)
  · split
    · exact h.parkAt _ _ _
    · split
      · exact (h.tellReplicas _ _).retireW _ _ _
      · exact h.monTimeout _ _
  · split
    · exact (h.tellReplicas _ _).retireW _ _ _
    · split
      · exact (h.tellReplicas _ _).retireW _ _ _
      · exact h.parkAt _ _ _

theorem State.Inv.execMonitorTimeout (u : UnitId) {s : State} (h : s.Inv) : Keeps (execMonitorTimeout u s) := by
  unfold Machine.execMonitorTimeout
  split
  · exact .next h
  · split
    · exact .next h
    · split
      · exact .ite ((h.tellReplicas _ _).monTimeout _ _) (.next h)
      · exact .next h

theorem State.Inv.execHgive (m : Bool) (a b : SReg) {s : State} (h : s.Inv) : Keeps (execHgive m a b s) := by
  unfold Machine.execHgive
  refine h.sWord _ _ ?_
  intro v
  dsimp only
  split
  · exact h.roomGate _ _ _ _ (h.cmdGate _ _ _ _ _ (h.releaseGate _ _ _ _
        (((h.setHandle _ _ _).spoil _).retireW _ _ _)))
  · exact h.trapS _ _ _ _

theorem State.Inv.execHtake (m : Bool) (d a : SReg) {s : State} (h : s.Inv) : Keeps (execHtake m d a s) := by
  unfold Machine.execHtake
  refine h.sWord _ _ ?_
  intro v
  dsimp only
  split
  · exact h.retireS _ _ _ _
  · split
    · exact ((h.setHandle _ _ _).spoil _).retireS _ _ _ _
    · exact h.retireS _ _ _ _

theorem State.Inv.execTlw (m : Bool) (a b : SReg) {s : State} (h : s.Inv) : Keeps (execTlw m a b s) := by
  unfold Machine.execTlw
  refine h.sWord _ _ ?_
  intro v
  dsimp only
  split
  · exact h.trapS _ _ _ _
  · split
    · exact h.retireW _ _ _
    · exact h.parkAt _ _ _

theorem State.Inv.execTls (m : Bool) (a b : SReg) {s : State} (h : s.Inv) : Keeps (execTls m a b s) := by
  unfold Machine.execTls
  refine h.sWord _ _ ?_
  intro v
  dsimp only
  split
  · exact h.trapS _ _ _ _
  · split
    · exact h.trapS _ _ _ _
    · exact h.roomGate _ _ _ _ (h.cmdGate _ _ _ _ _ (h.releaseGate _ _ _ _
          (((State.Inv.ite (h.raiseTimeline _ _ _) h).spoil _).retireW _ _ _)))

theorem State.Inv.execTlr (m : Bool) (d a : SReg) {s : State} (h : s.Inv) : Keeps (execTlr m d a s) := by
  unfold Machine.execTlr
  refine h.sWord _ _ ?_
  intro v
  dsimp only
  split
  · exact h.trapS _ _ _ _
  · split
    · exact .next (h.issuePend _ _ _ _ _)
    · split <;> exact .next (h.issuePend _ _ _ _ _)

theorem State.Inv.execTsiAgeingPeriod {s : State} (h : s.Inv) : Keeps (execTsiAgeingPeriod s) := by
  unfold Machine.execTsiAgeingPeriod
  split
  · exact .next h
  · refine .next (State.Inv.foldl _ (fun x t hx => ?_) _ h.frame)
    exact hx.foldl _ (fun y e hy => hy.agePage _ _) _

theorem State.Inv.execPageMigrationInstant (k p : Nat) {s : State} (h : s.Inv) : Keeps
    (execPageMigrationInstant k p s) := by
  unfold Machine.execPageMigrationInstant
  split
  · exact .next h
  · split
    · exact .next h
    · extract_lets e data s0 s1 t1 s2 at_
      have h0 : s0.Inv := (h.touchRun _ _).touchRun _ _
      have h2 : s2.Inv := ((h0.cipherRun _ _).writeDram _ _).setTenant _ _
      exact .next (.ite (h2.evacPage _ _ _) h2)

theorem State.Inv.execBisnpResponse (snp : Nat) (data : Option (BitVec 512)) {s : State} (h : s.Inv) : Keeps
    (execBisnpResponse snp data s) := by
  unfold Machine.execBisnpResponse
  split
  · exact .next h
  · exact .next (h.snoopDone _ _)

theorem State.Inv.execBisnpTimeout (snp : Nat) {s : State} (h : s.Inv) : Keeps (execBisnpTimeout snp s) := by
  unfold Machine.execBisnpTimeout
  split
  · exact .next h
  · split
    · exact .next (h.hostCrash _)
    · exact .next h

theorem State.Inv.execHostLinkDown (k : Nat) {s : State} (h : s.Inv) : Keeps (execHostLinkDown k s) := by
  unfold Machine.execHostLinkDown
  dsimp only
  exact .next ((h.hostCrash _).of_eq rfl rfl)

theorem State.Inv.execHostLinkUp (k : Nat) {s : State} (h : s.Inv) : Keeps (execHostLinkUp k s) := by
  unfold Machine.execHostLinkUp
  split
  · exact .next h
  · dsimp only
    exact .next ((h.setTenant _ _).frame)

theorem State.Inv.execHdmDecoderCommit (k : Nat) (r : HdmRange) (commit : Bool) {s : State} (h : s.Inv) : Keeps
    (execHdmDecoderCommit k r commit s) := by
  unfold Machine.execHdmDecoderCommit
  split
  · exact .next h
  · split
    · exact .next (h.setTenant _ _)
    · split
      · exact .next (h.setTenant _ _)
      · exact .next h

theorem State.Inv.execPtmRequest (port : Nat) {s : State} (h : s.Inv) : Keeps (execPtmRequest port s) := by
  unfold Machine.execPtmRequest
  split
  · exact .next (h.frame)
  · exact .next h

theorem State.Inv.execHostMemRead (k hpa : Nat) (own : Option Bool) {s : State} (h : s.Inv) : Keeps
    (execHostMemRead k hpa own s) := by
  unfold Machine.execHostMemRead
  split
  · exact .next h
  · split
    · exact .next h
    · extract_lets line full s1 t d
      have h1 : s1.Inv := (h.countAccess _ _).activate _
      split
      · exact .next h
      · clear_value full
        split
        · extract_lets x
          exact .next (h.frame.sendSnoop _ _ _ _)
        · split
          · exact .next (h1.setTenant _ _).frame
          · exact .next (h1.setTenant _ _).frame

theorem State.Inv.execHostMemWrite (k hpa : Nat) (data : BitVec 512) (be : BitVec 64) {s : State} (h : s.Inv) : Keeps
    (execHostMemWrite k hpa data be s) := by
  unfold Machine.execHostMemWrite
  split
  · exact .next h
  · split
    · exact .next h
    · dsimp only
      exact .next ((((h.countAccess _ _).activate _).writeLine _ _ _).of_eq rfl rfl)

theorem State.Inv.execPtpEventMessage (ns : Nat) {s : State} (h : s.Inv) : Keeps (execPtpEventMessage ns s) := by
  unfold Machine.execPtpEventMessage
  split
  · exact .next h
  · exact .next (h.frame)

theorem State.Inv.execCpmCreditTake (u : UnitId) {s : State} (h : s.Inv) : Keeps (execCpmCreditTake u s) := by
  unfold Machine.execCpmCreditTake
  split
  · exact .next h
  · split
    · exact .next h
    · split
      · split
        · exact .next (((h.setUnit _).spoil _).takeCredits _ _)
        · exact .next h
      · exact .next h

theorem State.Inv.execCpm (m : Bool) (a b c : SReg) {s : State} (h : s.Inv) : Keeps (execCpm m a b c s) := by
  unfold Machine.execCpm
  exact h.sWord _ _ (fun v => h.rightsGate _ _ _ _ _ (h.failGate _ _ _
      (h.commandGate _ _ _ _ _ (.ite (.next (h.handOver _ _ _ _))
      (.ite (.next ((h.handOver _ _ _ _).takeCredits _ _)) (h.parkAt _ _ _))))))

theorem State.Inv.execCbat (m : Bool) (c : SReg) {s : State} (h : s.Inv) : Keeps (execCbat m c s) := by
  unfold Machine.execCbat
  refine h.sWord _ _ fun u => h.rightsGate _ _ _ _ _ ?_
  extract_lets v close n jobs fl
  have hc : ∀ n t, t.Inv → Keeps (close n t) := fun n t ht => ht.retireS _ _ _ _
  split
  · split
    · exact h.parkAt _ _ _
    · exact hc _ _ h
  · exact hc _ _ (h.frame.tellReplicas _ _)

theorem State.Inv.execCwait (m : Bool) (a : SReg) {s : State} (h : s.Inv) : Keeps (execCwait m a s) := by
  unfold Machine.execCwait
  exact h.sWord _ _ (fun v => .ite (h.trapS _ _ _ _) (.ite (h.parkAt _ _ _) (h.retireW _ _ _)))

theorem State.Inv.execWapp (w : LA) {s : State} (h : s.Inv) : Keeps (execWapp w s) := by
  unfold Machine.execWapp
  refine h.laneWord _ _ _ ?_
  intro v x x1
  dsimp only
  split
  · exact h.takeTrap _ _ _ _ _ _ _
  · exact h.roomGate _ _ _ _ (h.compareGate _ _ _ _ _ (h.releaseGate _ _ _ _
        (.ite (h.parkAt _ _ _) (Keeps.thenDo _ _ ((h.spoil _).retireL _ _ _ _ _ _)
        (fun t ht => .ite (ht.foldl _ (fun t1 x2 ht1 => ht1.appendItem _ _ _) _) ht)))))

theorem State.Inv.execWtake (m nb : Bool) (a c : SReg) {s : State} (h : s.Inv) : Keeps (execWtake m nb a c s) := by
  unfold Machine.execWtake
  refine h.sWord _ _ ?_
  intro v
  dsimp only
  split
  · exact h.trapS _ _ _ _
  · split
    · split
      · exact h.takeDone _ _ _ _
      · exact h.parkAt _ _ _
    · split
      · exact (h.setList _ _ _).takeDone _ _ _ _
      · split
        · split
          · exact (h.setList _ _ _).takeDone _ _ _ _
          · split
            · exact h.takeDone _ _ _ _
            · exact (h.setList _ _ _).parkAt _ _ _
        · split
          · exact (h.setList _ _ _).takeDone _ _ _ _
          · split
            · exact h.takeDone _ _ _ _
            · exact (h.setList _ _ _).parkAt _ _ _

theorem State.Inv.execQsnc (m : Bool) {s : State} (h : s.Inv) : Keeps (execQsnc m s) := by
  unfold Machine.execQsnc
  refine h.sWord _ _ (fun v => Keeps.ite ?_ (.ite ((h.tellReplicas _ _).retireW _ _ _) (h.parkAt _ _ _)))
  split
  · exact h.retireW _ _ _
  · exact h.parkAt _ _ _

theorem State.Inv.execQuiescenceReport (ctx : Nat) {s : State} (h : s.Inv) : Keeps (execQuiescenceReport ctx s) := by
  unfold Machine.execQuiescenceReport
  refine .ite (.next ?_) (.next h)
  refine h.withUnits rfl (Placed.map h.placed fun e => ?_)
  split
  · exact ⟨rfl, Unit.report_id _⟩
  · exact ⟨rfl, rfl⟩

theorem State.Inv.execPageWalkComplete (id : Nat) {s : State} (h : s.Inv) : Keeps (execPageWalkComplete id s) := by
  unfold Machine.execPageWalkComplete
  split
  · exact .next h
  · exact .next (h.walkDone _)

theorem State.Inv.execInvalidationComplete (id : Nat) {s : State} (h : s.Inv) : Keeps (execInvalidationComplete id s)
    := by
  unfold Machine.execInvalidationComplete
  split
  · exact .next h
  · exact .next (h.frame)

theorem State.Inv.execBargeChunkMove (id : Nat) {s : State} (h : s.Inv) : Keeps (execBargeChunkMove id s) := by
  unfold Machine.execBargeChunkMove
  split
  · exact .next h
  · split
    · exact .next h
    · dsimp only
      split
      · exact .next ((h.dropNegative _ _).jobFault _ _ _)
      · exact .next ((h.dropNegative _ _).jobFault _ _ _)
      · exact .next ((h.askWalk _ _).askWalk _ _)
      · exact .next (h.askWalk _ _)
      · exact .next (h.askWalk _ _)
      · split
        · exact .next (h.sendSnoop _ _ _ _)
        · exact .next (h.sendSnoop _ _ _ _)
        · split
          · exact .next h
          · exact .next ((h.fillEnds _ _ _).moveRun _ _ _ _ _ _ _)

theorem State.Inv.execCopyComplete (id : Nat) {s : State} (h : s.Inv) : Keeps (execCopyComplete id s) := by
  unfold Machine.execCopyComplete
  split
  · exact .next h
  · split
    · exact .next (h.endJob _)
    · exact .next h

theorem State.Inv.execCollectiveComplete (id : Nat) (lost : Bool) {s : State} (h : s.Inv) : Keeps
    (execCollectiveComplete id lost s) := by
  unfold Machine.execCollectiveComplete
  split
  · exact .next h
  · next j _ =>
    split
    · exact .next h
    · next c _ =>
      split
      · exact .next h
      · split
        · exact .next (h.sendSnoop _ _ _ _)
        · extract_lets n z s0
          have h0 : s0.Inv := (h.readDone _).touchDva _ _ _
          split
          · exact .next (h0.endJob _)
          · extract_lets new s1 r
            have h1 : s1.Inv := h0.frame
            have hr : r.1.Inv := h1.putDva _ _ _ _
            split
            · exact .next ((h1.putSome _ _ _ _ _).endJob _)
            · split
              · exact .next (hr.endJob _)
              · exact .next ((hr.raiseTimeline _ _ _).endJob _)

theorem State.Inv.execLaunch (m : Bool) (a c : SReg) {s : State} (h : s.Inv) : Keeps (execLaunch m a c s) := by
  unfold Machine.execLaunch
  refine h.sWord _ _ (fun v => h.rightsGate _ _ _ _ _ ?_)
  dsimp only
  split
  · exact h.trapS _ _ _ _
  · refine h.statusGate _ _ _ (h.roomGate _ _ _ _ (h.cmdGate _ _ _ _ _
        (h.releaseGate _ _ _ _ (.ite (.next (h.unreadable _ _ _ _ _)) (.ite (.next (h.launchDone _ _ _ _ _)) ?_)))))
    split
    · exact (h.sendSnoop _ _ _ _).parkAt _ _ _
    · exact .next ((((h.touchLads _ _).readDone _).launchRun _ _ _).launchDone _ _ _ _ _)

theorem State.Inv.execQtailWrite (b : BellAt) (v : Word) {s : State} (h : s.Inv) : Keeps (execQtailWrite b v s) := by
  unfold Machine.execQtailWrite
  split
  · exact .next h
  · dsimp only
    exact .next (.ite ((h.setQueue _ _).queueVec _) (h.setQueue _ _))

theorem State.Inv.execQstatWrite (b : BellAt) (v : Word) {s : State} (h : s.Inv) : Keeps (execQstatWrite b v s) := by
  unfold Machine.execQstatWrite
  split
  · exact .next h
  · exact .next (h.setQueue _ _)

theorem State.Inv.execQueuePacketTake (src : QSrc) {s : State} (h : s.Inv) : Keeps (execQueuePacketTake src s) := by
  unfold Machine.execQueuePacketTake
  split
  · exact .next h
  · exact .next (h.sendSnoop _ _ _ _)
  · split
    · split
      · exact .next (h.takeHw _ _)
      · exact .next ((h.served _ _).addGrid _)
      · exact .next h
    · exact .next h

theorem State.Inv.execGridStart (k : Nat) {s : State} (h : s.Inv) : Keeps (execGridStart k s) := by
  unfold Machine.execGridStart
  split
  · exact .next h
  · split
    · exact .next h
    · dsimp only
      exact .next (((h.countStart _).popHead _).of_eq rfl rfl)

theorem State.Inv.execExit (_m : Bool) {s : State} (h : s.Inv) : Keeps (execExit _m s) := by
  unfold Machine.execExit
  exact h.sWord _ _ (fun v => .ite (h.parkAt _ _ _) (.ite (h.parkAt _ _ _)
      (.ite (h.parkAt _ _ _) (h.pointGate _ _ _ _ _ _ (h.releaseGate _ _ _ _ (.next ((h.spoil _).leave _)))))))

theorem State.Inv.stageAll_ok {s t : State} (h : s.Inv) (who ctx : Nat) (ws : List Wg) (l : List Lading)
    (ht : stageAll s who ctx ws l = .ok t) : t.Inv := by
  induction l generalizing s with
  | nil => cases ht; exact h
  | cons r l ih =>
    unfold Machine.stageAll at ht
    extract_lets padOk gsaOk ends at ht
    split at ht
    · cases ht
    · split at ht
      · cases ht
      · cases ht
      · exact ih ((h.touchDva _ _ _).writeRun _ _) ht

theorem State.Inv.stageAll_bad {s t : State} (h : s.Inv) (who ctx : Nat) (ws : List Wg) (l : List Lading) {a : Nat}
    (ht : stageAll s who ctx ws l = .bad a t) : t.Inv := by
  induction l generalizing s with
  | nil => cases ht
  | cons r l ih =>
    unfold Machine.stageAll at ht
    extract_lets padOk gsaOk ends at ht
    split at ht
    · cases ht; exact h
    · split at ht
      · cases ht
      · cases ht; exact h
      · exact ih ((h.touchDva _ _ _).writeRun _ _) ht

theorem State.Inv.execLadingStage (k : Nat) {s : State} (h : s.Inv) : Keeps (execLadingStage k s) := by
  unfold Machine.execLadingStage
  split
  · exact .next h
  · split
    · exact .next h
    · split
      · exact .next h
      · extract_lets ws
        split
        · exact .next (h.sendSnoop _ _ _ _)
        · next a s0 hs =>
          have h0 : s0.Inv := h.stageAll_bad _ _ _ _ hs
          refine .next (((h0.readDone _).abortGrid _ _ _).foldl _ (fun t j ht => ?_) _)
          exact ht.foldl _ (fun t u ht => ht.leave _) _
        · next s0 hs =>
          have h0 : s0.Inv := h.stageAll_ok _ _ _ _ hs
          exact .next (State.Inv.foldl _ (fun t j ht => ht.capture _ _) _ (h0.readDone _).frame)

theorem State.Inv.execDeadlineMiss (k : Nat) {s : State} (h : s.Inv) : Keeps (execDeadlineMiss k s) := by
  unfold Machine.execDeadlineMiss
  split
  · exact .next h
  · exact .next (h.logMiss _ _)

theorem State.Inv.execGridRetire (k : Nat) {s : State} (h : s.Inv) : Keeps (execGridRetire k s) := by
  unfold Machine.execGridRetire
  split
  · exact .next h
  · split
    · split
      · exact .next h
      · exact .next ((h.logMiss _ _).retireGrid _ _)
      · exact .next (h.sendSnoop _ _ _ _)
      · exact .next (h.ctrRead _ _ _)
    · exact .next h

theorem State.Inv.execTeamPlace (k : Nat) {s : State} (h : s.Inv) : Keeps (execTeamPlace k s) := by
  unfold Machine.execTeamPlace
  split
  · exact .next h
  · split
    · exact .next (h.placeTeam _ _ _ _)
    · exact .next h

theorem State.Inv.execDeadlinePreemptRequest (k : Nat) {s : State} (h : s.Inv) : Keeps
    (execDeadlinePreemptRequest k s) := by
  unfold Machine.execDeadlinePreemptRequest
  split
  · exact .next h
  · split
    · exact .next h
    · exact .next (h.foldl _ (fun t x ht => ht.addPreempt _ _ _) _)

theorem State.Inv.execPreemptTimerExpire (id : Nat) {s : State} (h : s.Inv) : Keeps (execPreemptTimerExpire id s)
    := by
  unfold Machine.execPreemptTimerExpire
  split
  · exact .next h
  · split
    · exact .next ((h.resetWith _ _).settlePreempts)
    · exact .next h

theorem State.Inv.execEvictTeam (k : Nat) {s : State} (h : s.Inv) : Keeps (execEvictTeam k s) := by
  unfold Machine.execEvictTeam
  split
  · exact .next h
  · split
    · exact .next ((h.foldl _ (fun t x ht => ht.evictOne _) _).settlePreempts)
    · exact .next h

theorem State.Inv.execTeamReadmit (k : Nat) {s : State} (h : s.Inv) : Keeps (execTeamReadmit k s) := by
  unfold Machine.execTeamReadmit
  split
  · exact .next h
  · split
    · split
      · exact .next (h.foldl _ (fun t x ht => ht.readmitOne _ _) _)
      · exact .next h
    · exact .next h

theorem State.Inv.execWaitForWalk {s : State} (h : s.Inv) : Keeps (execWaitForWalk s) := by
  unfold Machine.execWaitForWalk
  dsimp only
  exact .next ((((h.foldl _ (fun t x ht => ht.logCycle _) _).foldl _
      (fun t x ht => ht.logAgent h _ _ _) _).logBudget).of_eq rfl rfl)

theorem State.Inv.execFixedResultWrite (u : UnitId) (st : Strm) {s : State} (h : s.Inv) : Keeps
    (execFixedResultWrite u st s) := by
  unfold Machine.execFixedResultWrite
  split
  · exact .next h
  · split
    · exact .next (h.setUnit _)
    · exact .next h

theorem State.Inv.execVariableResultArrive (u : UnitId) (id : Nat) {s : State} (h : s.Inv) : Keeps
    (execVariableResultArrive u id s) := by
  unfold Machine.execVariableResultArrive
  split
  · exact .next h
  · split
    · exact .next h
    · split
      · exact .next (h.arrive _ _)
      · exact .next h

theorem State.Inv.execImpreciseTrapTake (u : UnitId) {s : State} (h : s.Inv) : Keeps (execImpreciseTrapTake u s) := by
  unfold Machine.execImpreciseTrapTake
  split
  · exact .next h
  · split
    · exact .next h
    · split
      · exact h.finishTrap _
      · split
        · exact .next h
        · split
          · exact .next h
          · exact h.takeImp _ _ _

theorem State.Inv.execHomeWriteSerialize (seq : Nat) {s : State} (h : s.Inv) : Keeps (execHomeWriteSerialize seq s)
    := by
  unfold Machine.execHomeWriteSerialize
  split
  · exact .next h
  · refine .ite ?_ (.next h)
    extract_lets bad s1 s2 s3 l
    have h1 : s1.Inv := (State.Inv.ite h (h.writeHome _)).noteSeq _
    have h2 : s2.Inv := .ite (h1.clearBad _) h1
    have h3 : s3.Inv := .ite (h2.storeImp _ _ _ _ _) h2
    exact .ite (.next (h3.dropStore _)) (.next h3.frame)

theorem State.Inv.execAckArrive (seq : Nat) {s : State} (h : s.Inv) : Keeps (execAckArrive seq s) := by
  unfold Machine.execAckArrive
  split
  · exact .next h
  · split
    · exact .next (h.dropStore _)
    · exact .next h

theorem State.Inv.execAckRetransmitTimeout (seq : Nat) {s : State} (h : s.Inv) : Keeps
    (execAckRetransmitTimeout seq s) := by
  unfold Machine.execAckRetransmitTimeout
  split
  · exact .next h
  · refine .ite (.ite (.next h.frame) (.next ?_)) (.next h)
    exact h.poison rfl rfl rfl rfl rfl

theorem State.Inv.execPoisonNotice (seq : Nat) {s : State} (h : s.Inv) : Keeps (execPoisonNotice seq s) := by
  unfold Machine.execPoisonNotice
  split
  · exact .next h
  · refine .ite (.next (State.Inv.storeImp (State.Inv.dropStore ?_ _) _ _ _ _ _)) (.next h)
    exact h.poison rfl rfl rfl rfl rfl

theorem State.Inv.execRemoteAtomicPerform (seq : Nat) {s : State} (h : s.Inv) : Keeps (execRemoteAtomicPerform seq s)
    := by
  unfold Machine.execRemoteAtomicPerform
  split
  · exact .next h
  · split
    · exact .next (h.performAtom _)
    · exact .next h

theorem State.Inv.execSramUncorrectable (e : ErrAt) {s : State} (h : s.Inv) : Keeps (execSramUncorrectable e s) := by
  unfold Machine.execSramUncorrectable
  refine .next ?_
  split
  · exact h.poison rfl rfl rfl rfl rfl
  · exact h.poison rfl rfl rfl rfl rfl
  · exact h.poison rfl rfl rfl rfl rfl
  · exact h.poison rfl rfl rfl rfl rfl
  · exact h.onEngine _ _
  · exact h.onEngine _ _
  · exact (h.onEngine _ _).frame
  · split
    · exact h.setUnit _
    · exact h
  · exact h.frame
  · exact h.frame

theorem State.Inv.execRegisterUncorrectable (u : UnitId) {s : State} (h : s.Inv) : Keeps
    (execRegisterUncorrectable u s) := by
  unfold Machine.execRegisterUncorrectable
  split
  · exact .next h
  · split
    · exact .next (h.contextFatal _ _ _ _ _ _ _)
    · split
      · exact .next (h.contextFatal _ _ _ _ _ _ _)
      · exact .next ((h.rollback _ _).writeLog _ _)

theorem State.Inv.execMdrn (m : Bool) (t : BitVec 3) (a b c : SReg) {s : State} (h : s.Inv) : Keeps
    (execMdrn m t a b c s) := by
  unfold Machine.execMdrn
  refine h.mxWord _ _ fun u => h.mxAwait _ _ _ _ _ fun r hr => h.failGate _ _ _ (.ite ?_ hr)
  exact h.roomGate _ _ _ _ (h.cmdGate _ _ _ _ _ (h.releaseGate _ _ _ _ hr))

theorem State.Inv.execMrowMig (m : Bool) (a b : SReg) {s : State} (h : s.Inv) : Keeps (execMrowMig m a b s) := by
  unfold Machine.execMrowMig
  exact h.tabWord _ _ _ _ fun u g => Keeps.thenDo _ _ ((h.onEngine _ _).mxIssue _ _ _) fun t ht => ht.writeHome _

theorem State.Inv.execMrowReg (m : Bool) (a : SReg) {s : State} (h : s.Inv) : Keeps (execMrowReg m a s) := by
  unfold Machine.execMrowReg
  exact h.tabWord _ _ _ _ (fun v x => Keeps.thenDo _ _ (h.mxIssue _ _ _) (fun t ht => ht.writeHome _))

theorem State.Inv.execXreqReserve (w : LA) {s : State} (h : s.Inv) : Keeps (execXreqReserve w s) := by
  unfold Machine.execXreqReserve
  exact h.laneWord _ _ _ (fun v x x1 => .ite (h.retireL _ _ _ _ _ _)
      (.ite (h.feedFault _ _ _) (.ite (h.feedFault _ _ _)
      (.ite (h.feedFault _ _ _) (.ite (h.parkAt _ _ _) (((h.onEngine _ _).spoil _).retireL _ _ _ _ _ _))))))

theorem State.Inv.execXreqRelease (w : LA) {s : State} (h : s.Inv) : Keeps (execXreqRelease w s) := by
  unfold Machine.execXreqRelease
  exact h.laneWord _ _ _ (fun v x x1 => .ite (h.retireL _ _ _ _ _ _)
      (.ite (h.feedFault _ _ _) (.ite (h.feedFault _ _ _)
      (.ite (h.feedFault _ _ _) (.ite (h.parkAt _ _ _) (((h.onEngine _ _).spoil _).retireL _ _ _ _ _ _))))))

theorem State.Inv.execXfeed (w : LA) {s : State} (h : s.Inv) : Keeps (execXfeed w s) := by
  unfold Machine.execXfeed
  dsimp only
  exact h.laneWord _ _ _ (fun v x x1 => h.feedGate _ _ _ _ _ _ _ (((h.onEngine _ _).spoil _).retireL _ _ _ _ _ _))

theorem State.Inv.execXread (w : LA) {s : State} (h : s.Inv) : Keeps (execXread w s) := by
  unfold Machine.execXread
  refine h.laneWord _ _ _ (fun v x x1 => h.feedGate _ _ _ _ _ _ _ ?_)
  dsimp only
  split <;> exact (h.spoil _).retireL _ _ _ _ _ _

theorem State.Inv.execMatrixWordPerform (cl : Nat) {s : State} (h : s.Inv) : Keeps (execMatrixWordPerform cl s) := by
  unfold Machine.execMatrixWordPerform
  split
  · exact .next h
  · split
    · split
      · exact .next (h.sendSnoop _ _ _ _)
      · exact .ite (.next (((h.readDone _).perform _ _).onEngine _ _))
            (.next (((h.readDone _).perform _ _).completeWord _ _ _))
    · exact .next h

theorem State.Inv.execReservationGrant (cl obj : Nat) {s : State} (h : s.Inv) : Keeps (execReservationGrant cl obj s)
    := by
  unfold Machine.execReservationGrant
  split
  · exact .next h
  · exact .next (h.onEngine _ _)

theorem State.Inv.execOutvoteComplete (set : Nat) {s : State} (h : s.Inv) : Keeps (execOutvoteComplete set s) := by
  unfold Machine.execOutvoteComplete
  split
  · exact .next h
  · exact .next ((h.copyPad _ _).setUnit _)

theorem State.Inv.execPageEvacuationInstant (d ctx dva : Nat) (entry : BitVec 64) {s : State} (h : s.Inv) : Keeps
    (execPageEvacuationInstant d ctx dva entry s) := by
  unfold Machine.execPageEvacuationInstant
  split
  · dsimp only
    split
    · exact .next (((((h.touchPage _).touchPage _).fillPage _ _ _).writeLeaves _ _ _ _).beginInval _ _ _ _)
    · exact .next h
  · exact .next h

theorem State.Inv.execEvacuationEnd (d : Nat) {s : State} (h : s.Inv) : Keeps (execEvacuationEnd d s) := by
  unfold Machine.execEvacuationEnd
  split
  · dsimp only
    split
    · exact .next ((h.foldl _ (fun t x ht => (ht.releasePages _ _).resetWith _ _) _).of_eq rfl rfl)
    · exact .next ((h.foldl _ (fun t x ht => (ht.releasePages _ _).resetWith _ _) _).dieOff _)
  · exact .next h

theorem State.Inv.execIngressRecord (ch src : Nat) (payload : List (BitVec 8)) {s : State} (h : s.Inv) : Keeps
    (execIngressRecord ch src payload s) := by
  unfold Machine.execIngressRecord
  split
  · exact .next h
  · split
    · exact .next (h.drainChan _ _)
    · split
      · exact .next (h.arriveRec _ _)
      · exact .next h

theorem State.Inv.execFabricPacketReceive (src cls seq : Nat) (payload : List (BitVec 8)) {s : State} (h : s.Inv)
    : Keeps (execFabricPacketReceive src cls seq payload s) := by
  unfold Machine.execFabricPacketReceive
  extract_lets mine f l p r
  have hr : r.1.Inv := h.frame.drainFlow _ _
  exact .ite (.next hr.frame) (.next h)

theorem State.Inv.execLinkDead (port : Nat) {s : State} (h : s.Inv) : Keeps (execLinkDead port s) := by
  unfold Machine.execLinkDead
  split
  · exact .next (h.frame)
  · exact .next h

theorem State.Inv.execCheckpointBlock {s : State} (h : s.Inv) : Keeps (execCheckpointBlock s) := by
  unfold Machine.execCheckpointBlock
  split
  · exact .next h
  · exact .ite (.next (h.endCkpt _)) (.ite (.next h) (.next (h.frame)))

theorem State.Inv.execCheckpointEnd {s : State} (h : s.Inv) : Keeps (execCheckpointEnd s) := by
  unfold Machine.execCheckpointEnd
  split
  · exact .next h
  · split
    · exact .next (h.endCkpt _)
    · split
      · exact .next (h.endCkpt _)
      · exact .next h

theorem State.Inv.execSafeTierPathLoss {s : State} (h : s.Inv) : Keeps (execSafeTierPathLoss s) := by
  unfold Machine.execSafeTierPathLoss
  split
  · exact .next h
  · exact .next (h.endCkpt _)

theorem State.Inv.execPulsePatternWrite (cl : Nat) (v : BitVec 32) {s : State} (h : s.Inv) : Keeps
    (execPulsePatternWrite cl v s) := by
  unfold Machine.execPulsePatternWrite
  split
  · exact .next h
  · exact .next (h.onPulse _ _)

theorem State.Inv.execPatternRampStep (cl : Nat) {s : State} (h : s.Inv) : Keeps (execPatternRampStep cl s) := by
  unfold Machine.execPatternRampStep
  split
  · exact .next (h.onPulse _ _)
  · exact .next h

theorem State.Inv.execDroopDetect (cl : Nat) {s : State} (h : s.Inv) : Keeps (execDroopDetect cl s) := by
  unfold Machine.execDroopDetect
  split
  · exact .next h
  · exact .next (h.onPulse _ _)

theorem State.Inv.execDroopFreezeEnd (cl : Nat) {s : State} (h : s.Inv) : Keeps (execDroopFreezeEnd cl s) := by
  unfold Machine.execDroopFreezeEnd
  split
  · exact .next (h.onPulse _ _)
  · exact .next h

theorem State.Inv.execCurrentComparatorTrip (d : Nat) {s : State} (h : s.Inv) : Keeps (execCurrentComparatorTrip d s)
    := by
  unfold Machine.execCurrentComparatorTrip
  split
  · exact .next (h.throttle _)
  · exact .next h

theorem State.Inv.execThermalTrip2 (d : Nat) {s : State} (h : s.Inv) : Keeps (execThermalTrip2 d s) := by
  unfold Machine.execThermalTrip2
  split
  · exact .next (h.frame)
  · exact .next h

theorem State.Inv.execTenantWithdraw (by_ : Issuer) (t : Nat) (force : Bool) {s : State} (h : s.Inv) : Keeps
    (execTenantWithdraw by_ t force s) := by
  unfold Machine.execTenantWithdraw
  exact h.ownerOnly _ _ (h.onTenant _ _ _ (fun x => .ite ((h.dropTenant _).ok)
      (.ite (((h.hostCrash _).dropTenant _).ok) h.invalid)))

theorem State.Inv.execLoadKey (by_ : Issuer) (t wrapped : Nat) {s : State} (h : s.Inv) : Keeps
    (execLoadKey by_ t wrapped s) := by
  unfold Machine.execLoadKey
  refine h.ownerOnly _ _ (h.onTenant _ _ _ ?_)
  intro x
  split
  · exact h.invalid
  · split
    · exact (h.setTenant _ _).ok
    · exact (h.rekey _ _ _).ok

theorem State.Inv.execContextCreate (by_ : Issuer) (ctx : Nat) (tenant : Option Nat) {s : State} (h : s.Inv) : Keeps
    (execContextCreate by_ ctx tenant s) := by
  unfold Machine.execContextCreate
  dsimp only
  split
  · split
    · exact h.busy
    · exact h.invalid
  · exact h.okIf _ (h.setCtx _ _)

theorem State.Inv.execQueueCreate (by_ : Issuer) (q : Nat) (desc : QueueDesc) {s : State} (h : s.Inv) : Keeps
    (execQueueCreate by_ q desc s) := by
  unfold Machine.execQueueCreate
  refine h.onCtx _ _ _ ?_
  intro x
  dsimp only
  split
  · split
    · split
      · exact (h.setQueue _ _).reply _ _
      · exact h.invalid
    · split
      · exact (h.setQueue _ _).reply _ _
      · exact h.invalid
  · split
    · exact h.invalid
    · split
      · split
        · exact (h.setQueue _ _).reply _ _
        · exact h.invalid
      · split
        · exact (h.setQueue _ _).reply _ _
        · exact h.invalid

theorem State.Inv.execQueueDestroy (by_ : Issuer) (q : Nat) {s : State} (h : s.Inv) : Keeps (execQueueDestroy by_ q s)
    := by
  unfold Machine.execQueueDestroy
  split
  · exact h.invalid
  · exact h.onCtx _ _ _ (fun x => (h.dropQueue _).ok)

theorem State.Inv.execSetSupervisorHandler (by_ : Issuer) (ctx : Nat) (h : Handler) {s : State} (hs : s.Inv) : Keeps
    (execSetSupervisorHandler by_ ctx h s) := by
  unfold Machine.execSetSupervisorHandler
  exact hs.onCtx _ _ _ (fun x => hs.okIf _ (hs.setCtx _ _))

theorem State.Inv.execDebugDetach (by_ : Issuer) (ctx : Nat) {s : State} (h : s.Inv) : Keeps
    (execDebugDetach by_ ctx s) := by
  unfold Machine.execDebugDetach
  refine h.onCtx _ _ _ fun c => ?_
  extract_lets s0 paths s1
  have h0 : s0.Inv := h.setCtx _ _
  have h1 : s1.Inv := h0.frame.dropLoss.sendOut
  refine State.Inv.ok (h1.withUnits rfl (Placed.map h1.placed fun e => ?_))
  dsimp only
  split <;> exact ⟨rfl, rfl⟩

theorem State.Inv.execDebugResume (u : UnitId) {s : State} (h : s.Inv) : Keeps (execDebugResume u s) := by
  unfold Machine.execDebugResume
  split
  · exact .next h
  · refine .next (h.foldl _ (fun t x ht => ?_) _)
    exact ht.withUnits rfl (Placed.upd ht.placed _ fun _ => rfl)

theorem State.Inv.execReplicaFlip (by_ : Issuer) (ctx : Nat) (u : UnitId) (r : FlipReg) (bit : Nat) {s : State}
    (h : s.Inv) : Keeps (execReplicaFlip by_ ctx u r bit s) := by
  unfold Machine.execReplicaFlip
  refine h.onDebug _ _ _ ?_
  split
  · exact h.invalid
  · exact .ite h.busy (h.okIf _ (h.setUnit _))

theorem State.Inv.execClearPoison (by_ : Issuer) (ctx : Nat) (e : ErrAt) {s : State} (h : s.Inv) : Keeps
    (execClearPoison by_ ctx e s) := by
  unfold Machine.execClearPoison
  refine h.onCtx _ _ _ (fun x => Keeps.ite h.invalid ?_)
  split
  · exact h.okIf _ ((h.writeHome _).clearBad _)
  · exact h.okIf _ (h.writeDram _ _)
  · exact h.okIf _ (h.writeDram _ _)
  · exact h.invalid

theorem State.Inv.execSetWindowEntry (by_ : Issuer) (w : WinSet) {s : State} (h : s.Inv) : Keeps
    (execSetWindowEntry by_ w s) := by
  unfold Machine.execSetWindowEntry
  exact h.onCtx _ _ _ (fun x => Keeps.ite h.invalid (Keeps.ite h.busy (.ite (.next h) h.frame.ok)))

theorem State.Inv.execClearWindowEntry (by_ : Issuer) (core idx : Nat) {s : State} (h : s.Inv) : Keeps
    (execClearWindowEntry by_ core idx s) := by
  unfold Machine.execClearWindowEntry
  split
  · split
    · exact h.ok
    · exact h.invalid
  · split
    · exact h.onCtx _ _ _ (fun x => .ite (.next h) h.frame.ok)
    · exact h.invalid

theorem State.Inv.execRequestPreemption (by_ : Issuer) (ctx : Nat) (mask : BitVec 256) {s : State} (h : s.Inv) : Keeps
    (execRequestPreemption by_ ctx mask s) := by
  unfold Machine.execRequestPreemption
  exact h.ownerOnly _ _ (h.onCtx _ _ _ (fun x => Keeps.ite h.busy ((h.addPreempt _ _ _).reply _ _)))

theorem State.Inv.execCreateIngressChannel (by_ : Issuer) (ch : Nat) (desc : ChanDesc) {s : State} (h : s.Inv) : Keeps
    (execCreateIngressChannel by_ ch desc s) := by
  unfold Machine.execCreateIngressChannel
  refine h.ownerOnly _ _ (h.onCtx _ _ _ fun c => ?_)
  extract_lets zero s1 s2
  have h1 : s1.Inv := h.setCtx _ _
  have h2 : s2.Inv := .ite (h1.writeDva _ _ _) (h1.writeHome _)
  exact h.okIf _ h2.frame

theorem State.Inv.execIngressChannelStatus (by_ : Issuer) (ch : Nat) {s : State} (h : s.Inv) : Keeps
    (execIngressChannelStatus by_ ch s) := by
  unfold Machine.execIngressChannelStatus
  refine h.ownerOnly _ _ ?_
  split
  · exact h.invalid
  · exact h.reply _ _

theorem State.Inv.execMgmtUnlistedOpcode (_by : Issuer) (op : Nat) {s : State} (h : s.Inv) : Keeps
    (execMgmtUnlistedOpcode _by op s) := by
  unfold Machine.execMgmtUnlistedOpcode
  split
  · exact h.reply _ _
  · exact .next h

/-- Every instruction and every event keeps the invariant of the steps, by the rule of what it is made of. -/
theorem State.Inv.exec (i : Instr) {s : State} (h : s.Inv) : Keeps (exec i s) := by
  cases i with
  | add m d a b => exact (h.aluS _ _ _ _ _ _ : Keeps (execAdd m d a b s))
  | sub m d a b => exact (h.aluS _ _ _ _ _ _ : Keeps (execSub m d a b s))
  | and m d a b => exact (h.aluS _ _ _ _ _ _ : Keeps (execAnd m d a b s))
  | or m d a b => exact (h.aluS _ _ _ _ _ _ : Keeps (execOr m d a b s))
  | xor m d a b => exact (h.aluS _ _ _ _ _ _ : Keeps (execXor m d a b s))
  | shl m d a b => exact (h.aluS _ _ _ _ _ _ : Keeps (execShl m d a b s))
  | shr m d a b => exact (h.aluS _ _ _ _ _ _ : Keeps (execShr m d a b s))
  | sar m d a b => exact (h.aluS _ _ _ _ _ _ : Keeps (execSar m d a b s))
  | mul m d a b => exact (h.aluS _ _ _ _ _ _ : Keeps (execMul m d a b s))
  | mulhiU64 m d a b => exact (h.aluS _ _ _ _ _ _ : Keeps (execMulhiU64 m d a b s))
  | mulhiS64 m d a b => exact (h.aluS _ _ _ _ _ _ : Keeps (execMulhiS64 m d a b s))
  | minS64 m d a b => exact (h.aluS _ _ _ _ _ _ : Keeps (execMinS64 m d a b s))
  | minU64 m d a b => exact (h.aluS _ _ _ _ _ _ : Keeps (execMinU64 m d a b s))
  | maxS64 m d a b => exact (h.aluS _ _ _ _ _ _ : Keeps (execMaxS64 m d a b s))
  | maxU64 m d a b => exact (h.aluS _ _ _ _ _ _ : Keeps (execMaxU64 m d a b s))
  | divU64 m d a b => exact (h.aluS _ _ _ _ _ _ : Keeps (execDivU64 m d a b s))
  | divS64 m d a b => exact (h.aluS _ _ _ _ _ _ : Keeps (execDivS64 m d a b s))
  | remU64 m d a b => exact (h.aluS _ _ _ _ _ _ : Keeps (execRemU64 m d a b s))
  | remS64 m d a b => exact (h.aluS _ _ _ _ _ _ : Keeps (execRemS64 m d a b s))
  | andn m d a b => exact (h.aluS _ _ _ _ _ _ : Keeps (execAndn m d a b s))
  | orn m d a b => exact (h.aluS _ _ _ _ _ _ : Keeps (execOrn m d a b s))
  | popc m d a => exact (h.aluS1 _ _ _ _ _ : Keeps (execPopc m d a s))
  | clz m d a => exact (h.aluS1 _ _ _ _ _ : Keeps (execClz m d a s))
  | ctz m d a => exact (h.aluS1 _ _ _ _ _ : Keeps (execCtz m d a s))
  | addImm m d a imm => exact (h.aluS1 _ _ _ _ _ : Keeps (execAddImm m d a imm s))
  | andImm m d a imm => exact (h.aluS1 _ _ _ _ _ : Keeps (execAndImm m d a imm s))
  | orImm m d a imm => exact (h.aluS1 _ _ _ _ _ : Keeps (execOrImm m d a imm s))
  | xorImm m d a imm => exact (h.aluS1 _ _ _ _ _ : Keeps (execXorImm m d a imm s))
  | shlImm m d a n => exact (h.aluS1 _ _ _ _ _ : Keeps (execShlImm m d a n s))
  | shrImm m d a n => exact (h.aluS1 _ _ _ _ _ : Keeps (execShrImm m d a n s))
  | sarImm m d a n => exact (h.aluS1 _ _ _ _ _ : Keeps (execSarImm m d a n s))
  | mulImm m d a imm => exact (h.aluS1 _ _ _ _ _ : Keeps (execMulImm m d a imm s))
  | shin m d imm => exact (h.aluS1 _ _ _ _ _ : Keeps (execShin m d imm s))
  | cmp m p c a b => exact (h.sWord _ _ (fun v => h.retireS _ _ _ _) : Keeps (execCmp m p c a b s))
  | cmpImm m p c a imm => exact (h.sWord _ _ (fun v => h.retireS _ _ _ _) : Keeps (execCmpImm m p c a imm s))
  | pand m p pa na pb nb => exact (h.predWord _ _ _ _ _ _ _ : Keeps (execPand m p pa na pb nb s))
  | por m p pa na pb nb => exact (h.predWord _ _ _ _ _ _ _ : Keeps (execPor m p pa na pb nb s))
  | pxor m p pa na pb nb => exact (h.predWord _ _ _ _ _ _ _ : Keeps (execPxor m p pa na pb nb s))
  | sel m d a b neg p => exact (h.sWord _ _ (fun v => h.retireS _ _ _ _) : Keeps (execSel m d a b neg p s))
  | br m neg p off =>
    show Keeps (execBr m neg p off s)
    exact h.sWord _ _ (fun v => .ite (h.transferS _ _ _ _) (h.jumpS _ _ _ _))
  | call m neg p off =>
    show Keeps (execCall m neg p off s)
    exact h.sWord _ _ (fun v => .ite (h.transferS _ _ _ _) (h.jumpS _ _ _ _))
  | jr m a => exact (h.sWord _ _ (fun v => h.transferS _ _ _ _) : Keeps (execJr m a s))
  | callr m a => exact (h.sWord _ _ (fun v => h.transferS _ _ _ _) : Keeps (execCallr m a s))
  | ret m => exact (h.sWord _ _ (fun v => h.transferS _ _ _ _) : Keeps (execRet m s))
  | loop _ _ _ => exact h.execLoop _ _ _
  | lk m k a => exact (h.sWord _ _ (fun v => h.retireS _ _ _ _) : Keeps (execLk m k a s))
  | lq _ _ _ => exact h.execLq _ _ _
  | lqw m => exact (h.sWord _ _ (fun v => .ite (.next (h.setUnit _)) (h.parkAt _ _ _)) : Keeps (execLqw m s))
  | rdmb m d n => exact (h.sWord _ _ (fun v => .next (h.issuePend _ _ _ _ _)) : Keeps (execRdmb m d n s))
  | rsr _ _ _ => exact h.execRsr _ _ _
  | wsr _ _ _ => exact h.execWsr _ _ _
  | ldp m d a ty o sc rb off => exact (h.loadS _ _ _ _ _ _ _ _ : Keeps (execLdp m d a ty o sc rb off s))
  | stp m d a ty o sc ef off => exact (h.storeS _ _ _ _ _ _ _ _ _ : Keeps (execStp m d a ty o sc ef off s))
  | ldg m d a ty o sc rb off => exact (h.loadS _ _ _ _ _ _ _ _ : Keeps (execLdg m d a ty o sc rb off s))
  | stg m d a ty o sc ef off => exact (h.storeS _ _ _ _ _ _ _ _ _ : Keeps (execStg m d a ty o sc ef off s))
  | ldh m d a ty o sc rb off => exact (h.loadS _ _ _ _ _ _ _ _ : Keeps (execLdh m d a ty o sc rb off s))
  | sth m d a ty o sc ef off => exact (h.storeS _ _ _ _ _ _ _ _ _ : Keeps (execSth m d a ty o sc ef off s))
  | atom _ _ _ _ _ _ _ _ => exact h.execAtom _ _ _ _ _ _ _ _
  | fence m o sc => exact (h.sWord _ _ (fun v => h.fenceW _ _ _ _ _) : Keeps (execFence m o sc s))
  | barArrive m a o sc => exact (h.sWord _ _ (fun v => h.arriveW _ _ _ _ _ _ _ _) : Keeps (execBarArrive m a o sc s))
  | barWait m o sc => exact (h.sWord _ _ (fun v => h.waitW _ _ _ _ _) : Keeps (execBarWait m o sc s))
  | nbarArrive m n a o sc =>
    show Keeps (execNbarArrive m n a o sc s)
    exact h.sWord _ _ (fun v => h.arriveW _ _ _ _ _ _ _ _)
  | nbarWait m n o sc => exact (h.sWord _ _ (fun v => h.waitW _ _ _ _ _) : Keeps (execNbarWait m n o sc s))
  | dbarArrive m a o sc =>
    show Keeps (execDbarArrive m a o sc s)
    exact h.sWord _ _ (fun v => h.arriveW _ _ _ _ _ _ _ _)
  | dbarWait m o sc => exact (h.sWord _ _ (fun v => h.waitW _ _ _ _ _) : Keeps (execDbarWait m o sc s))
  | mon _ _ => exact h.execMon _ _
  | mwait _ _ => exact h.execMwait _ _
  | monitorTimeout _ => exact h.execMonitorTimeout _
  | hgive _ _ _ => exact h.execHgive _ _ _
  | htake _ _ _ => exact h.execHtake _ _ _
  | tlw _ _ _ => exact h.execTlw _ _ _
  | tls _ _ _ => exact h.execTls _ _ _
  | tlr _ _ _ => exact h.execTlr _ _ _
  | tsnOff m => exact (h.setTsn _ _ : Keeps (execTsnOff m s))
  | tsnLog m => exact (h.setTsn _ _ : Keeps (execTsnLog m s))
  | tsnTrap m => exact (h.setTsn _ _ : Keeps (execTsnTrap m s))
  | cp m dir a b c => exact (h.copyWord _ _ _ _ _ _ _ _ : Keeps (execCp m dir a b c s))
  | cp2 m dir a b c => exact (h.copyWord _ _ _ _ _ _ _ _ : Keeps (execCp2 m dir a b c s))
  | cp3 m dir a b c => exact (h.copyWord _ _ _ _ _ _ _ _ : Keeps (execCp3 m dir a b c s))
  | cpsc m g a b c => exact (h.copyWord _ _ _ _ _ _ _ _ : Keeps (execCpsc m g a b c s))
  | cpm _ _ _ _ => exact h.execCpm _ _ _ _
  | cpmCreditTake _ => exact h.execCpmCreditTake _
  | cbat _ _ => exact h.execCbat _ _
  | cwait _ _ => exact h.execCwait _ _
  | launch _ _ _ => exact h.execLaunch _ _ _
  | wtake _ _ _ _ => exact h.execWtake _ _ _ _
  | qsnc _ => exact h.execQsnc _
  | quiescenceReport _ => exact h.execQuiescenceReport _
  | collAr m a c => exact (h.collWord _ _ _ _ : Keeps (execCollAr m a c s))
  | collRs m a c => exact (h.collWord _ _ _ _ : Keeps (execCollRs m a c s))
  | collAg m a c => exact (h.collWord _ _ _ _ : Keeps (execCollAg m a c s))
  | collBc m a c => exact (h.collWord _ _ _ _ : Keeps (execCollBc m a c s))
  | collAa m a c => exact (h.collWord _ _ _ _ : Keeps (execCollAa m a c s))
  | collectiveComplete _ _ => exact h.execCollectiveComplete _ _
  | mma m t a b c => exact (h.mxWord _ _ (fun v => h.failGate _ _ _ (h.mxIssue _ _ _)) : Keeps (execMma m t a b c s))
  | mzero m t => exact (h.mxWord _ _ (fun v => h.mxIssue _ _ _) : Keeps (execMzero m t s))
  | mdrn _ _ _ _ _ => exact h.execMdrn _ _ _ _ _
  | mspl m t a b c =>
    show Keeps (execMspl m t a b c s)
    exact h.mxWord _ _ (fun v => h.failGate _ _ _ (h.mxIssue _ _ _))
  | mrowMig _ _ _ => exact h.execMrowMig _ _ _
  | mrowReg _ _ => exact h.execMrowReg _ _
  | mage m halve a b => exact (h.tabWord _ _ _ _ (fun v x => h.mxIssue _ _ _) : Keeps (execMage m halve a b s))
  | mchkRd m t c => exact (h.mxWord _ _ fun u => h.mxAwait _ _ _ _ _ fun r hr => hr : Keeps (execMchkRd m t c s))
  | mchkClr m t => exact (h.mxWord _ _ (fun v => h.mxIssue _ _ _) : Keeps (execMchkClr m t s))
  | mchkInj m t a => exact (h.mxWord _ _ (fun v => h.mxIssue _ _ _) : Keeps (execMchkInj m t a s))
  | msl m a b c => exact (h.mxWord _ _ (fun v => h.failGate _ _ _ (h.mxIssue _ _ _)) : Keeps (execMsl m a b c s))
  | matrixWordPerform _ => exact h.execMatrixWordPerform _
  | reservationGrant _ _ => exact h.execReservationGrant _ _
  | trap m code => exact (h.sWord _ _ (fun v => h.takeTrap _ _ _ _ _ _ _) : Keeps (execTrap m code s))
  | rft m => exact (h.sWord _ _ (fun v => h.returnFromTrap _) : Keeps (execRft m s))
  | brk m imm =>
    show Keeps (execBrk m imm s)
    exact h.sWord _ _ (fun v => .next (.ite (h.stopAt _ _ _) (h.setUnit _)))
  | yield m => exact (h.sWord _ _ fun u => .next (h.setUnit _).frame : Keeps (execYield m s))
  | exit m => exact h.execExit m
  | nop m => exact (h.sWord _ _ (fun v => h.retireS _ _ _ _) : Keeps (execNop m s))
  | rand _ _ => exact h.execRand _ _
  | fixedResultWrite _ _ => exact h.execFixedResultWrite _ _
  | variableResultArrive _ _ => exact h.execVariableResultArrive _ _
  | laneAddF w => exact (h.floatWord _ _ _ _ _ : Keeps (execLaneAddF w s))
  | laneSubF w => exact (h.floatWord _ _ _ _ _ : Keeps (execLaneSubF w s))
  | laneMulF w => exact (h.floatWord _ _ _ _ _ : Keeps (execLaneMulF w s))
  | laneFma w => exact (h.floatWord _ _ _ _ _ : Keeps (execLaneFma w s))
  | laneFms w => exact (h.floatWord _ _ _ _ _ : Keeps (execLaneFms w s))
  | laneFnma w => exact (h.floatWord _ _ _ _ _ : Keeps (execLaneFnma w s))
  | laneMinF w => exact (h.floatWord _ _ _ _ _ : Keeps (execLaneMinF w s))
  | laneMaxF w => exact (h.floatWord _ _ _ _ _ : Keeps (execLaneMaxF w s))
  | laneMinp w => exact (h.floatWord _ _ _ _ _ : Keeps (execLaneMinp w s))
  | laneMaxp w => exact (h.floatWord _ _ _ _ _ : Keeps (execLaneMaxp w s))
  | laneAbsF w => exact (h.floatWord _ _ _ _ _ : Keeps (execLaneAbsF w s))
  | laneNegF w => exact (h.floatWord _ _ _ _ _ : Keeps (execLaneNegF w s))
  | laneCmpF w => exact (h.floatTest _ _ _ _ _ : Keeps (execLaneCmpF w s))
  | laneClamp w => exact (h.floatWord _ _ _ _ _ : Keeps (execLaneClamp w s))
  | laneCsgn w => exact (h.floatWord _ _ _ _ _ : Keeps (execLaneCsgn w s))
  | laneDot2 _ => exact h.execLaneDot2 _
  | laneFcls w => exact (h.floatTest _ _ _ _ _ : Keeps (execLaneFcls w s))
  | laneRint w => exact (h.floatWord _ _ _ _ _ : Keeps (execLaneRint w s))
  | laneAddF64 w => exact (h.floatWord _ _ _ _ _ : Keeps (execLaneAddF64 w s))
  | laneSubF64 w => exact (h.floatWord _ _ _ _ _ : Keeps (execLaneSubF64 w s))
  | laneMulF64 w => exact (h.floatWord _ _ _ _ _ : Keeps (execLaneMulF64 w s))
  | laneFmaF64 w => exact (h.floatWord _ _ _ _ _ : Keeps (execLaneFmaF64 w s))
  | laneMinF64 w => exact (h.floatWord _ _ _ _ _ : Keeps (execLaneMinF64 w s))
  | laneMaxF64 w => exact (h.floatWord _ _ _ _ _ : Keeps (execLaneMaxF64 w s))
  | laneCmpF64 w => exact (h.floatTest _ _ _ _ _ : Keeps (execLaneCmpF64 w s))
  | laneDivF64 w => exact (h.floatWord _ _ _ _ _ : Keeps (execLaneDivF64 w s))
  | laneSqrtF64 w => exact (h.floatWord _ _ _ _ _ : Keeps (execLaneSqrtF64 w s))
  | laneRcp w => exact (h.floatWord _ _ _ _ _ : Keeps (execLaneRcp w s))
  | laneRsqrt w => exact (h.floatWord _ _ _ _ _ : Keeps (execLaneRsqrt w s))
  | laneSqrt w => exact (h.floatWord _ _ _ _ _ : Keeps (execLaneSqrt w s))
  | laneEx2 w => exact (h.floatWord _ _ _ _ _ : Keeps (execLaneEx2 w s))
  | laneLg2 w => exact (h.floatWord _ _ _ _ _ : Keeps (execLaneLg2 w s))
  | laneSin w => exact (h.floatWord _ _ _ _ _ : Keeps (execLaneSin w s))
  | laneCos w => exact (h.floatWord _ _ _ _ _ : Keeps (execLaneCos w s))
  | laneTanh w => exact (h.floatWord _ _ _ _ _ : Keeps (execLaneTanh w s))
  | laneDivF32 w => exact (h.floatWord _ _ _ _ _ : Keeps (execLaneDivF32 w s))
  | laneAddI w => exact (h.intWord _ _ _ _ : Keeps (execLaneAddI w s))
  | laneSubI w => exact (h.intWord _ _ _ _ : Keeps (execLaneSubI w s))
  | laneMulI w => exact (h.intWord _ _ _ _ : Keeps (execLaneMulI w s))
  | laneMulhi w => exact (h.intWord _ _ _ _ : Keeps (execLaneMulhi w s))
  | laneMad w => exact (h.intWord _ _ _ _ : Keeps (execLaneMad w s))
  | laneMinI w => exact (h.intWord _ _ _ _ : Keeps (execLaneMinI w s))
  | laneMaxI w => exact (h.intWord _ _ _ _ : Keeps (execLaneMaxI w s))
  | laneAnd w => exact (h.intWord _ _ _ _ : Keeps (execLaneAnd w s))
  | laneOr w => exact (h.intWord _ _ _ _ : Keeps (execLaneOr w s))
  | laneXor w => exact (h.intWord _ _ _ _ : Keeps (execLaneXor w s))
  | laneAndn w => exact (h.intWord _ _ _ _ : Keeps (execLaneAndn w s))
  | laneShl w => exact (h.intWord _ _ _ _ : Keeps (execLaneShl w s))
  | laneShr w => exact (h.intWord _ _ _ _ : Keeps (execLaneShr w s))
  | laneCmpI w => exact (h.laneWord _ _ _ (fun v x x1 => h.writeMask _ _ _ _ _ _ _ _) : Keeps (execLaneCmpI w s))
  | lanePopc w => exact (h.intWord _ _ _ _ : Keeps (execLanePopc w s))
  | laneClz w => exact (h.intWord _ _ _ _ : Keeps (execLaneClz w s))
  | laneCtz w => exact (h.intWord _ _ _ _ : Keeps (execLaneCtz w s))
  | laneBrev w => exact (h.intWord _ _ _ _ : Keeps (execLaneBrev w s))
  | laneAbsI w => exact (h.intWord _ _ _ _ : Keeps (execLaneAbsI w s))
  | laneNegI w => exact (h.intWord _ _ _ _ : Keeps (execLaneNegI w s))
  | laneBdot w => exact (h.laneWord _ _ _ (fun v x x1 => h.writeLane _ _ _ _ _ _ _ _ _) : Keeps (execLaneBdot w s))
  | laneCvt w => exact (h.convWord _ _ : Keeps (execLaneCvt w s))
  | lanePack _ => exact h.execLanePack _
  | laneUnpk w => exact (h.convWord _ _ : Keeps (execLaneUnpk w s))
  | laneScl _ => exact h.execLaneScl _
  | laneMov w => exact (h.laneWord _ _ _ (fun v x x1 => h.writeLane _ _ _ _ _ _ _ _ _) : Keeps (execLaneMov w s))
  | laneSel w => exact (h.laneWord _ _ _ (fun v x x1 => h.writeLane _ _ _ _ _ _ _ _ _) : Keeps (execLaneSel w s))
  | laneLsw _ => exact h.execLaneLsw _
  | lanePoll _ => exact h.execLanePoll _
  | laneRed _ => exact h.execLaneRed _
  | laneBsel w => exact (h.laneWord _ _ _ (fun v x x1 => h.writeLane _ _ _ _ _ _ _ _ _) : Keeps (execLaneBsel w s))
  | laneScan _ => exact h.execLaneScan _
  | qand w => exact (h.maskWord _ _ : Keeps (execQand w s))
  | qor w => exact (h.maskWord _ _ : Keeps (execQor w s))
  | qxor w => exact (h.maskWord _ _ : Keeps (execQxor w s))
  | qandn w => exact (h.maskWord _ _ : Keeps (execQandn w s))
  | qmov w => exact (h.laneWord _ _ _ (fun v x x1 => h.writeMask _ _ _ _ _ _ _ _) : Keeps (execQmov w s))
  | qcnt w => exact (h.laneWord _ _ _ (fun v x x1 => h.writeLane _ _ _ _ _ _ _ _ _) : Keeps (execQcnt w s))
  | emwr w => exact (h.laneWord _ _ _ (fun v x x1 => h.retireL _ _ _ _ _ _) : Keeps (execEmwr w s))
  | lbr _ => exact h.execLbr _
  | ljoin _ => exact h.execLjoin _
  | lend _ => exact h.execLend _
  | lbrk _ => exact h.execLbrk _
  | ljmp _ => exact h.execLjmp _
  | laneLdp w => exact (h.loadL _ _ : Keeps (execLaneLdp w s))
  | laneStp w => exact (h.storeL _ _ : Keeps (execLaneStp w s))
  | laneLdg w => exact (h.loadL _ _ : Keeps (execLaneLdg w s))
  | laneStg w => exact (h.storeL _ _ : Keeps (execLaneStg w s))
  | laneLdh w => exact (h.loadL _ _ : Keeps (execLaneLdh w s))
  | laneSth w => exact (h.storeL _ _ : Keeps (execLaneSth w s))
  | laneAtom _ => exact h.execLaneAtom _
  | laneFence w => exact (h.laneSync _ _ _ (fun v x x1 => h.fenceW _ _ _ _ _) : Keeps (execLaneFence w s))
  | laneBarArrive w =>
    show Keeps (execLaneBarArrive w s)
    exact h.laneBar _ _ _ (fun v x x1 => h.arriveW _ _ _ _ _ _ _ _)
  | laneBarWait w => exact (h.laneBar _ _ _ (fun v x x1 => h.waitW _ _ _ _ _) : Keeps (execLaneBarWait w s))
  | laneNbarArrive w =>
    show Keeps (execLaneNbarArrive w s)
    exact h.laneBar _ _ _ (fun v x x1 => h.arriveW _ _ _ _ _ _ _ _)
  | laneNbarWait w => exact (h.laneBar _ _ _ (fun v x x1 => h.waitW _ _ _ _ _) : Keeps (execLaneNbarWait w s))
  | xreqReserve _ => exact h.execXreqReserve _
  | xreqRelease _ => exact h.execXreqRelease _
  | xfeed _ => exact h.execXfeed _
  | xread _ => exact h.execXread _
  | wapp _ => exact h.execWapp _
  | impreciseTrapTake _ => exact h.execImpreciseTrapTake _
  | homeWriteSerialize _ => exact h.execHomeWriteSerialize _
  | remoteAtomicPerform _ => exact h.execRemoteAtomicPerform _
  | ackArrive _ => exact h.execAckArrive _
  | ackRetransmitTimeout _ => exact h.execAckRetransmitTimeout _
  | poisonNotice _ => exact h.execPoisonNotice _
  | sramUncorrectable _ => exact h.execSramUncorrectable _
  | registerUncorrectable _ => exact h.execRegisterUncorrectable _
  | patrolScrub corrected => exact (.next h.frame : Keeps (execPatrolScrub corrected s))
  | bargeChunkMove _ => exact h.execBargeChunkMove _
  | copyComplete _ => exact h.execCopyComplete _
  | pageWalkComplete _ => exact h.execPageWalkComplete _
  | invalidationComplete _ => exact h.execInvalidationComplete _
  | refreshMgmtIssue stack channel bank =>
    show Keeps (execRefreshMgmtIssue stack channel bank s)
    exact .next (.ite (h.lowerBank _) h)
  | stackCriticalTemp stack => exact (.next h.frame : Keeps (execStackCriticalTemp stack s))
  | stackThermalClear stack => exact (.next h.frame : Keeps (execStackThermalClear stack s))
  | pageEvacuationInstant _ _ _ _ => exact h.execPageEvacuationInstant _ _ _ _
  | evacuationEnd _ => exact h.execEvacuationEnd _
  | qtailWrite _ _ => exact h.execQtailWrite _ _
  | qstatWrite _ _ => exact h.execQstatWrite _ _
  | doorbellOtherWrite t off v => exact (.next h : Keeps (execDoorbellOtherWrite t off v s))
  | queuePacketTake _ => exact h.execQueuePacketTake _
  | gridStart _ => exact h.execGridStart _
  | teamPlace _ => exact h.execTeamPlace _
  | ladingStage _ => exact h.execLadingStage _
  | gridRetire _ => exact h.execGridRetire _
  | deadlineMiss _ => exact h.execDeadlineMiss _
  | deadlinePreemptRequest _ => exact h.execDeadlinePreemptRequest _
  | preemptTimerExpire _ => exact h.execPreemptTimerExpire _
  | evictTeam _ => exact h.execEvictTeam _
  | teamReadmit _ => exact h.execTeamReadmit _
  | contextResetDone ctx => exact (.next h.frame : Keeps (execContextResetDone ctx s))
  | waitForWalk => exact h.execWaitForWalk
  | replicaCompare set => exact (.ite (.next (h.compareSet _ _)) (.next h) : Keeps (execReplicaCompare set s))
  | compareTimeout set => exact (.ite (.next (h.compareSet _ _)) (.next h) : Keeps (execCompareTimeout set s))
  | outvoteComplete _ => exact h.execOutvoteComplete _
  | hostMemRead _ _ _ => exact h.execHostMemRead _ _ _
  | hostMemWrite _ _ _ _ => exact h.execHostMemWrite _ _ _ _
  | bisnpResponse _ _ => exact h.execBisnpResponse _ _
  | bisnpTimeout _ => exact h.execBisnpTimeout _
  | hostLinkDown _ => exact h.execHostLinkDown _
  | hostLdReset t => exact (.next (h.hostCrash _) : Keeps (execHostLdReset t s))
  | hostLinkUp _ => exact h.execHostLinkUp _
  | memoryActiveSet t => exact (.next h.frame : Keeps (execMemoryActiveSet t s))
  | globalPersistentFlush t => exact (.next h.frame : Keeps (execGlobalPersistentFlush t s))
  | ptmRequest _ => exact h.execPtmRequest _
  | compressedPageExpand t page => exact (.next (h.expandPage _ _) : Keeps (execCompressedPageExpand t page s))
  | tsiAgeingPeriod => exact h.execTsiAgeingPeriod
  | pageMigrationInstant _ _ => exact h.execPageMigrationInstant _ _
  | ptpEventMessage _ => exact h.execPtpEventMessage _
  | timeSourceLost => exact (.next h.frame : Keeps (execTimeSourceLost s))
  | ingressRecord _ _ _ => exact h.execIngressRecord _ _ _
  | fabricPacketReceive _ _ _ _ => exact h.execFabricPacketReceive _ _ _ _
  | linkDead _ => exact h.execLinkDead _
  | checkpointBlock => exact h.execCheckpointBlock
  | checkpointEnd => exact h.execCheckpointEnd
  | safeTierPathLoss => exact h.execSafeTierPathLoss
  | pulsePatternWrite _ _ => exact h.execPulsePatternWrite _ _
  | patternRampStep _ => exact h.execPatternRampStep _
  | droopDetect _ => exact h.execDroopDetect _
  | droopFreezeEnd _ => exact h.execDroopFreezeEnd _
  | currentComparatorTrip _ => exact h.execCurrentComparatorTrip _
  | thermalTrip1 die => exact (.ite (.next (h.throttle _).frame) (.next h) : Keeps (execThermalTrip1 die s))
  | thermalTrip1Clear die => exact (.next h.frame : Keeps (execThermalTrip1Clear die s))
  | thermalTrip2 _ => exact h.execThermalTrip2 _
  | powerWatchdogExpire => exact (.ite (.next (h.throttle _).frame) (.next h) : Keeps (execPowerWatchdogExpire s))
  | modulePowerUp => exact (.ite (.next h) (.next (State.inv_colded s).frame) : Keeps (execModulePowerUp s))
  | tsiSupplyCycle => exact (.next h.tsiReset : Keeps (execTsiSupplyCycle s))
  | tenantCreate by_ t size queues port =>
    show Keeps (execTenantCreate by_ t size queues port s)
    exact h.ownerOnly _ _ (h.okIf _ (h.setTenant _ _))
  | tenantWithdraw _ _ _ => exact h.execTenantWithdraw _ _ _
  | loadKey _ _ _ => exact h.execLoadKey _ _ _
  | setSysatMark by_ t first last mark =>
    show Keeps (execSetSysatMark by_ t first last mark s)
    exact h.onTenant _ _ _ (fun x => h.okIf _ (h.setTenant _ _))
  | readTenantMap by_ t first count =>
    show Keeps (execReadTenantMap by_ t first count s)
    exact h.onTenant _ _ _ (fun x => .ite (h.reply _ _) h.invalid)
  | setAgeing by_ periodUs hot cold =>
    show Keeps (execSetAgeing by_ periodUs hot cold s)
    exact h.ownerOnly _ _ (h.okIf _ h.frame)
  | declareHostCrashed by_ t =>
    show Keeps (execDeclareHostCrashed by_ t s)
    exact h.ownerOnly _ _ (h.onTenant _ _ _ (fun x => (h.hostCrash _).ok))
  | contextCreate _ _ _ => exact h.execContextCreate _ _ _
  | contextDestroy by_ ctx =>
    show Keeps (execContextDestroy by_ ctx s)
    exact h.onCtx _ _ _ (fun x => (h.destroyCtx _).ok)
  | setPageTableRoot by_ ctx root =>
    show Keeps (execSetPageTableRoot by_ ctx root s)
    exact h.onCtx _ _ _ (fun x => h.okIf _ (h.setCtx _ _))
  | invalidateRange by_ ctx first last =>
    show Keeps (execInvalidateRange by_ ctx first last s)
    exact h.onCtx _ _ _ (fun x => h.okIf _ (h.beginInval _ _ _ _))
  | mapLentRange by_ ctx dva addr len wr =>
    show Keeps (execMapLentRange by_ ctx dva addr len wr s)
    exact h.onCtx _ _ _ (fun x => h.okIf _ (h.setCtx _ _))
  | queueCreate _ _ _ => exact h.execQueueCreate _ _ _
  | queueDestroy _ _ => exact h.execQueueDestroy _ _
  | allocateTimelines by_ ctx first count engine =>
    show Keeps (execAllocateTimelines by_ ctx first count engine s)
    exact h.onCtx _ _ _ (fun x => h.okIf _ (h.setCtx _ _))
  | createWorkList by_ ctx list base k die wide =>
    show Keeps (execCreateWorkList by_ ctx list base k die wide s)
    exact h.onCtx _ _ _ (fun x => h.okIf _ (h.setCtx _ _))
  | defineCollectiveGroup by_ ctx group members =>
    show Keeps (execDefineCollectiveGroup by_ ctx group members s)
    exact h.onCtx _ _ _ (fun x => h.okIf _ (h.setCtx _ _))
  | setSupervisorHandler _ _ _ => exact h.execSetSupervisorHandler _ _ _
  | setTrapSaveArea by_ ctx off =>
    show Keeps (execSetTrapSaveArea by_ ctx off s)
    exact h.onCtx _ _ _ (fun x => h.okIf _ (h.setCtx _ _))
  | setShadowArea by_ ctx core off size =>
    show Keeps (execSetShadowArea by_ ctx core off size s)
    exact h.onCtx _ _ _ (fun x => h.okIf _ (h.setCtx _ _))
  | setFaultLog by_ ctx dva k =>
    show Keeps (execSetFaultLog by_ ctx dva k s)
    exact h.onCtx _ _ _ (fun x => h.okIf _ (h.setCtx _ _))
  | setEvictionSaveArea by_ ctx dva =>
    show Keeps (execSetEvictionSaveArea by_ ctx dva s)
    exact h.onCtx _ _ _ (fun x => h.okIf _ (h.setCtx _ _))
  | touchstoneEnable by_ ctx mode =>
    show Keeps (execTouchstoneEnable by_ ctx mode s)
    exact h.onCtx _ _ _ (fun x => h.okIf _ (h.setCtx _ _))
  | debugAttach by_ ctx => exact (h.onCtx _ _ _ (fun x => (h.setCtx _ _).ok) : Keeps (execDebugAttach by_ ctx s))
  | debugDetach _ _ => exact h.execDebugDetach _ _
  | debugResume _ => exact h.execDebugResume _
  | aqueductHold by_ ctx a b => exact (h.onDebug _ _ _ (h.okIf _ h.frame) : Keeps (execAqueductHold by_ ctx a b s))
  | aqueductUnhold by_ ctx a b =>
    show Keeps (execAqueductUnhold by_ ctx a b s)
    exact h.onDebug _ _ _ (h.okIf _ h.frame.sendOut)
  | injectAckloss by_ ctx die sector =>
    show Keeps (execInjectAckloss by_ ctx die sector s)
    exact h.onDebug _ _ _ (h.okIf _ h.frame)
  | replicaFlip _ _ _ _ _ => exact h.execReplicaFlip _ _ _ _ _
  | resetContext by_ ctx => exact (h.onCtx _ _ _ (fun x => (h.resetWith _ _).ok) : Keeps (execResetContext by_ ctx s))
  | clearPoison _ _ _ => exact h.execClearPoison _ _ _
  | setWindowEntry _ _ => exact h.execSetWindowEntry _ _
  | clearWindowEntry _ _ _ => exact h.execClearWindowEntry _ _ _
  | requestPreemption _ _ _ => exact h.execRequestPreemption _ _ _
  | releasePreemption by_ ctx =>
    show Keeps (execReleasePreemption by_ ctx s)
    exact h.ownerOnly _ _ (h.onCtx _ _ _ (fun x => h.frame.ok))
  | setCoreBudget by_ v => exact (h.setting _ _ _ : Keeps (execSetCoreBudget by_ v s))
  | setPreemptTimeout by_ v => exact (h.setting _ _ _ : Keeps (execSetPreemptTimeout by_ v s))
  | setEvictionThreshold by_ v => exact (h.setting _ _ _ : Keeps (execSetEvictionThreshold by_ v s))
  | setCompareTimeout by_ v => exact (h.setting _ _ _ : Keeps (execSetCompareTimeout by_ v s))
  | setActivationLevel by_ v => exact (h.setting _ _ _ : Keeps (execSetActivationLevel by_ v s))
  | takeDieOffline by_ die =>
    show Keeps (execTakeDieOffline by_ die s)
    exact h.ownerOnly _ _ (Keeps.ite h.busy (h.okIf _ (h.frame.evacLent _)))
  | selectTimeSource by_ src => exact (h.ownerOnly _ _ (h.okIf _ h.frame) : Keeps (execSelectTimeSource by_ src s))
  | createIngressChannel _ _ _ => exact h.execCreateIngressChannel _ _ _
  | ingressChannelStatus _ _ => exact h.execIngressChannelStatus _ _
  | checkpoint by_ tier =>
    show Keeps (execCheckpoint by_ tier s)
    exact h.ownerOnly _ _ (Keeps.ite h.busy (.ite (h.frame.reply _ _) h.invalid))
  | warmReset by_ force => exact (h.ownerOnly _ _ h.warmed.ok : Keeps (execWarmReset by_ force s))
  | coldReset by_ force => exact (h.ownerOnly _ _ (h.okIf _ (State.inv_colded s)) : Keeps (execColdReset by_ force s))
  | tsiIslandReset by_ force => exact (h.ownerOnly _ _ (h.okIf _ h.tsiReset) : Keeps (execTsiIslandReset by_ force s))
  | forcedReset by_ => exact (h.ownerOnly _ _ (State.inv_colded s).ok : Keeps (execForcedReset by_ s))
  | lifecycleTransition by_ next tokenOk =>
    show Keeps (execLifecycleTransition by_ next tokenOk s)
    exact h.ownerOnly _ _ (h.okIf _ (State.inv_colded s).frame)
  | mgmtUnlistedOpcode by_ op => exact h.execMgmtUnlistedOpcode by_ op
  | illegalInstruction code bit word =>
    show Keeps (execIllegalInstruction code bit word s)
    exact h.withUnit _ (fun v => h.takeTrap _ _ _ _ _ _ _)
  | bankRefresh stack channel bank => exact (.next (h.lowerBank _) : Keeps (execBankRefresh stack channel bank s))
  | powerWatchdogRefresh => exact (.next h.frame : Keeps (execPowerWatchdogRefresh s))
  | hdmDecoderCommit _ _ _ => exact h.execHdmDecoderCommit _ _ _
  | aqueductPathDown a b k => exact (.next h.frame : Keeps (execAqueductPathDown a b k s))

/-- A step keeps the invariant: what it plans is run on a machine that meets it. -/
theorem State.Inv.step {s t : State} (h : s.Inv) (ht : step s = .next t) : t.Inv := by
  have hp := h.plan
  unfold Machine.step at ht
  generalize Machine.plan s = p at ht hp
  obtain ⟨r, go⟩ := p
  cases go with
  | pass => cases ht; exact hp
  | run i c =>
    dsimp only at ht hp
    split at ht
    next q hq =>
      cases ht
      exact (hp.unparked.exec i q hq).settle c
    · cases ht
    · cases ht

end Sys2Proof.Machine

section
open Sys2Proof Sys2Proof.Machine

/-- Settles O58: each step is planned, run and settled, and each of the three keeps the invariant. -/
theorem stepInvariant : Obligations.StepInvariant := by
  unfold Obligations.StepInvariant
  intro s t h ht
  exact h.step ht

end

namespace Sys2Proof.Machine

/-! ## What a result in flight writes

The rules of `Unit.land` and of what is built on it: what each register reads after results have been written, and what they
leave alone. -/

@[simp] theorem Unit.setSlot_sS (u : Unit) (i : Bool) (x : Slot) : (u.setSlot i x).sS = u.sS := by cases i <;> rfl
@[simp] theorem Unit.setSlot_v (u : Unit) (i : Bool) (x : Slot) : (u.setSlot i x).lS.v = u.lS.v := by cases i <;> rfl
@[simp] theorem Unit.setSlot_q (u : Unit) (i : Bool) (x : Slot) : (u.setSlot i x).lS.q = u.lS.q := by cases i <;> rfl

theorem Unit.setSlot_slot (u : Unit) (i : Bool) : u.setSlot i (u.slot i) = u := by cases i <;> rfl

/-- `v` is `u` but for what one path slot keeps for the other. -/
def Unit.NotesOnly (u v : Unit) : Prop :=
  ∃ k a b c d, v = u.setSlot k { u.slot k with hist := a, histQ := b, shade := c, shadeQ := d }

theorem Unit.NotesOnly.refl (u : Unit) : u.NotesOnly u := ⟨false, _, _, _, _, (u.setSlot_slot false).symm⟩

theorem Unit.NotesOnly.ite {c : Prop} [Decidable c] {u v w : Unit} (hv : u.NotesOnly v) (hw : u.NotesOnly w) :
    u.NotesOnly (if c then v else w) := by
  split <;> assumption

/-- What is kept for the other slot when a result is written stands in the slots' own lists, and nowhere else. -/
theorem Unit.notesOnly_noted (u : Unit) (i : Bool) (f : Fly) : u.NotesOnly (u.noted i f) := by
  unfold Unit.noted
  split
  · exact .ite (.ite ⟨i, _, _, _, _, rfl⟩ (.refl u)) (.ite ⟨!i, _, _, _, _, rfl⟩ (.refl u))
  · exact .ite (.ite ⟨i, _, _, _, _, rfl⟩ (.refl u)) (.ite ⟨!i, _, _, _, _, rfl⟩ (.refl u))
  · exact .refl u

@[simp] theorem Unit.noted_sS (u : Unit) (i : Bool) (f : Fly) : (u.noted i f).sS = u.sS := by
  obtain ⟨k, a, b, c, d, h⟩ := u.notesOnly_noted i f
  simp [h]

@[simp] theorem Unit.noted_v (u : Unit) (i : Bool) (f : Fly) : (u.noted i f).lS.v = u.lS.v := by
  obtain ⟨k, a, b, c, d, h⟩ := u.notesOnly_noted i f
  simp [h]

@[simp] theorem Unit.noted_q (u : Unit) (i : Bool) (f : Fly) : (u.noted i f).lS.q = u.lS.q := by
  obtain ⟨k, a, b, c, d, h⟩ := u.notesOnly_noted i f
  simp [h]

@[simp] theorem Unit.noted_em (u : Unit) (i j : Bool) (f : Fly) : ((u.noted i f).slot j).em = (u.slot j).em := by
  obtain ⟨k, a, b, c, d, h⟩ := u.notesOnly_noted i f
  rw [h, Unit.slot_setSlot]
  split
  · subst j; rfl
  · rfl

theorem Unit.rs_congr {u v : Unit} (h : v.sS = u.sS) (d : SReg) : v.rs d = u.rs d := by unfold Unit.rs; rw [h]
theorem Unit.rp_congr {u v : Unit} (h : v.sS = u.sS) (p : PReg) : v.rp p = u.rp p := by unfold Unit.rp; rw [h]
theorem Unit.rv_congr {u v : Unit} (h : v.lS.v = u.lS.v) (r l : Nat) : v.rv r l = u.rv r l := by unfold Unit.rv; rw [h]
theorem Unit.rq_congr {u v : Unit} (h : v.lS.q = u.lS.q) (q : BitVec 3) : v.rq q = u.rq q := by unfold Unit.rq; rw [h]

theorem Unit.slot_congr {u v : Unit} (h : v.lS = u.lS) (i : Bool) : v.slot i = u.slot i := by unfold Unit.slot; rw [h]

/-! What a single result makes of a register that held `a`. -/

/-- `s`d. -/
def FRes.onS (d : SReg) (a : Word) (f : FRes) : Word := match f with | .s r x => if r = d then x else a | _ => a
/-- `p`d. -/
def FRes.onP (d : PReg) (a : Bool) (f : FRes) : Bool := match f with | .p r x => if r = d then x else a | _ => a
/-- The staging register `n`. -/
def FRes.onKst (n : BitVec 2) (a : Word) (f : FRes) : Word := match f with | .kst r x => if r = n then x else a | _ => a
/-- Lane `l` of `v`r. -/
def FRes.onV (r l : Nat) (a : Half) (f : FRes) : Half :=
  match f with | .v d m x => if r = d ∧ m.getLsbD l = true then x.getD l a else a | _ => a
/-- Bit `l` of `q`q. -/
def FRes.onQ (q : BitVec 3) (l : Nat) (a : Bool) (f : FRes) : Bool :=
  match f with | .q d m x => if d = q ∧ m.getLsbD l = true then x.getLsbD l else a | _ => a
/-- The exec mask of the slot. -/
def FRes.onEm (a : Mask) (f : FRes) : Mask := match f with | .em k => a &&& k | _ => a

theorem vkey_inj {r l d k : Nat} (hl : l < 32) (hk : k < 32) : vkey r l = vkey d k ↔ r = d ∧ l = k := by
  unfold vkey; omega

/-- What a lane reads after one lane was written. -/
theorem get_wvLane (m : SMap Half) (d k : Nat) (mask : Mask) (x : Half) (r l : Nat) (hl : l < 32) :
    SMap.get 0 (if mask.getLsbD k then SMap.set 0 m (vkey d k) x else m) (vkey r l) =
      if r = d ∧ l = k ∧ mask.getLsbD l = true then x else SMap.get 0 m (vkey r l) := by
  by_cases hm : mask.getLsbD k = true
  · have hk : k < 32 := BitVec.lt_of_getLsbD hm
    rw [if_pos hm, SMap.get_set]
    refine if_congr ((vkey_inj hl hk).trans ⟨?_, fun h => ⟨h.1, h.2.1⟩⟩) rfl rfl
    rintro ⟨hr, rfl⟩
    exact ⟨hr, rfl, hm⟩
  · rw [if_neg hm, if_neg]
    rintro ⟨-, rfl, h⟩
    exact hm h

/-- What a lane reads after lanes from `k` up were written. -/
theorem get_wvFrom (m : SMap Half) (d k : Nat) (mask : Mask) (vals : List Half) (r l : Nat) (hl : l < 32) :
    SMap.get 0 (wvFrom m d k mask vals) (vkey r l) =
      if r = d ∧ k ≤ l ∧ mask.getLsbD l = true then vals.getD (l - k) (SMap.get 0 m (vkey r l)) else SMap.get 0 m (vkey r l) := by
  induction vals generalizing m k with
  | nil => simp [wvFrom]
  | cons x t ih =>
    rw [wvFrom, ih, get_wvLane m d k mask x r l hl]
    rcases Nat.lt_trichotomy l k with h | rfl | h
    · rw [if_neg (by omega), if_neg (by omega), if_neg (by omega)]
    · rw [if_neg (by omega), Nat.sub_self]
      exact if_congr (by simp) rfl rfl
    · rw [if_neg (by omega : ¬(r = d ∧ l = k ∧ mask.getLsbD l = true))]
      refine if_congr (and_congr_right' (and_congr_left' (by omega))) ?_ rfl
      obtain ⟨j, rfl⟩ : ∃ j, l = k + 1 + j := ⟨l - (k + 1), by omega⟩
      rw [show k + 1 + j - k = j + 1 by omega, Nat.add_sub_cancel_left, List.getD_cons_succ]

/-! One result written. -/

@[simp] theorem Unit.ws_lS (u : Unit) (d : SReg) (v : Word) : (u.ws d v).lS = u.lS := by unfold Unit.ws; split <;> rfl
@[simp] theorem Unit.wp_lS (u : Unit) (d : PReg) (b : Bool) : (u.wp d b).lS = u.lS := by unfold Unit.wp; split <;> rfl
@[simp] theorem Unit.rp_ws (u : Unit) (d : SReg) (v : Word) (p : PReg) : (u.ws d v).rp p = u.rp p := by
  unfold Unit.ws; split <;> rfl
@[simp] theorem Unit.rs_wp (u : Unit) (d : PReg) (b : Bool) (r : SReg) : (u.wp d b).rs r = u.rs r := by
  unfold Unit.wp; split <;> rfl
@[simp] theorem Unit.kst_ws (u : Unit) (d : SReg) (v : Word) : (u.ws d v).sS.kst = u.sS.kst := by
  unfold Unit.ws; split <;> rfl
@[simp] theorem Unit.kst_wp (u : Unit) (d : PReg) (b : Bool) : (u.wp d b).sS.kst = u.sS.kst := by
  unfold Unit.wp; split <;> rfl

section
variable (u : Unit) (i : Bool) (n w : Nat)

@[simp] theorem Unit.land_s (d : SReg) (x : Word) : u.land i ⟨n, w, .s d x⟩ = u.ws d x := rfl
@[simp] theorem Unit.land_p (d : PReg) (b : Bool) : u.land i ⟨n, w, .p d b⟩ = u.wp d b := rfl
theorem Unit.land_kst (k : BitVec 2) (x : Word) : u.land i ⟨n, w, .kst k x⟩ =
    ({ u with sS := { u.sS with kst := SMap.set 0 u.sS.kst k.toNat x } } : Unit).dirt 8 := rfl
theorem Unit.land_v (d : Nat) (m : Mask) (x : List Half) :
    u.land i ⟨n, w, .v d m x⟩ = (u.noted i ⟨n, w, .v d m x⟩).wv d m x := rfl

end

/-- A result for a lane register, a mask register or an exec mask leaves the S side. -/
def FRes.lane (f : FRes) : Bool := match f with | .s _ _ => false | .p _ _ => false | .kst _ _ => false | _ => true

theorem Unit.land_lane_sS (u : Unit) (i : Bool) (f : Fly) (h : f.res.lane = true) : (u.land i f).sS = u.sS := by
  obtain ⟨n, w, r⟩ := f
  cases r with
  | v d m x => simp [Unit.land_v, Unit.wv]
  | q d m x => simp only [Unit.land]; split <;> simp
  | em k => simp [Unit.land]
  | s d x => cases h
  | p d b => cases h
  | kst k x => cases h

theorem Unit.land_sRes_lS (u : Unit) (i : Bool) (f : Fly) (h : f.res.lane = false) : (u.land i f).lS = u.lS := by
  obtain ⟨n, w, r⟩ := f
  cases r with
  | s d x => exact u.ws_lS d x
  | p d b => exact u.wp_lS d b
  | kst k x => rfl
  | _ => cases h

theorem Unit.rs_land (u : Unit) (i : Bool) (f : Fly) (d : SReg) (hd : d ≠ 0) : (u.land i f).rs d = f.res.onS d (u.rs d) := by
  obtain ⟨n, w, r⟩ := f
  cases r with
  | s r x => rw [Unit.land_s, Unit.rs_ws, if_neg hd]; exact if_congr eq_comm rfl rfl
  | p r b => rw [Unit.land_p, Unit.rs_wp]; rfl
  | kst k x => rfl
  | _ => exact Unit.rs_congr (u.land_lane_sS i _ rfl) d

theorem Unit.rp_land (u : Unit) (i : Bool) (f : Fly) (d : PReg) (hd : d ≠ 0) : (u.land i f).rp d = f.res.onP d (u.rp d) := by
  obtain ⟨n, w, r⟩ := f
  cases r with
  | s r x => rw [Unit.land_s, Unit.rp_ws]; rfl
  | p r b => rw [Unit.land_p, Unit.rp_wp, if_neg hd]; exact if_congr eq_comm rfl rfl
  | kst k x => rfl
  | _ => exact Unit.rp_congr (u.land_lane_sS i _ rfl) d

theorem Unit.kst_land (u : Unit) (i : Bool) (f : Fly) (k : BitVec 2) :
    SMap.get 0 (u.land i f).sS.kst k.toNat = f.res.onKst k (SMap.get 0 u.sS.kst k.toNat) := by
  obtain ⟨n, w, r⟩ := f
  cases r with
  | s r x => rw [Unit.land_s, Unit.kst_ws]; rfl
  | p r b => rw [Unit.land_p, Unit.kst_wp]; rfl
  | kst r x =>
    rw [Unit.land_kst, Unit.dirt_sS, SMap.get_set]
    exact if_congr (BitVec.toNat_inj.trans eq_comm) rfl rfl
  | _ => rw [Unit.land_lane_sS u i _ rfl]; rfl

theorem Unit.rv_land (u : Unit) (i : Bool) (f : Fly) (r l : Nat) (hl : l < 32) :
    (u.land i f).rv r l = f.res.onV r l (u.rv r l) := by
  obtain ⟨n, w, res⟩ := f
  cases res with
  | v d m x =>
    simp only [Unit.land_v, Unit.wv, Unit.rv, Unit.dirt_lS, Unit.noted_v, get_wvFrom _ _ _ _ _ _ _ hl]
    exact if_congr (by simp) rfl rfl
  | q d m x => exact Unit.rv_congr (by simp only [Unit.land]; split <;> simp) r l
  | em k => exact Unit.rv_congr (by simp [Unit.land]) r l
  | _ => exact Unit.rv_congr (congrArg LSide.v (u.land_sRes_lS i _ rfl)) r l

theorem mergeMask_getLsbD (old mask bits : Mask) (l : Nat) (hl : l < 32) :
    (mergeMask old mask bits).getLsbD l = if mask.getLsbD l = true then bits.getLsbD l else old.getLsbD l := by
  unfold mergeMask
  cases hm : mask.getLsbD l <;> simp [hl, hm, -BitVec.getLsbD_eq_getElem]

theorem Unit.rq_land (u : Unit) (i : Bool) (f : Fly) (q : BitVec 3) (l : Nat) (hq : q ≠ 0) (hl : l < 32) :
    ((u.land i f).rq q).getLsbD l = f.res.onQ q l ((u.rq q).getLsbD l) := by
  obtain ⟨n, w, res⟩ := f
  have same : (u.land i ⟨n, w, res⟩).lS.q = u.lS.q →
      ((u.land i ⟨n, w, res⟩).rq q).getLsbD l = (u.rq q).getLsbD l := fun h => by rw [Unit.rq_congr h]
  cases res with
  | v d m x => exact same (by simp [Unit.land_v, Unit.wv])
  | q d m x =>
    dsimp only [FRes.onQ]
    by_cases hd : d = 0
    · rw [if_neg (fun h => hq (h.1.symm.trans hd))]
      exact same (by simp [Unit.land, hd])
    · simp only [Unit.land, hd, if_false, Unit.rq, hq, Unit.dirt_lS, Unit.noted_q, SMap.get_set, BitVec.toNat_inj]
      by_cases e : q = d
      · subst e
        simp only [if_true, true_and, mergeMask_getLsbD _ _ _ _ hl]
      · rw [if_neg e, if_neg (fun h => e h.1.symm)]
  | em k => exact same (by simp [Unit.land])
  | _ => exact same (congrArg LSide.q (u.land_sRes_lS i _ rfl))

theorem Unit.em_land (u : Unit) (i : Bool) (f : Fly) : ((u.land i f).slot i).em = f.res.onEm (u.slot i).em := by
  obtain ⟨n, w, res⟩ := f
  cases res with
  | v d m x => exact u.noted_em i i _
  | q d m x =>
    simp only [Unit.land]
    split <;> exact u.noted_em i i _
  | em k => cases i <;> rfl
  | _ => exact congrArg Slot.em (Unit.slot_congr (u.land_sRes_lS i _ rfl) i)

/-! What writing a result leaves alone. -/

/-- `v` is `u` with results written: only registers, exec masks, what the path slots keep for each other and the list of the
written lines may differ. -/
def Unit.LandsTo (u v : Unit) : Prop :=
  v = { u with sS := { u.sS with s := v.sS.s, p := v.sS.p, kst := v.sS.kst },
               lS := { u.lS with v := v.lS.v, q := v.lS.q, slot0 := v.lS.slot0, slot1 := v.lS.slot1 }, dirty := v.dirty } ∧
    ∀ j, v.slot j = { u.slot j with em := (v.slot j).em, hist := (v.slot j).hist, histQ := (v.slot j).histQ,
                                    shade := (v.slot j).shade, shadeQ := (v.slot j).shadeQ }

theorem Unit.LandsTo.refl (u : Unit) : u.LandsTo u := ⟨rfl, fun _ => rfl⟩

theorem Unit.LandsTo.trans {u v w : Unit} (h : u.LandsTo v) (h' : v.LandsTo w) : u.LandsTo w := by
  obtain ⟨hv, hs⟩ := h
  obtain ⟨hw, hs'⟩ := h'
  refine ⟨?_, fun j => ?_⟩
  · rw [hw, hv]
  · rw [hs' j, hs j]

theorem Unit.landsTo_setSlot (u : Unit) (i : Bool) (a b c d e) :
    u.LandsTo (u.setSlot i { u.slot i with em := e, hist := a, histQ := b, shade := c, shadeQ := d }) := by
  cases i
  · exact ⟨rfl, fun j => by cases j <;> rfl⟩
  · exact ⟨rfl, fun j => by cases j <;> rfl⟩

theorem Unit.landsTo_noted (u : Unit) (i : Bool) (f : Fly) : u.LandsTo (u.noted i f) := by
  obtain ⟨k, a, b, c, d, h⟩ := u.notesOnly_noted i f
  rw [h]
  exact u.landsTo_setSlot k a b c d (u.slot k).em

theorem Unit.landsTo_land (u : Unit) (i : Bool) (f : Fly) : u.LandsTo (u.land i f) := by
  obtain ⟨n, w, res⟩ := f
  refine (u.landsTo_noted i ⟨n, w, res⟩).trans ?_
  unfold Unit.land
  extract_lets v
  cases res with
  | s d x => dsimp only [Unit.ws]; split <;> exact ⟨rfl, fun _ => rfl⟩
  | p d b => dsimp only [Unit.wp]; split <;> exact ⟨rfl, fun _ => rfl⟩
  | kst k x => exact ⟨rfl, fun _ => rfl⟩
  | v d m x => exact ⟨rfl, fun _ => rfl⟩
  | q d m x => dsimp only; split <;> exact ⟨rfl, fun _ => rfl⟩
  | em k => exact (v.landsTo_setSlot i (v.slot i).hist (v.slot i).histQ (v.slot i).shade (v.slot i).shadeQ _).trans ⟨rfl, fun _ => rfl⟩

theorem Unit.landsTo_landAll (u : Unit) (i : Bool) (l : List Fly) : u.LandsTo (u.landAll i l) := by
  unfold Unit.landAll
  induction l generalizing u with
  | nil => exact .refl u
  | cons f t ih => exact (u.landsTo_land i f).trans (ih _)

theorem Unit.LandsTo.pend {u v : Unit} (h : u.LandsTo v) : v.pend = u.pend := by rw [h.1]
theorem Unit.LandsTo.id {u v : Unit} (h : u.LandsTo v) : v.id = u.id := by rw [h.1]
theorem Unit.LandsTo.trap {u v : Unit} (h : u.LandsTo v) : v.trap = u.trap := by rw [h.1]
theorem Unit.LandsTo.spc {u v : Unit} (h : u.LandsTo v) : v.sS.spc = u.sS.spc := by rw [h.1]
theorem Unit.LandsTo.sFly {u v : Unit} (h : u.LandsTo v) : v.sS.fly = u.sS.fly := by rw [h.1]
theorem Unit.LandsTo.sMarked {u v : Unit} (h : u.LandsTo v) : v.sS.marked = u.sS.marked := by rw [h.1]
theorem Unit.LandsTo.fly {u v : Unit} (h : u.LandsTo v) (j : Bool) : (v.slot j).fly = (u.slot j).fly := by rw [h.2 j]
theorem Unit.LandsTo.marked {u v : Unit} (h : u.LandsTo v) (j : Bool) : (v.slot j).marked = (u.slot j).marked := by rw [h.2 j]

/-! Results written in order: what a register holds after them is what the results make of it, one after the other. -/

section
variable {α : Type} (g : Unit → α) (h : α → Fly → α) (i : Bool) (hland : ∀ u j f, g (u.land j f) = h (g u) f)

include hland in
theorem Unit.landAll_foldl (u : Unit) (l : List Fly) : g (u.landAll i l) = l.foldl h (g u) :=
  (List.foldl_hom (f := g) fun v f => (hland v i f).symm).symm

/-- The results that a path slot holds for the other one, of the time before they divided. -/
def Unit.movedFly (u : Unit) (i : Bool) : List Fly :=
  if u.sibling (!i) then (u.slot (!i)).fly.filter (u.slot (!i)).earlier else []

include hland in
/-- As `landAll_foldl` for every result of a path slot, for what a path slot does not hold itself. -/
theorem Unit.landSlot_foldl (hslot : ∀ u j x, g (Unit.setSlot u j x) = g u) (u : Unit) :
    g (u.landSlot i) = (u.movedFly i ++ (u.slot i).fly).foldl h (g u) := by
  have hm : g (u.landMoved i) = (u.movedFly i).foldl h (g u) := by
    unfold Unit.landMoved Unit.movedFly
    split
    · rw [Unit.landAll_foldl g h _ hland, hslot]
    · rfl
  rw [Unit.landSlot, Unit.landAll_foldl g h _ hland, hslot, hm, List.foldl_append]

end

section
variable (u : Unit) (i : Bool)

theorem Unit.rs_landAll (fs : List Fly) (d : SReg) (hd : d ≠ 0) :
    (u.landAll i fs).rs d = fs.foldl (fun a f => f.res.onS d a) (u.rs d) :=
  Unit.landAll_foldl (·.rs d) _ i (fun v j f => v.rs_land j f d hd) u fs

theorem Unit.rp_landAll (fs : List Fly) (p : PReg) (hp : p ≠ 0) :
    (u.landAll i fs).rp p = fs.foldl (fun a f => f.res.onP p a) (u.rp p) :=
  Unit.landAll_foldl (·.rp p) _ i (fun v j f => v.rp_land j f p hp) u fs

theorem Unit.kst_landAll (fs : List Fly) (k : BitVec 2) :
    SMap.get 0 (u.landAll i fs).sS.kst k.toNat = fs.foldl (fun a f => f.res.onKst k a) (SMap.get 0 u.sS.kst k.toNat) :=
  Unit.landAll_foldl (fun v => SMap.get 0 v.sS.kst k.toNat) _ i (fun v j f => v.kst_land j f k) u fs

theorem Unit.em_landAll (fs : List Fly) :
    ((u.landAll i fs).slot i).em = fs.foldl (fun a f => f.res.onEm a) (u.slot i).em :=
  (List.foldl_hom (f := fun v : Unit => (v.slot i).em) fun v f => (v.em_land i f).symm).symm

theorem Unit.rs_landS (d : SReg) (hd : d ≠ 0) : u.landS.rs d = u.sS.fly.foldl (fun a f => f.res.onS d a) (u.rs d) :=
  Unit.rs_landAll _ _ _ d hd

theorem Unit.rp_landS (p : PReg) (hp : p ≠ 0) : u.landS.rp p = u.sS.fly.foldl (fun a f => f.res.onP p a) (u.rp p) :=
  Unit.rp_landAll _ _ _ p hp

theorem Unit.kst_landS (k : BitVec 2) : SMap.get 0 u.landS.sS.kst k.toNat =
    u.sS.fly.foldl (fun a f => f.res.onKst k a) (SMap.get 0 u.sS.kst k.toNat) := Unit.kst_landAll _ _ _ k

theorem Unit.rs_landSlot (d : SReg) (hd : d ≠ 0) :
    (u.landSlot i).rs d = (u.movedFly i ++ (u.slot i).fly).foldl (fun a f => f.res.onS d a) (u.rs d) :=
  Unit.landSlot_foldl (·.rs d) _ i (fun v j f => v.rs_land j f d hd) (fun v j x => Unit.rs_congr (v.setSlot_sS j x) d) u

theorem Unit.rp_landSlot (p : PReg) (hp : p ≠ 0) :
    (u.landSlot i).rp p = (u.movedFly i ++ (u.slot i).fly).foldl (fun a f => f.res.onP p a) (u.rp p) :=
  Unit.landSlot_foldl (·.rp p) _ i (fun v j f => v.rp_land j f p hp) (fun v j x => Unit.rp_congr (v.setSlot_sS j x) p) u

theorem Unit.rv_landSlot (r l : Nat) (hl : l < 32) :
    (u.landSlot i).rv r l = (u.movedFly i ++ (u.slot i).fly).foldl (fun a f => f.res.onV r l a) (u.rv r l) :=
  Unit.landSlot_foldl (·.rv r l) _ i (fun v j f => v.rv_land j f r l hl)
    (fun v j x => Unit.rv_congr (v.setSlot_v j x) r l) u

theorem Unit.rq_landSlot (q : BitVec 3) (l : Nat) (hq : q ≠ 0) (hl : l < 32) : ((u.landSlot i).rq q).getLsbD l =
    (u.movedFly i ++ (u.slot i).fly).foldl (fun a f => f.res.onQ q l a) ((u.rq q).getLsbD l) :=
  Unit.landSlot_foldl (fun v => (v.rq q).getLsbD l) _ i (fun v j f => v.rq_land j f q l hq hl)
    (fun v j x => by rw [Unit.rq_congr (v.setSlot_q j x)]) u

end

/-! The lane side after results depends on the lane side before them alone. -/

theorem Unit.setSlot_lS (u : Unit) (i : Bool) (x : Slot) :
    (u.setSlot i x).lS = if i then { u.lS with slot1 := x } else { u.lS with slot0 := x } := by cases i <;> rfl

section
variable {u v : Unit} (h : v.lS = u.lS) (i : Bool)
include h

theorem Unit.setSlot_lS_congr (x : Slot) : (v.setSlot i x).lS = (u.setSlot i x).lS := by rw [setSlot_lS, setSlot_lS, h]

theorem Unit.slot_eq : v.slot = u.slot := funext (Unit.slot_congr h)
theorem Unit.rv_eq : v.rv = u.rv := funext fun r => funext (Unit.rv_congr (congrArg LSide.v h) r)
theorem Unit.rq_eq : v.rq = u.rq := funext (Unit.rq_congr (congrArg LSide.q h))

theorem Unit.noteV_lS_congr (w r : Nat) (m : Mask) : (v.noteV i w r m).lS = (u.noteV i w r m).lS := by
  unfold Unit.noteV
  rw [h, Unit.slot_eq h, Unit.rv_eq h]
  split
  · exact Unit.setSlot_lS_congr h i _
  · exact h

theorem Unit.noteQ_lS_congr (d : BitVec 3) (m : Mask) : (v.noteQ i d m).lS = (u.noteQ i d m).lS := by
  unfold Unit.noteQ
  rw [h, Unit.slot_eq h, Unit.rq_eq h]
  split
  · exact Unit.setSlot_lS_congr h i _
  · exact h

theorem Unit.shadeV_lS_congr (r : Nat) (m : Mask) : (v.shadeV i r m).lS = (u.shadeV i r m).lS := by
  unfold Unit.shadeV
  rw [Unit.slot_eq h, Unit.rv_eq h]
  exact Unit.setSlot_lS_congr h _ _

theorem Unit.shadeQ_lS_congr (d : BitVec 3) : (v.shadeQ i d).lS = (u.shadeQ i d).lS := by
  unfold Unit.shadeQ
  rw [Unit.slot_eq h, Unit.rq_eq h]
  exact Unit.setSlot_lS_congr h _ _

theorem Unit.sibling_congr : v.sibling i = u.sibling i := by unfold Unit.sibling; rw [Unit.slot_eq h]

theorem Unit.noted_lS_congr (f : Fly) : (v.noted i f).lS = (u.noted i f).lS := by
  unfold Unit.noted
  rw [Unit.slot_eq h, Unit.sibling_congr h]
  extract_lets old
  split
  · rw [apply_ite Unit.lS, apply_ite Unit.lS, apply_ite Unit.lS, apply_ite Unit.lS, h, Unit.noteV_lS_congr h,
      Unit.shadeV_lS_congr h]
  · rw [apply_ite Unit.lS, apply_ite Unit.lS, apply_ite Unit.lS, apply_ite Unit.lS, h, Unit.noteQ_lS_congr h,
      Unit.shadeQ_lS_congr h]
  · exact h

theorem Unit.land_lS_congr (f : Fly) : (v.land i f).lS = (u.land i f).lS := by
  have hn := Unit.noted_lS_congr h i f
  unfold Unit.land
  generalize v.noted i f = v' at hn
  generalize u.noted i f = u' at hn
  dsimp only
  split
  · rw [Unit.ws_lS, Unit.ws_lS, hn]
  · rw [Unit.wp_lS, Unit.wp_lS, hn]
  · exact hn
  · rw [Unit.wv, Unit.wv, Unit.dirt_lS, Unit.dirt_lS, hn]
  · rw [apply_ite Unit.lS, apply_ite Unit.lS, Unit.dirt_lS, Unit.dirt_lS, Unit.rq_eq hn, hn]
  · rw [Unit.dirt_lS, Unit.dirt_lS, Unit.slot_eq hn]
    exact Unit.setSlot_lS_congr hn i _

theorem Unit.landAll_lS_congr (l : List Fly) : (v.landAll i l).lS = (u.landAll i l).lS := by
  unfold Unit.landAll
  induction l generalizing u v with
  | nil => exact h
  | cons f t ih => exact ih (Unit.land_lS_congr h i f)

theorem Unit.movedFly_congr : v.movedFly i = u.movedFly i := by
  rw [Unit.movedFly, Unit.movedFly, Unit.sibling_congr h, Unit.slot_eq h]

theorem Unit.landSlot_lS_congr : (v.landSlot i).lS = (u.landSlot i).lS := by
  have hm : (v.landMoved i).lS = (u.landMoved i).lS := by
    unfold Unit.landMoved
    rw [Unit.sibling_congr h, Unit.slot_eq h]
    split
    · exact Unit.landAll_lS_congr (Unit.setSlot_lS_congr h _ _) _ _
    · exact h
  unfold Unit.landSlot
  rw [Unit.slot_congr h, Unit.slot_congr hm]
  exact Unit.landAll_lS_congr (Unit.setSlot_lS_congr hm _ _) _ _

theorem Unit.rs_landSlot_congr (d : SReg) (hd : v.rs d = u.rs d) : (v.landSlot i).rs d = (u.landSlot i).rs d := by
  by_cases h0 : d = 0
  · subst h0; rfl
  · rw [Unit.rs_landSlot _ _ _ h0, Unit.rs_landSlot _ _ _ h0, Unit.movedFly_congr h, Unit.slot_congr h, hd]

theorem Unit.rp_landSlot_congr (p : PReg) (hp : v.rp p = u.rp p) : (v.landSlot i).rp p = (u.landSlot i).rp p := by
  by_cases h0 : p = 0
  · subst h0; rfl
  · rw [Unit.rp_landSlot _ _ _ h0, Unit.rp_landSlot _ _ _ h0, Unit.movedFly_congr h, Unit.slot_congr h, hp]

end

theorem Unit.landAll_lS_of_sRes (u : Unit) (i : Bool) (l : List Fly) (h : ∀ f ∈ l, f.res.lane = false) :
    (u.landAll i l).lS = u.lS := by
  unfold Unit.landAll
  induction l generalizing u with
  | nil => rfl
  | cons f t ih =>
    rw [List.foldl_cons, ih _ fun g hg => h g (List.mem_cons_of_mem f hg), u.land_sRes_lS i f (h f List.mem_cons_self)]

/-- A fold whose every step leaves the value leaves it. -/
theorem foldl_eq_self {α β : Type} {f : α → β → α} (l : List β) (a : α) (h : ∀ b ∈ l, ∀ a, f a b = a) : l.foldl f a = a := by
  induction l with
  | nil => rfl
  | cons b t ih => rw [List.foldl_cons, h b List.mem_cons_self, ih fun c hc => h c (List.mem_cons_of_mem b hc)]

end Sys2Proof.Machine

namespace Sys2Proof.Machine

/-! ## After a cold reset, and at the start of a unit -/

section
variable (id : UnitId) (who : Ident) (pc ts age : Nat)

theorem newUnit_rs (n : SReg) : (newUnit id who pc ts age).rs n = 0 := by
  unfold Unit.rs
  split <;> rfl

theorem newUnit_rp (p : PReg) (hp : p ≠ 0) : (newUnit id who pc ts age).rp p = false := if_neg hp
theorem newUnit_rq (q : BitVec 3) (hq : q ≠ 0) : (newUnit id who pc ts age).rq q = 0 := if_neg hq

end

/-- A result for `q0` is dropped. -/
theorem Unit.land_q_zero (u : Unit) (i : Bool) (n w : Nat) (m x : Mask) : (u.land i ⟨n, w, .q 0 m x⟩).lS.q = u.lS.q :=
  u.noted_q i ⟨n, w, .q 0 m x⟩

end Sys2Proof.Machine

section
open Sys2Proof Sys2Proof.Machine

/-- Settles O55: every clause reads the reset state, or a unit at its start, field by field. -/
theorem resetState : Obligations.ResetState := by
  unfold Obligations.ResetState
  refine ⟨?empty, fun _ => rfl, Tests.reset_inv, ?settings, fun _ => ?cluster, fun id who pc ts age => ?unit, ?constants⟩
  case empty => exact ⟨rfl, rfl, rfl, rfl, rfl, rfl, rfl, rfl, rfl, rfl, rfl, rfl, rfl, rfl, rfl⟩
  case settings => exact ⟨rfl, rfl, rfl, rfl, rfl, rfl, rfl, rfl⟩
  case cluster => exact ⟨rfl, rfl, rfl, rfl, fun _ => ⟨rfl, rfl, rfl, rfl⟩⟩
  case unit =>
    exact ⟨newUnit_rs id who pc ts age, newUnit_rp id who pc ts age, fun _ _ => rfl, newUnit_rq id who pc ts age,
      fun _ => ⟨rfl, rfl⟩, rfl, rfl, rfl, rfl, rfl, rfl⟩
  case constants =>
    intro u v b i
    exact ⟨u.rs_zero, u.ws_zero v, u.rp_zero, u.wp_zero b, u.rq_zero, fun e w m x => u.land_q_zero i e w m x⟩

end

namespace Sys2Proof.Machine

/-! ## The words that only compute -/

section
variable {s : State} {u : Unit} {regs : List SReg} (h : SReady s u regs) (m : Bool) (lat : Nat) (rs : List FRes)
include h

/-- The unit at the cursor after an S word issued. -/
theorem sNext_unit : (sNext s u m lat rs).unit? s.cur =
    some (u.sDone m (flights s u.id.core lat rs) (u.sS.spc + 1)) := by
  rw [← h.2.1]
  exact sAfter_unit m lat rs (u.sS.spc + 1)

theorem sNext_others : otherUnits s (sNext s u m lat rs) s.cur := by
  rw [← h.2.1]
  exact otherUnits_setUnit s (u.sDone m (flights s u.id.core lat rs) (u.sS.spc + 1))

end

/-- Results for the `s` register `ds` and the `p` register `dp` alone. -/
def ResultsFor (ds : Option SReg) (dp : Option PReg) (rs : List FRes) : Prop :=
  ∀ r ∈ rs, (∃ d x, r = .s d x ∧ ds = some d) ∨ ∃ p b, r = .p p b ∧ dp = some p

theorem resultsFor_s (d : SReg) (x : Word) : ResultsFor (some d) none [.s d x] := by
  intro r hr
  exact .inl ⟨d, x, List.mem_singleton.mp hr, rfl⟩

theorem resultsFor_p (p : PReg) (b : Bool) : ResultsFor none (some p) [.p p b] := by
  intro r hr
  exact .inr ⟨p, b, List.mem_singleton.mp hr, rfl⟩

/-- A ready S word that only computes issues, with results for its destinations alone. -/
theorem exec_regWord {i : Instr} {regs : List SReg} {ds : Option SReg} {dp : Option PReg} {s : State} {u : Unit}
    (hi : regWord i = some (regs, ds, dp)) (h : SReady s u regs) :
    ∃ m lat rs, exec i s = .next (sNext s u m lat rs) ∧ ResultsFor ds dp rs := by
  cases i with
  | add m d a b | sub m d a b | and m d a b | or m d a b | xor m d a b | shl m d a b | shr m d a b | sar m d a b
  | mul m d a b | mulhiU64 m d a b | mulhiS64 m d a b | minS64 m d a b | minU64 m d a b | maxS64 m d a b
  | maxU64 m d a b | divU64 m d a b | divS64 m d a b | remU64 m d a b | remS64 m d a b | andn m d a b | orn m d a b =>
    obtain ⟨rfl, rfl, rfl⟩ := hi
    dsimp only [exec, execAdd, execSub, execAnd, execOr, execXor, execShl, execShr, execSar, execMul, execMulhiU64,
      execMulhiS64, execMinS64, execMinU64, execMaxS64, execMaxU64, execDivU64, execDivS64, execRemU64, execRemS64,
      execAndn, execOrn]
    exact ⟨m, _, _, aluS_ready h m _ _, resultsFor_s d _⟩
  | popc m d a | clz m d a | ctz m d a | addImm m d a j | andImm m d a j | orImm m d a j | xorImm m d a j
  | shlImm m d a j | shrImm m d a j | sarImm m d a j | mulImm m d a j | shin m d j =>
    obtain ⟨rfl, rfl, rfl⟩ := hi
    dsimp only [exec, execPopc, execClz, execCtz, execAddImm, execAndImm, execOrImm, execXorImm, execShlImm, execShrImm,
      execSarImm, execMulImm, execShin]
    exact ⟨m, _, _, aluS1_ready h m _ _, resultsFor_s d _⟩
  | sel m d a b neg p =>
    obtain ⟨rfl, rfl, rfl⟩ := hi
    exact ⟨m, _, _, sWord_ready h _, resultsFor_s d _⟩
  | cmp m p c a b | cmpImm m p c a b =>
    obtain ⟨rfl, rfl, rfl⟩ := hi
    exact ⟨m, _, _, sWord_ready h _, resultsFor_p p _⟩
  | pand m p pa na pb nb | por m p pa na pb nb | pxor m p pa na pb nb =>
    obtain ⟨rfl, rfl, rfl⟩ := hi
    exact ⟨m, _, _, sWord_ready h _, resultsFor_p p _⟩
  | nop m =>
    obtain ⟨rfl, rfl, rfl⟩ := hi
    exact ⟨m, _, [], sWord_ready h _, fun r hr => nomatch hr⟩
  | _ => cases hi

section
variable {ds : Option SReg} {dp : Option PReg} {rs : List FRes} (h : ResultsFor ds dp rs) (s : State) (core lat : Nat)
include h

theorem ResultsFor.not_lane : ∀ f ∈ flights s core lat rs, f.res.lane = false := by
  intro f hf
  obtain ⟨r, hr, rfl⟩ := List.mem_map.mp hf
  obtain ⟨d, x, rfl, -⟩ | ⟨p, b, rfl, -⟩ := h r hr
  · rfl
  · rfl

theorem ResultsFor.onS (d : SReg) (hd : some d ≠ ds) : ∀ f ∈ flights s core lat rs, ∀ a, f.res.onS d a = a := by
  intro f hf a
  obtain ⟨r, hr, rfl⟩ := List.mem_map.mp hf
  obtain ⟨d', x, rfl, rfl⟩ | ⟨p, b, rfl, -⟩ := h r hr
  · exact if_neg fun e => hd (congrArg some e.symm)
  · rfl

theorem ResultsFor.onP (p : PReg) (hp : some p ≠ dp) : ∀ f ∈ flights s core lat rs, ∀ a, f.res.onP p a = a := by
  intro f hf a
  obtain ⟨r, hr, rfl⟩ := List.mem_map.mp hf
  obtain ⟨d, x, rfl, -⟩ | ⟨p', b, rfl, rfl⟩ := h r hr
  · rfl
  · exact if_neg fun e => hp (congrArg some e.symm)

end

/-! What a word that issued with results `l` adds, once everything in flight is written. -/

section
variable (u : Unit) (m : Bool) (l : List Fly) (pc : Nat)

/-- The unit with nothing of the S-stream in flight. -/
def Unit.sCleared (u : Unit) : Unit := { u with sS := { u.sS with fly := [], marked := false } }

theorem Unit.landS_eq (u : Unit) : u.landS = u.sCleared.landAll false u.sS.fly := rfl

theorem Unit.landS_sDone_lS (hl : ∀ f ∈ l, f.res.lane = false) : (u.sDone m l pc).landS.lS = u.landS.lS := by
  have hap : (u.sDone m l pc).landS = ((u.sDone m l pc).sCleared.landAll false u.sS.fly).landAll false l :=
    List.foldl_append
  rw [hap, Unit.landAll_lS_of_sRes _ _ _ hl, u.landS_eq]
  exact Unit.landAll_lS_congr (u := u.sCleared) (v := (u.sDone m l pc).sCleared) rfl false u.sS.fly

theorem Unit.rs_landS_sDone (d : SReg) (hl : ∀ f ∈ l, ∀ a, f.res.onS d a = a) :
    (u.sDone m l pc).landS.rs d = u.landS.rs d := by
  by_cases hd : d = 0
  · subst hd; rfl
  · rw [Unit.rs_landS _ d hd, Unit.rs_landS _ d hd]
    exact List.foldl_append.trans (foldl_eq_self l _ hl)

theorem Unit.rp_landS_sDone (p : PReg) (hl : ∀ f ∈ l, ∀ a, f.res.onP p a = a) :
    (u.sDone m l pc).landS.rp p = u.landS.rp p := by
  by_cases hp : p = 0
  · subst hp; rfl
  · rw [Unit.rp_landS _ p hp, Unit.rp_landS _ p hp]
    exact List.foldl_append.trans (foldl_eq_self l _ hl)

variable (hl : ∀ f ∈ l, f.res.lane = false)
include hl

theorem Unit.rs_landEvery_sDone (d : SReg) (hd : ∀ f ∈ l, ∀ a, f.res.onS d a = a) :
    (u.sDone m l pc).landEvery.rs d = u.landEvery.rs d := by
  have hS := u.landS_sDone_lS m l pc hl
  exact Unit.rs_landSlot_congr (Unit.landSlot_lS_congr hS false) true d
    (Unit.rs_landSlot_congr hS false d (u.rs_landS_sDone m l pc d hd))

theorem Unit.rp_landEvery_sDone (p : PReg) (hp : ∀ f ∈ l, ∀ a, f.res.onP p a = a) :
    (u.sDone m l pc).landEvery.rp p = u.landEvery.rp p := by
  have hS := u.landS_sDone_lS m l pc hl
  exact Unit.rp_landSlot_congr (Unit.landSlot_lS_congr hS false) true p
    (Unit.rp_landSlot_congr hS false p (u.rp_landS_sDone m l pc p hp))

end

end Sys2Proof.Machine

section
open Sys2Proof Sys2Proof.Machine

/-- Settles O59: such a word issues with results for its destinations alone, and a result changes its own register. -/
theorem registerWordFrame : Obligations.RegisterWordFrame := by
  unfold Obligations.RegisterWordFrame
  intro i regs ds dp s u hi h
  obtain ⟨m, lat, rs, he, hrs⟩ := exec_regWord hi h
  have hl := hrs.not_lane s u.id.core lat
  refine ⟨_, _, he, sNext_unit h m lat rs, rfl, sDone_sameRegs _ _ _ _, sNext_others h m lat rs, rfl, ?sregs, ?pregs⟩
  case sregs => exact fun d hd => u.rs_landEvery_sDone m _ _ hl d (hrs.onS s _ lat d hd)
  case pregs => exact fun p hp => u.rp_landEvery_sDone m _ _ hl p (hrs.onP s _ lat p hp)

end

namespace Sys2Proof.Machine

/-! ## The special registers -/

section
variable {s : State} {u : Unit} {d : SReg} (h : SReady s u [d]) (m : Bool)
include h

/-- A listed register other than `tclk` is read at once; a warp's `fpmode` once the lane side is idle. -/
theorem exec_rsr_value (n : SReg) (hn : srListed n.toNat = true) (h8 : n.toNat ≠ 8)
    (h0 : n.toNat = 0 → u.who.isLm = true ∨ u.laneIdle = true) :
    exec (.rsr m d n) s = .next (sNext s u m 6 [.s d (srValue u n.toNat)]) := by
  have hwait : ¬(n.toNat = 0 ∧ (!u.who.isLm) = true ∧ (!u.laneIdle) = true) := by
    rintro ⟨hz, hl, hi⟩
    rcases h0 hz with e | e
    · simp [e] at hl
    · simp [e] at hi
  dsimp only [exec, execRsr]
  rw [sWord_ready h, hn, if_neg (by decide), if_neg hwait, if_neg h8]
  rfl

theorem exec_rsr_tclk (hr : u.who.rset = 0) :
    exec (.rsr m d 0x08) s = .next (issuePend s u .s m 1 (newPend s u .s (.s d) .tclk false 1 none)) := by
  dsimp only [exec, execRsr]
  rw [sWord_ready h, if_neg (by decide), if_neg (by simp), if_pos (by decide), if_pos hr]

end

section
variable {s : State} {u : Unit} {b : SReg} (h : SReady s u [b]) (m : Bool) (n : SReg)
include h

theorem exec_wsr_denied (hw : srWritable u n.toNat = false) :
    exec (.wsr m n b) s = trapS s u 0x19 n.toNat (u.rs b).toNat := by
  dsimp only [exec, execWsr]
  rw [sWord_ready h, hw, if_pos (by decide)]

theorem exec_wsr_trapReg (hw : srWritable u n.toNat = true) (hn : n.toNat ≠ 0) :
    exec (.wsr m n b) s =
      .next (s.setUnit ({ u with trap := writeTrapReg u.trap n.toNat (u.rs b) }.sDone m [] (u.sS.spc + 1))) := by
  dsimp only [exec, execWsr]
  rw [sWord_ready h, hw, if_neg (by decide), if_neg hn]

variable (hl : u.who.isLm = false) (hi : u.laneIdle = true)
include hl hi

/-- A warp's `fpmode` is written once the lane side is idle, unless the rounding mode is not one of the five. -/
theorem exec_wsr_fpmode : exec (.wsr m 0 b) s =
    if (u.rs b).toNat % 8 = 0 ∨ 6 ≤ (u.rs b).toNat % 8 then trapS s u 0x1A 0 (u.rs b).toNat
    else .next (s.setUnit ({ u with fpmode := (u.rs b).setWidth 32 &&& 0x7FFF }.sDone m [] (u.sS.spc + 1))) := by
  have hw : srWritable u 0 = true := by simp [srWritable, hl]
  dsimp only [exec, execWsr]
  rw [sWord_ready h, show (0 : SReg).toNat = 0 from rfl, hw, if_neg (by decide), if_pos rfl, hi, if_neg (by decide)]

end

/-- The bits that `fpmode` keeps of a value. -/
theorem fpmode_bits (x : Word) : x.setWidth 32 &&& 0x7FFF = BitVec.ofNat 32 (x.toNat % 2 ^ 15) := by
  apply BitVec.eq_of_toNat_eq
  rw [BitVec.toNat_and, BitVec.toNat_setWidth, BitVec.toNat_ofNat,
    show (0x7FFF : BitVec 32).toNat = 2 ^ 15 - 1 from rfl, Nat.and_two_pow_sub_one_eq_mod]
  omega

theorem srWritable_trapReg {u : Unit} {n : Nat} (h0 : 0x10 ≤ n) (h1 : n ≤ 0x16) : srWritable u n = u.inHandler := by
  have : n ≠ 0 := by omega
  simp [srWritable, h0, h1, this]

theorem srWritable_unlisted {u : Unit} {n : Nat} (h0 : 1 ≤ n) (h1 : n < 0x10 ∨ 0x16 < n) : srWritable u n = false := by
  have : n ≠ 0 := by omega
  have : ¬(0x10 ≤ n ∧ n ≤ 0x16) := by omega
  simp [srWritable, *]

end Sys2Proof.Machine

section
open Sys2Proof Sys2Proof.Machine

/-- Settles O6: a read by the value of each register, a write by whether the unit may write it. -/
theorem specialRegisterWords : Obligations.SpecialRegisterWords := by
  unfold Obligations.SpecialRegisterWords
  refine ⟨fun s u m d h => ?reads, fun s u m n b h => ⟨?fpmode, ?badMode, ?trapReg, ?outside, ?lockmaster, ?unlisted⟩⟩
  case reads =>
    intro reads lm
    have value (n : SReg) (hn : srListed n.toNat = true) (h8 : n.toNat ≠ 8) (h0 : n.toNat ≠ 0) :
        reads n (srValue u n.toNat) := exec_rsr_value h m n hn h8 fun e => absurd e h0
    exact ⟨fun h0 => exec_rsr_value h m 0 rfl (by decide) fun _ => h0,
      value 0x01 rfl (by decide) (by decide), value 0x02 rfl (by decide) (by decide),
      value 0x03 rfl (by decide) (by decide), value 0x04 rfl (by decide) (by decide),
      value 0x05 rfl (by decide) (by decide), value 0x06 rfl (by decide) (by decide),
      value 0x07 rfl (by decide) (by decide), value 0x10 rfl (by decide) (by decide),
      value 0x11 rfl (by decide) (by decide), value 0x12 rfl (by decide) (by decide),
      value 0x13 rfl (by decide) (by decide), value 0x14 rfl (by decide) (by decide),
      value 0x15 rfl (by decide) (by decide), value 0x16 rfl (by decide) (by decide), exec_rsr_tclk h m⟩
  case fpmode =>
    rintro rfl hl hi h1 h5
    rw [exec_wsr_fpmode h m hl hi, if_neg (by omega), fpmode_bits]
  case badMode =>
    rintro rfl hl hi hbad
    rw [exec_wsr_fpmode h m hl hi, if_pos hbad]
  case trapReg =>
    intro h0 h1 hh
    exact exec_wsr_trapReg h m n ((srWritable_trapReg h0 h1).trans hh) (by omega)
  case outside =>
    intro h0 h1 hh
    exact exec_wsr_denied h m n ((srWritable_trapReg h0 h1).trans hh)
  case lockmaster =>
    rintro rfl hl
    exact exec_wsr_denied h m 0 (by simp [srWritable, hl])
  case unlisted => exact fun h0 h1 => exec_wsr_denied h m n (srWritable_unlisted h0 h1)

end

namespace Sys2Proof.Machine

/-! ## The integer, move, poll and mask lane words -/

/-- Results for the active lanes of the destination of a lane word alone. -/
def LaneResults (w : LA) (act : Mask) (rs : List FRes) : Prop :=
  ∀ r ∈ rs, (∃ d k x, w.dst = .v d ∧ k < tyRegs w.ty ∧ r = .v (d.toNat + k) act x) ∨ ∃ q x, w.dst = .q q ∧ r = .q q act x

theorem laneResults_nil (w : LA) (act : Mask) : LaneResults w act [] := fun _ hr => nomatch hr

/-- The word issues for `u`: its results, in flight, are for its destination, and of what stands only a mailbox that is its
destination has been written. -/
def LaneIssues (s : State) (u : Unit) (i : Bool) (w : LA) (act : Mask) (r : Res) : Prop :=
  ∃ v m iv lat rs, r = .next (lNext s v i m iv lat rs) ∧ LaneResults w act rs ∧
    (v = u ∨ ∃ k now vals, w.dst = .mb k ∧ v = u.wmb now k act vals)

section
variable (s : State) (u : Unit) (i : Bool) (w : LA) (act : Mask) (iv lat : Nat)

theorem laneIssues_nothing : LaneIssues s u i w act (retireL s u i w.m iv lat []) :=
  ⟨u, _, _, _, [], rfl, laneResults_nil w act, .inl rfl⟩

theorem laneIssues_writeLane (n : Nat) (hn : n ≤ tyRegs w.ty) (vals : List (Nat × Nat)) :
    LaneIssues s u i w act (writeLane s u i w.m act iv lat w.dst n vals) := by
  unfold writeLane
  split
  · next d hd =>
    refine ⟨u, _, _, _, _, rfl, fun r hr => ?_, .inl rfl⟩
    obtain ⟨k, hk, rfl⟩ := List.mem_map.mp hr
    exact .inl ⟨d, k, _, hd, (List.mem_range.mp hk).trans_le hn, rfl⟩
  · next k hk => exact ⟨_, _, _, _, [], rfl, laneResults_nil w act, .inr ⟨k, _, vals, hk, rfl⟩⟩
  · exact laneIssues_nothing s u i w act iv lat

theorem laneIssues_writeMask (bits : Mask) : LaneIssues s u i w act (writeMask s u i w.m act iv lat w.dst bits) := by
  unfold writeMask
  split
  · next q hq =>
    refine ⟨u, _, _, _, _, rfl, fun r hr => ?_, .inl rfl⟩
    exact .inr ⟨q, bits, hq, List.mem_singleton.mp hr⟩
  · exact laneIssues_nothing s u i w act iv lat

end

theorem tyRegs_pos (t : LTy) : 1 ≤ tyRegs t := by cases t <;> decide

/-- A lane word of a resident unit parks, or runs its meaning on its slot and its active lanes. -/
theorem laneWord_cases {s : State} {u : Unit} (hu : s.unit? s.cur = some u) (g : Guard) (regs : List (Nat × Nat))
    (k : Unit → Bool → Mask → Res) :
    laneWord s g regs k = parkAt s u (slotStrm (strmSlot s.curS)) .pendingReg ∨
      laneWord s g regs k = k u (strmSlot s.curS) (laneAct s u (strmSlot s.curS) g) := by
  cases hr : regs.any (fun r => u.vPend r.1 r.2) with
  | true => exact .inl (laneWord_pending hu hr g k)
  | false =>
    right
    simp only [laneWord, withUnit, hu, hr, laneAct]
    rfl

/-- A result of a lane word that parks or issues. -/
def LaneOnly (s : State) (u : Unit) (w : LA) (r : Res) : Prop :=
  r = parkAt s u (slotStrm (strmSlot s.curS)) .pendingReg ∨
    LaneIssues s u (strmSlot s.curS) w (laneAct s u (strmSlot s.curS) w.g) r

theorem laneOnly_laneWord {s : State} {u : Unit} (hu : s.unit? s.cur = some u) (w : LA) (regs : List (Nat × Nat))
    (k : Unit → Bool → Mask → Res) (hk : ∀ i act, LaneIssues s u i w act (k u i act)) :
    LaneOnly s u w (laneWord s w.g regs k) := by
  rcases laneWord_cases hu w.g regs k with h | h
  · exact .inl h
  · rw [h]
    exact .inr (hk _ _)

/-- A word of `laneOnly` parks, or issues for its destination. -/
theorem exec_laneOnly {j : Instr} {w : LA} {s : State} {u : Unit} (hj : laneOnly j = some w) (hu : s.unit? s.cur = some u) :
    LaneOnly s u w (exec j s) := by
  cases j with
  | laneAddI w' | laneSubI w' | laneMulI w' | laneMulhi w' | laneMad w' | laneMinI w' | laneMaxI w' | laneAnd w'
  | laneOr w' | laneXor w' | laneAndn w' | laneShl w' | laneShr w' | lanePopc w' | laneClz w' | laneCtz w' | laneBrev w'
  | laneAbsI w' | laneNegI w' =>
    cases hj
    dsimp only [exec, execLaneAddI, execLaneSubI, execLaneMulI, execLaneMulhi, execLaneMad, execLaneMinI, execLaneMaxI,
      execLaneAnd, execLaneOr, execLaneXor, execLaneAndn, execLaneShl, execLaneShr, execLanePopc, execLaneClz,
      execLaneCtz, execLaneBrev, execLaneAbsI, execLaneNegI, intWord]
    exact laneOnly_laneWord hu w _ _ fun i act => laneIssues_writeLane _ _ _ _ _ _ _ _ le_rfl _
  | laneCmpI w' =>
    cases hj
    dsimp only [exec, execLaneCmpI]
    exact laneOnly_laneWord hu w _ _ fun i act => laneIssues_writeMask _ _ _ _ _ _ _ _
  | laneMov w' | laneSel w' | laneLsw w' =>
    cases hj
    dsimp only [exec, execLaneMov, execLaneSel, execLaneLsw]
    exact laneOnly_laneWord hu w _ _ fun i act => laneIssues_writeLane _ _ _ _ _ _ _ _ le_rfl _
  | laneBdot w' | laneBsel w' | qcnt w' =>
    cases hj
    dsimp only [exec, execLaneBdot, execLaneBsel, execQcnt]
    exact laneOnly_laneWord hu w _ _ fun i act => laneIssues_writeLane _ _ _ _ _ _ _ _ (tyRegs_pos w.ty) _
  | lanePoll w' =>
    cases hj
    dsimp only [exec, execLanePoll]
    refine laneOnly_laneWord hu w _ _ fun i act => ?_
    split
    · exact laneIssues_nothing _ _ _ _ _ _ _
    · split
      · exact laneIssues_writeMask _ _ _ _ _ _ _ _
      · exact laneIssues_writeMask _ _ _ _ _ _ _ _
      · exact laneIssues_writeMask _ _ _ _ _ _ _ _
      · exact laneIssues_writeLane _ _ _ _ _ _ _ _ (tyRegs_pos w.ty) _
      · exact laneIssues_writeLane _ _ _ _ _ _ _ _ (tyRegs_pos w.ty) _
  | qand w' | qor w' | qxor w' | qandn w' | qmov w' =>
    cases hj
    dsimp only [exec, execQand, execQor, execQxor, execQandn, execQmov, maskWord]
    exact laneOnly_laneWord hu w _ _ fun i act => laneIssues_writeMask _ _ _ _ _ _ _ _
  | _ => cases hj

/-! What such a word leaves of its unit. -/

/-- `v` is `u` with results `fl` added to those in flight of slot `i`: nothing else that a program sees has changed, but
mailboxes. -/
structure SlotAdds (u v : Unit) (i : Bool) (fl : List Fly) : Prop where
  sS : v.sS = u.sS
  trap : v.trap = u.trap
  fpmode : v.fpmode = u.fpmode
  pend : v.pend = u.pend
  who : v.who = u.who
  vRegs : v.lS.v = u.lS.v
  qRegs : v.lS.q = u.lS.q
  em : (v.slot i).em = (u.slot i).em
  stack : (v.slot i).stack = (u.slot i).stack
  fly : (v.slot i).fly = (u.slot i).fly ++ fl
  other : v.slot (!i) = u.slot (!i)

theorem SlotAdds.refl (u : Unit) (i : Bool) : SlotAdds u u i [] :=
  ⟨rfl, rfl, rfl, rfl, rfl, rfl, rfl, rfl, rfl, (List.append_nil _).symm, rfl⟩

theorem slotAdds_lDone (u : Unit) (i m : Bool) (fl : List Fly) (pc : Nat) : SlotAdds u (u.lDone i m fl pc) i fl := by
  cases i
  · exact ⟨rfl, rfl, rfl, rfl, rfl, rfl, rfl, rfl, rfl, rfl, rfl⟩
  · exact ⟨rfl, rfl, rfl, rfl, rfl, rfl, rfl, rfl, rfl, rfl, rfl⟩

theorem slotAdds_setPark (u : Unit) (i : Bool) (p : Option Park) : SlotAdds u (u.setPark (slotStrm i) p) i [] := by
  cases i
  · exact ⟨rfl, rfl, rfl, rfl, rfl, rfl, rfl, rfl, rfl, (List.append_nil _).symm, rfl⟩
  · exact ⟨rfl, rfl, rfl, rfl, rfl, rfl, rfl, rfl, rfl, (List.append_nil _).symm, rfl⟩

theorem slotAdds_wmb (u : Unit) (i : Bool) (now : Nat) (k : BitVec 2) (act : Mask) (vals : List (Nat × Nat)) :
    SlotAdds u (u.wmb now k act vals) i [] := by
  unfold Unit.wmb
  split <;> exact ⟨rfl, rfl, rfl, rfl, rfl, rfl, rfl, rfl, rfl, (List.append_nil _).symm, rfl⟩

theorem Unit.wmb_mbVal (u : Unit) (now : Nat) (k j : BitVec 2) (act : Mask) (vals : List (Nat × Nat)) (h : j ≠ k) :
    SMap.get 0 (u.wmb now k act vals).mbVal j.toNat = SMap.get 0 u.mbVal j.toNat := by
  unfold Unit.wmb
  split
  · rfl
  · rw [Unit.dirt_mbVal, SMap.get_set, if_neg (fun e => h (BitVec.toNat_inj.mp e))]

section
variable {u v x : Unit} {i : Bool} {fl : List Fly}

theorem SlotAdds.trans (h : SlotAdds u v i []) (h' : SlotAdds v x i fl) : SlotAdds u x i fl :=
  ⟨h'.sS.trans h.sS, h'.trap.trans h.trap, h'.fpmode.trans h.fpmode, h'.pend.trans h.pend, h'.who.trans h.who,
    h'.vRegs.trans h.vRegs, h'.qRegs.trans h.qRegs, h'.em.trans h.em, h'.stack.trans h.stack,
    by rw [h'.fly, h.fly, List.append_nil], h'.other.trans h.other⟩

variable (h : SlotAdds u v i fl)
include h

theorem SlotAdds.movedFly : v.movedFly i = u.movedFly i := by
  unfold Unit.movedFly Unit.sibling
  rw [Bool.not_not, h.stack, h.other]

theorem SlotAdds.rv_landSlot (r l : Nat) (hl : l < 32) (hf : ∀ f ∈ fl, ∀ a, f.res.onV r l a = a) :
    (v.landSlot i).rv r l = (u.landSlot i).rv r l := by
  rw [Unit.rv_landSlot _ _ _ _ hl, Unit.rv_landSlot _ _ _ _ hl, h.movedFly, h.fly, Unit.rv_congr h.vRegs, ← List.append_assoc,
    List.foldl_append]
  exact foldl_eq_self fl _ hf

theorem SlotAdds.rq_landSlot (q : BitVec 3) (l : Nat) (hl : l < 32) (hf : ∀ f ∈ fl, ∀ a, f.res.onQ q l a = a) :
    ((v.landSlot i).rq q).getLsbD l = ((u.landSlot i).rq q).getLsbD l := by
  by_cases hq : q = 0
  · subst hq; rfl
  · rw [Unit.rq_landSlot _ _ _ _ hq hl, Unit.rq_landSlot _ _ _ _ hq hl, h.movedFly, h.fly, Unit.rq_congr h.qRegs,
      ← List.append_assoc, List.foldl_append]
    exact foldl_eq_self fl _ hf

end

section
variable {w : LA} {act : Mask} {rs : List FRes} (h : LaneResults w act rs) (s : State) (core lat : Nat)
include h

theorem LaneResults.onV (r l : Nat) (hr : act.getLsbD l = false ∨ ∀ d, w.dst = .v d → r < d.toNat ∨ d.toNat + tyRegs w.ty ≤ r) :
    ∀ f ∈ flights s core lat rs, ∀ a, f.res.onV r l a = a := by
  intro f hf a
  obtain ⟨x, hx, rfl⟩ := List.mem_map.mp hf
  obtain ⟨d, k, y, hd, hk, rfl⟩ | ⟨q, y, -, rfl⟩ := h x hx
  · refine if_neg ?_
    rintro ⟨rfl, ha⟩
    rcases hr with hr | hr
    · rw [hr] at ha; cases ha
    · have := hr d hd
      omega
  · rfl

theorem LaneResults.onQ (q : BitVec 3) (l : Nat) (hq : act.getLsbD l = false ∨ w.dst ≠ .q q) :
    ∀ f ∈ flights s core lat rs, ∀ a, f.res.onQ q l a = a := by
  intro f hf a
  obtain ⟨x, hx, rfl⟩ := List.mem_map.mp hf
  obtain ⟨d, k, y, -, -, rfl⟩ | ⟨q', y, hd, rfl⟩ := h x hx
  · rfl
  · refine if_neg ?_
    rintro ⟨rfl, ha⟩
    rcases hq with hq | hq
    · rw [hq] at ha; cases ha
    · exact hq hd

end

theorem Unit.wmb_id (u : Unit) (now : Nat) (k : BitVec 2) (act : Mask) (vals : List (Nat × Nat)) :
    (u.wmb now k act vals).id = u.id := by
  unfold Unit.wmb
  split <;> rfl

@[simp] theorem Unit.setPark_mbVal (u : Unit) (st : Strm) (p : Option Park) : (u.setPark st p).mbVal = u.mbVal := by
  cases st <;> rfl

@[simp] theorem Unit.lDone_mbVal (u : Unit) (i m : Bool) (l : List Fly) (pc : Nat) : (u.lDone i m l pc).mbVal = u.mbVal := by
  cases i <;> rfl

section
variable {s : State} {u : Unit} (i m : Bool) (iv lat : Nat) (rs : List FRes)

theorem lNext_others : otherUnits s (lNext s u i m iv lat rs) u.id := by
  intro k hk
  have := otherUnits_setUnit s (u.lDone i m (flights s u.id.core lat rs) ((u.slot i).lpc + 1)) k
  simpa [lNext, hk] using this

theorem lNext_mem : (lNext s u i m iv lat rs).mem = s.mem := by simp [lNext]

end

theorem sameMem_of_mem {s t : State} (h : t.mem = s.mem) : sameMem s t := ⟨fun a => by rw [homeByte, homeByte, h], h⟩

/-- A lane word that parks or issues changes its own unit alone, which gains results for the word's destination. -/
theorem LaneOnly.frame {s t : State} {u : Unit} {w : LA} (h : LaneOnly s u w (.next t)) (hid : u.id = s.cur) :
    ∃ v core lat rs, t.unit? s.cur = some v ∧ LaneResults w (laneAct s u (strmSlot s.curS) w.g) rs ∧
      SlotAdds u v (strmSlot s.curS) (flights s core lat rs) ∧
      (∀ k : BitVec 2, w.dst ≠ .mb k → SMap.get 0 v.mbVal k.toNat = SMap.get 0 u.mbVal k.toNat) ∧
      otherUnits s t s.cur ∧ t.mem = s.mem := by
  rw [← hid]
  rcases h with h | ⟨v, m, iv, lat, rs, h, hrs, hv⟩
  · obtain ⟨t', p, hp, hu, -, hm, ho, -⟩ := parkAt_next s u (slotStrm (strmSlot s.curS)) .pendingReg
    obtain rfl : t = t' := by rw [hp] at h; cases h; rfl
    refine ⟨_, 0, 0, [], hu, laneResults_nil w _, slotAdds_setPark u _ _, fun k _ => ?_, ho, hm⟩
    rw [Unit.setPark_mbVal]
  · cases h
    obtain ⟨hvid, hadd, hmb⟩ : v.id = u.id ∧ SlotAdds u v (strmSlot s.curS) [] ∧
        ∀ k : BitVec 2, w.dst ≠ .mb k → SMap.get 0 v.mbVal k.toNat = SMap.get 0 u.mbVal k.toNat := by
      rcases hv with rfl | ⟨k, now, vals, hk, rfl⟩
      · exact ⟨rfl, SlotAdds.refl _ _, fun _ _ => rfl⟩
      · exact ⟨u.wmb_id now k _ vals, slotAdds_wmb u _ now k _ vals, fun j hj => u.wmb_mbVal now k j _ vals fun e => hj (e ▸ hk)⟩
    rw [← hvid]
    refine ⟨_, _, _, rs, lNext_unit _ m iv lat rs, hrs, hadd.trans (slotAdds_lDone v _ m _ _), fun k hk => ?_,
      lNext_others _ m iv lat rs, lNext_mem _ m iv lat rs⟩
    rw [Unit.lDone_mbVal]
    exact hmb k hk

end Sys2Proof.Machine

section
open Sys2Proof Sys2Proof.Machine

/-- Settles O60: such a word parks, or issues with results for its destination; either way its slot only gains them. -/
theorem laneWordFrame : Obligations.LaneWordFrame := by
  unfold Obligations.LaneWordFrame
  intro j w s t u hj hu hid ht i act
  have hL : LaneOnly s u w (.next t) := ht ▸ exec_laneOnly hj hu
  obtain ⟨v, core, lat, rs, hv, hrs, hadd, hmb, hoth, hmem⟩ := hL.frame hid
  exact ⟨v, hv, hadd.sS, hadd.trap, hadd.fpmode, hadd.pend, hadd.who, hadd.vRegs, hadd.qRegs, hadd.em, hadd.other, hmb, hoth,
    sameMem_of_mem hmem, fun r l _ hl hr => hadd.rv_landSlot r l hl (hrs.onV s core lat r l hr),
    fun q l hl hq => hadd.rq_landSlot q l hl (hrs.onQ s core lat q l hq)⟩

end

namespace Sys2Proof.Machine

/-! ## What writes and stores on their way leave of the units and of memory -/

/-- Every unit of `s` is in `t` as it was, but for its monitor and the older code that it may still fetch. -/
def UnitsStay (s t : State) : Prop := ∀ id u, s.unit? id = some u → ∃ m c, t.unit? id = some { u with mon := m, code := c }

theorem UnitsStay.refl (s : State) : UnitsStay s s := fun _ u h => ⟨u.mon, u.code, h⟩

theorem UnitsStay.of_units {s t : State} (h : t.units = s.units) : UnitsStay s t :=
  fun _ u hu => ⟨u.mon, u.code, by rw [State.unit?, h]; exact hu⟩

theorem UnitsStay.trans {s t r : State} (h : UnitsStay s t) (h' : UnitsStay t r) : UnitsStay s r := by
  intro id u hu
  obtain ⟨m, c, ht⟩ := h id u hu
  obtain ⟨m', c', hr⟩ := h' id _ ht
  exact ⟨m', c', hr⟩

theorem UnitsStay.foldl {β : Type} (f : State → β → State) (hf : ∀ t b, UnitsStay t (f t b)) (l : List β) (s : State) :
    UnitsStay s (l.foldl f s) := by
  induction l generalizing s with
  | nil => exact .refl s
  | cons b t ih => exact (hf s b).trans (ih _)

/-- Units changed in place, each in its monitor and its older code alone. -/
theorem UnitsStay.map {s t : State} (f : Unit → Unit) (hf : ∀ u, f u = { u with mon := (f u).mon, code := (f u).code })
    (h : t.units = s.units.map (fun (e : Nat × Unit) => (e.1, f e.2))) : UnitsStay s t := by
  intro id u hu
  refine ⟨(f u).mon, (f u).code, ?_⟩
  rw [← hf u, State.unit?, h, SMap.look_map]
  exact congrArg (Option.map f) hu

theorem unitsStay_fireMonitors (s : State) (hit : UnitId → Bool) (sec : Nat) : UnitsStay s (fireMonitors s hit sec) := by
  refine .map (fireOne hit sec) (fun u => ?_) rfl
  unfold fireOne
  split
  · split <;> rfl
  · rfl

theorem unitsStay_putHome (s : State) (l : List (Nat × Byte)) : UnitsStay s (putHome s l) := by
  unfold putHome
  extract_lets s0 _ s1
  have h0 : UnitsStay s s0 := .map (fun u => u.keepOld s l) (fun _ => rfl) rfl
  have h1 : UnitsStay s0 s1 := .of_units rfl
  exact (h0.trans h1).trans (.foldl _ (fun t sec => unitsStay_fireMonitors t _ sec) _ _)

theorem unitsStay_syncBell (s : State) (q : HwQueue) : UnitsStay s (syncBell s q) := by
  unfold syncBell
  split
  · exact .refl s
  · exact unitsStay_putHome s _

theorem unitsStay_setQueue (s : State) (k : Nat) (q : HwQueue) : UnitsStay s (setQueue s k q) := by
  unfold setQueue
  extract_lets s1
  have h1 : UnitsStay s s1 := .of_units rfl
  split
  · split
    · exact h1
    · exact h1.trans (unitsStay_syncBell s1 q)
  · exact h1.trans (unitsStay_syncBell s1 q)

theorem unitsStay_writeHome (s : State) (l : List (Nat × Byte)) : UnitsStay s (writeHome s l) := by
  refine (unitsStay_putHome s l).trans (.foldl _ (fun t e => ?_) _ _)
  dsimp only
  split
  · exact unitsStay_setQueue t _ _
  · exact .refl t

/-- Neither a unit nor a byte of global SRAM, HBM4 or the far tier changes; a monitor may fire, and a mirror may change. -/
structure Quiet (s t : State) : Prop where
  units : UnitsStay s t
  home : sameHome s t

theorem Quiet.refl (s : State) : Quiet s s := ⟨.refl s, rfl, rfl, rfl⟩

theorem Quiet.of_eq {s t : State} (hu : t.units = s.units) (hm : t.mem = s.mem) : Quiet s t :=
  ⟨.of_units hu, by rw [hm], by rw [hm], by rw [hm]⟩

theorem sameHome.trans {s t r : State} (h : sameHome s t) (h' : sameHome t r) : sameHome s r :=
  ⟨h'.1.trans h.1, h'.2.1.trans h.2.1, h'.2.2.trans h.2.2⟩

theorem Quiet.trans {s t r : State} (h : Quiet s t) (h' : Quiet t r) : Quiet s r :=
  ⟨h.units.trans h'.units, h.home.trans h'.home⟩

theorem Quiet.foldl {β : Type} (f : State → β → State) (hf : ∀ t b, Quiet t (f t b)) (l : List β) (s : State) :
    Quiet s (l.foldl f s) := by
  induction l generalizing s with
  | nil => exact .refl s
  | cons b t ih => exact (hf s b).trans (ih _)

theorem Quiet.ite {c : Prop} [Decidable c] {s t r : State} (ht : Quiet s t) (hr : Quiet s r) : Quiet s (if c then t else r) := by
  split <;> assumption

theorem quiet_mirrorBit (s : State) (d line : Nat) (b : Bool) : Quiet s (mirrorBit s d line b) :=
  ⟨.of_units rfl, rfl, rfl, rfl⟩

theorem quiet_evictLine (s : State) (d line : Nat) : Quiet s (evictLine s d line) := ⟨.of_units rfl, rfl, rfl, rfl⟩

theorem quiet_takeLine (s : State) (d line : Nat) : Quiet s (takeLine s d line) := by
  unfold takeLine
  extract_lets c s1
  have h0 : Quiet s { s with free := s.free + 1 } := .of_eq rfl rfl
  have h1 : Quiet s s1 := .ite (.refl s) (h0.trans (quiet_evictLine _ d _))
  exact .ite (.refl s) (h1.trans (quiet_mirrorBit s1 d line true))

theorem quiet_touchMirror (s : State) (d a : Nat) : Quiet s (touchMirror s d a) := .ite (.refl s) (quiet_takeLine s d _)

theorem quiet_fireDie (s : State) (d sec : Nat) : Quiet s (fireDie s d sec) :=
  ⟨unitsStay_fireMonitors s _ sec, rfl, rfl, rfl⟩

theorem quiet_sendOut (s : State) : Quiet s (sendOut s) :=
  .foldl sendOne (fun _ _ => .of_eq rfl rfl) _ s

theorem quiet_sendStore (s : State) (x : PStore) : Quiet s (sendStore s x) := by
  unfold sendStore
  extract_lets sec l _ s1
  have h0 : Quiet s { s with fl := { s.fl with stores := l, seq := s.fl.seq + 1 } } := .of_eq rfl rfl
  have h1 : Quiet s s1 := h0.trans (quiet_sendOut _)
  exact .ite ((h1.trans (quiet_takeLine s1 _ _)).trans (quiet_fireDie _ _ _)) h1

theorem quiet_releaseSet (s : State) (u : Unit) : Quiet s (releaseSet s u) := by
  refine .foldl _ (fun t v => ?_) _ s
  unfold releaseStores
  split
  · exact .refl t
  · exact .foldl _ (fun r p => .ite (quiet_sendStore r p) (.refl r)) _ t

theorem quiet_onShadow (s : State) (u : Unit) (p : Pend) (f : Unit → Unit) : Quiet s (onShadow s u p f) := by
  unfold onShadow
  split
  · exact .refl s
  · exact .ite (.of_eq rfl rfl) (.refl s)

end Sys2Proof.Machine

namespace Sys2Proof.Machine

/-! ## The results of a stream, written by their event -/

section
variable {s : State} {id : UnitId} {v : Unit} (hu : s.unit? id = some v) (st : Strm)
include hu

theorem exec_fixedResultWrite_due (hw : v.written st (pulses s id.core) = true) :
    exec (.fixedResultWrite id st) s = .next (s.setUnit (v.landOf st)) := by
  dsimp only [exec, execFixedResultWrite]
  simp only [hu, hw, if_true]

theorem exec_fixedResultWrite_notDue (hw : v.written st (pulses s id.core) = false) :
    exec (.fixedResultWrite id st) s = .next s := by
  dsimp only [exec, execFixedResultWrite]
  simp [hu, hw]

end

section
variable {v : Unit} {n : Nat}

theorem Unit.written_s (hm : v.sS.marked = true) (hd : ∀ f ∈ v.sS.fly, f.due ≤ n) : v.written .s n = true := by
  simp only [Unit.written, hm, Bool.true_or, Bool.true_and, List.all_eq_true]
  exact fun f hf => decide_eq_true (hd f hf)

theorem Unit.written_slot {i : Bool} (hm : (v.slot i).marked = true) (hd : ∀ f ∈ (v.slot i).fly, f.due ≤ n) :
    v.written (slotStrm i) n = true := by
  have key : (v.slot i).fly.all (fun f => decide (f.due ≤ n)) = true := List.all_eq_true.mpr fun f hf => decide_eq_true (hd f hf)
  cases i with
  | false =>
    replace hm : v.lS.slot0.marked = true := hm
    exact Bool.and_eq_true_iff.mpr ⟨by rw [hm]; rfl, key⟩
  | true =>
    replace hm : v.lS.slot1.marked = true := hm
    exact Bool.and_eq_true_iff.mpr ⟨by rw [hm]; rfl, key⟩

theorem Unit.written_s_unmarked (hm : v.sS.marked = false) (hp : v.sS.park = none) : v.written .s n = false := by
  simp [Unit.written, Unit.parkOf, hm, hp]

theorem Unit.written_s_late (hd : ∃ f ∈ v.sS.fly, n < f.due) : v.written .s n = false := by
  obtain ⟨f, hf, hn⟩ := hd
  have : (v.sS.fly.all fun f => decide (f.due ≤ n)) = false :=
    List.all_eq_false.mpr ⟨f, hf, by simpa using hn⟩
  simp [Unit.written, this]

end

section
variable (v : Unit)

theorem Unit.landsTo_landS : v.sCleared.LandsTo v.landS := v.sCleared.landsTo_landAll false v.sS.fly

@[simp] theorem Unit.landS_id : v.landS.id = v.id := v.landsTo_landS.id
@[simp] theorem Unit.landS_pend : v.landS.pend = v.pend := v.landsTo_landS.pend
@[simp] theorem Unit.landS_trap : v.landS.trap = v.trap := v.landsTo_landS.trap
@[simp] theorem Unit.landS_spc : v.landS.sS.spc = v.sS.spc := v.landsTo_landS.spc
@[simp] theorem Unit.landS_fly : v.landS.sS.fly = [] := v.landsTo_landS.sFly
@[simp] theorem Unit.landS_marked : v.landS.sS.marked = false := v.landsTo_landS.sMarked

variable (i : Bool)

/-- A path slot with nothing in flight, after what it holds for the other one was written. -/
def Unit.slotCleared : Unit :=
  (v.landMoved i).setSlot i { (v.landMoved i).slot i with fly := [], marked := false, shade := [], shadeQ := [] }

theorem Unit.landsTo_landSlot : (v.slotCleared i).LandsTo (v.landSlot i) := Unit.landsTo_landAll _ i (v.slot i).fly

theorem Unit.landMoved_landsTo : ∃ x, (v.setSlot (!i) x).LandsTo (v.landMoved i) := by
  unfold Unit.landMoved
  split
  · exact ⟨_, Unit.landsTo_landAll _ _ _⟩
  · exact ⟨v.slot (!i), by rw [v.setSlot_slot]; exact .refl v⟩

@[simp] theorem Unit.landSlot_id : (v.landSlot i).id = v.id := by
  obtain ⟨x, h⟩ := v.landMoved_landsTo i
  rw [(v.landsTo_landSlot i).id, Unit.slotCleared, Unit.setSlot_id, h.id, Unit.setSlot_id]

@[simp] theorem Unit.setSlot_trap (j : Bool) (x : Slot) : (v.setSlot j x).trap = v.trap := by cases j <;> rfl
@[simp] theorem Unit.setSlot_pend (j : Bool) (x : Slot) : (v.setSlot j x).pend = v.pend := by cases j <;> rfl

@[simp] theorem Unit.landSlot_trap : (v.landSlot i).trap = v.trap := by
  obtain ⟨x, h⟩ := v.landMoved_landsTo i
  rw [(v.landsTo_landSlot i).trap, Unit.slotCleared, Unit.setSlot_trap, h.trap, Unit.setSlot_trap]

@[simp] theorem Unit.landSlot_spc : (v.landSlot i).sS.spc = v.sS.spc := by
  obtain ⟨x, h⟩ := v.landMoved_landsTo i
  rw [(v.landsTo_landSlot i).spc, Unit.slotCleared, Unit.setSlot_sS, h.spc, Unit.setSlot_sS]

@[simp] theorem Unit.landSlot_fly : ((v.landSlot i).slot i).fly = [] := by
  rw [(v.landsTo_landSlot i).fly, Unit.slotCleared, Unit.slot_setSlot, if_pos rfl]

@[simp] theorem Unit.landSlot_marked : ((v.landSlot i).slot i).marked = false := by
  rw [(v.landsTo_landSlot i).marked, Unit.slotCleared, Unit.slot_setSlot, if_pos rfl]

variable {v i}

/-- A slot that holds nothing of before the division for the other one. -/
theorem Unit.movedFly_nil (h : v.sibling (!i) = true → ∀ f ∈ (v.slot (!i)).fly, (v.slot (!i)).earlier f = false) :
    v.movedFly i = [] := by
  unfold Unit.movedFly
  split
  · next hs => exact List.filter_eq_nil_iff.mpr fun f hf e => by rw [h hs f hf] at e; cases e
  · rfl

theorem Unit.em_landMoved (h : v.movedFly i = []) : ((v.landMoved i).slot i).em = (v.slot i).em := by
  unfold Unit.movedFly at h
  unfold Unit.landMoved
  split
  · next hs =>
    rw [if_pos hs] at h
    simp only [h]
    exact congrArg Slot.em ((Unit.slot_setSlot v (!i) i _).trans (if_neg (by cases i <;> decide)))
  · rfl

theorem Unit.em_landSlot (h : v.movedFly i = []) :
    ((v.landSlot i).slot i).em = (v.slot i).fly.foldl (fun a f => f.res.onEm a) (v.slot i).em := by
  rw [Unit.landSlot, Unit.em_landAll, Unit.slot_setSlot, if_pos rfl]
  exact congrArg (fun a => List.foldl _ a _) (Unit.em_landMoved h)

end

theorem Unit.landOf_slotStrm (v : Unit) (i : Bool) : v.landOf (slotStrm i) = v.landSlot i := by cases i <;> rfl

/-- The machine after a unit was put back at its own place, as the place reads. -/
theorem unit?_setUnit_id (s : State) {y : Unit} {id : UnitId} (h : y.id = id) : (s.setUnit y).unit? id = some y := by
  subst h
  exact unit?_setUnit_self s y

section
variable {s : State} {id : UnitId} {v : Unit} (hu : s.unit? id = some v) (hid : v.id = id)
include hu hid

/-- The S-stream's results are written when a marker holds it and all latencies have ended. -/
theorem exec_fixedResultWrite_s (hm : v.sS.marked = true) (hd : ∀ f ∈ v.sS.fly, f.due ≤ pulses s id.core) :
    exec (.fixedResultWrite id .s) s = .next (s.setUnit v.landS) ∧ (s.setUnit v.landS).unit? id = some v.landS :=
  ⟨exec_fixedResultWrite_due hu .s (v.written_s hm hd), unit?_setUnit_id s (v.landS_id.trans hid)⟩

theorem exec_fixedResultWrite_slot (i : Bool) (hm : (v.slot i).marked = true)
    (hd : ∀ f ∈ (v.slot i).fly, f.due ≤ pulses s id.core) :
    exec (.fixedResultWrite id (slotStrm i)) s = .next (s.setUnit (v.landSlot i)) ∧
      (s.setUnit (v.landSlot i)).unit? id = some (v.landSlot i) :=
  ⟨(exec_fixedResultWrite_due hu (slotStrm i) (v.written_slot hm hd)).trans (by rw [v.landOf_slotStrm]),
    unit?_setUnit_id s ((v.landSlot_id i).trans hid)⟩

end

/-- One result for an `s` register, written. -/
theorem Unit.landS_one_s {v : Unit} {n w : Nat} {d : SReg} {x : Word} (h : v.sS.fly = [⟨n, w, .s d x⟩]) :
    v.landS = v.sCleared.ws d x := by rw [v.landS_eq, h]; rfl

theorem Unit.landS_one_p {v : Unit} {n w : Nat} {d : PReg} {b : Bool} (h : v.sS.fly = [⟨n, w, .p d b⟩]) :
    v.landS = v.sCleared.wp d b := by rw [v.landS_eq, h]; rfl

end Sys2Proof.Machine

namespace Sys2Proof.Machine

/-! ## Entering a handler -/

/-- A fold whose every step leaves what `g` reads leaves it. -/
theorem foldl_keeps {α β γ : Type} (g : α → γ) (f : α → β → α) (hf : ∀ a b, g (f a b) = g a) (l : List β) (a : α) :
    g (l.foldl f a) = g a := by
  induction l generalizing a with
  | nil => rfl
  | cons b t ih => rw [List.foldl_cons, ih, hf]

@[simp] theorem Unit.ws_trap (u : Unit) (d : SReg) (x : Word) : (u.ws d x).trap = u.trap := by unfold Unit.ws; split <;> rfl
@[simp] theorem Unit.ws_spc (u : Unit) (d : SReg) (x : Word) : (u.ws d x).sS.spc = u.sS.spc := by
  unfold Unit.ws; split <;> rfl

@[simp] theorem Unit.zeroDst_trap (u : Unit) (d : PDst) (m : Mask) : (u.zeroDst d m).trap = u.trap := by
  unfold Unit.zeroDst
  split
  · rfl
  · exact u.ws_trap _ _
  · refine foldl_keeps Unit.trap _ (fun _ _ => ?_) _ u
    rfl

@[simp] theorem Unit.zeroDst_id (u : Unit) (d : PDst) (m : Mask) : (u.zeroDst d m).id = u.id := by
  unfold Unit.zeroDst
  split
  · rfl
  · exact u.ws_id _ _
  · refine foldl_keeps Unit.id _ (fun _ _ => ?_) _ u
    rfl

@[simp] theorem Unit.flipPend_trap (u : Unit) (p : Pend) : (u.flipPend p).trap = u.trap := by
  refine foldl_keeps Unit.trap _ (fun t f => ?_) _ u
  cases p.dst with
  | none => rfl
  | s r => exact t.ws_trap _ _
  | v r n => rfl

@[simp] theorem Unit.flipPend_id (u : Unit) (p : Pend) : (u.flipPend p).id = u.id := by
  refine foldl_keeps Unit.id _ (fun t f => ?_) _ u
  cases p.dst with
  | none => rfl
  | s r => exact t.ws_id _ _
  | v r n => rfl

@[simp] theorem Unit.zeroPend_trap (u : Unit) (k : Nat) : (u.zeroPend k).trap = u.trap := by
  unfold Unit.zeroPend
  split
  · rfl
  · rw [Unit.flipPend_trap, Unit.zeroDst_trap]

@[simp] theorem Unit.zeroPend_id (u : Unit) (k : Nat) : (u.zeroPend k).id = u.id := by
  unfold Unit.zeroPend
  split
  · rfl
  · rw [Unit.flipPend_id, Unit.zeroDst_id]

@[simp] theorem Unit.landEvery_id (u : Unit) : u.landEvery.id = u.id := by simp [Unit.landEvery]
@[simp] theorem Unit.landEvery_trap (u : Unit) : u.landEvery.trap = u.trap := by simp [Unit.landEvery]

section
variable (u : Unit) (st : Strm) (seq : Nat) (h : Handler) (save : Nat) (f : Frame)

theorem Unit.entered_id : (u.entered st seq h save f).id = u.id := by simp [Unit.entered]
theorem Unit.entered_spc : (u.entered st seq h save f).sS.spc = h.entry := by simp [Unit.entered]
theorem Unit.entered_tcause : (u.entered st seq h save f).trap.tcause = f.tcause := by simp [Unit.entered]
theorem Unit.entered_taddr : (u.entered st seq h save f).trap.taddr = BitVec.ofNat 64 f.addr := by simp [Unit.entered]
theorem Unit.entered_tinfo : (u.entered st seq h save f).trap.tinfo = BitVec.ofNat 64 f.info := by simp [Unit.entered]
theorem Unit.entered_imp : (u.entered st seq h save f).trap.imp = u.trap.imp := by simp [Unit.entered]

end

section
variable (f : Frame)

theorem Frame.tcause_toNat : f.tcause.toNat =
    2 ^ 31 + (if f.precise then 2 ^ 17 else 0) + (if f.lbit then 2 ^ 16 else 0) + f.cause % 2 ^ 16 := by
  rw [Frame.tcause, BitVec.toNat_ofNat]
  refine Nat.mod_eq_of_lt ?_
  split <;> split <;> omega

theorem Frame.tcause_cause : f.tcause.toNat % 2 ^ 16 = f.cause % 2 ^ 16 := by
  rw [f.tcause_toNat]
  split <;> split <;> omega

theorem Frame.tcause_handler : tb f.tcause.toNat 31 = true := by
  rw [f.tcause_toNat, tb, decide_eq_true_eq]
  split <;> split <;> omega

theorem Frame.tcause_precise : f.tcause.getLsbD 17 = f.precise := by
  rw [BitVec.getLsbD, f.tcause_toNat, Nat.testBit_eq_decide_div_mod_eq, Bool.eq_iff_iff, decide_eq_true_iff]
  cases f.precise <;> cases f.lbit <;> simp <;> omega

end

/-- The unit in its handler, with all of the frame that its trap registers hold. -/
structure Entered (y : Unit) (h : Handler) (f : Frame) : Prop where
  inHandler : y.inHandler = true
  spc : y.sS.spc = h.entry
  cause : y.trap.tcause.toNat % 2 ^ 16 = f.cause % 2 ^ 16
  precise : y.trap.tcause.getLsbD 17 = f.precise
  addr : y.trap.taddr = BitVec.ofNat 64 f.addr
  info : y.trap.tinfo = BitVec.ofNat 64 f.info

theorem Entered.stay {y : Unit} {h : Handler} {f : Frame} (he : Entered y h f) (m : Option Monitor) (c : List OldWord) :
    Entered { y with mon := m, code := c } h f := ⟨he.inHandler, he.spc, he.cause, he.precise, he.addr, he.info⟩

theorem Unit.entered_entered (u : Unit) (st : Strm) (seq : Nat) (h : Handler) (save : Nat) (f : Frame) :
    Entered (u.entered st seq h save f) h f where
  inHandler := by rw [Unit.inHandler, Unit.entered_tcause]; exact f.tcause_handler
  spc := u.entered_spc st seq h save f
  cause := by rw [Unit.entered_tcause]; exact f.tcause_cause
  precise := by rw [Unit.entered_tcause]; exact f.tcause_precise
  addr := u.entered_taddr st seq h save f
  info := u.entered_tinfo st seq h save f

theorem enterTrap_unit (s : State) (u : Unit) (st : Strm) (h : Handler) (off : Nat) (f : Frame) :
    ∃ y, (enterTrap s u st h off f).unit? u.id = some y ∧ Entered y h f ∧ y.trap.imp = u.trap.imp := by
  have he := u.entered_entered st s.fl.seq h (saveArea u off) f
  have hid := u.entered_id st s.fl.seq h (saveArea u off) f
  have hi := u.entered_imp st s.fl.seq h (saveArea u off) f
  unfold enterTrap
  extract_lets save s1 _ s2
  obtain ⟨e, hes⟩ : ∃ e, u.entered st s.fl.seq h save f = e := ⟨_, rfl⟩
  rw [hes] at he hid hi
  have h1 : s1.unit? u.id = some e := by
    unfold s1
    rw [hes]
    exact unit?_setUnit_id s hid
  have h2 : s2.unit? u.id = s1.unit? u.id := rfl
  obtain ⟨m, c, hy⟩ := unitsStay_writeHome s2 (bytesAt save (f.bytes s.tclk)) u.id e (h2.trans h1)
  exact ⟨_, hy, he.stay m c, hi⟩

theorem enterDue_unit (s : State) (u : Unit) (h : Handler) (off : Nat) (d : Due) :
    ∃ y f, (s.enterDue u h off d).unit? u.id = some y ∧ Entered y h f ∧ y.trap.imp = u.trap.imp ∧
      f.cause = d.frame.cause ∧ f.precise = d.frame.precise ∧ f.addr = d.frame.addr ∧ f.info = d.frame.info := by
  unfold State.enterDue
  extract_lets s' w v _ f
  have hw : w.id = u.id ∧ w.trap = u.trap := by
    unfold w
    split
    · exact ⟨u.zeroPend_id _, u.zeroPend_trap _⟩
    · exact ⟨rfl, rfl⟩
  have hv : v.id = u.id ∧ v.trap = u.trap := by
    unfold v
    split
    · exact ⟨(w.zeroDst_id _ _).trans hw.1, (w.zeroDst_trap _ _).trans hw.2⟩
    · exact hw
  have hf : f.cause = d.frame.cause ∧ f.precise = d.frame.precise ∧ f.addr = d.frame.addr ∧ f.info = d.frame.info := by
    unfold f
    split <;> exact ⟨rfl, rfl, rfl, rfl⟩
  obtain ⟨y, hy, he, hi⟩ := enterTrap_unit s' v d.strm h off f
  rw [hv.1] at hy
  exact ⟨y, f, hy, he, hi.trans (congrArg Trap.imp hv.2), hf⟩

end Sys2Proof.Machine

namespace Sys2Proof.Machine

/-! ## Bytes and numbers -/

theorem readN_congr {f g : Nat → Byte} (n a : Nat) (h : ∀ k, k < n → f (a + k) = g (a + k)) : readN f n a = readN g n a := by
  induction n generalizing a with
  | zero => rfl
  | succ n ih =>
    rw [readN, readN, show f a = g a from h 0 (Nat.succ_pos n), ih (a + 1) fun k hk => ?_]
    rw [Nat.add_assoc, Nat.add_comm 1]
    exact h (k + 1) (Nat.succ_lt_succ hk)

@[simp] theorem readN_length (f : Nat → Byte) (n a : Nat) : (readN f n a).length = n := by
  induction n generalizing a with
  | zero => rfl
  | succ n ih => rw [readN, List.length_cons, ih]

theorem leNat_lt (l : List Byte) : leNat l < 256 ^ l.length := by
  induction l with
  | nil => exact Nat.one_pos
  | cons b t ih =>
    have := b.isLt
    rw [leNat, List.length_cons, Nat.pow_succ]
    omega

/-- A number is that of its bytes, taken from it field by field. -/
theorem leNat_bytes (n x : Nat) : leNat ((List.range n).map (fun k => BitVec.ofNat 8 (fld x (8 * k) 8))) = x % 256 ^ n := by
  induction n generalizing x with
  | zero => simp [leNat, Nat.mod_one]
  | succ n ih =>
    have step : ∀ k, fld x (8 * (k + 1)) 8 = fld (x / 256) (8 * k) 8 := fun k => by
      rw [fld, fld, Nat.div_div_eq_div_mul, show 2 ^ (8 * (k + 1)) = 256 * 2 ^ (8 * k) by rw [Nat.mul_add, Nat.pow_add]; omega]
    have head : (BitVec.ofNat 8 (fld x (8 * 0) 8)).toNat = x % 256 := by simp [fld]
    rw [List.range_succ_eq_map, List.map_cons, List.map_map, leNat, head]
    simp only [Function.comp_def, Nat.succ_eq_add_one, step]
    rw [ih, Nat.pow_succ', Nat.mod_mul]

/-- The entry of a table made from a list without repeated keys. -/
theorem look_map_of_mem {α β : Type} (l : List (Nat × α)) (f : Nat × α → β) (hn : (l.map (fun e => e.1)).Nodup) {e : Nat × α}
    (he : e ∈ l) : SMap.look (l.map (fun e => (e.1, f e))) e.1 = some (f e) := by
  induction l with
  | nil => cases he
  | cons x t ih =>
    rw [List.map_cons, List.nodup_cons] at hn
    rw [List.map_cons, SMap.look]
    rcases List.mem_cons.mp he with rfl | ht
    · rw [if_pos rfl]
    · rw [if_neg, ih hn.2 ht]
      intro hx
      exact hn.1 (List.mem_map.mpr ⟨e, ht, hx.symm⟩)

/-! ## What a pending result delivers -/

theorem newest_none (key : PStore → Nat) (l : List PStore) (a : Nat) (h : ∀ p ∈ l, SMap.look p.bytes a = none) :
    newest key l a = none := by
  refine congrArg (Option.map _) (foldl_eq_self l none fun p hp x => ?_)
  rw [h p hp]

/-- A load of bytes that no store holds back reads them from home. -/
theorem memVal_home (s : State) (u : Unit) (st : Strm) (id n a : Nat)
    (h : ∀ q ∈ s.fl.stores, ∀ k, k < n → SMap.look q.bytes (a + k) = none) :
    memVal s u st id n a = leNat (readN (homeByte s) n a) := by
  rw [memVal, readN_congr n a fun k hk => ?_]
  rw [loadByte, newest_none _ _ _ fun p hp => h p (List.mem_of_mem_filter hp) k hk]
  rfl

/-- With no held entry, a load delivers its bytes, extended by its type. -/
theorem heldOver_plain {u : Unit} (h : u.assay.held = []) (id n : Nat) (sgn : Bool) (d : PDst) (a raw : Nat) (hr : raw < 256 ^ n) :
    heldOver u id [] n sgn d a raw = extLoad n sgn d.width raw := by
  have key : ∀ k, u.heldAt id (a + k) = none := fun k => by rw [Unit.heldAt, h]; rfl
  simp only [heldOver, key, SMap.look_nil, Option.getD_none]
  rw [leNat_bytes, Nat.mod_eq_of_lt hr]

end Sys2Proof.Machine

namespace Sys2Proof.Machine

/-! ## A pending result arrives -/

theorem Unit.putRes_id (u : Unit) (p : Pend) (m : Mask) (vals : List (Nat × Nat)) : (u.putRes p m vals).id = u.id := by
  unfold Unit.putRes
  split
  · rfl
  · dsimp only
    split
    · split <;> rfl
    · exact Unit.ws_id _ _ _
  · refine foldl_keeps Unit.id _ (fun t k => ?_) _ (u.cut _ m)
    dsimp only
    split
    · rfl
    · unfold Unit.noteV
      split
      · exact t.setSlot_id _ _
      · rfl

/-- An `s` register that a result of the running program arrives for. -/
theorem Unit.putRes_rs {u : Unit} {p : Pend} {d : SReg} (hd : p.dst = .s d) (hs : p.saved = false) (m : Mask)
    (vals : List (Nat × Nat)) (r : SReg) : (u.putRes p m vals).rs r =
      if r = 0 then 0 else if r = d then BitVec.ofNat 64 ((SMap.look vals 0).getD 0) else u.rs r := by
  unfold Unit.putRes
  rw [hd]
  simp only [hs, Bool.false_eq_true, if_false]
  exact Unit.rs_ws _ d r _

theorem Unit.rv_wv (u : Unit) (d : Nat) (m : Mask) (x : List Half) (r l : Nat) (hl : l < 32) :
    (u.wv d m x).rv r l = if r = d ∧ m.getLsbD l = true then x.getD l (u.rv r l) else u.rv r l := by
  unfold Unit.wv Unit.rv
  rw [Unit.dirt_lS, get_wvFrom _ _ _ _ _ _ _ hl]
  exact if_congr (by simp) rfl rfl

theorem Unit.noteV_rv (u : Unit) (i : Bool) (w d : Nat) (m : Mask) (r l : Nat) : (u.noteV i w d m).rv r l = u.rv r l := by
  unfold Unit.noteV
  split
  · exact Unit.rv_congr (u.setSlot_v _ _) r l
  · rfl

theorem regVals_getD (vals : List (Nat × Nat)) (k l : Nat) (hl : l < 32) (x : Half) :
    (regVals vals k).getD l x = BitVec.ofNat 32 ((SMap.look vals l).getD 0 / 2 ^ (32 * k)) := by
  rw [regVals, List.getD_eq_getElem _ _ (by simpa using hl)]
  simp

/-- A lane of the `v` registers that a result arrives for: each of them takes its part of the value. -/
theorem Unit.putRes_rv {u : Unit} {p : Pend} {d n : Nat} (hd : p.dst = .v d n) (m : Mask) (vals : List (Nat × Nat))
    (r l : Nat) (hl : l < 32) : (u.putRes p m vals).rv r l = (List.range n).foldl (fun a k =>
      if r = d + k ∧ m.getLsbD l = true then BitVec.ofNat 32 ((SMap.look vals l).getD 0 / 2 ^ (32 * k)) else a) (u.rv r l) := by
  unfold Unit.putRes
  rw [hd]
  refine (List.foldl_hom (f := fun v : Unit => v.rv r l) fun t k => ?_).symm
  dsimp only
  rw [Unit.rv_wv _ _ _ _ _ _ hl, regVals_getD _ _ _ hl, apply_ite (fun v : Unit => v.rv r l), Unit.noteV_rv, ite_self]

/-- A fold over a range that lets one number choose. -/
theorem foldl_range_pick {α : Type} (n k : Nat) (V : Nat → α) (a : α) (hk : k < n) :
    (List.range n).foldl (fun a j => if k = j then V j else a) a = V k := by
  induction n with
  | zero => omega
  | succ n ih =>
    rw [List.range_succ, List.foldl_append, List.foldl_cons, List.foldl_nil]
    split
    · next h => rw [h]
    · next h => exact ih (by omega)

section
variable {u : Unit} {p : Pend} {d n : Nat} (hd : p.dst = .v d n) (m : Mask) (vals : List (Nat × Nat))
include hd

theorem Unit.putRes_rv_in (k l : Nat) (hk : k < n) (hl : l < 32) (hm : m.getLsbD l = true) :
    (u.putRes p m vals).rv (d + k) l = BitVec.ofNat 32 ((SMap.look vals l).getD 0 / 2 ^ (32 * k)) := by
  rw [Unit.putRes_rv hd m vals _ _ hl]
  simp only [hm, Nat.add_left_cancel_iff, and_true]
  exact foldl_range_pick n k (fun j => BitVec.ofNat 32 ((SMap.look vals l).getD 0 / 2 ^ (32 * j))) _ hk

theorem Unit.putRes_rv_out (r l : Nat) (hl : l < 32) (h : m.getLsbD l = false ∨ r < d ∨ d + n ≤ r) :
    (u.putRes p m vals).rv r l = u.rv r l := by
  rw [Unit.putRes_rv hd m vals _ _ hl]
  refine foldl_eq_self _ _ fun k hk a => if_neg ?_
  have := List.mem_range.mp hk
  rintro ⟨hr, hm⟩
  rcases h with h | h
  · rw [h] at hm; cases hm
  · omega

end

/-- The unit `y` has taken the result `p`, with values `vals`, into the registers of `u`. -/
structure Took (u : Unit) (p : Pend) (vals : List (Nat × Nat)) (y : Unit) : Prop where
  rs : ∀ r, y.rs r = (u.putRes p p.act vals).rs r
  rv : ∀ r l, y.rv r l = (u.putRes p p.act vals).rv r l
  pend : ∀ q ∈ y.pend, q.id ≠ p.id

/-- A result that has come in full is written, and its entry is gone. -/
theorem arriveAll_took {s : State} {u : Unit} {p : Pend} (hp : u.pend.find? (fun q => decide (q.id = p.id)) = some p)
    (hf : p.flip = []) (vals mem : List (Nat × Nat)) :
    ∃ y, (arriveAll s u p vals mem).unit? u.id = some y ∧ Took u p vals y ∧ sameHome s (arriveAll s u p vals mem) := by
  unfold arriveAll
  extract_lets put s1 s2
  obtain ⟨w, hw⟩ : ∃ w, put u = w := ⟨_, rfl⟩
  have hwe : w = { u.putRes p p.act vals with pend := (u.putRes p p.act vals).pend.filter fun q => decide (q.id ≠ p.id) } := by
    rw [← hw]
    unfold put
    dsimp only
    rw [hp, Option.getD_some, Unit.flipPend, hf, List.foldl_nil]
  have hid : w.id = u.id := by rw [hwe]; exact u.putRes_id p _ vals
  have h0 : (s.setUnit w).unit? u.id = some w := unit?_setUnit_id s hid
  have h1 : Quiet (s.setUnit w) s1 := by unfold s1; rw [hw]; exact quiet_onShadow _ u p put
  have h2 : Quiet s1 s2 := by
    unfold s2
    split
    · exact .of_eq rfl rfl
    · exact .refl s1
  have hq : Quiet (s.setUnit w) (releaseSet s2 u) := (h1.trans h2).trans (quiet_releaseSet s2 u)
  obtain ⟨m, c, hy⟩ := hq.units u.id w h0
  have hh : sameHome s (s.setUnit w) := ⟨rfl, rfl, rfl⟩
  refine ⟨_, hy, ⟨fun r => ?_, fun r l => ?_, fun q hq => ?_⟩, hh.trans hq.home⟩
  · rw [hwe]; rfl
  · rw [hwe]; rfl
  · rw [hwe] at hq
    simpa using (List.mem_filter.mp hq).2

end Sys2Proof.Machine

namespace Sys2Proof.Machine

/-- Learning of releases touches only what the touchstone keeps. -/
theorem learnPairs_keeps {γ : Type} (g : Unit → γ) (hg : ∀ v a b, g { v with tsPairs := a, tsOver := b } = g v)
    (s : State) (u : Unit) (l : List (Nat × Nat)) : g (learnPairs s u l) = g u := by
  unfold learnPairs
  split
  · rfl
  · split
    · rfl
    · refine foldl_keeps g _ (fun v e => ?_) l u
      split
      · split
        · split
          · exact hg v _ _
          · exact hg v _ _
        · rfl
      · rfl

theorem zip_map_self {α β : Type} (g : α → β) (l : List α) : l.zip (l.map g) = l.map (fun e => (e, g e)) := by
  induction l with
  | nil => rfl
  | cons e l ih => rw [List.map_cons, List.zip_cons_cons, ih, List.map_cons]

section
variable {s : State} {v : Unit} {p : Pend} (hp : v.pend.find? (fun q => decide (q.id = p.id)) = some p)
include hp

/-- A load of sound bytes that no store holds back arrives with what the home holds. -/
theorem arrive_load {accs : List (Nat × Nat)} {n : Nat} {sgn : Bool} (hw : p.what = .ldg accs n sgn)
    (hr : readsHome s v p n accs) :
    ∃ y u, (arrive s v p).unit? v.id = some y ∧ sameHome s (arrive s v p) ∧ u.sS = v.sS ∧ u.lS = v.lS ∧
      Took u p (accs.map (fun e => (e.1, extLoad n sgn p.dst.width (leNat (readN (homeByte s) n e.2))))) y := by
  obtain ⟨hsaved, hflip, hown, hshare, hheld, hsound⟩ := hr
  have hbad : accs.filter (fun e => sectorBad s v.die e.2) = [] :=
    List.filter_eq_nil_iff.mpr fun e he h => by rw [(hsound e he).1] at h; cases h
  have hgood : accs.filter (fun e => !sectorBad s v.die e.2) = accs :=
    List.filter_eq_self.mpr fun e he => by rw [(hsound e he).1]; rfl
  have hval : ∀ e ∈ accs, heldOver v p.id p.own n sgn p.dst e.2 (memVal s v p.strm p.id n e.2) =
      extLoad n sgn p.dst.width (leNat (readN (homeByte s) n e.2)) := fun e he => by
    rw [memVal_home s v _ _ n e.2 (hsound e he).2, hown, heldOver_plain hheld]
    simpa using leNat_lt (readN (homeByte s) n e.2)
  have hvals : (accs.zip (accs.map (fun e => (e.1, memVal s v p.strm p.id n e.2)))).map
      (fun e => (e.1.1, heldOver v p.id p.own n sgn p.dst e.1.2 e.2.2)) =
      accs.map (fun e => (e.1, extLoad n sgn p.dst.width (leNat (readN (homeByte s) n e.2)))) := by
    rw [zip_map_self, List.map_map]
    exact List.map_congr_left fun e he => Prod.ext rfl (hval e he)
  unfold arrive
  rw [hw]
  dsimp -zeta only
  extract_lets bad good mem vals s1 u1 u2
  have h1 : Quiet s s1 := .foldl _ (fun t (e : Nat × Nat) => quiet_touchMirror t v.die e.2) _ s
  have keep {γ : Type} (g : Unit → γ) (hg : ∀ x a b, g { x with tsPairs := a, tsOver := b } = g x) : g u2 = g u1 := by
    unfold u2
    split
    · exact learnPairs_keeps g hg s u1 good
    · rfl
  have hid : u2.id = v.id := keep Unit.id fun _ _ _ => rfl
  have hpend : u2.pend = v.pend := keep Unit.pend fun _ _ _ => rfl
  obtain ⟨y, hy, ht, hh⟩ := arriveAll_took (s := s1) (u := u2) (p := p) (by rw [hpend]; exact hp) hflip vals mem
  have hv : vals = accs.map (fun e => (e.1, extLoad n sgn p.dst.width (leNat (readN (homeByte s) n e.2)))) := by
    unfold vals mem good
    rw [hgood, hvals]
  rw [show bad = [] from hbad]
  exact ⟨y, u2, hid ▸ hy, h1.home.trans hh, keep Unit.sS fun _ _ _ => rfl, keep Unit.lS fun _ _ _ => rfl, hv ▸ ht⟩

variable (hflip : p.flip = [])
include hflip

/-- A result of one value arrives. -/
theorem arriveOne_took (n : Nat) : ∃ y, (arriveOne s v p n).unit? v.id = some y ∧ Took v p [(0, n)] y ∧
    sameHome s (arriveOne s v p n) := arriveAll_took hp hflip _ _

end

end Sys2Proof.Machine

namespace Sys2Proof.Machine

/-! ## The events of results, clause by clause -/

/-- What a fixed-latency event leaves when it is due, the S-stream's registers apart. -/
theorem Unit.landS_one_s_regs {v : Unit} {n w : Nat} {d : SReg} {x : Word} (h : v.sS.fly = [⟨n, w, .s d x⟩]) :
    v.landS.rs d = (if d = 0 then 0 else x) ∧ (∀ r, r ≠ d → v.landS.rs r = v.rs r) ∧ ∀ p, v.landS.rp p = v.rp p := by
  rw [Unit.landS_one_s h]
  refine ⟨?_, fun r hr => ?_, fun p => v.sCleared.rp_ws d x p⟩
  · rw [Unit.rs_ws, if_pos rfl]
  · rw [Unit.rs_ws, if_neg hr]
    split
    · next h0 => rw [h0]; rfl
    · rfl

theorem Unit.landS_one_p_regs {v : Unit} {n w : Nat} {d : PReg} {b : Bool} (h : v.sS.fly = [⟨n, w, .p d b⟩]) :
    (d ≠ 0 → v.landS.rp d = b) ∧ (∀ p, p ≠ d → v.landS.rp p = v.rp p) ∧ ∀ r, v.landS.rs r = v.rs r := by
  rw [Unit.landS_one_p h]
  refine ⟨fun hd => ?_, fun p hp => ?_, fun r => v.sCleared.rs_wp d b r⟩
  · rw [Unit.rp_wp, if_neg hd, if_pos rfl]
  · rw [Unit.rp_wp, if_neg hp]
    split
    · next h0 => rw [h0]; rfl
    · rfl

section
variable {s : State} {id : UnitId} {v : Unit} (hu : s.unit? id = some v)
include hu

theorem exec_variableResultArrive_ready {p : Pend} (hp : v.pend.find? (fun q => decide (q.id = p.id)) = some p)
    (hr : pendReady s v p = true) : exec (.variableResultArrive id p.id) s = .next (arrive s v p) := by
  dsimp only [exec, execVariableResultArrive]
  simp only [hu, hp, hr, if_true]

/-- A trap that waits for results. -/
theorem exec_impreciseTrapTake_waits {d : Due} (hd : v.trap.due = some d) (hs : v.stopped = false) (ht : v.settled = false) :
    exec (.impreciseTrapTake id) s = .next s := by
  dsimp only [exec, execImpreciseTrapTake]
  simp [hu, hs, hd, finishTrap, ht]

variable (hid : v.id = id) {h : Handler} {off : Nat}
include hid

/-- A queued imprecise fault is taken, and leaves the queue. -/
theorem exec_impreciseTrapTake_queued {e : Imp} (hd : v.trap.due = none) (he : v.nextImp s.clk.now = some e)
    (hi : v.inHandler = false) (hs : v.stopped = false) (ht : v.settled = true) (hh : handlerOf s v = some (h, off)) :
    ∃ t y f, exec (.impreciseTrapTake id) s = .next t ∧ t.unit? id = some y ∧ Entered y h f ∧ y.trap.imp = v.trap.imp.erase e ∧
      f.cause = e.code ∧ f.precise = false ∧ f.addr = e.addr ∧ f.info = e.info := by
  have hc : v.committed = false := by
    rw [Unit.settled, Bool.and_eq_true, Bool.not_eq_true'] at ht
    simpa using ht.2
  obtain ⟨u1, hu1⟩ : ∃ u1, u1 = { v with trap := { v.trap with imp := v.trap.imp.erase e } } := ⟨_, rfl⟩
  have ht1 : u1.settled = true := by rw [hu1]; exact ht
  have key : ∃ d : Due, takeImp s v .s e = .next ((s.setUnit u1).enterDue u1 h off d) ∧
      d.frame.cause = e.code ∧ d.frame.precise = false ∧ d.frame.addr = e.addr ∧ d.frame.info = e.info := by
    unfold takeImp
    simp only [hh, ← hu1, ht1, if_true]
    exact ⟨_, rfl, rfl, rfl, rfl, rfl⟩
  obtain ⟨d, hdx, hd1, hd2, hd3, hd4⟩ := key
  obtain ⟨y, f, hy, hE, himp, hf1, hf2, hf3, hf4⟩ := enterDue_unit (s.setUnit u1) u1 h off d
  refine ⟨(s.setUnit u1).enterDue u1 h off d, y, f, ?_, ?_, hE, ?_, hf1.trans hd1, hf2.trans hd2, hf3.trans hd3, hf4.trans hd4⟩
  · dsimp only [exec, execImpreciseTrapTake]
    simp only [hu, hs, hd, he, hi, hc, Option.isSome_none, Bool.or_false, Bool.false_eq_true, if_false]
    exact hdx
  · rw [← hid]
    rw [hu1] at hy ⊢
    exact hy
  · rw [himp, hu1]

theorem exec_impreciseTrapTake_due {d : Due} (hd : v.trap.due = some d) (hs : v.stopped = false) (ht : v.settled = true)
    (hh : handlerOf s v = some (h, off)) :
    ∃ t y f, exec (.impreciseTrapTake id) s = .next t ∧ t.unit? id = some y ∧ Entered y h f ∧
      f.cause = d.frame.cause ∧ f.addr = d.frame.addr ∧ f.info = d.frame.info := by
  obtain ⟨y, f, hy, hE, -, hf1, -, hf3, hf4⟩ := enterDue_unit s v h off d
  refine ⟨s.enterDue v h off d, y, f, ?_, hid ▸ hy, hE, hf1, hf3, hf4⟩
  dsimp only [exec, execImpreciseTrapTake]
  simp only [hu, hs, hd, Option.isSome_some, Bool.false_eq_true, if_false, if_true]
  simp only [finishTrap, hd, ht, hh, Bool.not_true, Bool.false_eq_true, if_false]

end

section
variable {v : Unit} {i : Bool} (hm : v.sibling (!i) = true → ∀ f ∈ (v.slot (!i)).fly, (v.slot (!i)).earlier f = false)
include hm

/-- The results of an undivided slot land in its lanes in the order of issue. -/
theorem Unit.rv_landSlot_whole (hx : ∀ f ∈ (v.slot i).fly, ∀ d m x, f.res = .v d m x → x.length = 32) (r l : Nat) (hl : l < 32) :
    (v.landSlot i).rv r l = (v.slot i).fly.foldl (fun a f => match f.res with
      | .v d m x => if r = d ∧ m.getLsbD l = true then x.getD l 0 else a | _ => a) (v.rv r l) := by
  rw [Unit.rv_landSlot _ _ _ _ hl, Unit.movedFly_nil hm, List.nil_append]
  refine List.foldl_ext _ _ _ fun a f hf => ?_
  obtain ⟨n, w, res⟩ := f
  cases res with
  | v d m x =>
    have hlen : x.length = 32 := hx _ hf d m x rfl
    simp only [FRes.onV, List.getD_eq_getElem _ _ (show l < x.length by omega)]
  | _ => rfl

theorem Unit.rq_landSlot_whole (q : BitVec 3) (l : Nat) (hq : q ≠ 0) (hl : l < 32) :
    ((v.landSlot i).rq q).getLsbD l = (v.slot i).fly.foldl (fun a f => match f.res with
      | .q d m x => if d = q ∧ m.getLsbD l = true then x.getLsbD l else a | _ => a) ((v.rq q).getLsbD l) := by
  rw [Unit.rq_landSlot _ _ _ _ hq hl, Unit.movedFly_nil hm, List.nil_append]
  exact List.foldl_ext _ _ _ fun a f _ => rfl

theorem Unit.em_landSlot_whole : ((v.landSlot i).slot i).em =
    (v.slot i).fly.foldl (fun a f => match f.res with | .em k => a &&& k | _ => a) (v.slot i).em :=
  (Unit.em_landSlot (Unit.movedFly_nil hm)).trans (List.foldl_ext _ _ _ fun _ _ _ => rfl)

end

/-! ## What an arriving result delivers -/

/-- An `s` register took the one value of a result. -/
theorem Took.s {u : Unit} {p : Pend} {vals : List (Nat × Nat)} {y : Unit} (ht : Took u p vals y) {d : SReg} (hd : p.dst = .s d)
    (h0 : d ≠ 0) (hs : p.saved = false) :
    y.rs d = BitVec.ofNat 64 ((SMap.look vals 0).getD 0) ∧ ∀ r, r ≠ d → y.rs r = u.rs r := by
  refine ⟨?_, fun r hr => ?_⟩
  · rw [ht.rs, Unit.putRes_rs hd hs, if_neg h0, if_pos rfl]
  · rw [ht.rs, Unit.putRes_rs hd hs, if_neg hr]
    split
    · next h => rw [h]; rfl
    · rfl

section
variable {s : State} {v : Unit} {p : Pend} (hp : v.pend.find? (fun q => decide (q.id = p.id)) = some p) {d : SReg}
  (hd : p.dst = .s d) (h0 : d ≠ 0) (hs : p.saved = false) (hf : p.flip = [])
include hp hd h0 hs hf

/-- The event of a result of one value for an `s` register. -/
theorem arriveOne_s (n : Nat) : ∃ y, (arriveOne s v p n).unit? v.id = some y ∧ y.rs d = BitVec.ofNat 64 n ∧
    (∀ r, r ≠ d → y.rs r = v.rs r) ∧ (∀ q ∈ y.pend, q.id ≠ p.id) ∧ sameHome s (arriveOne s v p n) := by
  obtain ⟨y, hy, ht, hh⟩ := arriveOne_took hp hf n
  obtain ⟨hr, ho⟩ := ht.s hd h0 hs
  exact ⟨y, hy, hr, ho, ht.pend, hh⟩

/-- A mailbox read delivers the mailbox. -/
theorem arrive_mailbox {n : BitVec 2} (hw : p.what = .mailbox n) : ∃ y, (arrive s v p).unit? v.id = some y ∧
    y.rs d = v.mailbox s.clk.now n.toNat ∧ (∀ q ∈ y.pend, q.id ≠ p.id) ∧ sameHome s (arrive s v p) := by
  have ha : arrive s v p = arriveOne s v p (v.mailbox s.clk.now n.toNat).toNat := by rw [arrive, hw]
  rw [ha]
  obtain ⟨y, hy, hyd, -, hyp, hyh⟩ := arriveOne_s hp hd h0 hs hf (v.mailbox s.clk.now n.toNat).toNat
  exact ⟨y, hy, by rw [hyd, BitVec.ofNat_toNat, BitVec.setWidth_eq], hyp, hyh⟩

/-- A timeline read delivers its value. -/
theorem arrive_timeline {n : Nat} {x : Timeline} (hw : p.what = .tlr n) (ht : timelineOf s v.who.ctx n = some x) :
    ∃ y, (arrive s v p).unit? v.id = some y ∧ y.rs d = BitVec.ofNat 64 x.val ∧ (∀ q ∈ y.pend, q.id ≠ p.id) ∧
      sameHome s (arrive s v p) := by
  have hval : timelineVal s v.who.ctx n = x.val := by
    rw [timelineOf] at ht
    rw [timelineVal, ht]
  have ha : arrive s v p = arriveOne s v p x.val := by rw [arrive, hw, ← hval]
  rw [ha]
  obtain ⟨y, hy, hyd, -, hyp, hyh⟩ := arriveOne_s hp hd h0 hs hf x.val
  exact ⟨y, hy, hyd, hyp, hyh⟩

end

section
variable {s : State} {v : Unit} {p : Pend} (hp : v.pend.find? (fun q => decide (q.id = p.id)) = some p)
include hp

theorem arrive_load_s {a n : Nat} {sgn : Bool} {d : SReg} (hw : p.what = .ldg [(0, a)] n sgn) (hd : p.dst = .s d) (h0 : d ≠ 0)
    (hr : readsHome s v p n [(0, a)]) : ∃ y, (arrive s v p).unit? v.id = some y ∧
      y.rs d = BitVec.ofNat 64 (extLoad n sgn 64 (leNat (readN (homeByte s) n a))) ∧ (∀ r, r ≠ d → y.rs r = v.rs r) ∧
      (∀ q ∈ y.pend, q.id ≠ p.id) ∧ sameHome s (arrive s v p) := by
  obtain ⟨y, u, hy, hh, hS, -, ht⟩ := arrive_load hp hw hr
  obtain ⟨hd', ho⟩ := ht.s hd h0 hr.1
  refine ⟨y, hy, ?_, fun r h => (ho r h).trans (Unit.rs_congr hS r), ht.pend, hh⟩
  rw [hd', hd]
  rfl

theorem arrive_load_v {accs : List (Nat × Nat)} {n d m : Nat} {sgn : Bool} (hw : p.what = .ldg accs n sgn) (hd : p.dst = .v d m)
    (hn : (accs.map (fun e => e.1)).Nodup) (ha : ∀ e ∈ accs, e.1 < 32 ∧ p.act.getLsbD e.1 = true) (hr : readsHome s v p n accs) :
    ∃ y, (arrive s v p).unit? v.id = some y ∧
      (∀ e ∈ accs, ∀ k, k < m → y.rv (d + k) e.1 =
        BitVec.ofNat 32 (extLoad n sgn (32 * m) (leNat (readN (homeByte s) n e.2)) / 2 ^ (32 * k))) ∧
      (∀ r l, l < 32 → (p.act.getLsbD l = false ∨ r < d ∨ d + m ≤ r) → y.rv r l = v.rv r l) ∧
      (∀ q ∈ y.pend, q.id ≠ p.id) ∧ sameHome s (arrive s v p) := by
  obtain ⟨y, u, hy, hh, -, hL, ht⟩ := arrive_load hp hw hr
  refine ⟨y, hy, fun e he k hk => ?_, fun r l hl h => ?_, ht.pend, hh⟩
  · obtain ⟨hl, hact⟩ := ha e he
    rw [ht.rv, Unit.putRes_rv_in hd _ _ k _ hk hl hact, look_map_of_mem accs _ hn he, hd]
    rfl
  · rw [ht.rv, Unit.putRes_rv_out hd _ _ r l hl h]
    exact Unit.rv_congr (congrArg LSide.v hL) r l

end

/-- A mailbox that nothing wrote in this mclk, and one that something did. -/
theorem Unit.mailbox_same {v : Unit} {now n : Nat} (h : ∀ t x, SMap.look v.mbOld n = some (t, x) → t ≠ now) :
    v.mailbox now n = SMap.get 0 v.mbVal n := by
  unfold Unit.mailbox
  split
  · next t x hx => exact if_neg (h t x hx)
  · rfl

theorem Unit.mailbox_old {v : Unit} {now n : Nat} {x : Word} (h : SMap.look v.mbOld n = some (now, x)) : v.mailbox now n = x := by
  rw [Unit.mailbox, h]
  exact if_pos rfl

end Sys2Proof.Machine

namespace Sys2Proof.Machine

/-! ## The families of result events, as the obligation states them -/

section
variable {s : State} {id : UnitId} {v : Unit} (hu : s.unit? id = some v) (hid : v.id = id)
include hu hid

/-- The results of the S-stream, one in flight. -/
theorem fixedResultWrite_s_one (hm : v.sS.marked = true) (hd : ∀ f ∈ v.sS.fly, f.due ≤ pulses s id.core) :
    ∃ t y, exec (.fixedResultWrite id .s) s = .next t ∧ t.unit? id = some y ∧ y.sS.fly = [] ∧ y.sS.marked = false ∧
      t.mem = s.mem ∧ y.pend = v.pend ∧ y.sS.spc = v.sS.spc ∧
      (∀ d x due w, v.sS.fly = [⟨due, w, .s d x⟩] →
        y.rs d = (if d = 0 then 0 else x) ∧ (∀ r, r ≠ d → y.rs r = v.rs r) ∧ (∀ p, y.rp p = v.rp p)) ∧
      (∀ d b due w, v.sS.fly = [⟨due, w, .p d b⟩] →
        (d ≠ 0 → y.rp d = b) ∧ (∀ p, p ≠ d → y.rp p = v.rp p) ∧ (∀ r, y.rs r = v.rs r)) := by
  obtain ⟨hx, hy⟩ := exec_fixedResultWrite_s hu hid hm hd
  exact ⟨_, _, hx, hy, v.landS_fly, v.landS_marked, rfl, v.landS_pend, v.landS_spc,
    fun _ _ _ _ h => Unit.landS_one_s_regs h, fun _ _ _ _ h => Unit.landS_one_p_regs h⟩

/-- The results of the S-stream, in the order of issue. -/
theorem fixedResultWrite_s_all (hm : v.sS.marked = true) (hd : ∀ f ∈ v.sS.fly, f.due ≤ pulses s id.core) :
    ∃ t y, exec (.fixedResultWrite id .s) s = .next t ∧ t.unit? id = some y ∧ y.sS.fly = [] ∧ y.sS.marked = false ∧ t.mem = s.mem ∧
      (∀ d, d ≠ 0 → y.rs d = v.sS.fly.foldl (fun a f => match f.res with | .s r x => if r = d then x else a | _ => a) (v.rs d)) ∧
      (∀ d, d ≠ 0 → y.rp d = v.sS.fly.foldl (fun a f => match f.res with | .p r x => if r = d then x else a | _ => a) (v.rp d)) ∧
      (∀ n : BitVec 2, SMap.get 0 y.sS.kst n.toNat =
        v.sS.fly.foldl (fun a f => match f.res with | .kst r x => if r = n then x else a | _ => a) (SMap.get 0 v.sS.kst n.toNat)) := by
  obtain ⟨hx, hy⟩ := exec_fixedResultWrite_s hu hid hm hd
  exact ⟨_, _, hx, hy, v.landS_fly, v.landS_marked, rfl,
    fun d h0 => (v.rs_landS d h0).trans (List.foldl_ext _ _ _ fun _ _ _ => rfl),
    fun d h0 => (v.rp_landS d h0).trans (List.foldl_ext _ _ _ fun _ _ _ => rfl),
    fun n => (v.kst_landS n).trans (List.foldl_ext _ _ _ fun _ _ _ => rfl)⟩

/-- The results of a path slot, in the order of issue. -/
theorem fixedResultWrite_slot_all (i : Bool) (hm : (v.slot i).marked = true)
    (hd : ∀ f ∈ (v.slot i).fly, f.due ≤ pulses s id.core)
    (hw : v.sibling (!i) = true → ∀ f ∈ (v.slot (!i)).fly, (v.slot (!i)).earlier f = false)
    (hl : ∀ f ∈ (v.slot i).fly, ∀ d m x, f.res = .v d m x → x.length = 32) :
    ∃ t y, exec (.fixedResultWrite id (slotStrm i)) s = .next t ∧ t.unit? id = some y ∧ (y.slot i).fly = [] ∧
      (y.slot i).marked = false ∧ t.mem = s.mem ∧ y.sS.spc = v.sS.spc ∧
      (∀ r l, l < 32 → y.rv r l = (v.slot i).fly.foldl (fun a f => match f.res with
        | .v d m x => if r = d ∧ m.getLsbD l = true then x.getD l 0 else a | _ => a) (v.rv r l)) ∧
      (∀ q l, q ≠ 0 → l < 32 → (y.rq q).getLsbD l = (v.slot i).fly.foldl (fun a f => match f.res with
        | .q d m x => if d = q ∧ m.getLsbD l = true then x.getLsbD l else a | _ => a) ((v.rq q).getLsbD l)) ∧
      (y.slot i).em = (v.slot i).fly.foldl (fun a f => match f.res with | .em k => a &&& k | _ => a) (v.slot i).em := by
  obtain ⟨hx, hy⟩ := exec_fixedResultWrite_slot hu hid i hm hd
  exact ⟨_, _, hx, hy, v.landSlot_fly i, v.landSlot_marked i, rfl, v.landSlot_spc i,
    fun r l h => (Unit.rv_landSlot_whole hw hl r l h).trans (List.foldl_ext _ _ _ fun _ _ _ => rfl),
    fun q l hq h => (Unit.rq_landSlot_whole hw q l hq h).trans (List.foldl_ext _ _ _ fun _ _ _ => rfl),
    (Unit.em_landSlot_whole hw).trans (List.foldl_ext _ _ _ fun _ _ _ => rfl)⟩

end

end Sys2Proof.Machine

section
open Sys2Proof Sys2Proof.Machine

/-- Settles O37: a fixed-latency event writes the flight of its stream as a fold in the order of issue (`rs_landS`, `rv_landSlot`);
an arriving result is written by `putRes` and its entry taken away (`arriveAll_took`), a load of sound bytes with what the home holds
(`arrive_load`); an imprecise fault and a waiting trap enter the handler with their frame (`enterDue_unit`). -/
theorem resultEvents : Obligations.ResultEvents := by
  unfold Obligations.ResultEvents
  refine ⟨fun s id v hu hid => ⟨fun hm hk => ?_, fun hm hd => ?_, fun _ hd => ?_, fun p hp hr => ⟨?_, fun d hw hd hs hf h0 => ?_⟩,
    fun e h off hd he hi hs ht hh => ?_, fun d h off hd hs hh => ⟨fun ht => ?_, fun ht => ?_⟩⟩,
    fun s id v hu hid => ⟨fun hm hd => ?_, fun i hm hd hw hl => ?_⟩, fun s v p hu hp hr => ?_⟩
  · exact exec_fixedResultWrite_notDue hu .s (Unit.written_s_unmarked hm hk)
  · exact fixedResultWrite_s_one hu hid hm hd
  · exact exec_fixedResultWrite_notDue hu .s (Unit.written_s_late hd)
  · exact exec_variableResultArrive_ready hu hp hr
  · have ha : arrive s v p = arriveOne s v p s.tclk := by rw [arrive, hw]
    obtain ⟨y, hy, hyd, hyo, hyp, -⟩ := arriveOne_s hp hd h0 hs hf s.tclk
    exact ⟨y, by rw [ha, ← hid]; exact hy, hyd, hyo, hyp⟩
  · obtain ⟨t, y, f, hx, hy, hE, himp, hc, hpr, had, hin⟩ := exec_impreciseTrapTake_queued hu hid hd he hi hs ht hh
    exact ⟨t, y, hx, hy, hE.inHandler, hE.spc, hc ▸ hE.cause, hE.precise.trans hpr, had ▸ hE.addr, hin ▸ hE.info, himp⟩
  · exact exec_impreciseTrapTake_waits hu hd hs ht
  · obtain ⟨t, y, f, hx, hy, hE, hc, had, hin⟩ := exec_impreciseTrapTake_due hu hid hd hs ht hh
    exact ⟨t, y, hx, hy, hE.inHandler, hE.spc, hc ▸ hE.cause, had ▸ hE.addr, hin ▸ hE.info⟩
  · exact fixedResultWrite_s_all hu hid hm hd
  · exact fixedResultWrite_slot_all hu hid i hm hd hw hl
  · have hx := exec_variableResultArrive_ready hu hp hr
    dsimp only
    refine ⟨fun d a n sgn hw hd h0 hh => ?_, fun accs n sgn d m hw hd hn ha hh => ?_,
      fun n d hw hd h0 hs hf _ => ⟨fun hold => ?_, fun x hold => ?_⟩, fun n d x hw hd h0 hs hf _ ht => ?_⟩
    · obtain ⟨y, hy, hyd, hyo, hyp, hyh⟩ := arrive_load_s hp hw hd h0 hh
      exact ⟨_, y, hx, hy, ⟨hyd, hyo⟩, hyp, hyh⟩
    · obtain ⟨y, hy, hyi, hyo, hyp, hyh⟩ := arrive_load_v hp hw hd hn ha hh
      exact ⟨_, y, hx, hy, ⟨hyi, hyo⟩, hyp, hyh⟩
    · obtain ⟨y, hy, hyd, hyp, hyh⟩ := arrive_mailbox hp hd h0 hs hf hw
      exact ⟨_, y, hx, hy, hyd.trans (Unit.mailbox_same hold), hyp, hyh⟩
    · obtain ⟨y, hy, hyd, hyp, hyh⟩ := arrive_mailbox hp hd h0 hs hf hw
      exact ⟨_, y, hx, hy, hyd.trans (Unit.mailbox_old hold), hyp, hyh⟩
    · obtain ⟨y, hy, hyd, hyp, hyh⟩ := arrive_timeline hp hd h0 hs hf hw ht
      exact ⟨_, y, hx, hy, hyd, hyp, hyh⟩

end

namespace Sys2Proof.Machine

/-! ## A grid's start writes the doorbell of its queue, and may wake an evicted team

The head index of a queue without a tenant stands in global SRAM (R254), so that the start of its grid writes there; a monitor
of a parked warp on that sector fires (R152), and an evicted team keeps the monitors of its warps. -/

/-- The identity of the one warp of an evicted team of context 2. -/
def awayWho : Ident :=
  { ctx := 2, grid := 2, team := 7, wg := 8, isLm := false, producer := true, leader := true, cls := 0, rset := 0, rep := 0,
    rmode := 0, warpid := 0, wgid := 0, teamid := 0, dieid := 0, gridid := 0, coreid := 0, sbase := 0x1000, slen := 64,
    lbase := 0x2000, llen := 64 }

/-- An evicted team whose warp has a monitor at 0x108. -/
def awayTeam : Team :=
  { grid := 2, slab := 0, j := 0, die := 0, cluster := 0, rep := 0, wgs := [8], lm := false, mtl := 0, mnum := 0, nbar := [],
    peers := [7], nwarps := 1,
    evicted := some {
      units := [{ newUnit ⟨0, 0⟩ awayWho 8 0 1 with mon := some { addr := 0x108, fired := false } }],
      wgs := [], pads := [], handles := [], bufs := [], engine := Engine.init, dArr := [], woken := false } }

/-- A grid of one slab, taken from queue 1 and not started. -/
def waitingGrid : Grid :=
  { ctx := 1, num := 1, depth := 0, parent := none, queue := some 1, pkt := packetOf [], lads := [], enq := 0, order := 0,
    started := false, slabs := [], aborted := false, missed := false, kids := 0, ctr := none }

/-- Queue 1, of no tenant, with the waiting grid at its head and its doorbell at 0x100. -/
def bellQueue : HwQueue :=
  { desc := { ctx := 1, tenant := none, ringDva := true, ring := 0, k := 4, vector := 0, raise := false, bell := 0x100, ctr := none },
    tidx := 0, head := 0, tail := 1, stat := 0, enqs := [] }

/-- A machine where that grid can start while that team is out. -/
def bellState : State :=
  { State.reset with teams := [(7, awayTeam)], grids := [(1, waitingGrid)], queues := [(1, bellQueue)], nextKey := 9 }

/-- The monitors of the warps of the teams that are out. -/
def monitorsOut (s : State) : List (Option Monitor) :=
  s.teams.flatMap fun t => match t.2.evicted with | some e => e.units.map (fun u => u.mon) | none => []

theorem startDies_bellState : startDies bellState waitingGrid = some [[0]] := by decide

theorem monitorsOut_bellState : monitorsOut bellState = [some ⟨0x108, false⟩] := by decide

theorem monitorsOut_gridStart : ∃ t, exec (.gridStart 1) bellState = .next t ∧ monitorsOut t = [some ⟨0x108, true⟩] := by
  refine ⟨_, rfl, ?_⟩
  decide

end Sys2Proof.Machine

section
open Sys2Proof Sys2Proof.Machine

/-- Refutes O42: a start does not leave the teams as they are. In `bellState` it moves the head index that stands in global SRAM
beside the doorbell of the grid's queue, and the monitor that a warp of an evicted team has there fires. -/
theorem not_gridEvents : ¬ Obligations.GridEvents := by
  unfold Obligations.GridEvents
  intro h
  obtain ⟨hstart, -⟩ := h bellState 1 waitingGrid rfl
  obtain ⟨t, -, ht, -, -, -, -, -, -, hteams, -⟩ := hstart _ startDies_bellState
  obtain ⟨t', ht', hm⟩ := monitorsOut_gridStart
  have htt : t = t' := by
    rw [ht] at ht'
    injection ht'
  have hsame : monitorsOut t' = monitorsOut bellState := by rw [← htt, monitorsOut, hteams]; rfl
  rw [hm, monitorsOut_bellState] at hsame
  exact absurd hsame (by decide)

end

namespace Sys2Proof

open Sys2Proof.Machine

/-! ## Fields of a word

A word is the sum of its fields exactly where each field holds its value (`sumFields_eq_iff`). For each format of R50 and R57
that gives one rule, which encoding and decoding both use: the format's encoder answers `w` if and only if the fields of `w` are
the operands. -/

theorem bf_lt (w lo n : Nat) : bf w lo n < 2 ^ n := Nat.mod_lt _ (Nat.two_pow_pos n)

theorem bit_eq_iff (w lo : Nat) (b : Bool) : bit w lo = b ↔ bf w lo 1 = b.toNat := by
  have h := bf_lt w lo 1
  cases b
  · simp only [bit, decide_eq_false_iff_not, Bool.toNat_false]; omega
  · simp only [bit, decide_eq_true_eq, Bool.toNat_true]

theorem toNat_bit (w lo : Nat) : (bit w lo).toNat = bf w lo 1 := ((bit_eq_iff w lo _).mp rfl).symm

theorem toNat_bf (w lo n : Nat) : (BitVec.ofNat n (bf w lo n)).toNat = bf w lo n := by
  rw [BitVec.toNat_ofNat, Nat.mod_eq_of_lt (bf_lt w lo n)]

theorem toNat_rg (w lo : Nat) : (rg w lo).toNat = bf w lo 6 := toNat_bf w lo 6

/-- A field of a word: its lowest bit, its width and its value. -/
structure BitField where
  lo : Nat
  n : Nat
  v : Nat

/-- The bits of fields, from the highest. -/
def sumFields : List BitField → Nat
  | [] => 0
  | f :: t => f.v * 2 ^ f.lo + sumFields t

/-- The fields, from the highest, fill a word of `k` bits without a gap, and each value fits its field. -/
def Tiled : Nat → List BitField → Prop
  | k, [] => k = 0
  | k, f :: t => f.lo + f.n = k ∧ f.v < 2 ^ f.n ∧ Tiled f.lo t

theorem sumFields_lt {k : Nat} {l : List BitField} (h : Tiled k l) : sumFields l < 2 ^ k := by
  induction l generalizing k with
  | nil => exact Nat.two_pow_pos k
  | cons f t ih =>
    obtain ⟨rfl, hv, ht⟩ := h
    calc f.v * 2 ^ f.lo + sumFields t < f.v * 2 ^ f.lo + 2 ^ f.lo := Nat.add_lt_add_left (ih ht) _
      _ = (f.v + 1) * 2 ^ f.lo := (Nat.succ_mul _ _).symm
      _ ≤ 2 ^ f.n * 2 ^ f.lo := Nat.mul_le_mul_right _ hv
      _ = 2 ^ (f.lo + f.n) := by rw [Nat.pow_add, Nat.mul_comm]

theorem sumFields_eq_mod_iff {k w : Nat} {l : List BitField} (h : Tiled k l) :
    sumFields l = w % 2 ^ k ↔ ∀ f ∈ l, bf w f.lo f.n = f.v := by
  induction l generalizing k with
  | nil => obtain rfl := h; simp [sumFields, Nat.mod_one]
  | cons f t ih =>
    obtain ⟨rfl, -, ht⟩ := h
    have hlt := sumFields_lt ht
    have hw : w % 2 ^ f.lo < 2 ^ f.lo := Nat.mod_lt _ (Nat.two_pow_pos _)
    rw [List.forall_mem_cons, ← ih ht, sumFields, Nat.pow_add, Nat.mod_mul, bf, Nat.mul_comm f.v, Nat.add_comm]
    constructor
    · intro he
      have hq := congrArg (· / 2 ^ f.lo) he
      have hr := congrArg (· % 2 ^ f.lo) he
      simp only [Nat.add_mul_div_left _ _ (Nat.two_pow_pos f.lo), Nat.div_eq_of_lt hlt, Nat.div_eq_of_lt hw, Nat.zero_add,
        Nat.add_mul_mod_self_left, Nat.mod_eq_of_lt hlt, Nat.mod_mod] at hq hr
      exact ⟨hq.symm, hr⟩
    · rintro ⟨hq, hr⟩
      rw [hq, hr]

/-- A word is the sum of its fields exactly where each of its fields holds its value. -/
theorem sumFields_eq_iff {k w : Nat} {l : List BitField} (h : Tiled k l) :
    sumFields l = w ↔ w < 2 ^ k ∧ ∀ f ∈ l, bf w f.lo f.n = f.v := by
  rw [← sumFields_eq_mod_iff h]
  constructor
  · rintro rfl
    exact ⟨sumFields_lt h, (Nat.mod_eq_of_lt (sumFields_lt h)).symm⟩
  · rintro ⟨hw, he⟩
    rwa [Nat.mod_eq_of_lt hw] at he

/-! ## The formats of S words -/

section
variable {m : Bool} {mj w : Nat}

theorem encSR_eq_iff {d a b fn : Nat} (hj : mj < 64 := by omega) (hd : d < 64 := by omega) (ha : a < 64 := by omega)
    (hb : b < 64 := by omega) (hf : fn < 128 := by omega) :
    encSR m mj d a b fn = w ↔ w < 2 ^ 32 ∧ bit w 31 = m ∧ bf w 25 6 = mj ∧ bf w 19 6 = d ∧ bf w 13 6 = a ∧ bf w 7 6 = b ∧
      bf w 0 7 = fn := by
  have h : Tiled 32 [⟨31, 1, m.toNat⟩, ⟨25, 6, mj⟩, ⟨19, 6, d⟩, ⟨13, 6, a⟩, ⟨7, 6, b⟩, ⟨0, 7, fn⟩] :=
    ⟨rfl, m.toNat_lt, rfl, hj, rfl, hd, rfl, ha, rfl, hb, rfl, hf, rfl⟩
  simpa [sumFields, encSR, bit_eq_iff, Nat.add_assoc] using sumFields_eq_iff (w := w) h

theorem encSI_eq_iff {d a i : Nat} (hj : mj < 64 := by omega) (hd : d < 64 := by omega) (ha : a < 64 := by omega)
    (hi : i < 8192 := by omega) :
    encSI m mj d a i = w ↔ w < 2 ^ 32 ∧ bit w 31 = m ∧ bf w 25 6 = mj ∧ bf w 19 6 = d ∧ bf w 13 6 = a ∧ bf w 0 13 = i := by
  have h : Tiled 32 [⟨31, 1, m.toNat⟩, ⟨25, 6, mj⟩, ⟨19, 6, d⟩, ⟨13, 6, a⟩, ⟨0, 13, i⟩] :=
    ⟨rfl, m.toNat_lt, rfl, hj, rfl, hd, rfl, ha, rfl, hi, rfl⟩
  simpa [sumFields, encSI, bit_eq_iff, Nat.add_assoc] using sumFields_eq_iff (w := w) h

theorem encSU_eq_iff {d i : Nat} (hj : mj < 64 := by omega) (hd : d < 64 := by omega) (hi : i < 2 ^ 19 := by omega) :
    encSU m mj d i = w ↔ w < 2 ^ 32 ∧ bit w 31 = m ∧ bf w 25 6 = mj ∧ bf w 19 6 = d ∧ bf w 0 19 = i := by
  have h : Tiled 32 [⟨31, 1, m.toNat⟩, ⟨25, 6, mj⟩, ⟨19, 6, d⟩, ⟨0, 19, i⟩] :=
    ⟨rfl, m.toNat_lt, rfl, hj, rfl, hd, rfl, hi, rfl⟩
  simpa [sumFields, encSU, bit_eq_iff, Nat.add_assoc] using sumFields_eq_iff (w := w) h

theorem encSC_eq_iff {p c a lo : Nat} (hj : mj < 64 := by omega) (hp : p < 8 := by omega) (hc : c < 8 := by omega)
    (ha : a < 64 := by omega) (hl : lo < 8192 := by omega) :
    encSC m mj p c a lo = w ↔ w < 2 ^ 32 ∧ bit w 31 = m ∧ bf w 25 6 = mj ∧ bf w 22 3 = p ∧ bf w 19 3 = c ∧ bf w 13 6 = a ∧
      bf w 0 13 = lo := by
  have h : Tiled 32 [⟨31, 1, m.toNat⟩, ⟨25, 6, mj⟩, ⟨22, 3, p⟩, ⟨19, 3, c⟩, ⟨13, 6, a⟩, ⟨0, 13, lo⟩] :=
    ⟨rfl, m.toNat_lt, rfl, hj, rfl, hp, rfl, hc, rfl, ha, rfl, hl, rfl⟩
  simpa [sumFields, encSC, bit_eq_iff, Nat.add_assoc] using sumFields_eq_iff (w := w) h

theorem encSP_eq_iff {p pa pb op : Nat} {na nb : Bool} (hp : p < 8 := by omega) (ha : pa < 8 := by omega)
    (hb : pb < 8 := by omega) (ho : op < 4 := by omega) :
    encSP m p pa na pb nb op = w ↔ w < 2 ^ 32 ∧ bit w 31 = m ∧ bf w 25 6 = 0x0C ∧ bf w 22 3 = p ∧ bf w 19 3 = pa ∧
      bit w 18 = na ∧ bf w 15 3 = pb ∧ bit w 14 = nb ∧ bf w 12 2 = op ∧ bf w 0 12 = 0 := by
  have h : Tiled 32 [⟨31, 1, m.toNat⟩, ⟨25, 6, 0x0C⟩, ⟨22, 3, p⟩, ⟨19, 3, pa⟩, ⟨18, 1, na.toNat⟩, ⟨15, 3, pb⟩,
      ⟨14, 1, nb.toNat⟩, ⟨12, 2, op⟩, ⟨0, 12, 0⟩] :=
    ⟨rfl, m.toNat_lt, rfl, by decide, rfl, hp, rfl, ha, rfl, na.toNat_lt, rfl, hb, rfl, nb.toNat_lt, rfl, ho, rfl, by decide, rfl⟩
  simpa [sumFields, encSP, bit_eq_iff, Nat.add_assoc] using sumFields_eq_iff (w := w) h

theorem encSB_eq_iff {n : Bool} {p off : Nat} (hj : mj < 64 := by omega) (hp : p < 8 := by omega)
    (ho : off < 2 ^ 21 := by omega) :
    encSB m mj n p off = w ↔ w < 2 ^ 32 ∧ bit w 31 = m ∧ bf w 25 6 = mj ∧ bit w 24 = n ∧ bf w 21 3 = p ∧ bf w 0 21 = off := by
  have h : Tiled 32 [⟨31, 1, m.toNat⟩, ⟨25, 6, mj⟩, ⟨24, 1, n.toNat⟩, ⟨21, 3, p⟩, ⟨0, 21, off⟩] :=
    ⟨rfl, m.toNat_lt, rfl, hj, rfl, n.toNat_lt, rfl, hp, rfl, ho, rfl⟩
  simpa [sumFields, encSB, bit_eq_iff, Nat.add_assoc] using sumFields_eq_iff (w := w) h

theorem encSM_eq_iff {d a t o s off : Nat} {x : Bool} (hj : mj < 64 := by omega) (hd : d < 64 := by omega)
    (ha : a < 64 := by omega) (ht : t < 8 := by omega) (ho : o < 4 := by omega)
    (hs : s < 8 := by omega) (hf : off < 16 := by omega) :
    encSM m mj d a t o s x off = w ↔ w < 2 ^ 32 ∧ bit w 31 = m ∧ bf w 25 6 = mj ∧ bf w 19 6 = d ∧ bf w 13 6 = a ∧
      bf w 10 3 = t ∧ bf w 8 2 = o ∧ bf w 5 3 = s ∧ bit w 4 = x ∧ bf w 0 4 = off := by
  have h : Tiled 32 [⟨31, 1, m.toNat⟩, ⟨25, 6, mj⟩, ⟨19, 6, d⟩, ⟨13, 6, a⟩, ⟨10, 3, t⟩, ⟨8, 2, o⟩, ⟨5, 3, s⟩, ⟨4, 1, x.toNat⟩,
      ⟨0, 4, off⟩] :=
    ⟨rfl, m.toNat_lt, rfl, hj, rfl, hd, rfl, ha, rfl, ht, rfl, ho, rfl, hs, rfl, x.toNat_lt, rfl, hf, rfl⟩
  simpa [sumFields, encSM, bit_eq_iff, Nat.add_assoc] using sumFields_eq_iff (w := w) h

theorem encSF_eq_iff {d a o s fn : Nat} (hj : mj < 64 := by omega) (hd : d < 64 := by omega) (ha : a < 64 := by omega)
    (ho : o < 4 := by omega) (hs : s < 8 := by omega) (hf : fn < 128 := by omega) :
    encSF m mj d a o s fn = w ↔ w < 2 ^ 32 ∧ bit w 31 = m ∧ bf w 25 6 = mj ∧ bf w 19 6 = d ∧ bf w 13 6 = a ∧ bf w 11 2 = o ∧
      bf w 8 3 = s ∧ bf w 7 1 = 0 ∧ bf w 0 7 = fn := by
  have h : Tiled 32 [⟨31, 1, m.toNat⟩, ⟨25, 6, mj⟩, ⟨19, 6, d⟩, ⟨13, 6, a⟩, ⟨11, 2, o⟩, ⟨8, 3, s⟩, ⟨7, 1, 0⟩, ⟨0, 7, fn⟩] :=
    ⟨rfl, m.toNat_lt, rfl, hj, rfl, hd, rfl, ha, rfl, ho, rfl, hs, rfl, by decide, rfl, hf, rfl⟩
  simpa [sumFields, encSF, bit_eq_iff, Nat.add_assoc] using sumFields_eq_iff (w := w) h

theorem encSX_eq_iff {t a b c f : Nat} (hj : mj < 64 := by omega) (ht : t < 8 := by omega) (ha : a < 64 := by omega)
    (hb : b < 64 := by omega) (hc : c < 64 := by omega) (hf : f < 16 := by omega) :
    encSX m mj t a b c f = w ↔ w < 2 ^ 32 ∧ bit w 31 = m ∧ bf w 25 6 = mj ∧ bf w 22 3 = t ∧ bf w 16 6 = a ∧ bf w 10 6 = b ∧
      bf w 4 6 = c ∧ bf w 0 4 = f := by
  have h : Tiled 32 [⟨31, 1, m.toNat⟩, ⟨25, 6, mj⟩, ⟨22, 3, t⟩, ⟨16, 6, a⟩, ⟨10, 6, b⟩, ⟨4, 6, c⟩, ⟨0, 4, f⟩] :=
    ⟨rfl, m.toNat_lt, rfl, hj, rfl, ht, rfl, ha, rfl, hb, rfl, hc, rfl, hf, rfl⟩
  simpa [sumFields, encSX, bit_eq_iff, Nat.add_assoc] using sumFields_eq_iff (w := w) h

theorem encodeS_lq_iff {mask : BitVec 4} {e : BitVec 21} :
    encodeS (.lq m mask e) = some w ↔
      w < 2 ^ 32 ∧ bit w 31 = m ∧ bf w 25 6 = 0x19 ∧ bf w 21 4 = mask.toNat ∧ bf w 0 21 = e.toNat := by
  have h : Tiled 32 [⟨31, 1, m.toNat⟩, ⟨25, 6, 0x19⟩, ⟨21, 4, mask.toNat⟩, ⟨0, 21, e.toNat⟩] :=
    ⟨rfl, m.toNat_lt, rfl, by decide, rfl, mask.isLt, rfl, e.isLt, rfl⟩
  have hs : encodeS (.lq m mask e) = some w ↔ m.toNat * 2 ^ 31 + 0x19 * 2 ^ 25 + mask.toNat * 2 ^ 21 + e.toNat = w :=
    Option.some_inj
  rw [hs]
  simpa [sumFields, bit_eq_iff, Nat.add_assoc] using sumFields_eq_iff (w := w) h

theorem encodeS_atom_iff {d a : SReg} {op : AtomOp} {x p : Bool} {o : Order} {s : Scope} (hop : atomCode op < 16)
    (ho : orderCode o < 4) (hs : scopeCode s < 8) :
    encodeS (.atom m d a op x o s p) = some w ↔ w < 2 ^ 32 ∧ bit w 31 = m ∧ bf w 25 6 = 0x22 ∧ bf w 19 6 = d.toNat ∧
      bf w 13 6 = a.toNat ∧ bf w 9 4 = atomCode op ∧ bit w 8 = x ∧ bf w 6 2 = orderCode o ∧ bf w 3 3 = scopeCode s ∧
      bit w 2 = p ∧ bf w 0 2 = 0 := by
  have h : Tiled 32 [⟨31, 1, m.toNat⟩, ⟨25, 6, 0x22⟩, ⟨19, 6, d.toNat⟩, ⟨13, 6, a.toNat⟩, ⟨9, 4, atomCode op⟩, ⟨8, 1, x.toNat⟩,
      ⟨6, 2, orderCode o⟩, ⟨3, 3, scopeCode s⟩, ⟨2, 1, p.toNat⟩, ⟨0, 2, 0⟩] :=
    ⟨rfl, m.toNat_lt, rfl, by decide, rfl, d.isLt, rfl, a.isLt, rfl, hop, rfl, x.toNat_lt, rfl, ho, rfl, hs, rfl, p.toNat_lt, rfl,
      by decide, rfl⟩
  have he : encodeS (.atom m d a op x o s p) = some w ↔ m.toNat * 2 ^ 31 + 0x22 * 2 ^ 25 + d.toNat * 2 ^ 19 + a.toNat * 2 ^ 13
      + atomCode op * 2 ^ 9 + x.toNat * 2 ^ 8 + orderCode o * 2 ^ 6 + scopeCode s * 2 ^ 3 + p.toNat * 2 ^ 2 = w := Option.some_inj
  rw [he]
  simpa [sumFields, bit_eq_iff, Nat.add_assoc] using sumFields_eq_iff (w := w) h

end

/-! ## Fields that are parts of a format's field -/

/-- A field is its upper and its lower part. -/
theorem bf_add (w lo n k : Nat) : bf w lo (n + k) = bf w (lo + n) k * 2 ^ n + bf w lo n := by
  unfold bf
  rw [Nat.pow_add, Nat.mod_mul, Nat.div_div_eq_div_mul, ← Nat.pow_add, Nat.add_comm, Nat.mul_comm]

/-- The shift count of an SI word, with the reserved bits above it (R88). -/
theorem bf_shift_iff {w n : Nat} (hn : n < 64) : bf w 0 13 = n ↔ bf w 6 7 = 0 ∧ bf w 0 6 = n := by
  have h : bf w 0 13 = bf w 6 7 * 2 ^ 6 + bf w 0 6 := bf_add w 0 6 7
  have := bf_lt w 0 6
  omega

/-- The second register of `cmp`, with the reserved bits below it. -/
theorem bf_cmp_iff {w b : Nat} : bf w 0 13 = b * 2 ^ 7 ↔ bf w 7 6 = b ∧ bf w 0 7 = 0 := by
  have h : bf w 0 13 = bf w 7 6 * 2 ^ 7 + bf w 0 7 := bf_add w 0 7 6
  have := bf_lt w 0 7
  omega

/-- The predicate of `sel`. -/
theorem bf_sel_iff {w p : Nat} {neg : Bool} (hp : p < 8) :
    bf w 0 7 = neg.toNat * 2 ^ 6 + p * 2 ^ 3 ↔ bit w 6 = neg ∧ bf w 3 3 = p ∧ bf w 0 3 = 0 := by
  have h6 : bf w 0 7 = bf w 6 1 * 2 ^ 6 + bf w 0 6 := bf_add w 0 6 1
  have h3 : bf w 0 6 = bf w 3 3 * 2 ^ 3 + bf w 0 3 := bf_add w 0 3 3
  have := bf_lt w 0 3
  have := bf_lt w 3 3
  rw [bit_eq_iff]
  omega

/-- The latch number of `lk`. -/
theorem bf_lk_iff {w k : Nat} (hk : k < 4) : bf w 19 6 = k ↔ bf w 21 4 = 0 ∧ bf w 19 2 = k := by
  have h : bf w 19 6 = bf w 21 4 * 2 ^ 2 + bf w 19 2 := bf_add w 19 2 4
  have := bf_lt w 19 2
  omega

/-- The code of `trap`. -/
theorem bf_trap_iff {w c : Nat} (hc : c < 4096) : bf w 0 13 = c ↔ bit w 12 = false ∧ bf w 0 12 = c := by
  have h : bf w 0 13 = bf w 12 1 * 2 ^ 12 + bf w 0 12 := bf_add w 0 12 1
  have := bf_lt w 0 12
  rw [bit_eq_iff, Bool.toNat_false]
  omega

/-- The operand kinds in the field f of `mma` (R186). -/
theorem bf_mma_iff {w : Nat} {a b : Bool} : bf w 0 4 = a.toNat + b.toNat * 2 ↔ bf w 0 4 < 4 ∧ bit w 0 = a ∧ bit w 1 = b := by
  have h2 : bf w 0 4 = bf w 2 2 * 2 ^ 2 + bf w 0 2 := bf_add w 0 2 2
  have h1 : bf w 0 2 = bf w 1 1 * 2 ^ 1 + bf w 0 1 := bf_add w 0 1 1
  have := bf_lt w 0 1
  have := bf_lt w 1 1
  have := a.toNat_lt
  have := b.toNat_lt
  rw [bit_eq_iff, bit_eq_iff]
  omega

section
variable {w : Nat} (hw : w < 2 ^ 32)
include hw

theorem encSR_fields : encSR (bit w 31) (bf w 25 6) (bf w 19 6) (bf w 13 6) (bf w 7 6) (bf w 0 7) = w :=
  (encSR_eq_iff (bf_lt _ _ _) (bf_lt _ _ _) (bf_lt _ _ _) (bf_lt _ _ _) (bf_lt _ _ _)).mpr ⟨hw, rfl, rfl, rfl, rfl, rfl, rfl⟩

theorem encSI_fields : encSI (bit w 31) (bf w 25 6) (bf w 19 6) (bf w 13 6) (bf w 0 13) = w :=
  (encSI_eq_iff (bf_lt _ _ _) (bf_lt _ _ _) (bf_lt _ _ _) (bf_lt _ _ _)).mpr ⟨hw, rfl, rfl, rfl, rfl, rfl⟩

theorem encSU_fields : encSU (bit w 31) (bf w 25 6) (bf w 19 6) (bf w 0 19) = w :=
  (encSU_eq_iff (bf_lt _ _ _) (bf_lt _ _ _) (bf_lt _ _ _)).mpr ⟨hw, rfl, rfl, rfl, rfl⟩

theorem encSC_fields : encSC (bit w 31) (bf w 25 6) (bf w 22 3) (bf w 19 3) (bf w 13 6) (bf w 0 13) = w :=
  (encSC_eq_iff (bf_lt _ _ _) (bf_lt _ _ _) (bf_lt _ _ _) (bf_lt _ _ _) (bf_lt _ _ _)).mpr ⟨hw, rfl, rfl, rfl, rfl, rfl, rfl⟩

theorem encSP_fields (hj : bf w 25 6 = 0x0C) (hz : bf w 0 12 = 0) :
    encSP (bit w 31) (bf w 22 3) (bf w 19 3) (bit w 18) (bf w 15 3) (bit w 14) (bf w 12 2) = w :=
  (encSP_eq_iff (bf_lt _ _ _) (bf_lt _ _ _) (bf_lt _ _ _) (bf_lt _ _ _)).mpr ⟨hw, rfl, hj, rfl, rfl, rfl, rfl, rfl, rfl, hz⟩

theorem encSB_fields : encSB (bit w 31) (bf w 25 6) (bit w 24) (bf w 21 3) (bf w 0 21) = w :=
  (encSB_eq_iff (bf_lt _ _ _) (bf_lt _ _ _) (bf_lt _ _ _)).mpr ⟨hw, rfl, rfl, rfl, rfl, rfl⟩

theorem encSM_fields : encSM (bit w 31) (bf w 25 6) (bf w 19 6) (bf w 13 6) (bf w 10 3) (bf w 8 2) (bf w 5 3) (bit w 4)
    (bf w 0 4) = w :=
  (encSM_eq_iff (bf_lt _ _ _) (bf_lt _ _ _) (bf_lt _ _ _) (bf_lt _ _ _) (bf_lt _ _ _) (bf_lt _ _ _) (bf_lt _ _ _)).mpr
    ⟨hw, rfl, rfl, rfl, rfl, rfl, rfl, rfl, rfl, rfl⟩

theorem encSF_fields (hz : bf w 7 1 = 0) :
    encSF (bit w 31) (bf w 25 6) (bf w 19 6) (bf w 13 6) (bf w 11 2) (bf w 8 3) (bf w 0 7) = w :=
  (encSF_eq_iff (bf_lt _ _ _) (bf_lt _ _ _) (bf_lt _ _ _) (bf_lt _ _ _) (bf_lt _ _ _) (bf_lt _ _ _)).mpr
    ⟨hw, rfl, rfl, rfl, rfl, rfl, rfl, hz, rfl⟩

theorem encSX_fields : encSX (bit w 31) (bf w 25 6) (bf w 22 3) (bf w 16 6) (bf w 10 6) (bf w 4 6) (bf w 0 4) = w :=
  (encSX_eq_iff (bf_lt _ _ _) (bf_lt _ _ _) (bf_lt _ _ _) (bf_lt _ _ _) (bf_lt _ _ _) (bf_lt _ _ _)).mpr
    ⟨hw, rfl, rfl, rfl, rfl, rfl, rfl, rfl⟩

end

/-! ## The formats of L words -/

section
variable {w : Nat}

theorem encLA_eq_iff {op : Nat} {r : LARaw} (ho : op < 128) (hm : r.m < 2) (hg : r.g < 16) (hd : r.dst < 256) (ha : r.a < 256)
    (hb : r.b < 256) (hc : r.c < 256) (hr : r.rnd < 8) (hst : r.sat < 2) (ht : r.ty < 32) (hmd : r.md < 128) (hz : r.z < 16)
    (hi : r.imm < 2 ^ 32) : encLA op r = w ↔ w < 2 ^ 96 ∧ bf w 88 7 = op ∧ laFields w = r := by
  have h : Tiled 96 [⟨95, 1, r.m⟩, ⟨88, 7, op⟩, ⟨84, 4, r.g⟩, ⟨76, 8, r.dst⟩, ⟨68, 8, r.a⟩, ⟨60, 8, r.b⟩, ⟨52, 8, r.c⟩,
      ⟨49, 3, r.rnd⟩, ⟨48, 1, r.sat⟩, ⟨43, 5, r.ty⟩, ⟨36, 7, r.md⟩, ⟨32, 4, r.z⟩, ⟨0, 32, r.imm⟩] :=
    ⟨rfl, hm, rfl, ho, rfl, hg, rfl, hd, rfl, ha, rfl, hb, rfl, hc, rfl, hr, rfl, hst, rfl, ht, rfl, hmd, rfl, hz, rfl, hi, rfl⟩
  have hs := sumFields_eq_iff (w := w) h
  simp only [sumFields, List.forall_mem_cons, List.not_mem_nil, IsEmpty.forall_iff, implies_true, and_true, Nat.pow_zero,
    Nat.mul_one, Nat.add_zero, ← Nat.add_assoc] at hs
  rw [encLA, hs, LARaw.mk.injEq]
  tauto

theorem encLM_eq_iff {op : Nat} {r : LMRaw} (ho : op < 128) (hm : r.m < 2) (hg : r.g < 16) (hd : r.dst < 256) (ha : r.a < 256)
    (hb : r.b < 256) (hc : r.c < 256) (hr : r.rnd < 8) (hst : r.sat < 2) (ht : r.ty < 32) (hod : r.ord < 4) (hsc : r.sc < 8)
    (hef : r.ef < 2) (hrb : r.rb < 2) (hz : r.z < 16) (hf : r.fn < 256) (hi : r.off < 2 ^ 24) :
    encLM op r = w ↔ w < 2 ^ 96 ∧ bf w 88 7 = op ∧ lmFields w = r := by
  have h : Tiled 96 [⟨95, 1, r.m⟩, ⟨88, 7, op⟩, ⟨84, 4, r.g⟩, ⟨76, 8, r.dst⟩, ⟨68, 8, r.a⟩, ⟨60, 8, r.b⟩, ⟨52, 8, r.c⟩,
      ⟨49, 3, r.rnd⟩, ⟨48, 1, r.sat⟩, ⟨43, 5, r.ty⟩, ⟨41, 2, r.ord⟩, ⟨38, 3, r.sc⟩, ⟨37, 1, r.ef⟩, ⟨36, 1, r.rb⟩, ⟨32, 4, r.z⟩,
      ⟨24, 8, r.fn⟩, ⟨0, 24, r.off⟩] :=
    ⟨rfl, hm, rfl, ho, rfl, hg, rfl, hd, rfl, ha, rfl, hb, rfl, hc, rfl, hr, rfl, hst, rfl, ht, rfl, hod, rfl, hsc, rfl, hef, rfl,
      hrb, rfl, hz, rfl, hf, rfl, hi, rfl⟩
  have hs := sumFields_eq_iff (w := w) h
  simp only [sumFields, List.forall_mem_cons, List.not_mem_nil, IsEmpty.forall_iff, implies_true, and_true, Nat.pow_zero,
    Nat.mul_one, Nat.add_zero, ← Nat.add_assoc] at hs
  rw [encLM, hs, LMRaw.mk.injEq]
  tauto

theorem encLC_eq_iff {op : Nat} {x : LC} (ho : op < 128) : encLC op x = w ↔ w < 2 ^ 96 ∧ bit w 95 = x.m ∧ bf w 88 7 = op ∧
    bf w 84 4 = x.g.neg.toNat * 8 + x.g.q.toNat ∧ bf w 52 32 = 0 ∧ bf w 24 28 = 0 ∧ bf w 0 24 = x.off.toNat := by
  have hg : x.g.neg.toNat * 8 + x.g.q.toNat < 2 ^ 4 := by have := x.g.neg.toNat_lt; omega
  have h : Tiled 96 [⟨95, 1, x.m.toNat⟩, ⟨88, 7, op⟩, ⟨84, 4, x.g.neg.toNat * 8 + x.g.q.toNat⟩, ⟨52, 32, 0⟩, ⟨24, 28, 0⟩,
      ⟨0, 24, x.off.toNat⟩] :=
    ⟨rfl, x.m.toNat_lt, rfl, ho, rfl, hg, rfl, by decide, rfl, by decide, rfl, x.off.isLt, rfl⟩
  simpa [sumFields, encLC, bit_eq_iff, Nat.add_assoc] using sumFields_eq_iff (w := w) h

end

end Sys2Proof

namespace Sys2Proof

open Sys2Proof.Machine

/-! ## The checks of a decoder -/

@[simp] theorem judge_eq_none_iff {r i s g : List (Bool × Nat)} :
    judge r i s g = none ↔ firstBad r = none ∧ firstBad i = none ∧ firstBad s = none ∧ firstBad g = none := by
  unfold judge
  cases firstBad r <;> cases firstBad i <;> cases firstBad s <;> cases firstBad g <;> simp

@[simp] theorem firstBad_nil : firstBad [] = none := rfl

@[simp] theorem firstBad_cons {b : Bool} {n : Nat} {l : List (Bool × Nat)} :
    firstBad ((b, n) :: l) = none ↔ b = false ∧ firstBad l = none := by
  cases b
  · simp [firstBad]
  · simp only [firstBad]; cases firstBad l <;> simp

@[simp] theorem Dec.check_eq_ok_iff {c : Option (Nat × Nat)} {i j : Instr} : Dec.check c i = .ok j ↔ c = none ∧ i = j := by
  cases c <;> simp [Dec.check]

/-! ## The decoder by groups of majors -/

/-- The decoding of a word's fields by the group of its major. -/
def decGroup (w : Nat) : Dec :=
  let mj := bf w 25 6
  if mj = 0 then decAlu w
  else if mj < 0x10 then decImm mj w
  else if mj < 0x14 then decFlow mj w
  else if mj < 0x1C then decStage mj w
  else if mj < 0x23 then decMem false mj w
  else if mj < 0x28 then decSync mj w
  else if mj < 0x30 then decEngine mj w
  else if mj < 0x38 then decMatrix mj w
  else decSys mj w

theorem lmRefuses_matrix {mj fn : Nat} (h : 0x30 ≤ mj) (h' : mj ≤ 0x35) : lmRefuses mj fn = false := by
  simp only [lmRefuses, Bool.or_eq_false_iff, Bool.and_eq_false_iff, decide_eq_false_iff_not]
  omega

theorem majUnassigned_eq_false {mj : Nat} (h : majUnassigned mj = false) : mj ≠ 0x36 ∧ mj ≠ 0x37 := by
  simp only [majUnassigned, Bool.or_eq_false_iff, decide_eq_false_iff_not] at h
  omega

/-- Each S word is decoded as a stream that takes its major fetches it. -/
theorem decodeS_eq_ok_iff {w : Nat} {i : Instr} :
    decodeS (decide (0x30 ≤ bf w 25 6) && decide (bf w 25 6 ≤ 0x35)) w = .ok i ↔
      w ≠ 0 ∧ majUnassigned (bf w 25 6) = false ∧ decGroup w = .ok i := by
  unfold decodeS decGroup
  dsimp only
  generalize bf w 25 6 = mj
  by_cases h0 : w = 0
  · simp [h0]
  by_cases hu : majUnassigned mj = true
  · simp [h0, hu]
  rw [Bool.not_eq_true] at hu
  obtain ⟨h36, h37⟩ := majUnassigned_eq_false hu
  by_cases hlm : 0x30 ≤ mj ∧ mj ≤ 0x35
  · have hb : (decide (0x30 ≤ mj) && decide (mj ≤ 0x35)) = true := by simpa using hlm
    have hmem : ¬ mj < 0x23 := by omega
    rw [hu, hb, lmRefuses_matrix hlm.1 hlm.2]
    simp [h0, hmem]
  · have hb : (decide (0x30 ≤ mj) && decide (mj ≤ 0x35)) = false := by simpa using hlm
    have hc : (decide (0x30 ≤ mj) && decide (mj ≤ 0x37)) = false := by
      simp only [Bool.and_eq_false_iff, decide_eq_false_iff_not]; omega
    rw [hu, hb]
    simp [h0, hc]

theorem decodeTableWord_32_iff {w : Nat} {i : Instr} (hw : w < 2 ^ 32) :
    decodeTableWord 32 w = some i ↔ w ≠ 0 ∧ majUnassigned (bf w 25 6) = false ∧ decGroup w = .ok i := by
  rw [← decodeS_eq_ok_iff, decodeTableWord, if_pos rfl, Nat.mod_eq_of_lt hw]
  cases decodeS _ w <;> simp

/-! ## Codes of S words -/

@[simp] theorem ordOf_orderCode (o : Order) : ordOf (orderCode o) = o := by cases o <;> rfl
theorem orderCode_lt (o : Order) : orderCode o < 4 := by cases o <;> decide
theorem orderCode_ordOf {n : Nat} (h : n < 4) : orderCode (ordOf n) = n := by decide +revert
@[simp] theorem scopeOf_scopeCode (s : Scope) : scopeOf (scopeCode s) = s := by cases s <;> rfl
theorem scopeCode_le (s : Scope) : scopeCode s ≤ 4 := by cases s <;> decide
theorem scopeCode_scopeOf {n : Nat} (h : n ≤ 4) : scopeCode (scopeOf n) = n := by decide +revert
@[simp] theorem scondOf_scondCode (c : SCond) : scondOf (scondCode c) = c := by cases c <;> rfl
theorem scondCode_lt (c : SCond) : scondCode c < 8 := by cases c <;> decide
theorem scondCode_scondOf {n : Nat} (h : n < 8) : scondCode (scondOf n) = n := by decide +revert
@[simp] theorem mtyOf_mtyCode (t : MTy) : mtyOf (mtyCode t) = t := by cases t <;> rfl
theorem mtyCode_le (t : MTy) : mtyCode t ≤ 6 := by cases t <;> decide
theorem mtyCode_mtyOf {n : Nat} (h : n ≤ 6) : mtyCode (mtyOf n) = n := by decide +revert
@[simp] theorem atomOf_atomCode (a : AtomOp) : atomOf (atomCode a) = a := by cases a <;> rfl
theorem atomCode_le (a : AtomOp) : atomCode a ≤ 10 := by cases a <;> decide
theorem atomCode_atomOf {n : Nat} (h : n ≤ 10) : atomCode (atomOf n) = n := by decide +revert
@[simp] theorem dirOf_dirCode (d : CopyDir) : dirOf (dirCode d) = d := by cases d <;> rfl
theorem dirCode_le (d : CopyDir) : dirCode d ≤ 5 := by cases d <;> decide
theorem dirCode_dirOf {n : Nat} (h : n ≤ 5) : dirCode (dirOf n) = n := by decide +revert

theorem Order.loadOk_iff (o : Order) : o.loadOk = true ↔ orderCode o ≤ 1 := by cases o <;> decide
theorem Order.storeOk_iff (o : Order) : o.storeOk = true ↔ orderCode o % 2 = 0 := by cases o <;> decide
theorem MTy.storeOk_iff (t : MTy) : t.storeOk = true ↔ mtyCode t % 2 = 0 := by cases t <;> decide
theorem atomCode_eq_nine_iff (a : AtomOp) : atomCode a = 9 ↔ a = .cas := by cases a <;> decide
theorem orderCode_eq_zero_iff (o : Order) : orderCode o = 0 ↔ o = .rlx := by cases o <;> decide

/-! ## The operands of `mma` (R186) -/

/-- Whether a matrix operand is in SRAM. -/
def MOp.inSram (x : MOp) : Bool := match x with | .tile _ _ => false | .sram _ => true

theorem mopField_snd (x : MOp) : (mopField x).2 = x.inSram.toNat := by cases x <;> rfl

theorem mopField_tile_lt (x : MOp) (h : x.inSram = false) : (mopField x).1 < 8 := by
  cases x with
  | tile t b => have := b.toNat_lt; simp only [mopField]; omega
  | sram r => exact nomatch h

theorem mopField_fst_lt (x : MOp) : (mopField x).1 < 64 := by
  cases x with
  | tile t b => exact Nat.lt_trans (mopField_tile_lt _ rfl) (by decide)
  | sram r => exact r.isLt

theorem mopField_sram_even {x : MOp} (ho : x.ok = true) (h : x.inSram = true) : (mopField x).1 % 2 = 0 := by
  cases x with
  | tile t b => exact nomatch h
  | sram r => exact of_decide_eq_true ho

theorem mopOf_mopField (x : MOp) : mopOf x.inSram (mopField x).1 = x := by
  cases x with
  | tile t b =>
    have ht : BitVec.ofNat 2 (t.toNat + b.toNat * 4) = t := by
      apply BitVec.eq_of_toNat_eq
      rw [BitVec.toNat_ofNat]
      omega
    have hb : bit (t.toNat + b.toNat * 4) 2 = b := by
      have := b.toNat_lt
      rw [bit_eq_iff, bf]
      omega
    simp [mopField, mopOf, MOp.inSram, ht, hb]
  | sram r => simp [mopField, mopOf, MOp.inSram]

/-- A matrix operand is in its field, and whether it is in SRAM in its bit of f, where the checks on it pass. -/
theorem mopField_mopOf {sram : Bool} {v : Nat} (hv : v < 64) (ht : sram = false → v < 8) :
    mopField (mopOf sram v) = (v, sram.toNat) := by
  cases sram with
  | true => simp [mopOf, mopField, Nat.mod_eq_of_lt hv]
  | false =>
    have h8 := ht rfl
    have hb : v % 4 + (bit v 2).toNat * 4 = v := by rw [toNat_bit, bf]; omega
    simp [mopOf, mopField, hb]

theorem mopOf_ok {sram : Bool} {v : Nat} (hv : v < 64) (hs : sram = true → v % 2 = 0) : (mopOf sram v).ok = true := by
  cases sram with
  | true => simp [mopOf, MOp.ok, SReg.aligned, Nat.mod_eq_of_lt hv, hs rfl]
  | false => rfl

/-- A flag in the lowest bit of a field is the field where the rest of it is zero. -/
theorem toNat_decide_eq_one {n : Nat} (h : n ≤ 1) : (decide (n = 1)).toNat = n := by decide +revert

end Sys2Proof

namespace Sys2Proof

open Sys2Proof.Machine

/-! ## What the decoder of S words gives

Each group's decoder, branch by branch: where its checks pass, the encoder writes back the fields that it read. -/

/-- What a decoding gives, if anything, is well formed and has the word as its encoding. -/
def Dec.Gives (w : Nat) (d : Dec) : Prop :=
  match d with
  | .ok i => i.wf = true ∧ encodeS i = some w
  | .bad _ _ => True

theorem Dec.Gives.check {w : Nat} {c : Option (Nat × Nat)} {i : Instr} (h : c = none → i.wf = true ∧ encodeS i = some w) :
    (Dec.check c i).Gives w := by
  cases c with
  | none => exact h rfl
  | some c => trivial

/-- The all-zero word is no `add` (R64). -/
theorem add_wf {w : Nat} {m : Bool} {d a b : SReg} (h : encSR m 0 d.toNat a.toNat b.toNat 0 = w) (h0 : w ≠ 0) :
    (Instr.add m d a b).wf = true := by
  change (m || decide (d ≠ 0) || decide (a ≠ 0) || decide (b ≠ 0)) = true
  by_contra hz
  simp only [Bool.or_eq_true, decide_eq_true_eq, not_or, not_not, Bool.not_eq_true] at hz
  obtain ⟨⟨⟨rfl, rfl⟩, rfl⟩, rfl⟩ := hz
  exact h0 h.symm

section
variable {w : Nat} (hw : w < 2 ^ 32)
include hw

theorem decAlu_gives (h0 : w ≠ 0) (hj : bf w 25 6 = 0) : (decAlu w).Gives w := by
  have he := encSR_fields hw
  rw [hj] at he
  unfold decAlu
  dsimp only
  split
  case h_1 hf =>
    rw [hf, ← toNat_rg, ← toNat_rg, ← toNat_rg] at he
    exact ⟨add_wf he h0, congrArg some he⟩
  case h_2 hf | h_3 hf | h_4 hf | h_5 hf | h_6 hf | h_7 hf | h_8 hf | h_9 hf | h_10 hf | h_11 hf | h_12 hf | h_13 hf
    | h_14 hf | h_15 hf | h_16 hf | h_17 hf | h_18 hf | h_19 hf | h_20 hf | h_21 hf =>
    rw [hf, ← toNat_rg, ← toNat_rg, ← toNat_rg] at he
    exact ⟨rfl, congrArg some he⟩
  case h_22 hf | h_23 hf | h_24 hf =>
    refine .check fun hc => ⟨rfl, congrArg some ?_⟩
    simp at hc
    rwa [hf, hc, ← toNat_rg, ← toNat_rg] at he
  case h_25 => trivial

end

section
variable {w mj : Nat} (hw : w < 2 ^ 32) (hj : bf w 25 6 = mj)
include hw hj

theorem decImm_gives (h1 : 1 ≤ mj) (h2 : mj ≤ 13) : (decImm mj w).Gives w := by
  unfold decImm
  dsimp only
  split
  case h_1 | h_2 | h_3 | h_4 | h_8 =>
    exact ⟨rfl, congrArg some (by simpa only [toNat_rg, toNat_bf, hj] using encSI_fields hw)⟩
  case h_5 | h_6 | h_7 =>
    refine .check fun hc => ⟨rfl, congrArg some ?_⟩
    simp at hc
    have hlow := (bf_shift_iff (bf_lt w 0 6)).mpr ⟨hc, rfl⟩
    simpa only [toNat_rg, toNat_bf, hj, hlow] using encSI_fields hw
  case h_9 => exact ⟨rfl, congrArg some (by simpa only [toNat_rg, toNat_bf, hj] using encSU_fields hw)⟩
  case h_10 =>
    refine .check fun hc => ⟨rfl, congrArg some ?_⟩
    simp at hc
    have hlow := bf_cmp_iff.mpr ⟨rfl, hc⟩
    simpa only [toNat_rg, toNat_bf, hj, hlow, scondCode_scondOf (bf_lt w 19 3)] using encSC_fields hw
  case h_11 =>
    exact ⟨rfl, congrArg some (by simpa only [toNat_rg, toNat_bf, hj, scondCode_scondOf (bf_lt w 19 3)] using encSC_fields hw)⟩
  case h_12 =>
    split
    case h_1 ho | h_2 ho | h_3 ho =>
      refine .check fun hc => ⟨rfl, congrArg some ?_⟩
      simp at hc
      simpa only [toNat_bf, ho] using encSP_fields hw hj hc
    case h_4 => trivial
  case h_13 =>
    obtain rfl : mj = 13 := by simp only [imp_false] at *; omega
    refine .check fun hc => ⟨rfl, congrArg some ?_⟩
    simp at hc
    have hlow := (bf_sel_iff (bf_lt w 3 3)).mpr ⟨rfl, rfl, hc⟩
    simpa only [toNat_rg, toNat_bf, hj, hlow] using encSR_fields hw

theorem decFlow_gives (h1 : 0x10 ≤ mj) (h2 : mj ≤ 0x13) : (decFlow mj w).Gives w := by
  unfold decFlow
  dsimp only
  split
  case h_1 | h_2 => exact ⟨rfl, congrArg some (by simpa only [toNat_bf, hj] using encSB_fields hw)⟩
  case h_3 =>
    split
    case h_1 hf | h_2 hf | h_3 hf =>
      refine .check fun hc => ⟨rfl, congrArg some ?_⟩
      simp at hc
      simpa only [toNat_rg, hj, hf, hc] using encSR_fields hw
    case h_4 => trivial
  case h_4 =>
    obtain rfl : mj = 0x13 := by simp only [imp_false] at *; omega
    exact ⟨rfl, congrArg some (by simpa only [toNat_rg, toNat_bf, hj] using encSU_fields hw)⟩

theorem decStage_gives (h1 : 0x18 ≤ mj) (h2 : mj ≤ 0x1B) : (decStage mj w).Gives w := by
  unfold decStage
  dsimp only
  split
  case h_1 =>
    split
    case h_1 hf =>
      refine .check fun hc => ⟨rfl, congrArg some ?_⟩
      simp at hc
      have hd := (bf_lk_iff (bf_lt w 19 2)).mpr ⟨hc.1, rfl⟩
      simpa only [toNat_rg, toNat_bf, hj, hf, hc, hd] using encSR_fields hw
    case h_2 => trivial
  case h_2 =>
    exact ⟨rfl, encodeS_lq_iff.mpr ⟨hw, rfl, hj, (toNat_bf _ _ _).symm, (toNat_bf _ _ _).symm⟩⟩
  case h_3 =>
    split
    case h_1 hf =>
      refine .check fun hc => ⟨rfl, congrArg some ?_⟩
      simp at hc
      simpa only [hj, hf, hc] using encSR_fields hw
    case h_2 hf =>
      refine .check fun hc => ⟨rfl, congrArg some ?_⟩
      simp at hc
      have hn : (BitVec.ofNat 2 (bf w 7 6)).toNat = bf w 7 6 := by rw [BitVec.toNat_ofNat]; omega
      simpa only [toNat_rg, hn, hj, hf, hc] using encSR_fields hw
    case h_3 => trivial
  case h_4 =>
    obtain rfl : mj = 0x1B := by simp only [imp_false] at *; omega
    split
    case h_1 hf | h_2 hf =>
      refine .check fun hc => ⟨rfl, congrArg some ?_⟩
      simp at hc
      simpa only [toNat_rg, hj, hf, hc] using encSR_fields hw
    case h_3 => trivial

theorem decMem_gives (h1 : 0x1C ≤ mj) (h2 : mj ≤ 0x22) : (decMem false mj w).Gives w := by
  have he := encSM_fields hw
  rw [hj] at he
  have ht := bf_lt w 10 3
  unfold decMem
  dsimp only
  split
  case h_1 | h_3 | h_5 =>
    refine .check fun hc => ?_
    simp at hc
    obtain ⟨h7, ho, hs⟩ := hc
    have ho' := orderCode_ordOf (bf_lt w 8 2)
    refine ⟨(Order.loadOk_iff _).mpr (ho'.trans_le ho), congrArg some ?_⟩
    simpa only [toNat_rg, toNat_bf, mtyCode_mtyOf (n := bf w 10 3) (by omega), ho', scopeCode_scopeOf hs] using he
  case h_2 | h_4 | h_6 =>
    refine .check fun hc => ?_
    simp at hc
    obtain ⟨⟨h7, ht2⟩, ho, hs⟩ := hc
    have ho' := orderCode_ordOf (bf_lt w 8 2)
    have ht' := mtyCode_mtyOf (n := bf w 10 3) (by omega)
    refine ⟨Bool.and_eq_true_iff.mpr ⟨(Order.storeOk_iff _).mpr (ho'.symm ▸ ho), (MTy.storeOk_iff _).mpr (ht'.symm ▸ ht2)⟩,
      congrArg some ?_⟩
    simpa only [toNat_rg, toNat_bf, ht', ho', scopeCode_scopeOf hs] using he
  case h_7 =>
    obtain rfl : mj = 0x22 := by simp only [imp_false] at *; omega
    split
    · trivial
    next hop =>
      refine .check fun hc => ?_
      simp at hc
      obtain ⟨hz, hs, hcas⟩ := hc
      have hop' := atomCode_atomOf (n := bf w 9 4) (by omega)
      have ho' := orderCode_ordOf (bf_lt w 6 2)
      have hs' := scopeCode_scopeOf hs
      constructor
      · change (decide (atomOf (bf w 9 4) ≠ .cas) || decide ((rg w 19).toNat % 2 = 0)) = true
        rw [Bool.or_eq_true, decide_eq_true_eq, decide_eq_true_eq, Ne, ← atomCode_eq_nine_iff, hop', toNat_rg]
        omega
      · exact (encodeS_atom_iff (hop'.trans_lt (bf_lt _ _ _)) (ho'.trans_lt (bf_lt _ _ _)) (hs'.trans_lt (bf_lt _ _ _))).mpr
          ⟨hw, rfl, hj, (toNat_rg _ _).symm, (toNat_rg _ _).symm, hop'.symm, rfl, ho'.symm, hs'.symm, rfl, hz⟩

theorem decSync_gives (h1 : 0x23 ≤ mj) (h2 : mj ≤ 0x27) : (decSync mj w).Gives w := by
  have hr := encSR_fields hw
  have ho := orderCode_ordOf (bf_lt w 11 2)
  rw [hj] at hr
  unfold decSync
  dsimp only
  split
  case h_1 =>
    have hn : ∀ {n}, n < 16 → (BitVec.ofNat 4 n).toNat = n := fun h => by rw [BitVec.toNat_ofNat]; omega
    split
    case h_1 hf =>
      refine .check fun hc => ?_
      simp at hc
      obtain ⟨⟨hd, ha, hz⟩, hs, h0⟩ := hc
      refine ⟨decide_eq_true fun h => h0 (by rw [← ho, h]; rfl), congrArg some ?_⟩
      simpa only [hj, hf, hd, ha, ho, scopeCode_scopeOf hs] using encSF_fields hw hz
    case h_2 hf | h_6 hf =>
      refine .check fun hc => ?_
      simp at hc
      obtain ⟨⟨hd, hz⟩, hs, hr⟩ := hc
      refine ⟨(Order.storeOk_iff _).mpr (ho.symm ▸ hr), congrArg some ?_⟩
      simpa only [hj, hf, hd, ho, scopeCode_scopeOf hs, toNat_rg] using encSF_fields hw hz
    case h_3 hf | h_7 hf =>
      refine .check fun hc => ?_
      simp at hc
      obtain ⟨⟨hd, ha, hz⟩, hs, hr⟩ := hc
      refine ⟨(Order.loadOk_iff _).mpr (ho.symm ▸ hr), congrArg some ?_⟩
      simpa only [hj, hf, hd, ha, ho, scopeCode_scopeOf hs] using encSF_fields hw hz
    case h_4 hf =>
      refine .check fun hc => ?_
      simp at hc
      obtain ⟨hz, hs, hr, hb⟩ := hc
      refine ⟨(Order.storeOk_iff _).mpr (ho.symm ▸ hr), congrArg some ?_⟩
      simpa only [hj, hf, hn hb, ho, scopeCode_scopeOf hs, toNat_rg] using encSF_fields hw hz
    case h_5 hf =>
      refine .check fun hc => ?_
      simp at hc
      obtain ⟨⟨ha, hz⟩, hs, hr, hb⟩ := hc
      refine ⟨(Order.loadOk_iff _).mpr (ho.symm ▸ hr), congrArg some ?_⟩
      simpa only [hj, hf, hn hb, ha, ho, scopeCode_scopeOf hs] using encSF_fields hw hz
    case h_8 => trivial
  case h_2 =>
    split
    case h_1 hf | h_2 hf =>
      refine .check fun hc => ⟨rfl, congrArg some ?_⟩
      simp at hc
      obtain ⟨⟨hd, hz, hs⟩, h0⟩ := hc
      simpa only [hj, hf, hd, hs, h0, toNat_rg] using encSF_fields hw hz
    case h_3 => trivial
  case h_3 =>
    split
    case h_1 hf | h_2 hf =>
      refine .check fun hc => ⟨rfl, congrArg some ?_⟩
      simp at hc
      simpa only [toNat_rg, hf, hc] using hr
    case h_3 => trivial
  case h_4 =>
    split
    case h_1 hf | h_2 hf | h_3 hf =>
      refine .check fun hc => ⟨rfl, congrArg some ?_⟩
      simp at hc
      simpa only [toNat_rg, hf, hc] using hr
    case h_4 => trivial
  case h_5 =>
    obtain rfl : mj = 0x27 := by simp only [imp_false] at *; omega
    split
    case h_1 hf | h_2 hf | h_3 hf =>
      refine .check fun hc => ⟨rfl, congrArg some ?_⟩
      simp at hc
      simpa only [hf, hc] using hr
    case h_4 => trivial

theorem decSys_gives (h1 : 0x38 ≤ mj) (h2 : mj ≤ 0x3E) : (decSys mj w).Gives w := by
  have hr := encSR_fields hw
  have hi := encSI_fields hw
  rw [hj] at hr hi
  unfold decSys
  dsimp only
  split
  case h_1 =>
    refine .check fun hc => ⟨rfl, congrArg some ?_⟩
    simp at hc
    obtain ⟨⟨hd, ha⟩, ht⟩ := hc
    have hlow := (bf_trap_iff (bf_lt w 0 12)).mpr ⟨ht, rfl⟩
    simpa only [hlow, hd, ha, toNat_bf] using hi
  case h_2 | h_4 | h_5 | h_6 =>
    refine .check fun hc => ⟨rfl, congrArg some ?_⟩
    simp at hc
    simpa only [hc] using hr
  case h_3 =>
    refine .check fun hc => ⟨rfl, congrArg some ?_⟩
    simp at hc
    simpa only [hc, toNat_bf] using hi
  case h_7 =>
    obtain rfl : mj = 0x3E := by simp only [imp_false] at *; omega
    refine .check fun hc => ⟨rfl, congrArg some ?_⟩
    simp at hc
    simpa only [hc, toNat_rg] using hr

theorem decEngine_gives (h1 : 0x28 ≤ mj) (h2 : mj ≤ 0x2F) : (decEngine mj w).Gives w := by
  have he := encSX_fields hw
  rw [hj] at he
  have hal : ∀ k, bf w 4 6 % k = 0 → SReg.aligned (rg w 4) k = true := fun k h => by
    rw [SReg.aligned, toNat_rg]; exact decide_eq_true h
  unfold decEngine
  dsimp only
  split
  case h_1 =>
    split
    next hf =>
      refine .check fun hc => ⟨rfl, congrArg some ?_⟩
      simp at hc
      simpa only [dirCode_dirOf hc, toNat_rg, hf] using he
    next => trivial
  case h_2 =>
    split
    case h_1 hf | h_2 hf =>
      refine .check fun hc => ?_
      simp at hc
      obtain ⟨hd, hg⟩ := hc
      exact ⟨hal _ hg, congrArg some (by simpa only [dirCode_dirOf hd, toNat_rg, hf] using he)⟩
    case h_3 => trivial
  case h_3 =>
    split
    next hf =>
      refine .check fun hc => ⟨rfl, congrArg some ?_⟩
      simp at hc
      simpa only [toNat_decide_eq_one hc, toNat_rg, hf] using he
    next => trivial
  case h_4 =>
    split
    next hf =>
      refine .check fun hc => ?_
      simp at hc
      obtain ⟨ht, hg⟩ := hc
      exact ⟨hal _ hg, congrArg some (by simpa only [ht, toNat_rg, hf] using he)⟩
    next => trivial
  case h_5 =>
    split
    case h_1 hf | h_2 hf =>
      refine .check fun hc => ⟨rfl, congrArg some ?_⟩
      simp at hc
      simpa only [hc, toNat_rg, hf] using he
    case h_3 => trivial
  case h_6 =>
    split
    next hf =>
      refine .check fun hc => ⟨rfl, congrArg some ?_⟩
      simp at hc
      simpa only [hc, toNat_rg, hf] using he
    next => trivial
  case h_7 =>
    split
    case h_1 hf =>
      refine .check fun hc => ?_
      simp at hc
      obtain ⟨⟨ht, hb⟩, hg⟩ := hc
      have hn : (decide (bf w 22 3 % 2 = 1)).toNat = bf w 22 3 := by rw [toNat_decide_eq_one (by omega)]; omega
      exact ⟨hal _ hg, congrArg some (by simpa only [hn, hb, toNat_rg, hf] using he)⟩
    case h_2 hf =>
      refine .check fun hc => ⟨rfl, congrArg some ?_⟩
      simp at hc
      simpa only [hc, toNat_rg, hf] using he
    case h_3 => trivial
  case h_8 =>
    obtain rfl : mj = 0x2F := by simp only [imp_false] at *; omega
    split
    case h_1 hf | h_2 hf | h_3 hf | h_4 hf | h_5 hf =>
      refine .check fun hc => ⟨rfl, congrArg some ?_⟩
      simp at hc
      simpa only [hc, toNat_rg, hf] using he
    case h_6 => trivial

theorem decMatrix_gives (h1 : 0x30 ≤ mj) (h2 : mj ≤ 0x35) : (decMatrix mj w).Gives w := by
  have he := encSX_fields hw
  rw [hj] at he
  have hal : bf w 16 6 % 2 = 0 → SReg.aligned (rg w 16) 2 = true := fun h => by
    rw [SReg.aligned, toNat_rg]; exact decide_eq_true h
  unfold decMatrix
  dsimp only
  split
  case h_1 =>
    split
    · trivial
    next hf =>
      refine .check fun hc => ?_
      simp at hc
      obtain ⟨⟨hat, hbt⟩, has, hbs⟩ := hc
      have hlow := bf_mma_iff.mpr ⟨Nat.not_le.mp hf, rfl, rfl⟩
      refine ⟨Bool.and_eq_true_iff.mpr ⟨mopOf_ok (bf_lt _ _ _) has, mopOf_ok (bf_lt _ _ _) hbs⟩, congrArg some ?_⟩
      simp only [mopField_mopOf (bf_lt w 16 6) hat, mopField_mopOf (bf_lt w 10 6) hbt]
      simpa only [toNat_bf, toNat_rg, hlow] using he
  case h_2 =>
    split
    case h_1 hf =>
      refine .check fun hc => ⟨rfl, congrArg some ?_⟩
      simp at hc
      simpa only [hc, toNat_bf, hf] using he
    case h_2 hf =>
      refine .check fun hc => ?_
      simp at hc
      exact ⟨hal hc, congrArg some (by simpa only [toNat_bf, toNat_rg, hf] using he)⟩
    case h_3 => trivial
  case h_3 =>
    split
    next hf =>
      refine .check fun hc => ?_
      simp at hc
      exact ⟨hal hc, congrArg some (by simpa only [toNat_bf, toNat_rg, hf] using he)⟩
    next => trivial
  case h_4 =>
    split
    case h_1 hf =>
      split
      case h_1 ht | h_2 ht =>
        refine .check fun hc => ⟨rfl, congrArg some ?_⟩
        simp at hc
        simpa only [hc, ht, toNat_rg, hf] using he
      case h_3 => split <;> trivial
    case h_2 hf =>
      refine .check fun hc => ⟨rfl, congrArg some ?_⟩
      simp at hc
      obtain ⟨hz, ht⟩ := hc
      simpa only [hz, toNat_decide_eq_one ht, toNat_rg, hf] using he
    case h_3 => trivial
  case h_5 =>
    split
    case h_1 hf | h_2 hf | h_3 hf =>
      refine .check fun hc => ⟨rfl, congrArg some ?_⟩
      simp at hc
      simpa only [hc, toNat_bf, toNat_rg, hf] using he
    case h_4 => trivial
  case h_6 =>
    obtain rfl : mj = 0x35 := by simp only [imp_false] at *; omega
    split
    next hf =>
      refine .check fun hc => ⟨rfl, congrArg some ?_⟩
      simp at hc
      simpa only [hc, toNat_rg, hf] using he
    next => trivial

end

section
variable {w : Nat} (hw : w < 2 ^ 32)
include hw

/-- What the decoder of S words gives is well formed and has the word as its encoding. -/
theorem decGroup_gives (h0 : w ≠ 0) (hu : majUnassigned (bf w 25 6) = false) : (decGroup w).Gives w := by
  have hlt := bf_lt w 25 6
  simp only [majUnassigned, Bool.or_eq_false_iff, Bool.and_eq_false_iff, decide_eq_false_iff_not] at hu
  unfold decGroup
  dsimp only
  split
  next h => exact decAlu_gives hw h0 h
  split
  next => exact decImm_gives hw rfl (by omega) (by omega)
  split
  next => exact decFlow_gives hw rfl (by omega) (by omega)
  split
  next => exact decStage_gives hw rfl (by omega) (by omega)
  split
  next => exact decMem_gives hw rfl (by omega) (by omega)
  split
  next => exact decSync_gives hw rfl (by omega) (by omega)
  split
  next => exact decEngine_gives hw rfl (by omega) (by omega)
  split
  next => exact decMatrix_gives hw rfl (by omega) (by omega)
  next => exact decSys_gives hw rfl (by omega) (by omega)

theorem encodeS_of_decodeTableWord {i : Instr} (h : decodeTableWord 32 w = some i) : i.wf = true ∧ encodeS i = some w := by
  obtain ⟨h0, hu, hd⟩ := (decodeTableWord_32_iff hw).mp h
  have hg := decGroup_gives hw h0 hu
  rwa [hd] at hg

end

end Sys2Proof

namespace Sys2Proof

open Sys2Proof.Machine

/-! ## What the encoder of S words writes is decoded

By format: the fields of the encoding are the operands, so that the group's decoder reads them back, and the conditions of
`Instr.wf` are the checks that it makes. -/

theorem decGroup_of_encodeS {i : Instr} {w : Nat} (hwf : i.wf = true) (h : encodeS i = some w) :
    w < 2 ^ 32 ∧ majUnassigned (bf w 25 6) = false ∧ decGroup w = .ok i := by
  cases i with
  | add m d a b | sub m d a b | and m d a b | or m d a b | xor m d a b | shl m d a b | shr m d a b | sar m d a b
  | mul m d a b | mulhiU64 m d a b | mulhiS64 m d a b | minS64 m d a b | minU64 m d a b | maxS64 m d a b
  | maxU64 m d a b | divU64 m d a b | divS64 m d a b | remU64 m d a b | remS64 m d a b | andn m d a b | orn m d a b
  | popc m d a | clz m d a | ctz m d a | jr m a | callr m a | ret m | lqw m | rsr m d n | wsr m n b | hgive m a b | htake m d a
  | tlw m a b | tls m a b | tlr m d a | tsnOff m | tsnLog m | tsnTrap m | rft m | yield m | exit m | nop m | rand m d =>
    obtain ⟨hw, hm, hj, hd, ha, hb, hf⟩ := (encSR_eq_iff ..).mp (Option.some.inj h)
    exact ⟨hw, by rw [hj]; rfl, by
      simp [decGroup, decAlu, decFlow, decStage, decSync, decSys, rg, hj, hm, hd, ha, hb, hf]⟩
  | sel m d a b neg p =>
    have hneg := neg.toNat_lt
    obtain ⟨hw, hm, hj, hd, ha, hb, hf⟩ := (encSR_eq_iff ..).mp (Option.some.inj h)
    obtain ⟨hn, hp, hz⟩ := (bf_sel_iff p.isLt).mp hf
    exact ⟨hw, by rw [hj]; rfl, by simp [decGroup, decImm, rg, hj, hm, hd, ha, hb, hn, hp, hz]⟩
  | lk m k a =>
    obtain ⟨hw, hm, hj, hd, ha, hb, hf⟩ := (encSR_eq_iff ..).mp (Option.some.inj h)
    obtain ⟨hz, hk⟩ := (bf_lk_iff k.isLt).mp hd
    exact ⟨hw, by rw [hj]; rfl, by simp [decGroup, decStage, rg, hj, hm, hz, hk, ha, hb, hf]⟩
  | rdmb m d n =>
    have hn := n.isLt
    obtain ⟨hw, hm, hj, hd, ha, hb, hf⟩ := (encSR_eq_iff ..).mp (Option.some.inj h)
    exact ⟨hw, by rw [hj]; rfl, by simp [decGroup, decStage, rg, hj, hm, hd, ha, hb, hf, hn]⟩
  | addImm m d a n | andImm m d a n | orImm m d a n | xorImm m d a n | mulImm m d a n | brk m n =>
    obtain ⟨hw, hm, hj, hd, ha, hi⟩ := (encSI_eq_iff ..).mp (Option.some.inj h)
    exact ⟨hw, by rw [hj]; rfl, by simp [decGroup, decImm, decSys, rg, hj, hm, hd, ha, hi]⟩
  | shlImm m d a n | shrImm m d a n | sarImm m d a n =>
    obtain ⟨hw, hm, hj, hd, ha, hi⟩ := (encSI_eq_iff ..).mp (Option.some.inj h)
    obtain ⟨hz, hn⟩ := (bf_shift_iff n.isLt).mp hi
    exact ⟨hw, by rw [hj]; rfl, by simp [decGroup, decImm, rg, hj, hm, hd, ha, hz, hn]⟩
  | trap m c =>
    obtain ⟨hw, hm, hj, hd, ha, hi⟩ := (encSI_eq_iff ..).mp (Option.some.inj h)
    have hz := ((bf_trap_iff c.isLt).mp hi).1
    exact ⟨hw, by rw [hj]; rfl, by simp [decGroup, decSys, hj, hm, hd, ha, hi, hz]⟩
  | shin m d n | loop m d n =>
    obtain ⟨hw, hm, hj, hd, hi⟩ := (encSU_eq_iff ..).mp (Option.some.inj h)
    exact ⟨hw, by rw [hj]; rfl, by simp [decGroup, decImm, decFlow, rg, hj, hm, hd, hi]⟩
  | cmp m p c a b =>
    have := scondCode_lt c
    obtain ⟨hw, hm, hj, hp, hc, ha, hl⟩ := (encSC_eq_iff ..).mp (Option.some.inj h)
    obtain ⟨hb, hz⟩ := bf_cmp_iff.mp hl
    exact ⟨hw, by rw [hj]; rfl, by simp [decGroup, decImm, rg, hj, hm, hp, hc, ha, hb, hz]⟩
  | cmpImm m p c a n =>
    have := scondCode_lt c
    obtain ⟨hw, hm, hj, hp, hc, ha, hl⟩ := (encSC_eq_iff ..).mp (Option.some.inj h)
    exact ⟨hw, by rw [hj]; rfl, by simp [decGroup, decImm, rg, hj, hm, hp, hc, ha, hl]⟩
  | pand m p pa na pb nb | por m p pa na pb nb | pxor m p pa na pb nb =>
    obtain ⟨hw, hm, hj, hp, ha, hna, hb, hnb, ho, hz⟩ := (encSP_eq_iff ..).mp (Option.some.inj h)
    exact ⟨hw, by rw [hj]; rfl, by simp [decGroup, decImm, hj, hm, hp, ha, hna, hb, hnb, ho, hz]⟩
  | br m neg p off | call m neg p off =>
    obtain ⟨hw, hm, hj, hn, hp, ho⟩ := (encSB_eq_iff ..).mp (Option.some.inj h)
    exact ⟨hw, by rw [hj]; rfl, by simp [decGroup, decFlow, hj, hm, hn, hp, ho]⟩
  | lq m mask e =>
    obtain ⟨hw, hm, hj, hk, he⟩ := encodeS_lq_iff.mp h
    exact ⟨hw, by rw [hj]; rfl, by simp [decGroup, decStage, hj, hm, hk, he]⟩
  | ldp m d a t o s x f | ldg m d a t o s x f | ldh m d a t o s x f =>
    have hol := (Order.loadOk_iff o).mp hwf
    have hsl := scopeCode_le s
    have htl := mtyCode_le t
    obtain ⟨hw, hm, hj, hd, ha, ht, ho, hs, hx, hf⟩ := (encSM_eq_iff ..).mp (Option.some.inj h)
    have ht7 : mtyCode t ≠ 7 := by omega
    exact ⟨hw, by rw [hj]; rfl, by
      simp [decGroup, decMem, rg, hj, hm, hd, ha, ht, ho, hs, hx, hf, ht7, hol, hsl]⟩
  | stp m d a t o s x f | stg m d a t o s x f | sth m d a t o s x f =>
    obtain ⟨hok, htk⟩ := Bool.and_eq_true_iff.mp hwf
    rw [Order.storeOk_iff] at hok
    rw [MTy.storeOk_iff] at htk
    have hsl := scopeCode_le s
    have htl := mtyCode_le t
    have hol := orderCode_lt o
    obtain ⟨hw, hm, hj, hd, ha, ht, ho, hs, hx, hf⟩ := (encSM_eq_iff ..).mp (Option.some.inj h)
    have ht7 : mtyCode t ≠ 7 := by omega
    exact ⟨hw, by rw [hj]; rfl, by
      simp [decGroup, decMem, rg, hj, hm, hd, ha, ht, ho, hs, hx, hf, ht7, htk, hok, hsl]⟩
  | atom m d a op x o s p =>
    have hcas : atomCode op = 9 → d.toNat % 2 = 0 := by
      rw [atomCode_eq_nine_iff]
      rintro rfl
      exact of_decide_eq_true hwf
    have hpl := atomCode_le op
    have hsl := scopeCode_le s
    obtain ⟨hw, hm, hj, hd, ha, hp, hx, ho, hs, hpad, hz⟩ := (encodeS_atom_iff (by omega) (orderCode_lt o) (by omega)).mp h
    have hp11 : ¬ 11 ≤ atomCode op := by omega
    exact ⟨hw, by rw [hj]; rfl, by
      simpa [decGroup, decMem, rg, hj, hm, hd, ha, hp, hx, ho, hs, hpad, hz, hsl, hp11] using hcas⟩
  | fence m o s =>
    have ho0 : orderCode o ≠ 0 := mt (orderCode_eq_zero_iff o).mp (of_decide_eq_true hwf)
    have hol := orderCode_lt o
    have hsl := scopeCode_le s
    obtain ⟨hw, hm, hj, hd, ha, ho, hs, hz, hf⟩ := (encSF_eq_iff ..).mp (Option.some.inj h)
    exact ⟨hw, by rw [hj]; rfl, by simp [decGroup, decSync, hj, hm, hd, ha, ho, hs, hz, hf, ho0, hsl]⟩
  | barArrive m a o s | dbarArrive m a o s =>
    have hok := (Order.storeOk_iff o).mp hwf
    have hol := orderCode_lt o
    have hsl := scopeCode_le s
    obtain ⟨hw, hm, hj, hd, ha, ho, hs, hz, hf⟩ := (encSF_eq_iff ..).mp (Option.some.inj h)
    exact ⟨hw, by rw [hj]; rfl, by simp [decGroup, decSync, rg, hj, hm, hd, ha, ho, hs, hz, hf, hok, hsl]⟩
  | nbarArrive m n a o s =>
    have hok := (Order.storeOk_iff o).mp hwf
    have hol := orderCode_lt o
    have hsl := scopeCode_le s
    have hn := n.isLt
    obtain ⟨hw, hm, hj, hd, ha, ho, hs, hz, hf⟩ := (encSF_eq_iff ..).mp (Option.some.inj h)
    exact ⟨hw, by rw [hj]; rfl, by simp [decGroup, decSync, rg, hj, hm, hd, ha, ho, hs, hz, hf, hok, hsl, hn]⟩
  | barWait m o s | dbarWait m o s =>
    have hol := (Order.loadOk_iff o).mp hwf
    have hsl := scopeCode_le s
    obtain ⟨hw, hm, hj, hd, ha, ho, hs, hz, hf⟩ := (encSF_eq_iff ..).mp (Option.some.inj h)
    exact ⟨hw, by rw [hj]; rfl, by simp [decGroup, decSync, hj, hm, hd, ha, ho, hs, hz, hf, hol, hsl]⟩
  | nbarWait m n o s =>
    have hol := (Order.loadOk_iff o).mp hwf
    have hsl := scopeCode_le s
    have hn := n.isLt
    obtain ⟨hw, hm, hj, hd, ha, ho, hs, hz, hf⟩ := (encSF_eq_iff ..).mp (Option.some.inj h)
    exact ⟨hw, by rw [hj]; rfl, by simp [decGroup, decSync, hj, hm, hd, ha, ho, hs, hz, hf, hol, hsl, hn]⟩
  | mon m a | mwait m a =>
    obtain ⟨hw, hm, hj, hd, ha, ho, hs, hz, hf⟩ := (encSF_eq_iff ..).mp (Option.some.inj h)
    exact ⟨hw, by rw [hj]; rfl, by simp [decGroup, decSync, rg, hj, hm, hd, ha, ho, hs, hz, hf]⟩
  | cp m dir a b c =>
    have hdl := dirCode_le dir
    obtain ⟨hw, hm, hj, ht, ha, hb, hc, hf⟩ := (encSX_eq_iff ..).mp (Option.some.inj h)
    exact ⟨hw, by rw [hj]; rfl, by simp [decGroup, decEngine, rg, hj, hm, ht, ha, hb, hc, hf, hdl]⟩
  | cp2 m dir a b c | cp3 m dir a b c =>
    have hdl := dirCode_le dir
    have hal := of_decide_eq_true hwf
    obtain ⟨hw, hm, hj, ht, ha, hb, hc, hf⟩ := (encSX_eq_iff ..).mp (Option.some.inj h)
    exact ⟨hw, by rw [hj]; rfl, by simp [decGroup, decEngine, rg, hj, hm, ht, ha, hb, hc, hf, hdl, hal]⟩
  | cpsc m g a b c | mage m g a b =>
    have hg := g.toNat_lt
    obtain ⟨hw, hm, hj, ht, ha, hb, hc, hf⟩ := (encSX_eq_iff ..).mp (Option.some.inj h)
    exact ⟨hw, by rw [hj]; rfl, by
      cases g <;> simp [decGroup, decEngine, decMatrix, rg, hj, hm, ht, ha, hb, hc, hf]⟩
  | wtake m g a c =>
    have hg := g.toNat_lt
    have hal := of_decide_eq_true hwf
    obtain ⟨hw, hm, hj, ht, ha, hb, hc, hf⟩ := (encSX_eq_iff ..).mp (Option.some.inj h)
    exact ⟨hw, by rw [hj]; rfl, by
      cases g <;> simp [decGroup, decEngine, rg, hj, hm, ht, ha, hb, hc, hf, hal]⟩
  | cpm m a b c | mdrn m t a b c | mspl m t a b c =>
    have hal := of_decide_eq_true hwf
    obtain ⟨hw, hm, hj, ht, ha, hb, hc, hf⟩ := (encSX_eq_iff ..).mp (Option.some.inj h)
    exact ⟨hw, by rw [hj]; rfl, by simp [decGroup, decEngine, decMatrix, rg, hj, hm, ht, ha, hb, hc, hf, hal]⟩
  | cbat m c | cwait m a | launch m a c | qsnc m | collAr m a c | collRs m a c | collAg m a c | collBc m a c | collAa m a c
  | mzero m t | mrowMig m a b | mrowReg m a | mchkRd m t c | mchkClr m t | mchkInj m t a | msl m a b c =>
    obtain ⟨hw, hm, hj, ht, ha, hb, hc, hf⟩ := (encSX_eq_iff ..).mp (Option.some.inj h)
    exact ⟨hw, by rw [hj]; rfl, by simp [decGroup, decEngine, decMatrix, rg, hj, hm, ht, ha, hb, hc, hf]⟩
  | mma m t a b c =>
    obtain ⟨hao, hbo⟩ := Bool.and_eq_true_iff.mp hwf
    have ha6 := mopField_fst_lt a
    have hb6 := mopField_fst_lt b
    have hf4 : (mopField a).2 + (mopField b).2 * 2 < 16 := by
      rw [mopField_snd, mopField_snd]
      have := a.inSram.toNat_lt
      have := b.inSram.toNat_lt
      omega
    obtain ⟨hw, hm, hj, ht, ha, hb, hc, hf⟩ := (encSX_eq_iff ..).mp (Option.some.inj h)
    rw [mopField_snd, mopField_snd] at hf
    obtain ⟨hlt, hsa, hsb⟩ := bf_mma_iff.mp hf
    have hck := And.intro (And.intro (mopField_tile_lt a) (mopField_tile_lt b))
      (And.intro (mopField_sram_even hao) (mopField_sram_even hbo))
    exact ⟨hw, by rw [hj]; rfl, by
      simpa [decGroup, decMatrix, rg, hj, hm, ht, ha, hb, hc, Nat.not_le.mpr hlt, hsa, hsb, mopOf_mopField] using hck⟩
  | _ => exact nomatch h

/-- The one instruction whose fields are all zero is not well formed (R64). -/
theorem encodeS_ne_zero {i : Instr} (hwf : i.wf = true) : encodeS i ≠ some 0 := by
  intro h
  obtain ⟨-, -, hd⟩ := decGroup_of_encodeS hwf h
  have h0 : decGroup 0 = .ok (.add false 0 0 0) := rfl
  obtain rfl := Dec.ok.inj (h0.symm.trans hd)
  exact absurd hwf (by decide)

theorem decodeTableWord_of_encodeS {i : Instr} {w : Nat} (hwf : i.wf = true) (h : encodeS i = some w) :
    decodeTableWord 32 w = some i := by
  obtain ⟨hw, hu, hd⟩ := decGroup_of_encodeS hwf h
  refine (decodeTableWord_32_iff hw).mpr ⟨?_, hu, hd⟩
  rintro rfl
  exact encodeS_ne_zero hwf h

end Sys2Proof

namespace Sys2Proof

open Sys2Proof.Machine

/-! ## Codes of L words -/

@[simp] theorem ltyOf_ltyCode (t : LTy) : ltyOf (ltyCode t) = some t := by cases t <;> rfl
theorem ltyCode_lt (t : LTy) : ltyCode t < 32 := by cases t <;> decide
theorem ltyCode_ltyOf {n : Nat} {t : LTy} (hn : n < 32) (h : ltyOf n = some t) : ltyCode t = n := by
  revert t; decide +revert
@[simp] theorem rndOf_rndCode (r : Rnd) : rndOf (rndCode r) = r := by cases r <;> rfl
theorem rndCode_le (r : Rnd) : rndCode r ≤ 5 := by cases r <;> decide
theorem rndCode_rndOf {n : Nat} (h : n ≤ 5) : rndCode (rndOf n) = n := by decide +revert

theorem selCode_lt (s : Sel) : selCode s < 256 := by
  cases s <;> simp only [selCode]
  all_goals omega

@[simp] theorem selOf_selCode (s : Sel) : selOf (selCode s) = some s := by
  cases s with
  | v n => rw [selCode, selOf, if_pos (by omega)]; simp
  | k n => rw [selCode, selOf, if_neg (by omega), if_pos (by omega)]; simp
  | q n => rw [selCode, selOf, if_neg (by omega), if_neg (by omega), if_pos (by omega)]; simp
  | em | flm | laneid | imm => rfl
  | mb n =>
    rw [selCode, selOf]
    iterate 7 rw [if_neg (by omega)]
    rw [if_pos (by omega)]
    simp
  | small n =>
    rw [selCode, selOf]
    iterate 9 rw [if_neg (by omega)]
    simp

theorem selCode_selOf {c : Nat} {s : Sel} (hc : c < 256) (h : selOf c = some s) : selCode s = c := by
  unfold selOf at h
  split_ifs at h
  all_goals
    obtain rfl := Option.some.inj h
    simp only [selCode, BitVec.toNat_ofNat]
    omega

@[simp] theorem guardOf_code (g : Guard) : guardOf (g.neg.toNat * 8 + g.q.toNat) = g := by
  obtain ⟨n, q⟩ := g
  have hq : BitVec.ofNat 3 (n.toNat * 8 + q.toNat) = q := by
    apply BitVec.eq_of_toNat_eq
    rw [BitVec.toNat_ofNat]
    omega
  have hn : decide (8 ≤ n.toNat * 8 + q.toNat) = n := by cases n <;> simp; omega
  simp only [guardOf, hq, hn]

theorem code_guardOf {n : Nat} (h : n < 16) : (guardOf n).neg.toNat * 8 + (guardOf n).q.toNat = n := by decide +revert

@[simp] theorem laOf_laRaw (w : LA) : laOf (laRaw w) = w := by
  simp [laOf, laRaw]

@[simp] theorem lmOf_lmRaw (w : LM) : lmOf (lmRaw w) = w := by
  simp [lmOf, lmRaw]

theorem selCode_getD {c : Nat} {d : Sel} (hc : c < 256) (h : (selOf c).isSome = true) : selCode ((selOf c).getD d) = c := by
  obtain ⟨s, hs⟩ := Option.isSome_iff_exists.mp h
  rw [hs, Option.getD_some, selCode_selOf hc hs]

theorem ltyCode_getD {n : Nat} {d : LTy} (hn : n < 32) (h : (ltyOf n).isSome = true) : ltyCode ((ltyOf n).getD d) = n := by
  obtain ⟨t, ht⟩ := Option.isSome_iff_exists.mp h
  rw [ht, Option.getD_some, ltyCode_ltyOf hn ht]

/-- A selector is one of R58's table where its check passes, a field that names no operand being zero. -/
theorem selOf_isSome_of_dst {k : DstK} {md c : Nat} (h : dstSelBad k md c = false) (h0 : k = .no → c = 0) :
    (selOf c).isSome = true := by
  cases hs : selOf c with
  | some s => rfl
  | none =>
    cases k with
    | no => rw [h0 rfl] at hs; exact nomatch hs
    | v | vm | q | poll => simp [dstSelBad, hs] at h

theorem selOf_isSome_of_op {k : OpK} {c : Nat} (h : opSelBad k c = false) (h0 : k = .no → c = 0) : (selOf c).isSome = true := by
  cases hs : selOf c with
  | some s => rfl
  | none =>
    cases k with
    | no => rw [h0 rfl] at hs; exact nomatch hs
    | x | xn | xq | mask | vv => simp [opSelBad, hs] at h

@[simp] theorem firstBad_append_iff {l t : List (Bool × Nat)} : firstBad (l ++ t) = none ↔ firstBad l = none ∧ firstBad t = none := by
  induction l with
  | nil => simp
  | cons p l ih =>
    obtain ⟨b, n⟩ := p
    simp [ih, and_assoc]

/-- What the checks of an LA word leave of its raw fields. -/
theorem fields_of_laCheck {s : LShape} {r : LARaw} (h : laCheck s r = none) :
    modBad s.md r.md = none ∧ r.z = 0 ∧ r.rnd ≤ 5 ∧ (ltyOf r.ty).isSome = true ∧
      (selOf r.dst).isSome = true ∧ (selOf r.a).isSome = true ∧ (selOf r.b).isSome = true ∧ (selOf r.c).isSome = true := by
  unfold laCheck at h
  split at h
  · exact nomatch h
  next hmd =>
    simp only [judge_eq_none_iff, firstBad_append_iff, firstBad_cons, firstBad_nil, Bool.and_eq_false_iff, decide_eq_false_iff_not,
      Bool.not_eq_false', not_not, and_true] at h
    obtain ⟨⟨⟨-, hd, ha, hb, hc, hr, -, hz, -⟩, -⟩, ⟨⟨hr6, hty, -⟩, -⟩, ⟨hds, has, hbs, hcs⟩, -⟩ := h
    refine ⟨hmd, hz, ?_, ?_, selOf_isSome_of_dst hds fun h => hd.resolve_left (not_not.mpr h),
      selOf_isSome_of_op has fun h => ha.resolve_left (not_not.mpr h),
      selOf_isSome_of_op hbs fun h => hb.resolve_left (not_not.mpr h),
      selOf_isSome_of_op hcs fun h => hc.resolve_left (not_not.mpr h)⟩
    · rcases hr with hr | hr
      · rcases hr6 with h6 | h6
        · exact nomatch hr.symm.trans h6
        · omega
      · omega
    · cases hl : ltyOf r.ty with
      | none => rw [hl] at hty; exact nomatch hty
      | some t => rfl

/-- What the checks of an LM word leave of its raw fields. -/
theorem fields_of_lmCheck {op : Nat} {r : LMRaw} (h : lmCheck op r = none) :
    r.rnd = 0 ∧ r.sat = 0 ∧ r.z = 0 ∧ r.sc ≤ 4 ∧ (ltyOf r.ty).isSome = true ∧ (selOf r.dst).isSome = true ∧
      (selOf r.a).isSome = true ∧ (selOf r.b).isSome = true ∧ (selOf r.c).isSome = true := by
  unfold lmCheck at h
  split at h
  · exact nomatch h
  split at h
  · exact nomatch h
  simp only [judge_eq_none_iff, firstBad_cons, firstBad_nil, Bool.and_eq_false_iff, decide_eq_false_iff_not, Bool.not_eq_false',
    not_not, and_true] at h
  obtain ⟨⟨hd, ha, hb, hc, hr, hst, -, -, hz, -⟩, ⟨hty, -, hsc, -⟩, ⟨hds, has, hbs, hcs⟩, -⟩ := h
  have hop : ∀ {b : Bool} {k : OpK} {c : Nat}, k ≠ .no → (b = true ∨ c = 0) → (b = false ∨ opSelBad k c = false) →
      (selOf c).isSome = true := by
    intro b k c hk h0 hs
    cases b with
    | false => rw [h0.resolve_left Bool.false_ne_true]; rfl
    | true => exact selOf_isSome_of_op (hs.resolve_left nofun) fun h => absurd h hk
  refine ⟨hr, hst, hz, Nat.not_lt.mp hsc, ?_, ?_, hop (by decide) ha has, hop ?_ hb hbs, hop (by decide) hc hcs⟩
  · cases hl : ltyOf r.ty with
    | none => rw [hl] at hty; exact nomatch hty
    | some t => rfl
  · rcases hds with hds | hds
    · rw [hd.resolve_left (by rw [hds]; exact Bool.false_ne_true)]; rfl
    · exact selOf_isSome_of_dst hds nofun
  · unfold dataK
    split <;> decide

/-- The typed word of fields that passed their checks has those fields. -/
theorem laRaw_laOf {s : LShape} {w : Nat} (h : laCheck s (laFields w) = none) : laRaw (laOf (laFields w)) = laFields w := by
  obtain ⟨-, hz, hr, ht, hd, ha, hb, hc⟩ := fields_of_laCheck h
  exact (LARaw.mk.injEq ..).mpr ⟨toNat_bit w 95, code_guardOf (bf_lt w 84 4), selCode_getD (bf_lt w 76 8) hd,
    selCode_getD (bf_lt w 68 8) ha, selCode_getD (bf_lt w 60 8) hb, selCode_getD (bf_lt w 52 8) hc, rndCode_rndOf hr,
    toNat_bit w 48, ltyCode_getD (bf_lt w 43 5) ht, toNat_bf w 36 7, hz.symm, toNat_bf w 0 32⟩

theorem lmRaw_lmOf {op w : Nat} (h : lmCheck op (lmFields w) = none) : lmRaw (lmOf (lmFields w)) = lmFields w := by
  obtain ⟨hr, hst, hz, hs, ht, hd, ha, hb, hc⟩ := fields_of_lmCheck h
  exact (LMRaw.mk.injEq ..).mpr ⟨toNat_bit w 95, code_guardOf (bf_lt w 84 4), selCode_getD (bf_lt w 76 8) hd,
    selCode_getD (bf_lt w 68 8) ha, selCode_getD (bf_lt w 60 8) hb, selCode_getD (bf_lt w 52 8) hc, hr.symm, hst.symm,
    ltyCode_getD (bf_lt w 43 5) ht, orderCode_ordOf (bf_lt w 41 2), scopeCode_scopeOf hs, toNat_bit w 37, toNat_bit w 36, hz.symm,
    toNat_bf w 24 8, toNat_bf w 0 24⟩

theorem guardCode_lt (g : Guard) : g.neg.toNat * 8 + g.q.toNat < 16 := by
  have := g.neg.toNat_lt
  omega

theorem encLA_laRaw_iff {op w : Nat} {x : LA} (ho : op < 128) :
    encLA op (laRaw x) = w ↔ w < 2 ^ 96 ∧ bf w 88 7 = op ∧ laFields w = laRaw x :=
  encLA_eq_iff ho x.m.toNat_lt (guardCode_lt _) (selCode_lt _) (selCode_lt _) (selCode_lt _) (selCode_lt _)
    (Nat.lt_of_le_of_lt (rndCode_le _) (by decide)) x.sat.toNat_lt (ltyCode_lt _) x.md.isLt (by decide : (0 : Nat) < 16) x.imm.isLt

theorem encLM_lmRaw_iff {op w : Nat} {x : LM} (ho : op < 128) :
    encLM op (lmRaw x) = w ↔ w < 2 ^ 96 ∧ bf w 88 7 = op ∧ lmFields w = lmRaw x :=
  encLM_eq_iff ho x.m.toNat_lt (guardCode_lt _) (selCode_lt _) (selCode_lt _) (selCode_lt _) (selCode_lt _)
    (by decide : (0 : Nat) < 8) (by decide : (0 : Nat) < 2) (ltyCode_lt _) (orderCode_lt _)
    (Nat.lt_of_le_of_lt (scopeCode_le _) (by decide)) x.ef.toNat_lt x.rb.toNat_lt (by decide : (0 : Nat) < 16) x.fn.isLt x.off.isLt

theorem encLA_laFields {w : Nat} (hw : w < 2 ^ 96) : encLA (bf w 88 7) (laFields w) = w :=
  (encLA_eq_iff (bf_lt _ _ _) (bf_lt w 95 1) (bf_lt w 84 4) (bf_lt w 76 8) (bf_lt w 68 8) (bf_lt w 60 8) (bf_lt w 52 8)
    (bf_lt w 49 3) (bf_lt w 48 1) (bf_lt w 43 5) (bf_lt w 36 7) (bf_lt w 32 4) (bf_lt w 0 32)).mpr ⟨hw, rfl, rfl⟩

theorem encLM_lmFields {w : Nat} (hw : w < 2 ^ 96) : encLM (bf w 88 7) (lmFields w) = w :=
  (encLM_eq_iff (bf_lt _ _ _) (bf_lt w 95 1) (bf_lt w 84 4) (bf_lt w 76 8) (bf_lt w 68 8) (bf_lt w 60 8) (bf_lt w 52 8)
    (bf_lt w 49 3) (bf_lt w 48 1) (bf_lt w 43 5) (bf_lt w 41 2) (bf_lt w 38 3) (bf_lt w 37 1) (bf_lt w 36 1) (bf_lt w 32 4)
    (bf_lt w 24 8) (bf_lt w 0 24)).mpr ⟨hw, rfl, rfl⟩

end Sys2Proof

namespace Sys2Proof

open Sys2Proof.Machine

/-! ## LA words -/

/-- Whether a modifier is one of the mnemonic: `xreq` reserves or releases by modifier [1:0] (R193). -/
def Machine.ModR.names (r : ModR) (md : Nat) : Bool :=
  match r with
  | .xreq rel => decide ((2 ≤ md % 4) = (rel = true))
  | _ => true

theorem Machine.ModR.names_reserve {md : Nat} : (ModR.xreq false).names md = true ↔ md % 4 < 2 := by
  simp [ModR.names]

theorem Machine.ModR.names_release {md : Nat} : (ModR.xreq true).names md = true ↔ 2 ≤ md % 4 := by
  simp [ModR.names]

theorem modBad_fixed {n md : Nat} : modBad (.fixed n) md = none ↔ md = n := by
  simp [modBad]

/-- The opcodes of LA words: those of no LM and no LC word (R57). -/
def LaOp (op : Nat) : Prop := op < 128 ∧ op ≠ 0 ∧ ¬ (0x68 ≤ op ∧ op ≤ 0x6C) ∧ ¬ (0x70 ≤ op ∧ op ≤ 0x77)

theorem wf_of_laShape {i : Instr} {op : Nat} {sh : LShape} {x : LA} (h : laShape i = some (op, sh, x)) :
    i.wf = ((laCheck sh (laRaw x)).isNone && sh.md.names x.md.toNat) := by
  unfold Instr.wf
  rw [h]
  rfl

/-- What an LA opcode and modifier give is an LA word of that opcode. -/
theorem laShape_of_laCon {op md : Nat} {con : LA → Instr} (h : laCon op md = some con) :
    ∃ sh : LShape, sh.md.names md = true ∧ ∀ x, laShape (con x) = some (op, sh, x) ∧ encodeS (con x) = none := by
  unfold laCon at h
  split at h
  -- the opcodes 0x2E, 0x37, 0x3B, 0x3C and 0x60, whose modifier selects the mnemonic
  case h_33 | h_42 | h_46 | h_47 | h_60 =>
    split at h
    all_goals
      cases h <;>
        (refine ⟨_, ?_, fun x => ⟨rfl, rfl⟩⟩
         rfl)
  -- 0x78, `xreq`
  case h_64 =>
    split at h
    next hmd =>
      cases h
      exact ⟨_, ModR.names_reserve.mpr hmd, fun x => ⟨rfl, rfl⟩⟩
    next hmd =>
      cases h
      exact ⟨_, ModR.names_release.mpr (Nat.not_lt.mp hmd), fun x => ⟨rfl, rfl⟩⟩
  case h_68 => exact nomatch h
  all_goals
    cases h
    refine ⟨_, ?_, fun x => ⟨rfl, rfl⟩⟩
    rfl

/-- The opcode and modifier of an LA word that passes its modifier checks give its constructor back. -/
theorem laCon_of_laShape {i : Instr} {op : Nat} {sh : LShape} {x : LA} (h : laShape i = some (op, sh, x))
    (hm : modBad sh.md x.md.toNat = none) (hn : sh.md.names x.md.toNat = true) :
    LaOp op ∧ ∃ con, laCon op x.md.toNat = some con ∧ con x = i := by
  cases i with
  | laneAddF y | laneSubF y | laneMulF y | laneFma y | laneFms y | laneFnma y | laneMinF y | laneMaxF y | laneMinp y | laneMaxp y
  | laneAbsF y | laneNegF y | laneCmpF y | laneClamp y | laneCsgn y | laneDot2 y | laneFcls y | laneRint y | laneAddF64 y
  | laneSubF64 y | laneMulF64 y | laneFmaF64 y | laneMinF64 y | laneMaxF64 y | laneCmpF64 y | laneDivF64 y | laneSqrtF64 y
  | laneRcp y | laneRsqrt y | laneSqrt y | laneEx2 y | laneLg2 y | laneDivF32 y | laneAddI y | laneSubI y | laneMulI y
  | laneMulhi y | laneMad y | laneMinI y | laneMaxI y | laneShl y | laneShr y | laneCmpI y | laneBdot y | laneCvt y | lanePack y
  | laneUnpk y | laneScl y | laneMov y | laneSel y | laneLsw y | lanePoll y | laneRed y | laneBsel y | laneScan y | qmov y | qcnt y
  | emwr y | xfeed y | xread y | wapp y =>
    cases h
    exact ⟨by unfold LaOp; decide, _, rfl, rfl⟩
  | laneSin y | laneCos y | laneTanh y | laneAnd y | laneOr y | laneXor y | laneAndn y | lanePopc y | laneClz y | laneCtz y
  | laneBrev y | laneAbsI y | laneNegI y | qand y | qor y | qxor y | qandn y =>
    cases h
    have hmd := modBad_fixed.mp hm
    exact ⟨by unfold LaOp; decide, _, by rw [hmd]; rfl, rfl⟩
  | xreqReserve y =>
    cases h
    exact ⟨by unfold LaOp; decide, _, if_pos (ModR.names_reserve.mp hn), rfl⟩
  | xreqRelease y =>
    cases h
    exact ⟨by unfold LaOp; decide, _, if_neg (Nat.not_lt.mpr (ModR.names_release.mp hn)), rfl⟩
  | _ => exact nomatch h

theorem decodeL_of_laOp {w : Nat} {con : LA → Instr} {op : Nat} {sh : LShape} {x : LA} (ho : LaOp (bf w 88 7))
    (hc : laCon (bf w 88 7) (bf w 36 7) = some con) (hs : laShape (con (laOf (laFields w))) = some (op, sh, x)) :
    decodeL w = Dec.check (laCheck sh (laFields w)) (con (laOf (laFields w))) := by
  obtain ⟨-, h0, hlc, hlm⟩ := ho
  have hc' : laCon (bf w 88 7) (laFields w).md = some con := hc
  unfold decodeL
  simp only [if_neg h0, if_neg hlc, if_neg hlm, hc', hs]

theorem decodeL_encLA {i : Instr} {op : Nat} {sh : LShape} {x : LA} {w : Nat} (hs : laShape i = some (op, sh, x))
    (hwf : i.wf = true)
    (hw : encLA op (laRaw x) = w) : w < 2 ^ 96 ∧ decodeL w = .ok i := by
  rw [wf_of_laShape hs, Bool.and_eq_true_iff, Option.isNone_iff_eq_none] at hwf
  obtain ⟨hck, hn⟩ := hwf
  obtain ⟨ho, con, hcon, rfl⟩ := laCon_of_laShape hs (fields_of_laCheck hck).1 hn
  obtain ⟨hlt, rfl, hf⟩ := (encLA_laRaw_iff ho.1).mp hw
  have hx : laOf (laFields w) = x := by rw [hf, laOf_laRaw]
  have hmd : bf w 36 7 = x.md.toNat := congrArg LARaw.md hf
  refine ⟨hlt, ?_⟩
  rw [decodeL_of_laOp ho (hmd ▸ hcon) (hx.symm ▸ hs), hf, hck, laOf_laRaw]
  rfl

theorem encode_of_decodeL_la {i : Instr} {w : Nat} (hw : w < 2 ^ 96) (ho : LaOp (bf w 88 7)) (h : decodeL w = .ok i) :
    i.wf = true ∧ encode i = some (96, w) := by
  cases hcon : laCon (bf w 88 7) (bf w 36 7) with
  | none =>
    obtain ⟨-, h0, hlc, hlm⟩ := ho
    have hcon' : laCon (bf w 88 7) (laFields w).md = none := hcon
    unfold decodeL at h
    simp only [if_neg h0, if_neg hlc, if_neg hlm, hcon'] at h
    split at h <;> exact nomatch h
  | some con =>
    obtain ⟨sh, hn, hsh⟩ := laShape_of_laCon hcon
    obtain ⟨hs, he⟩ := hsh (laOf (laFields w))
    rw [decodeL_of_laOp ho hcon hs, Dec.check_eq_ok_iff] at h
    obtain ⟨hck, rfl⟩ := h
    have hraw := laRaw_laOf hck
    constructor
    · have hmd : (laOf (laFields w)).md.toNat = bf w 36 7 := toNat_bf w 36 7
      rw [wf_of_laShape hs, hraw, hck, hmd]
      exact hn
    · rw [encode, he, hs]
      exact congrArg (fun x => some (96, x)) (hraw.symm ▸ encLA_laFields hw)

/-! ## LM words -/

theorem wf_of_lmCode {i : Instr} {op fn : Nat} {x : LM} (h : lmCode i = some (op, fn, x)) :
    i.wf = ((lmCheck op (lmRaw x)).isNone && (decide (op ≠ 0x77) || decide (x.fn.toNat = fn))) := by
  cases i with
  | laneLdp y | laneStp y | laneLdg y | laneStg y | laneLdh y | laneSth y | laneAtom y | laneFence y | laneBarArrive y
  | laneBarWait y | laneNbarArrive y | laneNbarWait y => cases h; rfl
  | _ => exact nomatch h

theorem laShape_of_lmCode {i : Instr} {p : Nat × Nat × LM} (h : lmCode i = some p) : laShape i = none := by
  cases i with
  | laneLdp y | laneStp y | laneLdg y | laneStg y | laneLdh y | laneSth y | laneAtom y | laneFence y | laneBarArrive y
  | laneBarWait y | laneNbarArrive y | laneNbarWait y => rfl
  | _ => exact nomatch h

theorem lmCon_of_lmCode {i : Instr} {op fn : Nat} {x : LM} (h : lmCode i = some (op, fn, x))
    (hf : op ≠ 0x77 ∨ x.fn.toNat = fn) : (0x70 ≤ op ∧ op ≤ 0x77) ∧ ∃ con, lmCon op x.fn.toNat = some con ∧ con x = i := by
  cases i with
  | laneLdp y | laneStp y | laneLdg y | laneStg y | laneLdh y | laneSth y | laneAtom y =>
    cases h
    exact ⟨by decide, _, rfl, rfl⟩
  | laneFence y | laneBarArrive y | laneBarWait y | laneNbarArrive y | laneNbarWait y =>
    cases h
    have hfn := hf.resolve_left (not_not.mpr rfl)
    exact ⟨by decide, _, by rw [hfn]; rfl, rfl⟩
  | _ => exact nomatch h

theorem lmCode_of_lmCon {op fn : Nat} {con : LM → Instr} (h : lmCon op fn = some con) :
    ∃ f, (op ≠ 0x77 ∨ fn = f) ∧ ∀ x, lmCode (con x) = some (op, f, x) ∧ encodeS (con x) = none := by
  unfold lmCon at h
  split at h
  case h_8 =>
    split at h
    all_goals
      cases h <;> exact ⟨_, .inr rfl, fun x => ⟨rfl, rfl⟩⟩
  case h_9 => exact nomatch h
  all_goals
    cases h
    exact ⟨_, .inl (by decide), fun x => ⟨rfl, rfl⟩⟩

theorem decodeL_of_lmOp {w : Nat} (ho : 0x70 ≤ bf w 88 7 ∧ bf w 88 7 ≤ 0x77) {i : Instr} :
    decodeL w = .ok i ↔ lmCheck (bf w 88 7) (lmFields w) = none ∧
      ∃ con, lmCon (bf w 88 7) (bf w 24 8) = some con ∧ con (lmOf (lmFields w)) = i := by
  have h0 : bf w 88 7 ≠ 0 := by omega
  have hlc : ¬ (0x68 ≤ bf w 88 7 ∧ bf w 88 7 ≤ 0x6C) := by omega
  have hfn : (lmFields w).fn = bf w 24 8 := rfl
  unfold decodeL
  simp only [if_neg h0, if_neg hlc, if_pos ho, hfn]
  cases lmCheck (bf w 88 7) (lmFields w) with
  | some p => simp
  | none => cases lmCon (bf w 88 7) (bf w 24 8) <;> simp

theorem decodeL_encLM {i : Instr} {op fn : Nat} {x : LM} {w : Nat} (hc : lmCode i = some (op, fn, x)) (hwf : i.wf = true)
    (hw : encLM op (lmRaw x) = w) : w < 2 ^ 96 ∧ decodeL w = .ok i := by
  rw [wf_of_lmCode hc, Bool.and_eq_true_iff, Option.isNone_iff_eq_none, Bool.or_eq_true, decide_eq_true_eq, decide_eq_true_eq] at hwf
  obtain ⟨hck, hf⟩ := hwf
  obtain ⟨ho, con, hcon, rfl⟩ := lmCon_of_lmCode hc hf
  obtain ⟨hlt, rfl, hr⟩ := (encLM_lmRaw_iff (by omega)).mp hw
  have hfn : bf w 24 8 = x.fn.toNat := congrArg LMRaw.fn hr
  exact ⟨hlt, (decodeL_of_lmOp ho).mpr ⟨hr ▸ hck, con, hfn ▸ hcon, by rw [hr, lmOf_lmRaw]⟩⟩

theorem encode_of_decodeL_lm {i : Instr} {w : Nat} (hw : w < 2 ^ 96) (ho : 0x70 ≤ bf w 88 7 ∧ bf w 88 7 ≤ 0x77)
    (h : decodeL w = .ok i) : i.wf = true ∧ encode i = some (96, w) := by
  obtain ⟨hck, con, hcon, rfl⟩ := (decodeL_of_lmOp ho).mp h
  obtain ⟨f, hf, hcode⟩ := lmCode_of_lmCon hcon
  obtain ⟨hc, he⟩ := hcode (lmOf (lmFields w))
  have hraw := lmRaw_lmOf hck
  have hfn : (lmOf (lmFields w)).fn.toNat = bf w 24 8 := toNat_bf w 24 8
  constructor
  · rw [wf_of_lmCode hc, hraw, hck, hfn]
    simpa using hf
  · rw [encode, he, laShape_of_lmCode hc, hc]
    exact congrArg (fun x => some (96, x)) (hraw.symm ▸ encLM_lmFields hw)

/-! ## LC words -/

/-- An LC word is encoded as no other kind of word, and its opcode gives its constructor. -/
theorem lcCode_spec {i : Instr} {op : Nat} {x : LC} (h : lcCode i = some (op, x)) :
    (0x68 ≤ op ∧ op ≤ 0x6C) ∧ laShape i = none ∧ lmCode i = none ∧ encodeS i = none ∧
      i.wf = (lcCheck op (x.g.neg.toNat * 8 + x.g.q.toNat) 0 0 x.off.toNat).isNone ∧ ∃ con, lcCon op = some con ∧ con x = i := by
  cases i with
  | lbr y | ljoin y | lend y | lbrk y | ljmp y =>
    cases h
    exact ⟨by decide, rfl, rfl, rfl, rfl, _, rfl, rfl⟩
  | _ => exact nomatch h

theorem lcCode_of_lcCon {op : Nat} {con : LC → Instr} (h : lcCon op = some con) (x : LC) : lcCode (con x) = some (op, x) := by
  unfold lcCon at h
  split at h
  case h_6 => exact nomatch h
  all_goals
    cases h
    rfl

/-- The fields of an LC word (R57). -/
def lcFields (w : Nat) : LC := { m := bit w 95, g := guardOf (bf w 84 4), off := BitVec.ofNat 24 (bf w 0 24) }

theorem decodeL_of_lcOp {w : Nat} (ho : 0x68 ≤ bf w 88 7 ∧ bf w 88 7 ≤ 0x6C) {i : Instr} :
    decodeL w = .ok i ↔ lcCheck (bf w 88 7) (bf w 84 4) (bf w 52 32) (bf w 24 28) (bf w 0 24) = none ∧
      ∃ con, lcCon (bf w 88 7) = some con ∧ con (lcFields w) = i := by
  have h0 : bf w 88 7 ≠ 0 := by omega
  unfold decodeL
  simp only [if_neg h0, if_pos ho]
  cases lcCon (bf w 88 7) with
  | none => simp
  | some con => simp [Dec.check_eq_ok_iff, lcFields]

theorem lcCheck_reserved {op g z1 z0 off : Nat} (h : lcCheck op g z1 z0 off = none) : z1 = 0 ∧ z0 = 0 := by
  simp only [lcCheck, judge_eq_none_iff, firstBad_cons, decide_eq_false_iff_not, not_not] at h
  exact ⟨h.1.2.1, h.1.2.2.1⟩

theorem decodeL_encLC {i : Instr} {op : Nat} {x : LC} {w : Nat} (hc : lcCode i = some (op, x)) (hwf : i.wf = true)
    (hw : encLC op x = w) : w < 2 ^ 96 ∧ decodeL w = .ok i := by
  obtain ⟨ho, -, -, -, hwf', con, hcon, rfl⟩ := lcCode_spec hc
  rw [hwf', Option.isNone_iff_eq_none] at hwf
  obtain ⟨hlt, hm, rfl, hg, hz1, hz0, hoff⟩ := (encLC_eq_iff (by omega)).mp hw
  have hx : lcFields w = x := by simp [lcFields, hm, hg, hoff]
  exact ⟨hlt, (decodeL_of_lcOp ho).mpr ⟨by rw [hg, hz1, hz0, hoff, hwf], con, hcon, by rw [hx]⟩⟩

theorem encode_of_decodeL_lc {i : Instr} {w : Nat} (hw : w < 2 ^ 96) (ho : 0x68 ≤ bf w 88 7 ∧ bf w 88 7 ≤ 0x6C)
    (h : decodeL w = .ok i) : i.wf = true ∧ encode i = some (96, w) := by
  obtain ⟨hck, con, hcon, rfl⟩ := (decodeL_of_lcOp ho).mp h
  have hc := lcCode_of_lcCon hcon (lcFields w)
  obtain ⟨-, hla, hlm, he, hwf, -⟩ := lcCode_spec hc
  obtain ⟨hz1, hz0⟩ := lcCheck_reserved hck
  have hg : (lcFields w).g.neg.toNat * 8 + (lcFields w).g.q.toNat = bf w 84 4 := code_guardOf (bf_lt w 84 4)
  have hoff : (lcFields w).off.toNat = bf w 0 24 := toNat_bf w 0 24
  constructor
  · rw [hz1, hz0] at hck
    rw [hwf, hg, hoff, hck]
    rfl
  · rw [encode, he, hla, hlm, hc]
    exact congrArg (fun x => some (96, x)) ((encLC_eq_iff (bf_lt _ _ _)).mpr ⟨hw, rfl, rfl, hg.symm, hz1, hz0, hoff.symm⟩)

/-! ## Both kinds of word -/

theorem decodeTableWord_96_iff {w : Nat} {i : Instr} (hw : w < 2 ^ 96) : decodeTableWord 96 w = some i ↔ decodeL w = .ok i := by
  rw [decodeTableWord, if_neg (by decide), if_pos rfl, Nat.mod_eq_of_lt hw]
  cases decodeL w <;> simp

theorem encode_of_decodeL {i : Instr} {w : Nat} (hw : w < 2 ^ 96) (h : decodeL w = .ok i) :
    i.wf = true ∧ encode i = some (96, w) := by
  by_cases h0 : bf w 88 7 = 0
  · unfold decodeL at h
    simp only [if_pos h0] at h
    exact nomatch h
  by_cases hlc : 0x68 ≤ bf w 88 7 ∧ bf w 88 7 ≤ 0x6C
  · exact encode_of_decodeL_lc hw hlc h
  by_cases hlm : 0x70 ≤ bf w 88 7 ∧ bf w 88 7 ≤ 0x77
  · exact encode_of_decodeL_lm hw hlm h
  · exact encode_of_decodeL_la hw ⟨bf_lt _ _ _, h0, hlc, hlm⟩ h

end Sys2Proof

section
open Sys2Proof Sys2Proof.Machine

/-- Settles O56: each format's fields hold what the encoder put there, and every check of the decoder passes on them. -/
theorem encodeDecode : Obligations.EncodeDecode := by
  unfold Obligations.EncodeDecode
  intro i n w hwf h
  unfold encode at h
  split at h
  next x hx =>
    cases h
    exact decodeTableWord_of_encodeS hwf hx
  split at h
  next op sh x hx =>
    cases h
    obtain ⟨hw, hd⟩ := decodeL_encLA hx hwf rfl
    exact (decodeTableWord_96_iff hw).mpr hd
  split at h
  next op fn x hx =>
    cases h
    obtain ⟨hw, hd⟩ := decodeL_encLM hx hwf rfl
    exact (decodeTableWord_96_iff hw).mpr hd
  split at h
  next op x hx =>
    cases h
    obtain ⟨hw, hd⟩ := decodeL_encLC hx hwf rfl
    exact (decodeTableWord_96_iff hw).mpr hd
  next => exact nomatch h

/-- Settles O57: where every check of the decoder passes, the encoder writes each field back as the word has it. -/
theorem decodeEncode : Obligations.DecodeEncode := by
  unfold Obligations.DecodeEncode
  intro i n w hw h
  by_cases h32 : n = 32
  · subst h32
    obtain ⟨hwf, he⟩ := encodeS_of_decodeTableWord hw h
    exact ⟨hwf, by rw [encode, he]⟩
  by_cases h96 : n = 96
  · subst h96
    exact encode_of_decodeL hw ((decodeTableWord_96_iff hw).mp h)
  · rw [decodeTableWord, if_neg h32, if_neg h96] at h
    exact nomatch h

end

namespace Sys2Proof.Machine

/-! ## The lane turn may pass a turn of the agenda to the other path (R131) -/

/-- Who the warp of `pathsState` is. -/
def pathsWho : Ident :=
  { ctx := 1, grid := 1, team := 1, wg := 1, isLm := false, producer := true, leader := true, cls := 0, rset := 0, rep := 0,
    rmode := 0, warpid := 0, wgid := 0, teamid := 0, dieid := 0, gridid := 0, coreid := 0, sbase := 0x1000, slen := 64,
    lbase := 0x2000, llen := 64 }

/-- A warp with two live paths, both at word 8 of its lane image; the lane turn is the second path's. -/
def pathsUnit : Unit :=
  let u := newUnit ⟨0, 0⟩ pathsWho 0 0 1
  { u with lS := { u.lS with
      slot0 := { Slot.idle with live := true, lpc := 8, em := 0b01 },
      slot1 := { Slot.idle with live := true, lpc := 8, em := 0b10 },
      turn := true, running := some { entry := 8, k := [0, 0, 0, 0], mask := 0, lqSeq := 0 } } }

/-- The machine after reset with that warp, whose agenda gives its first path a turn. The lane image is zero bytes. -/
def pathsState : State :=
  { State.reset with units := [(ukey ⟨0, 0⟩, pathsUnit)], agenda := [.issue ⟨0, 0⟩ .l0] }

/-- The agenda that a result leaves. -/
def agendaAfter (r : Res) : Option (List Turn) := match r with | .next t => some t.agenda | _ => none

/-- The second path takes the lane turn, and the turn of the first waits. -/
theorem agendaAfter_step_pathsState : agendaAfter (step pathsState) = some [.issue ⟨0, 0⟩ .l0] := by decide

end Sys2Proof.Machine

section
open Sys2Proof Sys2Proof.Machine

/-- Refutes O53: where both path slots of a warp can issue, the lane turn decides between them (R131), and a turn of the agenda
for the other slot is kept, not taken off. In `pathsState` the agenda names path slot 0, and slot 1 issues. -/
theorem not_stepRunsTheWord : ¬ Obligations.StepRunsTheWord := by
  unfold Obligations.StepRunsTheWord
  intro h
  obtain ⟨hturn, -⟩ := h
  obtain ⟨-, hfree⟩ := hturn pathsState ⟨0, 0⟩ .l0 [] pathsUnit rfl rfl rfl (by decide)
  obtain ⟨-, hword, -⟩ := hfree (by decide)
  obtain ⟨-, hbad⟩ := hword (by decide) (by decide)
  have hstep := congrArg agendaAfter (hbad 0x10 88 (by decide))
  rw [agendaAfter_step_pathsState] at hstep
  exact absurd hstep (by decide)

/-- Settles O54: each word, written out, is decoded. -/
theorem wordsDecode : Obligations.WordsDecode := by
  unfold Obligations.WordsDecode
  decide

end

namespace Sys2Proof.Machine

/-! ## Values that a format holds exactly (R68, R70, R74)

A code that is no NaN decodes to `n * 2^k` where `k` is the spacing at its exponent; rounding takes every value of that magnitude
to `n` units of `2^k` without a remainder, and packing writes the code's fields back. -/

/-- The formats with a sign, an exponent and a fraction field (R68). -/
def Fmt.Fielded (f : Fmt) : Prop := f ≠ .mk8 ∧ f ≠ .e8m0

/-- `n * 2^k` is a nonzero finite magnitude of the format, in units of its spacing. -/
structure Fmt.Holds (f : Fmt) (n : Nat) (k : Int) : Prop where
  ne_zero : n ≠ 0
  spacing : f.spacing (expOf n k) = k
  le_max : magLt f.maxFin.1 f.maxFin.2 n k = false

/-! ### Magnitudes -/

/-- A magnitude written at a lower exponent is the same number. -/
theorem scaleTo_zpow {m : Nat} {e k : Int} (h : k ≤ e) : (scaleTo m e k : Rat) * 2 ^ k = m * 2 ^ e := by
  have he : e = ((e - k).toNat : Int) + k := by omega
  conv_rhs => rw [he, zpow_add₀ (two_ne_zero : (2 : Rat) ≠ 0), zpow_natCast]
  simp [scaleTo, mul_assoc]

theorem eq_of_mul_zpow_eq {a b : Nat} {k : Int} (h : (a : Rat) * 2 ^ k = b * 2 ^ k) : a = b := by
  have hk : (2 : Rat) ^ k ≠ 0 := zpow_ne_zero k two_ne_zero
  exact_mod_cast mul_right_cancel₀ hk h

theorem expOf_mul_two_pow {m : Nat} (hm : m ≠ 0) (d : Nat) (k : Int) : expOf (m * 2 ^ d) k = expOf m (k + d) := by
  have hlog : Nat.log2 (m * 2 ^ d) = Nat.log2 m + d := by
    induction d with
    | zero => simp
    | succ d ih =>
      rw [Nat.log2_eq_log_two] at ih ⊢
      rw [pow_succ, ← mul_assoc, Nat.log_mul_base one_lt_two (by positivity), ih, add_assoc]
  simp only [expOf, hlog]
  omega

/-- Equal magnitudes have one exponent. -/
theorem expOf_eq {m n : Nat} {e k : Int} (hm : m ≠ 0) (hn : n ≠ 0) (h : (m : Rat) * 2 ^ e = n * 2 ^ k) :
    expOf m e = expOf n k := by
  wlog hk : k ≤ e generalizing m n e k
  · exact (this hn hm h.symm (by omega)).symm
  have hs : n = scaleTo m e k := eq_of_mul_zpow_eq (by rw [scaleTo_zpow hk, h])
  rw [hs, scaleTo, expOf_mul_two_pow hm]
  congr 1
  omega

/-! ### Rounding a value that needs none -/

theorem roundUp_zero (rm : Rm) (neg odd : Bool) (d : Nat) : roundUp rm neg odd 0 d = false := by
  have hd : 0 < 2 ^ d := by positivity
  cases rm <;> simp [roundUp, hd.ne]

/-- A value that is `n` units of `2^k` is `n` of them in every rounding mode, exactly. -/
theorem roundAt_exact {m n : Nat} {e k : Int} (h : (m : Rat) * 2 ^ e = n * 2 ^ k) (rm : Rm) (neg flip : Bool) :
    roundAt rm neg flip m e k = (n, false) := by
  unfold roundAt
  split
  · next hk =>
    have : scaleTo m e k = n := eq_of_mul_zpow_eq (by rw [scaleTo_zpow hk, h])
    rw [this]
  · next hk =>
    have hm : m = n * 2 ^ (k - e).toNat := eq_of_mul_zpow_eq (by rw [h]; exact (scaleTo_zpow (by omega)).symm)
    have hq : m / 2 ^ (k - e).toNat = n := by rw [hm]; exact Nat.mul_div_cancel _ (by positivity)
    have hr : m % 2 ^ (k - e).toNat = 0 := by rw [hm]; exact Nat.mul_mod_left _ _
    simp [hq, hr, roundUp_zero]

/-- A value that the format holds rounds to itself and raises nothing. -/
theorem roundMag_holds {f : Fmt} {m n : Nat} {e k : Int} (hn : f.Holds n k) (hm : m ≠ 0) (h : (m : Rat) * 2 ^ e = n * 2 ^ k)
    (rm : Rm) (neg : Bool) : roundMag f rm neg m e = (n, k, flNone) := by
  simp only [roundMag, expOf_eq hm hn.ne_zero h, hn.spacing, roundAt_exact h]
  simp [flNone]

/-- A value that the format holds is encoded by its fields, whatever the rounding mode and the saturation. -/
theorem encode_holds {f : Fmt} {m n : Nat} {e k : Int} (hn : f.Holds n k) (h : (m : Rat) * 2 ^ e = n * 2 ^ k) (rm : Rm)
    (sat neg : Bool) : f.encode rm sat false (.fin neg m e) = (f.pack neg n k, flNone) := by
  have hm : m ≠ 0 := by
    rintro rfl
    have hz : (0 : Rat) = n * 2 ^ k := by simpa using h
    exact hn.ne_zero (by simpa [zpow_ne_zero] using hz)
  simp [Fmt.encode, hm, roundMag_holds hn hm h, hn.le_max]

/-! ### Codes with fields -/

/-- The fraction field of a code. -/
def Fmt.frField (f : Fmt) (x : Nat) : Nat := x % 2 ^ f.fbits

/-- The exponent field of a code. -/
def Fmt.exField (f : Fmt) (x : Nat) : Nat := x / 2 ^ f.fbits % 2 ^ f.ebits

/-- The sign field of a code. -/
def Fmt.sgField (f : Fmt) (x : Nat) : Bool := decide (x / 2 ^ (f.fbits + f.ebits) % 2 = 1)

/-- What a sign adds to a code. -/
def Fmt.signBit (f : Fmt) (neg : Bool) : Nat := if neg then 2 ^ (f.fbits + f.ebits) else 0

theorem Fmt.frField_lt (f : Fmt) (x : Nat) : f.frField x < 2 ^ f.fbits := Nat.mod_lt _ (by positivity)

theorem Fmt.exField_lt (f : Fmt) (x : Nat) : f.exField x < 2 ^ f.ebits := Nat.mod_lt _ (by positivity)

section
variable {f : Fmt} (hf : f.Fielded)
include hf

theorem Fmt.Fielded.width_eq : f.width = f.fbits + f.ebits + 1 := by
  cases f with
  | mk8 => exact absurd rfl hf.1
  | e8m0 => exact absurd rfl hf.2
  | _ => rfl

theorem Fmt.Fielded.spacing_eq (ex : Int) : f.spacing ex = max ex (1 - f.bias) - f.fbits := by
  cases f with
  | mk8 => exact absurd rfl hf.1
  | e8m0 => exact absurd rfl hf.2
  | _ => rfl

theorem Fmt.Fielded.pack_eq (neg : Bool) (n : Nat) (k : Int) : f.pack neg n k = f.signBit neg +
    if n < 2 ^ f.fbits then n else (k + f.fbits + f.bias).toNat * 2 ^ f.fbits + (n - 2 ^ f.fbits) := by
  cases f with
  | mk8 => exact absurd rfl hf.1
  | e8m0 => exact absurd rfl hf.2
  | _ => simp only [Fmt.pack]; split <;> rfl

theorem Fmt.Fielded.infBits_eq (neg : Bool) : f.infBits neg = f.signBit neg + (2 ^ f.ebits - 1) * 2 ^ f.fbits := by
  rw [Fmt.infBits, hf.width_eq]
  rfl

/-- The meaning of a code by its fields (R68). -/
theorem Fmt.Fielded.decode_eq (x : Nat) : f.decode x =
    if f.hasInf ∧ f.exField x = 2 ^ f.ebits - 1 then
      if f.frField x = 0 then .inf (f.sgField x) else .nan (decide (f.frField x < 2 ^ (f.fbits - 1)) && decide (f ≠ .e5m2))
    else if f = .e4m3 ∧ f.exField x = 15 ∧ f.frField x = 7 then .nan false
    else if f.exField x = 0 then .fin (f.sgField x) (f.frField x) (1 - f.bias - f.fbits)
    else .fin (f.sgField x) (2 ^ f.fbits + f.frField x) (f.exField x - f.bias - f.fbits) := by
  cases f with
  | mk8 => exact absurd rfl hf.1
  | e8m0 => exact absurd rfl hf.2
  | _ => rfl

/-- A code is its fields put together. -/
theorem Fmt.Fielded.code_eq {x : Nat} (hx : x < 2 ^ f.width) :
    x = f.signBit (f.sgField x) + (f.exField x * 2 ^ f.fbits + f.frField x) := by
  have hlow : x / 2 ^ f.fbits * 2 ^ f.fbits + f.frField x = x := Nat.div_add_mod' x _
  have hmid : x / 2 ^ (f.fbits + f.ebits) * 2 ^ f.ebits + f.exField x = x / 2 ^ f.fbits := by
    rw [pow_add, ← Nat.div_div_eq_div_mul]
    exact Nat.div_add_mod' _ _
  have htop : x / 2 ^ (f.fbits + f.ebits) < 2 := by
    rw [Nat.div_lt_iff_lt_mul (by positivity), mul_comm, ← pow_succ, ← hf.width_eq]
    exact hx
  have hsign : f.signBit (f.sgField x) = x / 2 ^ (f.fbits + f.ebits) * 2 ^ f.ebits * 2 ^ f.fbits := by
    rw [mul_assoc, ← pow_add, add_comm f.ebits]
    rcases Nat.lt_succ_iff_lt_or_eq.mp htop with h | h
    · simp [Fmt.signBit, Fmt.sgField, Nat.lt_one_iff.mp h]
    · simp [Fmt.signBit, Fmt.sgField, h]
  rw [hsign, ← add_assoc, ← add_mul, hmid, hlow]

/-- A finite code has the magnitude of a subnormal, or of a normal number below the codes of infinities and NaNs. -/
theorem Fmt.Fielded.decode_fin {x n : Nat} {s : Bool} {k : Int} (h : f.decode x = .fin s n k) :
    s = f.sgField x ∧ (f.exField x = 0 ∧ n = f.frField x ∧ k = 1 - f.bias - f.fbits ∨
      f.exField x ≠ 0 ∧ n = 2 ^ f.fbits + f.frField x ∧ k = f.exField x - f.bias - f.fbits ∧
        ¬(f.hasInf ∧ f.exField x = 2 ^ f.ebits - 1) ∧ ¬(f = .e4m3 ∧ f.exField x = 15 ∧ f.frField x = 7)) := by
  rw [hf.decode_eq] at h
  split_ifs at h with hinf hfr hnan hex
  · cases h
    exact ⟨rfl, .inl ⟨hex, rfl, rfl⟩⟩
  · cases h
    exact ⟨rfl, .inr ⟨hex, rfl, rfl, hinf, hnan⟩⟩

theorem Fmt.Fielded.pack_decode {x n : Nat} {s : Bool} {k : Int} (hx : x < 2 ^ f.width) (h : f.decode x = .fin s n k) :
    f.pack s n k = x := by
  obtain ⟨rfl, ⟨hex, rfl, -⟩ | ⟨-, rfl, rfl, -, -⟩⟩ := hf.decode_fin h
  · conv_rhs => rw [hf.code_eq hx, hex]
    rw [hf.pack_eq, if_pos (f.frField_lt x), zero_mul, zero_add]
  · conv_rhs => rw [hf.code_eq hx]
    have hk : ((f.exField x : Int) - f.bias - f.fbits + f.fbits + f.bias).toNat = f.exField x := by omega
    rw [hf.pack_eq, if_neg (by omega), hk, Nat.add_sub_cancel_left]

theorem Fmt.Fielded.infBits_decode {x : Nat} {s : Bool} (hx : x < 2 ^ f.width) (h : f.decode x = .inf s) :
    f.hasInf ∧ f.infBits s = x := by
  rw [hf.decode_eq] at h
  split_ifs at h with hinf hfr
  cases h
  refine ⟨hinf.1, ?_⟩
  conv_rhs => rw [hf.code_eq hx, hinf.2, hfr]
  rw [hf.infBits_eq, add_zero]

/-- A significand has at most one bit more than the fraction field. -/
theorem Fmt.Fielded.decode_lt {x n : Nat} {s : Bool} {k : Int} (h : f.decode x = .fin s n k) : n < 2 ^ (f.fbits + 1) := by
  have hlt := f.frField_lt x
  rw [pow_succ]
  obtain ⟨-, ⟨-, rfl, -⟩ | ⟨-, rfl, -⟩⟩ := hf.decode_fin h <;> omega

theorem Fmt.Fielded.spacing_decode {x n : Nat} {s : Bool} {k : Int} (h : f.decode x = .fin s n k) (hn : n ≠ 0) :
    f.spacing (expOf n k) = k := by
  have hlt := f.frField_lt x
  rw [hf.spacing_eq, expOf]
  obtain ⟨-, ⟨-, rfl, rfl⟩ | ⟨hex, rfl, rfl, -⟩⟩ := hf.decode_fin h
  · have hlog : Nat.log2 (f.frField x) < f.fbits := (Nat.log2_lt hn).mpr hlt
    omega
  · have hlog : Nat.log2 (2 ^ f.fbits + f.frField x) = f.fbits :=
      (Nat.log2_eq_iff hn).mpr ⟨Nat.le_add_right _ _, by rw [pow_succ]; omega⟩
    omega

end

theorem magLt_le {m n j : Nat} {e k : Int} (hk : k + j = e) (h : n ≤ m * 2 ^ j) : magLt m e n k = false := by
  have hmin : min e k = k := by omega
  have hj : (e - k).toNat = j := by omega
  simpa [magLt, hmin, scaleTo, hj] using h

theorem Fmt.maxFin_of_hasInf {f : Fmt} (h : f.hasInf = true) :
    f.maxFin = (2 ^ (f.fbits + 1) - 1, (2 ^ f.ebits - 2 : Nat) - f.bias - f.fbits) ∧ 2 < 2 ^ f.ebits := by
  cases f with
  | e4m3 | e2m1 | mk8 | e8m0 => exact nomatch h
  | _ => exact ⟨rfl, by decide⟩

/-- The largest magnitude is that of the last finite code (R68). -/
theorem Fmt.Fielded.le_maxFin {f : Fmt} (hf : f.Fielded) {x n : Nat} {s : Bool} {k : Int} (h : f.decode x = .fin s n k) :
    magLt f.maxFin.1 f.maxFin.2 n k = false := by
  have hlt := hf.decode_lt h
  have hex := f.exField_lt x
  have hfr := f.frField_lt x
  obtain ⟨-, hcode⟩ := hf.decode_fin h
  cases hi : f.hasInf with
  | true =>
    obtain ⟨hmax, h2⟩ := Fmt.maxFin_of_hasInf hi
    have hk : k ≤ (2 ^ f.ebits - 2 : Nat) - f.bias - f.fbits := by
      obtain ⟨-, -, rfl⟩ | ⟨-, -, rfl, hinf, -⟩ := hcode
      · omega
      · have : f.exField x ≠ 2 ^ f.ebits - 1 := fun e => hinf ⟨hi, e⟩
        omega
    rw [hmax]
    refine magLt_le (j := (((2 ^ f.ebits - 2 : Nat) : Int) - f.bias - f.fbits - k).toNat) (by omega) ?_
    exact (Nat.le_sub_one_of_lt hlt).trans (Nat.le_mul_of_pos_right _ (by positivity))
  | false =>
    cases f with
    | f64 | f32 | f16 | bf16 | e5m2 => exact nomatch hi
    | mk8 => exact absurd rfl hf.1
    | e8m0 => exact absurd rfl hf.2
    | e2m1 =>
      simp only [Fmt.fbits, Fmt.ebits, Fmt.bias] at hlt hex hcode
      change magLt 3 1 n k = false
      refine magLt_le (j := (1 - k).toNat) (by omega) ?_
      exact (Nat.le_sub_one_of_lt hlt).trans (Nat.le_mul_of_pos_right _ (by positivity))
    | e4m3 =>
      simp only [Fmt.fbits, Fmt.ebits, Fmt.bias, true_and] at hlt hex hfr hcode
      change magLt 7 6 n k = false
      refine magLt_le (j := (6 - k).toNat) (by omega) ?_
      rcases (by omega : (6 - k).toNat = 1 ∨ 2 ≤ (6 - k).toNat) with h1 | h2
      · rw [h1]
        omega
      · calc n ≤ 7 * 2 ^ 2 := by omega
          _ ≤ 7 * 2 ^ (6 - k).toNat := Nat.mul_le_mul_left 7 (Nat.pow_le_pow_right two_pos h2)

/-! ### Every code -/

/-- A value of which `x` is the code: packing gives `x`, and the format holds it if it is not zero. -/
def Fmt.codes (f : Fmt) (x : Nat) (v : FVal) : Bool :=
  match v with
  | .fin s n k => decide (f.pack s n k = x) &&
      (decide (n = 0) || decide (f.spacing (expOf n k) = k) && !magLt f.maxFin.1 f.maxFin.2 n k)
  | _ => true

theorem codes_mk8 : ∀ x < 256, Fmt.codes .mk8 x (mk8Val x) = true := by decide +kernel

theorem Fmt.codes_fin {f : Fmt} {x n : Nat} {s : Bool} {k : Int} (h : f.codes x (.fin s n k) = true) :
    f.pack s n k = x ∧ (n ≠ 0 → f.Holds n k) := by
  simp only [Fmt.codes, Bool.and_eq_true, Bool.or_eq_true, decide_eq_true_eq, Bool.not_eq_true'] at h
  exact ⟨h.1, fun hn => (h.2.resolve_left hn).elim (Fmt.Holds.mk hn)⟩

theorem Fmt.codes_decode {f : Fmt} (hf : f ≠ .e8m0) {x : Nat} (hx : x < 2 ^ f.width) : f.codes x (f.decode x) = true := by
  by_cases hm : f = .mk8
  · subst hm
    exact codes_mk8 x hx
  · have hff : f.Fielded := ⟨hm, hf⟩
    cases h : f.decode x with
    | nan q => rfl
    | inf s => rfl
    | fin s n k =>
      have hp := hff.pack_decode hx h
      have hl := hff.le_maxFin h
      rcases eq_or_ne n 0 with rfl | hn
      · simp [Fmt.codes, hp]
      · simp [Fmt.codes, hp, hl, hff.spacing_decode h hn]

/-- A zero is encoded by its sign, except in MK8, which has one zero (R70). -/
theorem encode_zero {f : Fmt} (hf : f ≠ .e8m0) (rm : Rm) (sat fzo neg : Bool) (k : Int) :
    f.encode rm sat fzo (.fin neg 0 k) = (f.pack neg 0 k, flNone) := by
  by_cases hm : f = .mk8
  · subst hm
    simp [Fmt.encode, Fmt.pack]
  · have hff : f.Fielded := ⟨hm, hf⟩
    simp [Fmt.encode, hff.pack_eq, hff.width_eq, hm, Fmt.signBit]

/-- An infinity that the format has is encoded without a flag. -/
theorem encode_inf {f : Fmt} (hf : f.hasInf = true) (rm : Rm) (fzo neg : Bool) :
    f.encode rm false fzo (.inf neg) = (f.infBits neg, flNone) := by
  cases f with
  | e4m3 | e2m1 | mk8 | e8m0 => exact nomatch hf
  | _ => rfl

/-- A code that is no NaN is given back by what it means. -/
theorem encode_decode {f : Fmt} (hf : f ≠ .e8m0) {x : Nat} (hx : x < 2 ^ f.width) (hnan : ∀ q, f.decode x ≠ .nan q) (rm : Rm) :
    f.encode rm false false (f.decode x) = (x, flNone) := by
  cases h : f.decode x with
  | nan q => exact absurd h (hnan q)
  | inf s =>
    have hff : f.Fielded := by
      refine ⟨?_, hf⟩
      rintro rfl
      simp only [Fmt.decode, mk8Val] at h
      split_ifs at h
    obtain ⟨hi, hx'⟩ := hff.infBits_decode hx h
    rw [encode_inf hi, hx']
  | fin s n k =>
    obtain ⟨hp, hh⟩ := Fmt.codes_fin (h ▸ Fmt.codes_decode hf hx)
    by_cases hn : n = 0
    · subst hn
      rw [encode_zero hf, hp]
    · rw [encode_holds (hh hn) rfl, hp]

end Sys2Proof.Machine

section
open Sys2Proof Sys2Proof.Machine

/-- Settles O24: a code that is no NaN means a zero, an infinity, or a value that its format holds exactly. -/
theorem formatRoundTrip : Obligations.FormatRoundTrip := by
  unfold Obligations.FormatRoundTrip
  exact fun f x rm hf hx hnan => encode_decode hf hx hnan rm

end

namespace Sys2Proof.Machine

/-! ## Exact results (R74, R113, R116)

An operation of two or three numbers answers, before it is rounded, the value of its exact result; where that is a nonzero number
of the format, `encode_num` gives its code. A quotient and a root carry a sticky bit below many extra bits; of a result that has few
significant bits those are all 0. -/

/-- An answer is the number `q`, and raises nothing. -/
def Gives (r : FVal × Flags) (q : Rat) : Prop := r.1.num = some q ∧ r.2 = flNone

/-- The sign of a number. -/
def signRat (s : Bool) : Rat := if s then -1 else 1

theorem num_fin (s : Bool) (m : Nat) (e : Int) : (FVal.fin s m e).num = some (signRat s * m * 2 ^ e) := rfl

theorem num_eq_some {v : FVal} {q : Rat} (h : v.num = some q) : ∃ s m e, v = .fin s m e ∧ q = signRat s * m * 2 ^ e := by
  cases v with
  | nan _ => exact nomatch h
  | inf _ => exact nomatch h
  | fin s m e => exact ⟨s, m, e, rfl, (Option.some.inj h).symm⟩

theorem signRat_injective : Function.Injective signRat := by
  intro s t
  cases s <;> cases t <;> norm_num [signRat]

theorem signRat_not (s : Bool) : signRat (!s) = -signRat s := by cases s <;> simp [signRat]

theorem signRat_xor (s t : Bool) : signRat (s != t) = signRat s * signRat t := by cases s <;> cases t <;> simp [signRat]

theorem abs_signRat (s : Bool) : |signRat s| = 1 := by cases s <;> simp [signRat]

/-- The magnitude of a number. -/
theorem abs_num (s : Bool) (m : Nat) (e : Int) : |signRat s * m * 2 ^ e| = m * 2 ^ e := by
  rw [mul_assoc, abs_mul, abs_signRat, one_mul]
  exact abs_of_nonneg (by positivity)

theorem ne_zero_of_mag_eq {m n : Nat} {e k : Int} (h : (m : Rat) * 2 ^ e = n * 2 ^ k) (hn : n ≠ 0) : m ≠ 0 := by
  rintro rfl
  have hpos : (0 : Rat) < n * 2 ^ k := by positivity
  rw [← h, Nat.cast_zero, zero_mul] at hpos
  exact hpos.false

/-- Two nonzero numbers that are equal have one sign and one magnitude. -/
theorem sign_mag_eq {s t : Bool} {m n : Nat} {e k : Int} (h : signRat s * m * 2 ^ e = signRat t * n * 2 ^ k) (hn : n ≠ 0) :
    s = t ∧ (m : Rat) * 2 ^ e = n * 2 ^ k := by
  have hmag : (m : Rat) * 2 ^ e = n * 2 ^ k := by rw [← abs_num s, h, abs_num]
  have hpos : (0 : Rat) < n * 2 ^ k := by positivity
  rw [mul_assoc, hmag, mul_assoc] at h
  exact ⟨signRat_injective (mul_right_cancel₀ hpos.ne' h), hmag⟩

/-- A value that is a nonzero number of the format is encoded by its code, in every rounding mode, and raises nothing. -/
theorem encode_num {f : Fmt} (hf : f ≠ .e8m0) {r : Nat} {q : Rat} (hr : r < 2 ^ f.width) (hq : f.num r = some q) (h0 : q ≠ 0)
    {v : FVal} (hv : v.num = some q) (rm : Rm) (sat : Bool) : f.encode rm sat false v = (r, flNone) := by
  obtain ⟨s, n, k, hd, rfl⟩ := num_eq_some hq
  obtain ⟨t, m, e, rfl, he⟩ := num_eq_some hv
  have hn : n ≠ 0 := by
    rintro rfl
    simp at h0
  obtain ⟨rfl, hmag⟩ := sign_mag_eq he.symm hn
  obtain ⟨hp, hh⟩ := Fmt.codes_fin (hd ▸ Fmt.codes_decode hf hr)
  rw [encode_holds (hh hn) hmag, hp]

/-! ### Sums and products -/

theorem signRat_natAbs (x : Int) : signRat (decide (x < 0)) * (x.natAbs : Rat) = x := by
  rcases lt_or_ge x 0 with h | h
  · rw [decide_eq_true h, Nat.cast_natAbs, abs_of_neg h]
    simp [signRat]
  · rw [decide_eq_false (by omega), Nat.cast_natAbs, abs_of_nonneg h]
    simp [signRat]

/-- A number as an integer in units of a lower exponent. -/
theorem sgnInt_zpow {e k : Int} (h : k ≤ e) (s : Bool) (m : Nat) :
    (sgnInt s (scaleTo m e k) : Rat) * 2 ^ k = signRat s * m * 2 ^ e := by
  rw [mul_assoc, ← scaleTo_zpow h]
  cases s <;> simp [sgnInt, signRat]

theorem addFin_num (rm : Rm) (s t : Bool) (m n : Nat) (e k : Int) :
    (addFin rm s m e t n k).num = some (signRat s * m * 2 ^ e + signRat t * n * 2 ^ k) := by
  have hsum : ((sgnInt s (scaleTo m e (min e k)) + sgnInt t (scaleTo n k (min e k)) : Int) : Rat) * 2 ^ min e k =
      signRat s * m * 2 ^ e + signRat t * n * 2 ^ k := by
    rw [Int.cast_add, add_mul, sgnInt_zpow (min_le_left e k), sgnInt_zpow (min_le_right e k)]
  rw [← hsum, addFin]
  split
  · next h0 =>
    rw [h0]
    split <;> simp [num_fin]
  · rw [num_fin, signRat_natAbs]

theorem fadd_gives (rm : Rm) {a b : FVal} {p q : Rat} (ha : a.num = some p) (hb : b.num = some q) :
    Gives (fadd rm a b) (p + q) := by
  obtain ⟨s, m, e, rfl, rfl⟩ := num_eq_some ha
  obtain ⟨t, n, k, rfl, rfl⟩ := num_eq_some hb
  exact ⟨addFin_num rm s t m n e k, rfl⟩

theorem fneg_num {a : FVal} {p : Rat} (ha : a.num = some p) : (fneg a).num = some (-p) := by
  obtain ⟨s, m, e, rfl, rfl⟩ := num_eq_some ha
  rw [fneg, num_fin, signRat_not]
  congr 1
  ring

theorem fmul_gives {a b : FVal} {p q : Rat} (ha : a.num = some p) (hb : b.num = some q) : Gives (fmul a b) (p * q) := by
  obtain ⟨s, m, e, rfl, rfl⟩ := num_eq_some ha
  obtain ⟨t, n, k, rfl, rfl⟩ := num_eq_some hb
  refine ⟨?_, rfl⟩
  rw [fmul, num_fin, signRat_xor, zpow_add₀ two_ne_zero]
  push_cast
  congr 1
  ring

theorem ffma_gives (rm : Rm) {a b c : FVal} {p q r : Rat} (ha : a.num = some p) (hb : b.num = some q) (hc : c.num = some r) :
    Gives (ffma rm a b c) (p * q + r) := by
  obtain ⟨hv, hf⟩ := fmul_gives ha hb
  obtain ⟨hv', hf'⟩ := fadd_gives rm hv hc
  refine ⟨hv', ?_⟩
  rw [ffma, hf, hf']
  rfl

/-! ### Quotients -/

/-- More bits at a lower exponent. -/
theorem mul_two_pow_zpow (m j : Nat) (e : Int) : ((m * 2 ^ j : Nat) : Rat) * 2 ^ (e - j) = m * 2 ^ e := by
  rw [← scaleTo_zpow (show e - j ≤ e by omega)]
  simp [scaleTo]

/-- A magnitude above half the other's units is written at no higher exponent, so that it is a whole number of the other. -/
theorem eq_scaleTo_of_lt {m n : Nat} {e k : Int} (h : (m : Rat) * 2 ^ e = n * 2 ^ k) (hlt : n < 2 * m) :
    e ≤ k ∧ m = scaleTo n k e := by
  have hle : e ≤ k := by
    by_contra hk
    have hn : n = scaleTo m e k := eq_of_mul_zpow_eq (by rw [scaleTo_zpow (by omega), h])
    have h2 : 2 ^ 1 ≤ 2 ^ (e - k).toNat := Nat.pow_le_pow_right two_pos (by omega)
    have := Nat.mul_le_mul_left m h2
    rw [scaleTo] at hn
    omega
  exact ⟨hle, eq_of_mul_zpow_eq (by rw [scaleTo_zpow hle, h])⟩

/-- A quotient with at most 130 significant bits is exact. -/
theorem fdiv_gives {a b : FVal} {p d : Rat} (ha : a.num = some p) (hb : b.num = some d) (hd : d ≠ 0)
    {s : Bool} {n : Nat} {k : Int} (hn : n < 2 ^ 130) (hn0 : n ≠ 0) (hq : signRat s * n * 2 ^ k * d = p) : Gives (fdiv a b) (signRat s * n * 2 ^ k) := by
  obtain ⟨sa, ma, ea, rfl, rfl⟩ := num_eq_some ha
  obtain ⟨sb, mb, eb, rfl, rfl⟩ := num_eq_some hb
  have hmb : mb ≠ 0 := by
    rintro rfl
    simp at hd
  have hprod : signRat sa * ma * 2 ^ ea = signRat (s != sb) * (n * mb : Nat) * 2 ^ (k + eb) := by
    rw [← hq, signRat_xor, zpow_add₀ two_ne_zero]
    push_cast
    ring
  obtain ⟨hsign, hmag⟩ := sign_mag_eq hprod (Nat.mul_ne_zero hn0 hmb)
  have hma : ma ≠ 0 := ne_zero_of_mag_eq hmag (Nat.mul_ne_zero hn0 hmb)
  obtain ⟨sh, hsh⟩ : ∃ sh, sh = 130 + Nat.log2 mb := ⟨_, rfl⟩
  -- the dividend in units of `2^(ea - sh)` is a whole multiple of the divisor
  have hlt : n * mb < 2 * (ma * 2 ^ sh) := by
    have hmb' : mb < 2 ^ (Nat.log2 mb + 1) := Nat.lt_log2_self
    calc n * mb < 2 ^ 130 * 2 ^ (Nat.log2 mb + 1) := Nat.mul_lt_mul'' hn hmb'
      _ = 2 * (1 * 2 ^ sh) := by rw [hsh]; ring
      _ ≤ 2 * (ma * 2 ^ sh) := by gcongr; omega
  obtain ⟨hle, hdvd⟩ := eq_scaleTo_of_lt ((mul_two_pow_zpow ma sh ea).trans hmag) hlt
  obtain ⟨t, ht⟩ : ∃ t : Nat, (t : Int) = k + eb - (ea - sh) := ⟨_, Int.toNat_of_nonneg (by omega)⟩
  have hdiv : ma * 2 ^ sh = n * 2 ^ t * mb := by
    rw [hdvd, scaleTo, ← ht, Int.toNat_natCast]
    ring
  have hval : ((n * 2 ^ t * 2 : Nat) : Rat) * 2 ^ (ea - eb - sh - 1) = n * 2 ^ k := by
    rw [mul_assoc, ← pow_succ, show ea - eb - sh - 1 = k - (t + 1 : Nat) by omega, mul_two_pow_zpow]
  have hq : fdiv (.fin sa ma ea) (.fin sb mb eb) = (.fin s (n * 2 ^ t * 2) (ea - eb - sh - 1), flNone) := by
    simp [fdiv, hmb, hma, ← hsh, hdiv, Nat.mul_div_cancel _ (Nat.pos_of_ne_zero hmb), hsign]
  rw [hq]
  refine ⟨?_, rfl⟩
  rw [num_fin, mul_assoc, hval, mul_assoc]

/-! ### Square roots -/

/-- The bits of a root are found from the top: the root stays between what has been found and one more in the current place. -/
theorem isqrtGo_eq_sqrt {n : Nat} (b acc : Nat) (hlo : acc * acc ≤ n) (hhi : n < (acc + 2 ^ b) * (acc + 2 ^ b)) :
    isqrtGo n b acc = Nat.sqrt n := by
  induction b generalizing acc with
  | zero => exact Nat.eq_sqrt.mpr ⟨hlo, hhi⟩
  | succ b ih =>
    have hup : acc + 2 ^ b + 2 ^ b = acc + 2 ^ (b + 1) := by ring
    simp only [isqrtGo]
    split
    · next h => exact ih _ h (by rwa [hup])
    · next h => exact ih _ hlo (by omega)

theorem isqrt_eq_sqrt (n : Nat) : isqrt n = Nat.sqrt n := by
  refine isqrtGo_eq_sqrt _ _ (by simp) ?_
  rw [zero_add, ← pow_add]
  exact Nat.lt_log2_self.trans_le (Nat.pow_le_pow_right two_pos (by omega))

theorem isqrt_mul_self (n : Nat) : isqrt (n * n) = n := by rw [isqrt_eq_sqrt, Nat.sqrt_eq]

/-- The radicand of an even exponent. -/
def evenRad (m : Nat) (e : Int) : Nat := if e % 2 = 0 then m else m * 2

theorem evenRad_zpow (m : Nat) (e : Int) : (evenRad m e : Rat) * 2 ^ (e / 2 + e / 2) = m * 2 ^ e := by
  unfold evenRad
  split
  · next h => rw [show e / 2 + e / 2 = e by omega]
  · next h =>
    rw [show e / 2 + e / 2 = e - (1 : Nat) by omega, ← mul_two_pow_zpow m 1 e, pow_one]

/-- The root of a positive number, by that of its radicand with 160 more bits. -/
theorem fsqrt_fin {m : Nat} (hm : m ≠ 0) (e : Int) : fsqrt (.fin false m e) =
    (.fin false (isqrt (evenRad m e * 2 ^ 160) * 2 +
      if isqrt (evenRad m e * 2 ^ 160) * isqrt (evenRad m e * 2 ^ 160) = evenRad m e * 2 ^ 160 then 0 else 1) (e / 2 - 81), flNone) := by
  have he : (if e % 2 = 0 then e else e - 1) / 2 = e / 2 := by split <;> omega
  rw [fsqrt, if_neg hm, if_neg Bool.false_ne_true]
  dsimp only
  rw [he]
  rfl

/-- A root with at most 80 significant bits is exact. -/
theorem fsqrt_gives {a : FVal} {n : Nat} {k : Int} (hn : n < 2 ^ 80) (hn0 : n ≠ 0)
    (ha : a.num = some ((n : Rat) * 2 ^ k * (n * 2 ^ k))) : Gives (fsqrt a) (n * 2 ^ k) := by
  obtain ⟨s, m, e, rfl, he⟩ := num_eq_some ha
  have hsq : signRat s * m * 2 ^ e = signRat false * (n * n : Nat) * 2 ^ (k + k) := by
    rw [← he, zpow_add₀ two_ne_zero]
    push_cast [signRat]
    ring
  obtain ⟨rfl, hmag⟩ := sign_mag_eq hsq (Nat.mul_ne_zero hn0 hn0)
  have hm : m ≠ 0 := ne_zero_of_mag_eq hmag (Nat.mul_ne_zero hn0 hn0)
  rw [← evenRad_zpow] at hmag
  have hrad : evenRad m e ≠ 0 := ne_zero_of_mag_eq hmag (Nat.mul_ne_zero hn0 hn0)
  -- the radicand with 160 more bits is a square
  have hlt : n * n < 2 * (evenRad m e * 2 ^ 160) := by
    calc n * n < 2 ^ 80 * 2 ^ 80 := Nat.mul_lt_mul'' hn hn
      _ ≤ 2 * (evenRad m e * 2 ^ 160) := by omega
  obtain ⟨hle, hrad⟩ := eq_scaleTo_of_lt ((mul_two_pow_zpow (evenRad m e) 160 _).trans hmag) hlt
  obtain ⟨t, ht⟩ : ∃ t : Nat, (t : Int) = k - (e / 2 - 80) := ⟨_, Int.toNat_of_nonneg (by omega)⟩
  have hroot : evenRad m e * 2 ^ 160 = n * 2 ^ t * (n * 2 ^ t) := by
    rw [hrad, scaleTo, show (k + k - (e / 2 + e / 2 - (160 : Nat))).toNat = t + t by omega, pow_add]
    ring
  have hval : ((n * 2 ^ t * 2 : Nat) : Rat) * 2 ^ (e / 2 - 81) = n * 2 ^ k := by
    rw [mul_assoc, ← pow_succ, show e / 2 - 81 = k - (t + 1 : Nat) by omega, mul_two_pow_zpow]
  rw [fsqrt_fin hm, hroot, isqrt_mul_self, if_pos rfl, add_zero]
  refine ⟨?_, rfl⟩
  rw [num_fin, mul_assoc, hval]
  simp [signRat]

/-! ### Comparison -/

theorem fltReal_num {a b : FVal} {p q : Rat} (ha : a.num = some p) (hb : b.num = some q) : fltReal a b = decide (p < q) := by
  obtain ⟨s, m, e, rfl, rfl⟩ := num_eq_some ha
  obtain ⟨t, n, k, rfl, rfl⟩ := num_eq_some hb
  have hpos : (0 : Rat) < 2 ^ min e k := by positivity
  rw [fltReal, ← sgnInt_zpow (min_le_left e k), ← sgnInt_zpow (min_le_right e k)]
  simp only [mul_lt_mul_iff_left₀ hpos, Int.cast_lt]

theorem isNan_num {a : FVal} {p : Rat} (ha : a.num = some p) : a.isNan = false ∧ a.isSnan = false := by
  obtain ⟨s, m, e, rfl, -⟩ := num_eq_some ha
  exact ⟨rfl, rfl⟩

theorem fltMin_of_lt {a b : FVal} {p q : Rat} (ha : a.num = some p) (hb : b.num = some q) (h : p < q) :
    fltMin a b = true ∧ fltMin b a = false := by
  have hab : fltReal a b = true := by simpa [fltReal_num ha hb] using h
  have hba : fltReal b a = false := by simpa [fltReal_num hb ha] using h.le
  simp [fltMin, feqReal, hab, hba]

/-- Of two unequal numbers a minimum takes the smaller one and a maximum the larger one. -/
theorem pickMin_of_lt {a b : FVal} {p q : Rat} (ha : a.num = some p) (hb : b.num = some q) (h : p < q) (max num : Bool) :
    pickMin max num a b = some (!max) ∧ pickMin max num b a = some max := by
  obtain ⟨hab, hba⟩ := fltMin_of_lt ha hb h
  simp [pickMin, (isNan_num ha).1, (isNan_num hb).1, hab, hba]

/-! ### The operations on codes -/

theorem decodeFz_false (f : Fmt) (x : Nat) : f.decodeFz false x = f.decode x := by
  rw [Fmt.decodeFz]
  split <;> simp [*]

/-- An exact operation whose result is a nonzero number of the format gives its code. -/
theorem arith_gives {f : Fmt} (hf : f ≠ .e8m0) {r : Nat} {q : Rat} (hr : r < 2 ^ f.width) (hq : f.num r = some q) (h0 : q ≠ 0)
    (rm : Rm) (sat : Bool) {x y z : Nat} (g : Rm → FVal → FVal → FVal → FVal × Flags)
    (hg : Gives (g rm (f.decode x) (f.decode y) (f.decode z)) q) : arith g f rm sat false false x y z = (r, flNone) := by
  obtain ⟨hv, hfl⟩ := hg
  simp only [arith, decodeFz_false, encode_num hf hr hq h0 hv, hfl]
  rfl

/-- Of two unequal numbers a minimum gives the smaller one's code and a maximum the larger one's, in either order. -/
theorem fminmax_of_lt {f : Fmt} (hf : f ≠ .e8m0) {x y : Nat} (hx : x < 2 ^ f.width) (hy : y < 2 ^ f.width) {a b : Rat}
    (ha : f.num x = some a) (hb : f.num y = some b) (h : a < b) (max num : Bool) :
    fminmax f false false max num x y = (if max then y else x, flNone) ∧
      fminmax f false false max num y x = (if max then y else x, flNone) := by
  have code {v : Nat} {p : Rat} (hv : v < 2 ^ f.width) (hp : f.num v = some p) :
      f.encode .rne false false (f.decode v) = (v, flNone) := by
    refine encode_decode hf hv (fun s hs => ?_) .rne
    rw [Fmt.num, hs] at hp
    exact nomatch hp
  have ha' : (f.decode x).num = some a := ha
  have hb' : (f.decode y).num = some b := hb
  obtain ⟨hxy, hyx⟩ := pickMin_of_lt ha' hb' h max num
  simp only [fminmax, decodeFz_false, hxy, hyx, (isNan_num ha').2, (isNan_num hb').2]
  cases max <;> simp [code hx ha, code hy hb, flNone]

section
variable {f : Fmt} (hf : f.Fielded) {r : Nat} {q : Rat} (hq : f.num r = some q) (h0 : q ≠ 0)
include hf hq h0

/-- A nonzero number of a format with fields has few significant bits. -/
theorem Fmt.Fielded.num_sig : ∃ (s : Bool) (n : Nat) (k : Int), q = signRat s * n * 2 ^ k ∧ n ≠ 0 ∧ n < 2 ^ 53 := by
  obtain ⟨s, n, k, hd, rfl⟩ := num_eq_some hq
  refine ⟨s, n, k, rfl, ?_, (hf.decode_lt hd).trans_le (Nat.pow_le_pow_right two_pos ?_)⟩
  · rintro rfl
    simp at h0
  · cases f <;> decide

theorem fdiv_exact {v w : FVal} {a b : Rat} (hv : v.num = some a) (hw : w.num = some b) (hb : b ≠ 0) (h : q * b = a) :
    Gives (fdiv v w) q := by
  obtain ⟨s, n, k, rfl, hn0, hn⟩ := hf.num_sig hq h0
  exact fdiv_gives hv hw hb (hn.trans (by norm_num)) hn0 h

theorem fsqrt_exact {v : FVal} {a : Rat} (hv : v.num = some a) (hpos : 0 < q) (h : q * q = a) : Gives (fsqrt v) q := by
  obtain ⟨s, n, k, hsig, hn0, hn⟩ := hf.num_sig hq h0
  have hroot : q = n * 2 ^ k := by rw [← abs_of_pos hpos, hsig, abs_num]
  rw [← h, hroot] at hv
  rw [hroot]
  exact fsqrt_gives (hn.trans (by norm_num)) hn0 hv

end

end Sys2Proof.Machine

namespace Sys2Proof.Machine

/-! ## Flags and masks of a lane word (R77, R78, R109) -/

theorem getLsbD_foldl_or {α : Type} {w : Nat} (l : List α) (f : α → BitVec w) (x : BitVec w) (k : Nat) :
    (l.foldl (fun a e => a ||| f e) x).getLsbD k = true ↔ x.getLsbD k = true ∨ ∃ e ∈ l, (f e).getLsbD k = true := by
  induction l generalizing x with
  | nil => simp
  | cons e t ih => simp [ih, or_assoc]

/-- A union has a bit where some part has it. -/
theorem getLsbD_union {α : Type} {w : Nat} (l : List α) (f : α → BitVec w) (k : Nat) :
    (l.foldl (fun a e => a ||| f e) 0).getLsbD k = true ↔ ∃ e ∈ l, (f e).getLsbD k = true := by
  rw [getLsbD_foldl_or]
  simp

theorem union_eq_zero {α : Type} {w : Nat} (l : List α) (f : α → BitVec w) (h : ∀ e ∈ l, f e = 0) :
    l.foldl (fun a e => a ||| f e) 0 = 0 := by
  induction l with
  | nil => rfl
  | cons e t ih =>
    rw [List.foldl_cons, h e List.mem_cons_self, BitVec.or_self]
    exact ih fun e' he' => h e' (List.mem_cons_of_mem _ he')

/-- The enabled flags of the parts that raise one are the enabled flags of all. -/
theorem union_filter {α : Type} {w : Nat} (l : List α) (f : α → BitVec w) (t : BitVec w) :
    (l.filter (fun e => decide (f e &&& t ≠ 0))).foldl (fun a e => a ||| (f e &&& t)) 0 =
      l.foldl (fun a e => a ||| f e) 0 &&& t := by
  refine BitVec.eq_of_getLsbD_eq fun k hk => Bool.eq_iff_iff.mpr ?_
  rw [getLsbD_union, BitVec.getLsbD_and, Bool.and_eq_true, getLsbD_union]
  simp only [List.mem_filter, decide_eq_true_eq, BitVec.getLsbD_and, Bool.and_eq_true]
  constructor
  · rintro ⟨e, ⟨he, -⟩, hf, ht⟩
    exact ⟨⟨e, he, hf⟩, ht⟩
  · rintro ⟨⟨e, he, hf⟩, ht⟩
    refine ⟨e, ⟨he, fun h0 => ?_⟩, hf, ht⟩
    have := congrArg (fun v => v.getLsbD k) h0
    simp [hf, ht] at this

/-- The number that has the bits below `n` where `f` holds. -/
theorem sum_bits (f : Nat → Bool) (n : Nat) :
    (List.range n).foldl (fun a l => if f l then a + 2 ^ l else a) 0 < 2 ^ n ∧
      ∀ k < n, ((List.range n).foldl (fun a l => if f l then a + 2 ^ l else a) 0).testBit k = f k := by
  induction n with
  | zero => simp
  | succ n ih =>
    obtain ⟨hlt, hbit⟩ := ih
    rw [List.range_succ, List.foldl_append, pow_succ]
    simp only [List.foldl_cons, List.foldl_nil]
    refine ⟨by split <;> omega, fun k hk => ?_⟩
    rcases Nat.lt_succ_iff_lt_or_eq.mp hk with hk | rfl
    · rw [← hbit k hk]
      split
      · rw [add_comm, Nat.testBit_two_pow_add_gt hk]
      · rfl
    · have hz := Nat.testBit_lt_two_pow hlt
      cases hf : f k with
      | true => rw [if_pos rfl, add_comm, Nat.testBit_two_pow_add_eq, hz, Bool.not_false]
      | false => rw [if_neg Bool.false_ne_true, hz]

/-- A mask of a predicate has bit `l` where it holds. -/
theorem getLsbD_maskOf (f : Nat → Bool) {l : Nat} (hl : l < 32) : (maskOf f).getLsbD l = f l := by
  rw [maskOf, BitVec.getLsbD_ofNat, (sum_bits f 32).2 l hl]
  simp [hl]

theorem mem_lanesOf {m : Mask} {l : Nat} : l ∈ lanesOf m ↔ l < 32 ∧ m.getLsbD l = true := by simp [lanesOf]

/-- The bit of one lane. -/
theorem getLsbD_laneBit (n : Nat) {l : Nat} (hl : l < 32) : (BitVec.ofNat 32 (2 ^ n)).getLsbD l = true ↔ n = l := by
  rw [BitVec.getLsbD_ofNat, Nat.testBit_two_pow]
  simp [hl]

section
variable (s : State) (u : Unit) (i : Bool) (r : List (Nat × Flags)) (k : Unit → Res)

/-- The union of the flags of lanes. -/
def lanesFlags (r : List (Nat × Flags)) : Flags := r.foldl (fun x e => x ||| e.2) flNone

theorem flUnion_laneFlags : flUnion (laneFlags r) = lanesFlags r := by
  simp [flUnion, laneFlags, lanesFlags, List.foldl_map]

/-- Where no enabled flag is raised, the word goes on with the flags joined in (R77). -/
theorem flagGate_clear (h : ∀ e ∈ r, e.2 &&& u.te = 0) :
    flagGate s u i (laneFlags r) k = k (u.raise (lanesFlags r)) := by
  have hhot : (laneFlags r).filter (fun e => decide (e.2 &&& u.te ≠ 0)) = [] := by
    rw [laneFlags, List.filter_map, List.map_eq_nil_iff, List.filter_eq_nil_iff]
    exact fun e he => by simpa using h e he
  rw [flagGate, hhot, flUnion_laneFlags]
  rfl

/-- Where an enabled flag is raised, the word traps for the lanes that raised one (R78). -/
theorem flagGate_trap (h : ∃ e ∈ r, e.2 &&& u.te ≠ 0) :
    ∃ lanes, flagGate s u i (laneFlags r) k = takeTrap s u (slotStrm i) 0x21 0
        ((lanesFlags r).toNat * 32 + (lanesFlags r &&& u.te).toNat) lanes false ∧
      ∀ l, l < 32 → (BitVec.getLsbD lanes l = true ↔ ∃ e ∈ r, e.1 = l ∧ e.2 &&& u.te ≠ 0) := by
  obtain ⟨hot, hhot⟩ : ∃ hot, hot = r.filter (fun e => decide (e.2 &&& u.te ≠ 0)) := ⟨_, rfl⟩
  have hmap : (laneFlags r).filter (fun e => decide (e.2 &&& u.te ≠ 0)) = laneFlags hot := by
    rw [hhot, laneFlags, List.filter_map]
    rfl
  have hne : (laneFlags hot).isEmpty = false := by
    obtain ⟨e, he, ht⟩ := h
    simpa [laneFlags, hhot] using ⟨e.1, e.2, he, ht⟩
  have hen : (laneFlags hot).foldl (fun a e => a ||| (e.2 &&& u.te)) flNone = lanesFlags r &&& u.te := by
    rw [laneFlags, List.foldl_map, hhot]
    exact union_filter r (fun e => e.2) u.te
  refine ⟨(laneFlags hot).foldl (fun a e => a ||| e.1) 0, ?_, fun l hl => ?_⟩
  · rw [flagGate, hmap, hne, hen, flUnion_laneFlags]
    rfl
  · rw [getLsbD_union]
    constructor
    · rintro ⟨b, hmem, hbit⟩
      obtain ⟨e, he, rfl⟩ := List.mem_map.mp hmem
      rw [hhot, List.mem_filter, decide_eq_true_eq] at he
      exact ⟨e, he.1, (getLsbD_laneBit e.1 hl).mp hbit, he.2⟩
    · rintro ⟨e, he, rfl, ht⟩
      refine ⟨_, List.mem_map.mpr ⟨e, ?_, rfl⟩, (getLsbD_laneBit e.1 hl).mpr rfl⟩
      rw [hhot, List.mem_filter, decide_eq_true_eq]
      exact ⟨he, ht⟩

end

/-- Joining no flag changes nothing. -/
theorem Unit.raise_none (u : Unit) : u.raise flNone = u := by
  simp [Unit.raise, flNone]

/-! ## Floating words (R113, R114) -/

section
variable {s : State} {u : Unit} {i : Bool} {w : LA} {f : Fmt} (n iv lat : Nat)

/-- The flags of a floating word by active lane. -/
def laneFlagsOf (u : Unit) (w : LA) (f : Fmt) (act : Mask) (fn : ElemFn) : List (Nat × Flags) :=
  (floatLanes u w f act fn).map (fun e => (e.1, e.2.2))

theorem lanesFlags_laneFlagsOf (act : Mask) (fn : ElemFn) :
    lanesFlags (laneFlagsOf u w f act fn) = (floatLanes u w f act fn).foldl (fun x e => x ||| e.2.2) flNone := by
  rw [lanesFlags, laneFlagsOf, List.foldl_map]

/-- A ready floating word writes its results where the flags of its lanes let it go on. -/
theorem floatWord_ready (hf : tyFmt w.ty = some f) (fn : ElemFn) (h : LReady s u i (laRegs w n)) :
    floatWord s w n iv lat fn = flagGate s u i (laneFlags (laneFlagsOf u w f (laneAct s u i w.g) fn)) fun v =>
      writeLane s v i w.m (laneAct s u i w.g) iv lat w.dst (tyRegs w.ty)
        ((floatLanes u w f (laneAct s u i w.g) fn).map (fun e => (e.1, e.2.1))) := by
  rw [floatWord, laneWord_ready h, hf]
  rfl

/-- A floating word that raises no enabled flag writes its results and joins its flags. -/
theorem floatWord_clear {d : BitVec 7} (hd : w.dst = .v d) (hf : tyFmt w.ty = some f) (fn : ElemFn)
    (h : LReady s u i (laRegs w n)) (hc : ∀ e ∈ floatLanes u w f (laneAct s u i w.g) fn, e.2.2 &&& u.te = 0) :
    floatWord s w n iv lat fn = .next (lNext s
      (u.raise ((floatLanes u w f (laneAct s u i w.g) fn).foldl (fun x e => x ||| e.2.2) flNone)) i w.m iv lat
      (vRes d.toNat (tyRegs w.ty) (laneAct s u i w.g)
        ((floatLanes u w f (laneAct s u i w.g) fn).map (fun e => (e.1, e.2.1))))) := by
  have hflags : ∀ e ∈ laneFlagsOf u w f (laneAct s u i w.g) fn, e.2 &&& u.te = 0 := List.forall_mem_map.mpr hc
  rw [floatWord_ready n iv lat hf fn h, hd, flagGate_clear s u i _ _ hflags, lanesFlags_laneFlagsOf]
  rfl

/-- A floating word that raises an enabled flag traps for the lanes that raised one. -/
theorem floatWord_trap (hf : tyFmt w.ty = some f) (fn : ElemFn) (h : LReady s u i (laRegs w n))
    (ht : ∃ e ∈ floatLanes u w f (laneAct s u i w.g) fn, e.2.2 &&& u.te ≠ 0) :
    let all := (floatLanes u w f (laneAct s u i w.g) fn).foldl (fun x e => x ||| e.2.2) flNone
    ∃ lanes, floatWord s w n iv lat fn =
        takeTrap s u (slotStrm i) 0x21 0 (all.toNat * 32 + (all &&& u.te).toNat) lanes false ∧
      ∀ l, l < 32 → (BitVec.getLsbD lanes l = true ↔
        ∃ e ∈ floatLanes u w f (laneAct s u i w.g) fn, e.1 = l ∧ e.2.2 &&& u.te ≠ 0) := by
  intro all
  have hmem {P : Nat × Flags → Prop} : (∃ e ∈ laneFlagsOf u w f (laneAct s u i w.g) fn, P e) ↔
      ∃ e ∈ floatLanes u w f (laneAct s u i w.g) fn, P (e.1, e.2.2) := by
    simp only [laneFlagsOf, List.mem_map, exists_exists_and_eq_and]
  obtain ⟨lanes, htrap, hlanes⟩ := flagGate_trap s u i _ _ (hmem.mpr ht)
  refine ⟨lanes, ?_, fun l hl => (hlanes l hl).trans hmem⟩
  rw [floatWord_ready n iv lat hf fn h, htrap, lanesFlags_laneFlagsOf]

/-- What a floating test answers for one element of each operand, with fzi: whether it passes, and its flags. -/
abbrev TestFn := Fmt → Bool → Nat → Nat → Bool × Flags

/-- The elements of an operand of a floating word. -/
def Unit.fElems (u : Unit) (w : LA) (f : Fmt) (x : Sel) (l : Nat) : List Nat :=
  elemsOf f.width (elCount w.ty) (u.opVal w.ty w.imm.toNat x l)

/-- What a floating test answers for the elements of a lane. -/
def Unit.tests (u : Unit) (w : LA) (f : Fmt) (fn : TestFn) (l : Nat) : List (Bool × Flags) :=
  ((u.fElems w f w.a l).zip (u.fElems w f w.b l)).map (fun p => fn f u.fzi p.1 p.2)

/-- The flags that a floating test raises in a lane. -/
def Unit.testFlags (u : Unit) (w : LA) (f : Fmt) (fn : TestFn) (l : Nat) : Flags :=
  (u.tests w f fn l).foldl (fun a x => a ||| x.2) flNone

/-- The flags of a floating test by active lane. -/
def Unit.testLanes (u : Unit) (w : LA) (f : Fmt) (fn : TestFn) (act : Mask) :
    List (Nat × Flags) := (lanesOf act).map (fun l => (l, u.testFlags w f fn l))

theorem lanesFlags_testLanes (fn : TestFn) (act : Mask) :
    lanesFlags (u.testLanes w f fn act) = (lanesOf act).foldl (fun y l => y ||| u.testFlags w f fn l) flNone := by
  rw [lanesFlags, Unit.testLanes, List.foldl_map]

/-- A ready floating test writes its mask where the flags of its lanes let it go on. -/
theorem floatTest_ready (hf : tyFmt w.ty = some f) (fn : TestFn)
    (h : LReady s u i (laRegs w n)) : floatTest s w n iv lat fn =
      flagGate s u i (laneFlags (u.testLanes w f fn (laneAct s u i w.g))) fun v =>
        writeMask s v i w.m (laneAct s u i w.g) iv lat w.dst (maskOf fun l =>
          (lanesOf (laneAct s u i w.g)).any fun k => decide (k = l) && (u.tests w f fn k).all (fun x => x.1)) := by
  rw [floatTest, laneWord_ready h, hf]
  simp only [List.map_map, List.any_map]
  rfl

/-- A floating test that raises no enabled flag writes a mask bit for each active lane, set when every element passes. -/
theorem floatTest_clear {q : BitVec 3} (hd : w.dst = .q q) (hf : tyFmt w.ty = some f)
    (fn : TestFn) (h : LReady s u i (laRegs w n))
    (hc : ∀ l ∈ lanesOf (laneAct s u i w.g), u.testFlags w f fn l &&& u.te = 0) :
    ∃ bits, floatTest s w n iv lat fn = .next (lNext s
        (u.raise ((lanesOf (laneAct s u i w.g)).foldl (fun y l => y ||| u.testFlags w f fn l) flNone)) i w.m iv lat
        [.q q (laneAct s u i w.g) bits]) ∧
      ∀ l ∈ lanesOf (laneAct s u i w.g), bits.getLsbD l = (u.tests w f fn l).all (fun x => x.1) := by
  refine ⟨maskOf fun l => (lanesOf (laneAct s u i w.g)).any fun k =>
    decide (k = l) && (u.tests w f fn k).all (fun x => x.1), ?_, fun l hl => ?_⟩
  · have hflags : ∀ e ∈ u.testLanes w f fn (laneAct s u i w.g), e.2 &&& u.te = 0 := List.forall_mem_map.mpr hc
    rw [floatTest_ready n iv lat hf fn h, hd, flagGate_clear s u i _ _ hflags, lanesFlags_testLanes]
    rfl
  · rw [getLsbD_maskOf _ (mem_lanesOf.mp hl).1, Bool.eq_iff_iff]
    simp [hl]

/-- A floating test that raises an enabled flag traps for the lanes that raised one. -/
theorem floatTest_trap (hf : tyFmt w.ty = some f) (fn : TestFn) (h : LReady s u i (laRegs w n))
    (ht : ∃ l ∈ lanesOf (laneAct s u i w.g), u.testFlags w f fn l &&& u.te ≠ 0) :
    let all := (lanesOf (laneAct s u i w.g)).foldl (fun y l => y ||| u.testFlags w f fn l) flNone
    ∃ lanes, floatTest s w n iv lat fn =
        takeTrap s u (slotStrm i) 0x21 0 (all.toNat * 32 + (all &&& u.te).toNat) lanes false ∧
      ∀ l, l < 32 → (BitVec.getLsbD lanes l = true ↔
        l ∈ lanesOf (laneAct s u i w.g) ∧ u.testFlags w f fn l &&& u.te ≠ 0) := by
  intro all
  have hmem {P : Nat × Flags → Prop} : (∃ e ∈ u.testLanes w f fn (laneAct s u i w.g), P e) ↔
      ∃ l ∈ lanesOf (laneAct s u i w.g), P (l, u.testFlags w f fn l) := by
    simp only [Unit.testLanes, List.mem_map, exists_exists_and_eq_and]
  obtain ⟨lanes, htrap, hlanes⟩ := flagGate_trap s u i _ _ (hmem.mpr ht)
  refine ⟨lanes, ?_, fun l hl => (hlanes l hl).trans (hmem.trans ?_)⟩
  · rw [floatTest_ready n iv lat hf fn h, htrap, lanesFlags_testLanes]
  · constructor
    · rintro ⟨k, hk, rfl, hfl⟩
      exact ⟨hk, hfl⟩
    · exact fun hl => ⟨l, hl.1, rfl, hl.2⟩

/-- A test that raises no flag at all. -/
theorem testFlags_none {fn : TestFn} (hfn : ∀ f fzi a b, (fn f fzi a b).2 = flNone) (l : Nat) :
    u.testFlags w f fn l = flNone :=
  union_eq_zero _ _ (List.forall_mem_map.mpr fun _ _ => hfn _ _ _ _)

theorem floatTest_noFlag {q : BitVec 3} (hd : w.dst = .q q) (hf : tyFmt w.ty = some f)
    {fn : TestFn} (hfn : ∀ f fzi a b, (fn f fzi a b).2 = flNone) (h : LReady s u i (laRegs w n)) :
    ∃ bits, floatTest s w n iv lat fn = .next (lNext s u i w.m iv lat [.q q (laneAct s u i w.g) bits]) ∧
      ∀ l ∈ lanesOf (laneAct s u i w.g), bits.getLsbD l = (u.tests w f fn l).all (fun x => x.1) := by
  have hte : flNone &&& u.te = 0 := BitVec.zero_and
  obtain ⟨bits, hnext, hbits⟩ := floatTest_clear n iv lat hd hf fn h fun l _ => by rw [testFlags_none hfn, hte]
  have hall : (lanesOf (laneAct s u i w.g)).foldl (fun y l => y ||| u.testFlags w f fn l) flNone = flNone :=
    union_eq_zero _ _ fun l _ => testFlags_none hfn l
  rw [hall, Unit.raise_none] at hnext
  exact ⟨bits, hnext, hbits⟩

end
end Sys2Proof.Machine

namespace Sys2Proof.Machine

/-! ## Integer words (R118, R119) -/

/-- A ready integer word writes its element-wise result in the active lanes. -/
theorem intWord_ready {s : State} {u : Unit} {i : Bool} {w : LA} {d : BitVec 7} (hd : w.dst = .v d) (n : Nat) (slow : Bool)
    (fn : IntFn) (h : LReady s u i (intRegs w n)) :
    intWord s w n slow fn = .next (lNext s u i w.m (if wide w.ty then 2 else 1) (if slow || wide w.ty then 6 else 4)
      (vRes d.toNat (tyRegs w.ty) (laneAct s u i w.g) ((lanesOf (laneAct s u i w.g)).map fun l => (l, joinElems (elBits w.ty)
        (((u.opElems w w.a l).zip ((u.opElems w w.b l).zip (u.opElems w w.c l))).map fun p =>
          fn (elBits w.ty) (tySigned w.ty) w.sat p.1 p.2.1 p.2.2))))) := by
  rw [intWord, laneWord_ready h, hd]
  rfl

theorem popBits_eq_countP (w v : Nat) : popBits w v = (List.range w).countP (fun i => v.testBit i) := by
  induction w generalizing v with
  | zero => rfl
  | succ w ih =>
    rw [popBits, ih, List.range_succ_eq_map, List.countP_cons, List.countP_map, add_comm]
    congr 1
    · exact List.countP_congr fun i _ => by simp [Nat.testBit_succ]
    · rcases Nat.mod_two_eq_zero_or_one v with h | h <;> simp [h]

theorem ctzBits_le (w v : Nat) : ctzBits w v ≤ w := by
  induction w generalizing v with
  | zero => exact le_rfl
  | succ w ih =>
    rw [ctzBits]
    have := ih (v / 2)
    split <;> omega

/-- The bits below the count are clear. -/
theorem testBit_lt_ctzBits (w v : Nat) {k : Nat} (hk : k < ctzBits w v) : v.testBit k = false := by
  induction w generalizing v k with
  | zero => exact absurd hk (Nat.not_lt_zero k)
  | succ w ih =>
    rw [ctzBits] at hk
    split at hk
    · exact absurd hk (Nat.not_lt_zero k)
    · next hodd =>
      cases k with
      | zero => simpa using hodd
      | succ k =>
        rw [Nat.testBit_succ]
        exact ih (v / 2) (by omega)

/-- The bit at the count is set, if it is below the width. -/
theorem testBit_ctzBits (w v : Nat) (h : ctzBits w v < w) : v.testBit (ctzBits w v) = true := by
  induction w generalizing v with
  | zero => exact absurd h (Nat.not_lt_zero _)
  | succ w ih =>
    rw [ctzBits] at h ⊢
    split at h
    · next hodd => simp [hodd]
    · next hodd =>
      rw [if_neg hodd, add_comm, Nat.testBit_succ]
      exact ih (v / 2) (by omega)

theorem revBits_lt (w v : Nat) : revBits w v < 2 ^ w := by
  induction w generalizing v with
  | zero => exact Nat.one_pos
  | succ w ih =>
    rw [revBits, pow_succ]
    have := ih (v / 2)
    rcases Nat.mod_two_eq_zero_or_one v with h | h <;> rw [h] <;> omega

theorem testBit_revBits (w v : Nat) {k : Nat} (hk : k < w) : (revBits w v).testBit k = v.testBit (w - 1 - k) := by
  induction w generalizing v k with
  | zero => exact absurd hk (Nat.not_lt_zero k)
  | succ w ih =>
    rw [revBits, mul_comm, Nat.testBit_two_pow_mul_add _ (revBits_lt w (v / 2))]
    rcases Nat.lt_succ_iff_lt_or_eq.mp hk with hk | rfl
    · rw [if_pos hk, ih (v / 2) hk, ← Nat.testBit_succ]
      congr 1
      omega
    · simp

end Sys2Proof.Machine

section
open Sys2Proof Sys2Proof.Machine

/-- Settles O19: each word is `intWord` of its element function, and the bit counts follow the bits from the lowest up. -/
theorem laneIntegerResults : Obligations.LaneIntegerResults := by
  unfold Obligations.LaneIntegerResults
  refine ⟨fun s u i w d hd => ?words, fun w v _ => popBits_eq_countP w v,
    fun w v _ => ⟨ctzBits_le w v, fun k hk => testBit_lt_ctzBits w v hk, testBit_ctzBits w v⟩,
    fun w v k _ hk => testBit_revBits w v hk⟩
  have word (n : Nat) (slow : Bool) (fn : IntFn) := intWord_ready (s := s) (u := u) (i := i) hd n slow fn
  exact ⟨word 2 false inAdd, word 2 false inSub, word 2 true inMul, word 2 true inMulhi, word 3 true inMad, word 2 false inMin,
    word 2 false inMax, word 2 false inAnd, word 2 false inOr, word 2 false inXor, word 2 false inAndn, word 2 false inShl,
    word 2 false inShr, word 1 true inPopc, word 1 true inClz, word 1 true inCtz, word 1 true inBrev, word 1 false inAbs,
    word 1 false inNeg⟩

/-- Settles O21: each word is `floatWord` of its element function; an exact operation answers the value of its result, of which
every format with fields encodes a nonzero number by its code (`encode_num`). -/
theorem laneFloatResults : Obligations.LaneFloatResults := by
  unfold Obligations.LaneFloatResults
  refine ⟨fun s u i w d f hd hf => ?words, fun f rm sat x y z r a b c q hf hx hy hz hxw hyw hr hq h0 => ?exact⟩
  case words =>
    have word (n iv lat : Nat) (fn : ElemFn) := floatWord_clear (s := s) (u := u) (i := i) n iv lat hd hf fn
    exact ⟨⟨word 2 1 4 elAdd, word 2 1 4 elSub, word 2 1 4 elMul, word 3 1 4 elFma, word 3 1 4 elFms, word 3 1 4 elFnma⟩,
      ⟨word 2 1 4 elMin, word 2 1 4 elMax, word 2 1 4 elMinp, word 2 1 4 elMaxp, word 1 1 4 elAbs, word 1 1 4 elNeg,
        word 3 1 4 elClamp, word 2 1 4 elCsgn, word 1 1 4 elRint⟩,
      ⟨word 2 8 12 elAdd, word 2 8 12 elSub, word 2 8 12 elMul, word 3 8 12 elFma, word 2 8 12 elMin, word 2 8 12 elMax,
        word 2 32 64 elDiv, word 1 32 64 elSqrt⟩,
      ⟨word 1 2 12 elRcp, word 1 2 12 (elTr .rsqrt), word 1 2 12 elSqrt, word 1 2 12 (elTr .ex2), word 1 2 12 (elTr .lg2),
        word 1 2 12 (elTr .sin), word 1 2 12 (elTr .cos), word 1 2 12 (elTr .tanh), word 2 8 24 elDiv⟩⟩
  case exact =>
    have hff : f.Fielded := ⟨by rintro rfl; simp at hf, by rintro rfl; simp at hf⟩
    have hx' : (f.decode x).num = some a := hx
    have hy' : (f.decode y).num = some b := hy
    have hz' : (f.decode z).num = some c := hz
    have coded {g : Rm → FVal → FVal → FVal → FVal × Flags} {p : Rat} (hp : q = p)
        (hg : Gives (g rm (f.decode x) (f.decode y) (f.decode z)) p) : arith g f rm sat false false x y z = (r, flNone) :=
      arith_gives hff.2 hr hq h0 rm sat g (hp ▸ hg)
    refine ⟨fun h => coded h (fadd_gives rm hx' hy'),
      fun h => coded (h.trans (sub_eq_add_neg a b)) (fadd_gives rm hx' (fneg_num hy')),
      fun h => coded h (fmul_gives hx' hy'),
      fun h => coded h (ffma_gives rm hx' hy' hz'),
      fun h => coded (h.trans (sub_eq_add_neg _ c)) (ffma_gives rm hx' hy' (fneg_num hz')),
      fun h => coded (h.trans (by ring)) (ffma_gives rm (fneg_num hx') hy' hz'),
      fun hb h => coded rfl (fdiv_exact hff hq h0 hx' hy' hb h),
      fun h => ?rcp,
      fun hpos h => coded rfl (fsqrt_exact hff hq h0 hx' hpos h),
      fun h => ?less, fun h => ?greater⟩
    case rcp =>
      have hone : (FVal.fin false 1 0).num = some 1 := by simp [num_fin, signRat]
      have ha : a ≠ 0 := right_ne_zero_of_mul (h.trans_ne one_ne_zero)
      exact coded rfl (fdiv_exact hff hq h0 hone hx' ha h)
    case less =>
      have lt := fminmax_of_lt hff.2 hxw hyw hx hy h
      exact ⟨(lt false true).1, (lt true true).1⟩
    case greater =>
      have gt := fminmax_of_lt hff.2 hyw hxw hy hx h
      exact ⟨(gt false true).2, (gt true true).2⟩

/-- Settles O22: `flagGate` traps for the lanes with an enabled flag, and else a test goes on to its mask; the class test raises
no flag. -/
theorem laneFloatTests : Obligations.LaneFloatTests := by
  unfold Obligations.LaneFloatTests
  refine ⟨fun s u i w f hf => ⟨?values, ?wide, ?tests⟩, fun s u i w q f hq hf => ⟨?cmp, ?cmp64, ?cls⟩⟩
  case values =>
    have word (n : Nat) (fn : ElemFn) := floatWord_trap (s := s) (u := u) (i := i) n 1 4 hf fn
    exact ⟨word 2 elAdd, word 2 elSub, word 2 elMul, word 3 elFma, word 3 elFms, word 3 elFnma, word 2 elMin, word 2 elMax,
      word 1 elRint⟩
  case wide =>
    have word (n iv lat : Nat) (fn : ElemFn) := floatWord_trap (s := s) (u := u) (i := i) n iv lat hf fn
    exact ⟨word 2 8 12 elAdd, word 2 8 12 elSub, word 2 8 12 elMul, word 3 8 12 elFma, word 2 32 64 elDiv, word 1 32 64 elSqrt,
      word 1 2 12 elRcp, word 1 2 12 elSqrt, word 2 8 24 elDiv⟩
  case tests =>
    have test (iv lat : Nat) := floatTest_trap (s := s) (u := u) (i := i) 2 iv lat hf (elCmp w.md.toNat)
    simp only [Unit.testFlags, Unit.tests, List.foldl_map] at test
    exact ⟨test 1 4, test 8 12⟩
  case cmp => exact floatTest_clear 2 1 4 hq hf (elCmp w.md.toNat)
  case cmp64 => exact floatTest_clear 2 8 12 hq hf (elCmp w.md.toNat)
  case cls =>
    intro h
    obtain ⟨bits, hnext, hbits⟩ := floatTest_noFlag 1 1 4 hq hf (fn := fun f _ a _ => (w.imm.getLsbD (f.classBit a), flNone))
      (fun _ _ _ _ => rfl) h
    refine ⟨bits, hnext, fun l hl => (hbits l hl).trans ?_⟩
    rw [Unit.tests, List.all_map]
    rfl
end

namespace Sys2Proof.Machine

/-! ## The values of the register and immediate ALU words (R86 to R89) -/

theorem ofInt_toNat (x : Word) : BitVec.ofInt 64 x.toNat = x := by
  rw [BitVec.ofInt_natCast, BitVec.ofNat_toNat, BitVec.setWidth_eq]

theorem sub_eq_ofInt (x y : Word) : x - y = BitVec.ofInt 64 ((x.toNat : Int) - y.toNat) := by
  refine sub_eq_of_eq_add ?_
  conv_rhs => rw [← ofInt_toNat y, ← BitVec.ofInt_add, ofInt_toNat y, sub_add_cancel, ofInt_toNat]

theorem shl_eq_ofNat (x : Word) (n : Nat) : x <<< n = BitVec.ofNat 64 (x.toNat * 2 ^ n) := by
  apply BitVec.eq_of_toNat_eq
  rw [BitVec.toNat_shiftLeft, BitVec.toNat_ofNat, Nat.shiftLeft_eq]

theorem shr_eq_ofNat (x : Word) (n : Nat) : x >>> n = BitVec.ofNat 64 (x.toNat / 2 ^ n) := by
  apply BitVec.eq_of_toNat_eq
  rw [BitVec.toNat_ushiftRight, BitVec.toNat_ofNat, Nat.shiftRight_eq_div_pow,
    Nat.mod_eq_of_lt ((Nat.div_le_self _ _).trans_lt x.isLt)]

theorem sar_eq_ofInt (x : Word) (n : Nat) : x.sshiftRight n = BitVec.ofInt 64 (x.toInt / 2 ^ n) := by
  rw [BitVec.sshiftRight_eq, Int.shiftRight_eq_div_pow, Int.natCast_pow]
  rfl

/-- Where two numbers that are equal leave no choice, `<` and `≤` choose alike. -/
theorem ite_lt_eq_ite_le {α β : Type} [LinearOrder α] {p q : α} {a b : β} (h : p = q → a = b) :
    (if p < q then a else b) = if p ≤ q then a else b := by
  rcases lt_trichotomy p q with hlt | heq | hgt
  · rw [if_pos hlt, if_pos hlt.le]
  · rw [h heq, ite_self, ite_self]
  · rw [if_neg hgt.not_gt, if_neg hgt.not_ge]

section
variable (x y : Word)

theorem minS_eq : (if x.slt y then x else y) = if x.toInt ≤ y.toInt then x else y := by
  simp only [BitVec.slt_iff_toInt_lt]
  exact ite_lt_eq_ite_le BitVec.eq_of_toInt_eq

theorem minU_eq : (if x.ult y then x else y) = if x.toNat ≤ y.toNat then x else y := by
  simp only [BitVec.ult_iff_toNat_lt]
  exact ite_lt_eq_ite_le BitVec.eq_of_toNat_eq

theorem maxS_eq : (if x.slt y then y else x) = if x.toInt ≤ y.toInt then y else x := by
  simp only [BitVec.slt_iff_toInt_lt]
  exact ite_lt_eq_ite_le fun h => (BitVec.eq_of_toInt_eq h).symm

theorem maxU_eq : (if x.ult y then y else x) = if x.toNat ≤ y.toNat then y else x := by
  simp only [BitVec.ult_iff_toNat_lt]
  exact ite_lt_eq_ite_le fun h => (BitVec.eq_of_toNat_eq h).symm

theorem divS_eq : divS x y = if y = 0 then BitVec.ofInt 64 (-1) else BitVec.ofInt 64 (x.toInt.tdiv y.toInt) := rfl

theorem remU_eq : remU x y = if y = 0 then x else BitVec.ofNat 64 (x.toNat - y.toNat * (x.toNat / y.toNat)) := by
  rw [remU, Nat.mod_def]

theorem remS_eq : remS x y = if y = 0 then x else BitVec.ofInt 64 (x.toInt - y.toInt * x.toInt.tdiv y.toInt) := by
  rw [remS, Int.tmod_def]

/-! Leading and trailing zeros, by their property. -/

theorem clzW_spec : ∃ n, clzW x = BitVec.ofNat 64 n ∧ n ≤ 64 ∧ x.toNat < 2 ^ (64 - n) ∧ (n < 64 → x.getLsbD (63 - n) = true) := by
  unfold clzW
  by_cases hx : x = 0
  · exact ⟨64, if_pos hx, le_rfl, by simp [hx], fun h => absurd h (lt_irrefl _)⟩
  · have h0 : x.toNat ≠ 0 := fun h => hx (BitVec.eq_of_toNat_eq h)
    have hlog : x.toNat.log2 < 64 := (Nat.log2_lt h0).mpr x.isLt
    refine ⟨63 - x.toNat.log2, if_neg hx, by omega, ?_, fun _ => ?_⟩
    · rw [show 64 - (63 - x.toNat.log2) = x.toNat.log2 + 1 by omega]
      exact Nat.lt_log2_self
    · rw [show 63 - (63 - x.toNat.log2) = x.toNat.log2 by omega]
      exact Nat.testBit_log2 h0

theorem ctzW_spec : ∃ n, ctzW x = BitVec.ofNat 64 n ∧ n ≤ 64 ∧ (∀ k, k < n → x.getLsbD k = false) ∧
    (n < 64 → x.getLsbD n = true) := by
  unfold ctzW
  cases h : (List.range 64).find? (fun i => x.getLsbD i) with
  | none =>
    refine ⟨64, rfl, le_rfl, fun k hk => ?_, fun h => absurd h (lt_irrefl _)⟩
    simpa using List.find?_range_eq_none.mp h k hk
  | some n =>
    obtain ⟨hn, hlt, hbelow⟩ := List.find?_range_eq_some.mp h
    exact ⟨n, rfl, (List.mem_range.mp hlt).le, fun k hk => by simpa using hbelow k hk, fun _ => hn⟩

end

section
variable {s : State} {u : Unit} {i : Instr} {m : Bool} {lat : Nat} {v : Word}

/-- A ready register ALU word whose function gives `v` issues with `v` for its destination. -/
theorem exec_aluS {d a b : SReg} {f : Word → Word → Word} (h : SReady s u [d, a, b]) (hi : exec i s = aluS s m d a b lat f)
    (hv : f (u.rs a) (u.rs b) = v) : exec i s = .next (sNext s u m lat [.s d v]) := by
  rw [hi, aluS_ready h, hv]

/-- As `exec_aluS`, for a word of one source. -/
theorem exec_aluS1 {d a : SReg} {f : Word → Word} (h : SReady s u [d, a]) (hi : exec i s = aluS1 s m d a lat f)
    (hv : f (u.rs a) = v) : exec i s = .next (sNext s u m lat [.s d v]) := by
  rw [hi, aluS1_ready h, hv]

end

end Sys2Proof.Machine

section
open Sys2Proof Sys2Proof.Machine

/-- Settles O1: a ready word issues with its function's value (`exec_aluS`), which is the number that R86 and R87 name. -/
theorem aluResults : Obligations.AluResults := by
  unfold Obligations.AluResults
  refine ⟨fun s u m d a b h => ?two, fun s u m d a h => ⟨?popc, ?clz, ?ctz⟩⟩
  case two =>
    intro x y gives
    exact ⟨exec_aluS h (exec_add s) rfl, exec_aluS h (exec_sub s) (sub_eq_ofInt x y), exec_aluS h (exec_and s) rfl,
      exec_aluS h (exec_or s) rfl, exec_aluS h (exec_xor s) rfl, exec_aluS h (exec_shl s) (shl_eq_ofNat x _),
      exec_aluS h (exec_shr s) (shr_eq_ofNat x _), exec_aluS h (exec_sar s) (sar_eq_ofInt x _), exec_aluS h (exec_mul s) rfl,
      exec_aluS h (exec_mulhiU64 s) rfl, exec_aluS h (exec_mulhiS64 s) rfl, exec_aluS h (exec_minS64 s) (minS_eq x y),
      exec_aluS h (exec_minU64 s) (minU_eq x y), exec_aluS h (exec_maxS64 s) (maxS_eq x y),
      exec_aluS h (exec_maxU64 s) (maxU_eq x y), exec_aluS h (exec_divU64 s) rfl, exec_aluS h (exec_divS64 s) (divS_eq x y),
      exec_aluS h (exec_remU64 s) (remU_eq x y), exec_aluS h (exec_remS64 s) (remS_eq x y), exec_aluS h (exec_andn s) rfl,
      exec_aluS h (exec_orn s) rfl⟩
  case popc => exact exec_aluS1 h (exec_popc s) rfl
  case clz =>
    obtain ⟨n, hn, hspec⟩ := clzW_spec (u.rs a)
    exact ⟨n, exec_aluS1 h (exec_clz s) hn, hspec⟩
  case ctz =>
    obtain ⟨n, hn, hspec⟩ := ctzW_spec (u.rs a)
    exact ⟨n, exec_aluS1 h (exec_ctz s) hn, hspec⟩

end

namespace Sys2Proof.Machine

section
variable (x y : Word)

theorem add_sx13 (i : BitVec 13) : x + sx13 i = BitVec.ofInt 64 ((x.toNat : Int) + i.toInt) := by
  rw [BitVec.ofInt_add, ofInt_toNat]
  rfl

theorem mul_sx13 (i : BitVec 13) : x * sx13 i = BitVec.ofInt 64 ((x.toNat : Int) * i.toInt) := by
  rw [BitVec.ofInt_mul, ofInt_toNat]
  rfl

/-- Shifting 19 bits in is adding them below. -/
theorem shiftIn_eq (w : BitVec 19) : x <<< (19 : Nat) ||| w.setWidth 64 = BitVec.ofNat 64 (x.toNat * 2 ^ 19 + w.toNat) := by
  apply BitVec.eq_of_toNat_eq
  rw [BitVec.toNat_or, BitVec.toNat_shiftLeft, BitVec.toNat_setWidth, ← Nat.or_mod_two_pow,
    ← Nat.shiftLeft_add_eq_or_of_lt w.isLt, Nat.shiftLeft_eq, BitVec.toNat_ofNat]

/-! The corner cases of division (R87). -/

/-- The signed remainder is the remainder of the numbers, by zero too. -/
theorem toInt_remS : (remS x y).toInt = x.toInt.tmod y.toInt := by
  unfold remS
  split
  · next hy => simp [hy]
  · rw [← BitVec.toInt_srem, BitVec.ofInt_toInt]

/-- A nonzero remainder of numbers has the sign of the dividend. -/
theorem tmod_neg_iff {a b : Int} (h : a.tmod b ≠ 0) : a.tmod b < 0 ↔ a < 0 := by
  constructor
  · intro hneg
    by_contra ha
    have := Int.tmod_nonneg b (not_lt.mp ha)
    omega
  · intro ha
    have := Int.tmod_nonneg b (neg_nonneg.mpr ha.le)
    rw [Int.neg_tmod] at this
    omega

theorem remS_neg_iff (h : remS x y ≠ 0) : (remS x y).toInt < 0 ↔ x.toInt < 0 := by
  rw [toInt_remS]
  refine tmod_neg_iff fun h0 => h (BitVec.eq_of_toInt_eq ?_)
  rw [toInt_remS, h0]
  rfl

/-- The most negative number divided by −1 is itself, with remainder 0. -/
theorem div_overflow (hx : x.toInt = -(2 ^ 63)) (hy : y.toInt = -1) : (divS x y).toInt = -(2 ^ 63) ∧ remS x y = 0 := by
  have hy0 : y ≠ 0 := by rintro rfl; exact absurd hy (by decide)
  constructor
  · rw [divS, if_neg hy0, hx, hy]
    decide
  · apply BitVec.eq_of_toInt_eq
    rw [toInt_remS, hx, hy]
    decide

end

end Sys2Proof.Machine

section
open Sys2Proof Sys2Proof.Machine

/-- Settles O2: as O1, with the second source sign-extended. -/
theorem immediateResults : Obligations.ImmediateResults := by
  unfold Obligations.ImmediateResults
  intro s u m d a h i n w x gives
  refine ⟨exec_aluS1 h (exec_addImm s) (add_sx13 x i), exec_aluS1 h (exec_andImm s) rfl, exec_aluS1 h (exec_orImm s) rfl,
    exec_aluS1 h (exec_xorImm s) rfl, exec_aluS1 h (exec_shlImm s) (shl_eq_ofNat x _), exec_aluS1 h (exec_shrImm s) (shr_eq_ofNat x _),
    exec_aluS1 h (exec_sarImm s) (sar_eq_ofInt x _), exec_aluS1 h (exec_mulImm s) (mul_sx13 x i), ?shin⟩
  rintro rfl
  exact exec_aluS1 h (exec_shin s) (shiftIn_eq x w)

end

section
open Sys2Proof Sys2Proof.Machine

/-- Settles O52: the four words issue with `divU`, `divS`, `remU` and `remS`, which answer for every divisor. -/
theorem divisionCorners : Obligations.DivisionCorners := by
  unfold Obligations.DivisionCorners
  intro s u m d a b h x y gives
  refine ⟨divU x y, divS x y, remU x y, remS x y, exec_aluS h (exec_divU64 s) rfl, exec_aluS h (exec_divS64 s) rfl,
    exec_aluS h (exec_remU64 s) rfl, exec_aluS h (exec_remS64 s) rfl, fun hy => ?byZero, div_overflow x y, remS_neg_iff x y⟩
  rw [hy]
  exact ⟨rfl, rfl, rfl, rfl⟩

end

namespace Sys2Proof.Machine

/-! ## Compares, predicate words and `sel` (R90 to R92) -/

/-- The condition of a compare, in the numbers that R90 compares. -/
theorem scondHolds_eq (c : SCond) (x y : Word) : scondHolds c x y = match c with
    | .eq => decide (x = y) | .ne => decide (x ≠ y)
    | .slt => decide (x.toInt < y.toInt) | .sge => decide (y.toInt ≤ x.toInt)
    | .ult => decide (x.toNat < y.toNat) | .uge => decide (y.toNat ≤ x.toNat)
    | .tst => decide (x &&& y ≠ 0) | .tnz => decide (x &&& y = 0) := by
  cases c with
  | slt => exact BitVec.slt_eq_decide
  | sge => simp [scondHolds, BitVec.slt_eq_decide, ← decide_not]
  | ult => exact BitVec.ult_eq_decide
  | uge => simp [scondHolds, BitVec.ult_eq_decide, ← decide_not]
  | _ => rfl

section
variable {s : State} {u : Unit} (m : Bool)

theorem exec_cmp_ready {a b : SReg} (h : SReady s u [a, b]) (p : PReg) {c : SCond} {r : Bool}
    (hr : scondHolds c (u.rs a) (u.rs b) = r) : exec (.cmp m p c a b) s = .next (sNext s u m 4 [.p p r]) := by
  rw [exec_cmp, execCmp, sWord_ready h, retireS_eq, hr]

theorem exec_cmpImm_ready {a : SReg} (h : SReady s u [a]) (p : PReg) {c : SCond} {i : BitVec 13} {r : Bool}
    (hr : scondHolds c (u.rs a) (sx13 i) = r) : exec (.cmpImm m p c a i) s = .next (sNext s u m 4 [.p p r]) := by
  rw [exec_cmpImm, execCmpImm, sWord_ready h, retireS_eq, hr]

theorem predWord_ready (h : SReady s u []) (p pa : PReg) (na : Bool) (pb : PReg) (nb : Bool) (f : Bool → Bool → Bool) :
    predWord s m p pa na pb nb f = .next (sNext s u m 4 [.p p (f (xor (u.rp pa) na) (xor (u.rp pb) nb))]) := by
  rw [predWord, sWord_ready h, retireS_eq]

theorem exec_sel_ready {d a b : SReg} (h : SReady s u [d, a, b]) (neg : Bool) (p : PReg) :
    exec (.sel m d a b neg p) s = .next (sNext s u m 4 [.s d (if xor (u.rp p) neg then u.rs a else u.rs b)]) := by
  rw [exec_sel, execSel, sWord_ready h, retireS_eq]

end

end Sys2Proof.Machine

namespace Sys2Proof

open Sys2Proof.Machine

section
variable (lm : Bool) {w : Nat}

/-- A word of majors 0x0A to 0x0D is decoded among the immediate words, by any fetcher. -/
theorem decodeS_decImm (h0 : 0x0A ≤ bf w 25 6) (h1 : bf w 25 6 ≤ 0x0D) : decodeS lm w = decImm (bf w 25 6) w := by
  have hw : w ≠ 0 := by rintro rfl; exact absurd h0 (by decide)
  unfold decodeS
  generalize bf w 25 6 = mj at *
  interval_cases mj <;> simp [hw, majUnassigned, lmRefuses]

/-- A nonzero reserved field at bit 0 is refused with cause 0x15. -/
theorem check_reserved {n : Nat} (h : n ≠ 0) (i : Instr) : Dec.check (judge [(decide (n ≠ 0), 0)] [] [] []) i = .bad 0x15 0 := by
  rw [decide_eq_true h]
  rfl

end

end Sys2Proof

section
open Sys2Proof Sys2Proof.Machine

/-- Settles O3: the conditions are those of R90 (`scondHolds_eq`), the encodings are the formats' own, and a word of these majors
reaches `decImm` (`decodeS_decImm`), whose reserved fields are judged first. -/
theorem predicateResults : Obligations.PredicateResults := by
  unfold Obligations.PredicateResults
  refine ⟨fun s u m p c a b h => ?cmp, fun s u m p c a i h => ?cmpImm, fun s u m p pa na pb nb h => ?pred,
    fun s u m d a b neg p h => exec_sel_ready m h neg p, fun m p c a b i => ?encCmp, fun m p pa na pb nb d a b => ?encPred,
    fun lm w => ⟨fun hj hz => ?cmp0, fun hj hop => ?op3, fun hj hop hz => ?pred0, fun hj hz => ?sel0⟩⟩
  case cmp => exact exec_cmp_ready m h p (scondHolds_eq c (u.rs a) (u.rs b))
  case cmpImm => exact exec_cmpImm_ready m h p (scondHolds_eq c (u.rs a) (sx13 i))
  case pred =>
    exact ⟨predWord_ready m h p pa na pb nb _, predWord_ready m h p pa na pb nb _, predWord_ready m h p pa na pb nb _⟩
  case encCmp => cases c <;> exact ⟨rfl, rfl⟩
  case encPred => exact ⟨rfl, rfl, rfl, rfl⟩
  case cmp0 =>
    rw [decodeS_decImm lm (by omega) (by omega), hj]
    exact check_reserved hz _
  case op3 =>
    rw [decodeS_decImm lm (by omega) (by omega), hj]
    simp [decImm, hop]
  case pred0 =>
    rw [decodeS_decImm lm (by omega) (by omega), hj]
    obtain hop0 | hop1 | hop2 : bf w 12 2 = 0 ∨ bf w 12 2 = 1 ∨ bf w 12 2 = 2 := by
      have := bf_lt w 12 2
      omega
    · simp only [decImm, hop0, check_reserved hz]
    · simp only [decImm, hop1, check_reserved hz]
    · simp only [decImm, hop2, check_reserved hz]
  case sel0 =>
    rw [decodeS_decImm lm (by omega) (by omega), hj]
    exact check_reserved hz _

end

namespace Sys2Proof.Machine

/-! ## Transfers of control (R93 to R95) -/

section
variable {s : State} {u : Unit} (m : Bool)

/-- A register's value as a target outside the image is recorded as it is. -/
theorem transferS_reg_out {x : Word} (h : ¬ inImage s u x.toNat) (rs : List FRes) :
    transferS s u m x.toNat rs = trapS s u 0x26 x.toNat 0 := by
  have hx : wrapInt 64 (x.toNat : Int) = x.toNat := by
    have := x.isLt
    unfold wrapInt
    omega
  rw [transferS_out h, hx]

theorem exec_br_ready (h : SReady s u []) (neg : Bool) (p : PReg) (off : BitVec 21) : exec (.br m neg p off) s =
    if xor (u.rp p) neg then transferS s u m ((u.sS.spc : Int) + off.toInt) [] else .next (sNext s u m 4 []) := by
  rw [exec_br, execBr, sWord_ready h]
  rfl

theorem exec_call_ready (h : SReady s u [60]) (neg : Bool) (p : PReg) (off : BitVec 21) : exec (.call m neg p off) s =
    if xor (u.rp p) neg then transferS s u m ((u.sS.spc : Int) + off.toInt) [.s 60 (BitVec.ofNat 64 (u.sS.spc + 1))]
    else .next (sNext s u m 4 []) := by
  rw [exec_call, execCall, linkReg, sWord_ready h]
  rfl

theorem exec_jr_ready {a : SReg} (h : SReady s u [a]) : exec (.jr m a) s = transferS s u m (u.rs a).toNat [] := by
  rw [exec_jr, execJr, sWord_ready h]

theorem exec_callr_ready {a : SReg} (h : SReady s u [a, 60]) : exec (.callr m a) s =
    transferS s u m (u.rs a).toNat [.s 60 (BitVec.ofNat 64 (u.sS.spc + 1))] := by
  rw [exec_callr, execCallr, linkReg, sWord_ready h]
  rfl

theorem exec_ret_ready (h : SReady s u [60]) : exec (.ret m) s = transferS s u m (u.rs 60).toNat [] := by
  rw [exec_ret, execRet, linkReg, sWord_ready h]

/-- `loop` by its count: at 0 it falls through, at 1 it falls through with the count 0, above 1 it counts and goes back. -/
theorem exec_loop_ready {c : SReg} (h : SReady s u [c]) (off : BitVec 19) : exec (.loop m c off) s =
    if (u.rs c).toNat = 0 then .next (sNext s u m 4 [])
    else if (u.rs c).toNat = 1 then .next (sNext s u m 4 [.s c 0])
    else transferS s u m ((u.sS.spc : Int) + off.toInt) [.s c (u.rs c - 1)] := by
  have h0 : u.rs c = 0 ↔ (u.rs c).toNat = 0 := (BitVec.toNat_inj (x := u.rs c) (y := 0)).symm
  have h1 : u.rs c - 1 ≠ 0 ↔ (u.rs c).toNat ≠ 1 := by
    rw [ne_eq, sub_eq_zero]
    exact not_congr (BitVec.toNat_inj (x := u.rs c) (y := 1)).symm
  rw [exec_loop, execLoop, sWord_ready h]
  refine if_congr h0 rfl ?_
  rw [if_congr h1 rfl rfl, ite_not]
  split
  · next hone =>
    rw [show u.rs c = 1 from BitVec.eq_of_toNat_eq hone]
    rfl
  · rfl

end

end Sys2Proof.Machine

section
open Sys2Proof Sys2Proof.Machine

/-- Settles O4: each word falls through or is `transferS`, which goes to a target in the image and traps at any other. -/
theorem transferWords : Obligations.TransferWords := by
  unfold Obligations.TransferWords
  refine ⟨⟨fun s u m neg p off h hin => ?br, fun s u m neg p off h hin => ?call,
    fun s u m a h hin => (exec_jr_ready m h).trans (transferS_in hin m _),
    fun s u m a h hin => (exec_callr_ready m h).trans (transferS_in hin m _),
    fun s u m h hin => (exec_ret_ready m h).trans (transferS_in hin m _),
    fun s u m c off h hin => ?loop, fun _ _ _ _ _ _ => ⟨rfl, rfl, rfl⟩⟩,
    fun s u m neg p off h ht hout => ?brOut, fun s u m neg p off h ht hout => ?callOut,
    fun s u m a h hout => (exec_jr_ready m h).trans (transferS_reg_out m hout _),
    fun s u m a h hout => (exec_callr_ready m h).trans (transferS_reg_out m hout _),
    fun s u m h hout => (exec_ret_ready m h).trans (transferS_reg_out m hout _),
    fun s u m c off h hc hout => ?loopOut⟩
  case br =>
    rw [exec_br_ready m h]
    split
    · next ht => exact transferS_in (hin ht) m _
    · rfl
  case call =>
    rw [exec_call_ready m h]
    split
    · next ht => exact transferS_in (hin ht) m _
    · rfl
  case loop =>
    rw [exec_loop_ready m h]
    split
    · rfl
    split
    · rfl
    · exact transferS_in (hin (by omega)) m _
  case brOut =>
    rw [exec_br_ready m h, if_pos ht]
    exact transferS_out hout m _
  case callOut =>
    rw [exec_call_ready m h, if_pos ht]
    exact transferS_out hout m _
  case loopOut =>
    rw [exec_loop_ready m h, if_neg (by omega), if_neg (by omega)]
    exact transferS_out hout m _

end

namespace Sys2Proof.Machine

/-! ## Staging and lane runs (R96 to R99) -/

/-- What a table holds after a fold over the first `n` keys whose step changes its own key alone. -/
theorem get_foldl_range {α : Type} {d : α} {f : SMap α → Nat → SMap α} {val : Nat → α → α}
    (hf : ∀ m k j, SMap.get d (f m k) j = if j = k then val j (SMap.get d m j) else SMap.get d m j) (m : SMap α) (n j : Nat) :
    SMap.get d ((List.range n).foldl f m) j = if j < n then val j (SMap.get d m j) else SMap.get d m j := by
  induction n with
  | zero => rfl
  | succ n ih =>
    rw [List.range_succ, List.foldl_append, List.foldl_cons, List.foldl_nil, hf, ih]
    rcases Nat.lt_trichotomy j n with hlt | rfl | hgt
    · rw [if_neg (by omega), if_pos hlt, if_pos (by omega)]
    · rw [if_pos rfl, if_neg (by omega), if_pos (by omega)]
    · rw [if_neg (by omega), if_neg (by omega), if_neg (by omega)]

/-- A mailbox's count after its run was enqueued or has ended. -/
theorem get_bumpCounts (cnt : SMap Nat) (mask : BitVec 4) (f : Nat → Nat) {n : Nat} (hn : n < 4) :
    SMap.get 0 (bumpCounts cnt mask f) n = if mask.getLsbD n then f (SMap.get 0 cnt n) else SMap.get 0 cnt n := by
  unfold bumpCounts
  rw [get_foldl_range (val := fun k x => if mask.getLsbD k then f x else x), if_pos hn]
  intro m k j
  by_cases hj : j = k
  · subst hj
    rw [if_pos rfl]
    split
    · rw [SMap.get_set, if_pos rfl]
    · rfl
  · rw [if_neg hj]
    split
    · rw [SMap.get_set, if_neg hj]
    · rfl

/-! A queued run is started where none executes. -/

section
variable (u : Unit)

@[simp] theorem Unit.startRun_id : u.startRun.id = u.id := by unfold Unit.startRun; split <;> rfl
@[simp] theorem Unit.startRun_mbCnt : u.startRun.mbCnt = u.mbCnt := by unfold Unit.startRun; split <;> rfl

/-- The executing run and those behind it stay in their order. -/
@[simp] theorem Unit.startRun_runs :
    u.startRun.lS.running.toList ++ u.startRun.lS.queue = u.lS.running.toList ++ u.lS.queue := by
  unfold Unit.startRun
  split
  · next hr hq => rw [hr, hq]; rfl
  · rfl

/-- The first run of an idle lane side starts at its entry, with every lane active. -/
theorem Unit.startRun_slot0 {r : QRun} (hr : u.lS.running = none) (hq : u.lS.queue = [r]) :
    u.startRun.lS.slot0 = { Slot.idle with live := true, lpc := r.entry, em := 0xFFFFFFFF } := by
  unfold Unit.startRun
  rw [hr, hq]

theorem Unit.laneIdle_iff : u.laneIdle = true ↔ u.lS.queue = [] ∧ u.lS.running = none := by
  simp [Unit.laneIdle]

/-- The run that an `lq` enqueues: its entry, the staged values, its mailboxes and its place in the order of issue. -/
def Unit.stagedRun (seq : Nat) (mask : BitVec 4) (entry : BitVec 21) : QRun :=
  { entry := entry.toNat, k := (List.range 4).map (fun n => SMap.get 0 u.sS.kst n), mask := mask, lqSeq := seq }

/-- The unit with that run behind those in the queue, and counted at its mailboxes. -/
def Unit.enqueued (seq : Nat) (mask : BitVec 4) (entry : BitVec 21) : Unit :=
  { u with lS := { u.lS with queue := u.lS.queue ++ [u.stagedRun seq mask entry] }, dirty := setAdd u.dirty 9,
           mbCnt := bumpCounts u.mbCnt mask (fun n => n + 1) }

end

section
variable {s : State} {u : Unit} (m : Bool)

theorem exec_lk_ready {a : SReg} (h : SReady s u [a]) (k : BitVec 2) :
    exec (.lk m k a) s = .next (sNext s u m 4 [.kst k (u.rs a)]) := by
  rw [exec_lk, execLk, sWord_ready h, retireS_eq]

/-- `lq` of a run in the image where the queue has room. -/
theorem exec_lq_ready (h : SReady s u []) (mask : BitVec 4) {entry : BitVec 21} (he : entry.toNat < lLen s u)
    (hq : u.queueUse < 8) : exec (.lq m mask entry) s = .next
      { s.setUnit ((u.enqueued s.fl.seq mask entry).startRun.sDone m [] (u.sS.spc + 1)) with
        fl := { s.fl with seq := s.fl.seq + 1 } } := by
  rw [exec_lq, execLq, sWord_ready h, if_neg (by omega), if_neg (by omega)]
  rfl

theorem exec_lqw_idle (h : SReady s u []) (hl : u.laneIdle = true) :
    exec (.lqw m) s = .next (s.setUnit ({ u with lqwSeq := s.fl.seq }.sDone m [] (u.sS.spc + 1))) := by
  rw [exec_lqw, execLqw, sWord_ready h, if_pos hl]

theorem exec_rdmb_ready {d : SReg} (h : SReady s u [d]) (n : BitVec 2) :
    exec (.rdmb m d n) s = .next (issuePend s u .s m 1 (newPend s u .s (.s d) (.mailbox n) false 1 none)) := by
  rw [exec_rdmb, execRdmb, sWord_ready h]

end

end Sys2Proof.Machine

section
open Sys2Proof Sys2Proof.Machine

/-- Settles O5: `lq` leaves the unit enqueued and started (`exec_lq_ready`), and starting a run keeps the order of the runs. -/
theorem stagingResults : Obligations.StagingResults := by
  unfold Obligations.StagingResults
  refine ⟨fun s u m k a h => exec_lk_ready m h k, fun s u m mask entry h he hq => ?lq, fun s u m h hl => exec_lqw_idle m h hl,
    fun s u m d n h => exec_rdmb_ready m h n⟩
  have hid : ((u.enqueued s.fl.seq mask entry).startRun.sDone m [] (u.sS.spc + 1)).id = s.cur :=
    (Unit.startRun_id _).trans h.2.1
  refine ⟨_, _, exec_lq_ready m h mask he hq, unit?_setUnit_id s hid, rfl, ?runs, fun n hn => ?counts, fun hl => ?started, rfl⟩
  case runs => exact (Unit.startRun_runs _).trans (List.append_assoc _ _ _).symm
  case counts =>
    refine (congrArg (SMap.get 0 · n) (Unit.startRun_mbCnt _)).trans ((get_bumpCounts _ _ _ hn).trans ?_)
    split <;> rfl
  case started =>
    obtain ⟨hqueue, hrun⟩ := u.laneIdle_iff.mp hl
    exact Unit.startRun_slot0 (r := u.stagedRun s.fl.seq mask entry) _ hrun (by simp [Unit.enqueued, hqueue])

end

namespace Sys2Proof.Machine

/-! ## A write at a DVA leaves the units

Device memory, lent memory and the translations are apart from the units: every function that `writeDva` is made of leaves the
table of units as it is. -/

section
variable (s : State)

@[simp] theorem tlbPut_units (x : Tlb) : (tlbPut s x).units = s.units := rfl

@[simp] theorem nodesPut_units (share ctx dva : Nat) (l : List (Nat × Phys × Nat)) : (nodesPut s share ctx dva l).units = s.units := by
  unfold nodesPut
  refine foldl_keeps State.units _ (fun t x => ?_) _ s
  split <;> rfl

@[simp] theorem activate_units (p : Phys) : (activate s p).units = s.units := by
  unfold activate
  split <;> rfl

@[simp] theorem touchRun_units (p : Phys) (n : Nat) : (touchRun s p n).units = s.units :=
  foldl_keeps State.units _ (fun t _ => activate_units t _) _ s

@[simp] theorem shareFill_units (ctx dva : Nat) : (shareFill s ctx dva).units = s.units := by
  unfold shareFill
  extract_lets k l s1
  have h1 : s1.units = s.units := (nodesPut_units _ _ _ _ _).trans (foldl_keeps State.units _ (fun t _ => activate_units t _) _ s)
  split
  · exact h1
  · exact h1

@[simp] theorem walkDone_units (w : Walk) : (walkDone s w).units = s.units := by
  unfold walkDone
  dsimp only
  split <;> exact shareFill_units _ _ _

@[simp] theorem joinWalks_units (ctx dva : Nat) : (joinWalks s ctx dva).units = s.units := by
  have hs (l : List Walk) : (l.foldl walkDone s).units = s.units := foldl_keeps State.units _ walkDone_units l s
  unfold joinWalks
  dsimp only
  split
  · cases List.head? _ with
    | none => exact hs _
    | some w => exact (walkDone_units _ w).trans (hs _)
  · exact hs _

@[simp] theorem useDva_units (ctx dva : Nat) : (useDva s ctx dva).units = s.units := by
  unfold useDva
  dsimp only
  split
  · rfl
  split
  · exact joinWalks_units s ctx dva
  · exact (shareFill_units _ _ _).trans (joinWalks_units s ctx dva)

@[simp] theorem putDram_units (p : Phys) (l : List Byte) : (putDram s p l).units = s.units := by
  unfold putDram
  split <;> rfl

@[simp] theorem putTwins_units (p : Phys) (l : List Byte) (fuel : Nat) : (putTwins s p l fuel).units = s.units := by
  induction fuel generalizing s p l with
  | zero => rfl
  | succ n ih =>
    unfold putTwins
    split
    · rfl
    · exact (ih _ _ _).trans (foldl_keeps State.units _ (fun t _ => putDram_units t _ _) _ s)

@[simp] theorem writeDram_units (p : Phys) (l : List Byte) : (writeDram s p l).units = s.units := by
  unfold writeDram
  split
  · exact putDram_units s p l
  · exact (putTwins_units _ _ _ _).trans (putDram_units s p l)

@[simp] theorem setTenant_units (k : Nat) (t : Tenant) : (s.setTenant k t).units = s.units := rfl

@[simp] theorem cipherRun_units (p : Phys) (n : Nat) : (cipherRun s p n).units = s.units := by
  unfold cipherRun putRaw
  split <;> rfl

@[simp] theorem zeroFrame_units (e : Nat) : (zeroFrame s e).units = s.units := by
  unfold zeroFrame
  split <;> rfl

@[simp] theorem expandPage_units (k p : Nat) : (expandPage s k p).units = s.units := by
  unfold expandPage
  split
  · rfl
  · dsimp only
    split
    · rfl
    split
    · simp
    split
    · rfl
    · simp

@[simp] theorem openPage_units (k p : Nat) : (openPage s k p).units = s.units := by
  unfold openPage
  split
  · rfl
  · dsimp only
    split
    · rfl
    split
    · rfl
    · simp

@[simp] theorem readyPage_units (k line : Nat) : (readyPage s k line).units = s.units := by
  unfold readyPage
  dsimp only
  split
  · simp
  · split <;> simp

@[simp] theorem writeLine_units (k line : Nat) (l : List (Nat × Byte)) : (writeLine s k line l).units = s.units := by
  unfold writeLine
  extract_lets s0 whole put
  have h0 : s0.units = s.units := readyPage_units s k line
  have hput (x : State) (f : Nat) : (put x f).units = x.units := by
    unfold put
    extract_lets at_
    split
    · exact writeDram_units x _ _
    · exact foldl_keeps State.units _ (fun y _ => writeDram_units y _ _) l x
  split
  · exact h0
  · extract_lets e t1 s1
    have h1 : s1.units = s.units := (hput _ e).trans h0
    split
    · exact h0
    split
    · exact h0
    split
    · exact (hput s1 _).trans h1
    · exact h1

@[simp] theorem putLine_units (k line : Nat) (l : List (Nat × Byte)) : (putLine s k line l).units = s.units := by
  unfold putLine
  split
  · rfl
  split
  · unfold sendSnoop
    split <;> rfl
  · exact writeLine_units s k line l

@[simp] theorem putPiece_units (ctx dva : Nat) (l : List Byte) : (putPiece s ctx dva l).units = s.units := by
  unfold putPiece
  split <;> simp

@[simp] theorem writeDva_units (ctx dva : Nat) (l : List Byte) : (writeDva s ctx dva l).units = s.units := by
  unfold writeDva
  generalize l.length = fuel
  induction fuel generalizing s dva l with
  | zero => rfl
  | succ n ih =>
    unfold putRun
    split
    · rfl
    · rw [ih, putPiece_units]

@[simp] theorem writeLog_units (ctx : Nat) (r : LogRec) : (writeLog s ctx r).units = s.units := by
  unfold writeLog
  split
  · rfl
  split
  · rfl
  split
  · rfl
  · extract_lets s1 s2
    have h1 : s1.units = s.units := writeDva_units s ctx _ _
    clear_value s1
    have h2 : s2.units = s.units := h1
    split
    · unfold raiseVec
      split
      · split <;> exact h2
      · exact h2
    · exact h2

end

end Sys2Proof.Machine

namespace Sys2Proof.Machine

/-! ## A unit that leaves is gone (R105) -/

/-- Every unit of `t` stands at a place where a unit of the same name stood in `s`. -/
def UnitsFrom (s t : State) : Prop := ∀ e ∈ t.units, ∃ x ∈ s.units, x.1 = e.1 ∧ x.2.id = e.2.id

theorem UnitsFrom.of_units {s t : State} (h : t.units = s.units) : UnitsFrom s t := fun e he => ⟨e, h ▸ he, rfl, rfl⟩

theorem UnitsFrom.refl (s : State) : UnitsFrom s s := .of_units rfl

theorem UnitsFrom.trans {s t r : State} (h : UnitsFrom s t) (h' : UnitsFrom t r) : UnitsFrom s r := by
  intro e he
  obtain ⟨x, hx, hk, hid⟩ := h' e he
  obtain ⟨y, hy, hk', hid'⟩ := h x hx
  exact ⟨y, hy, hk'.trans hk, hid'.trans hid⟩

theorem UnitsFrom.foldl {β : Type} (f : State → β → State) (hf : ∀ t b, UnitsFrom t (f t b)) (l : List β) (s : State) :
    UnitsFrom s (l.foldl f s) := by
  induction l generalizing s with
  | nil => exact .refl s
  | cons b t ih => exact (hf s b).trans (ih _)

theorem UnitsFrom.ite {c : Prop} [Decidable c] {s t r : State} (ht : UnitsFrom s t) (hr : UnitsFrom s r) :
    UnitsFrom s (if c then t else r) := by
  split <;> assumption

/-- Units changed in place under their own names. -/
theorem UnitsFrom.map {s t : State} (f : Unit → Unit) (hf : ∀ u, (f u).id = u.id)
    (h : t.units = s.units.map (fun (e : Nat × Unit) => (e.1, f e.2))) : UnitsFrom s t := by
  intro e he
  obtain ⟨x, hx, rfl⟩ := List.mem_map.mp (h ▸ he)
  exact ⟨x, hx, rfl, (hf x.2).symm⟩

theorem UnitsFrom.filter {s t : State} (p : Nat × Unit → Bool) (h : t.units = s.units.filter p) : UnitsFrom s t :=
  fun e he => ⟨e, List.mem_of_mem_filter (h ▸ he), rfl, rfl⟩

section
variable (s : State)

theorem unitsFrom_fireMonitors (hit : UnitId → Bool) (sec : Nat) : UnitsFrom s (fireMonitors s hit sec) :=
  .map (fireOne hit sec) (fireOne_id hit sec) rfl

theorem unitsFrom_putHome (l : List (Nat × Byte)) : UnitsFrom s (putHome s l) := by
  unfold putHome
  extract_lets s0 _ s1
  have h0 : UnitsFrom s s0 := .map (fun u => u.keepOld s l) (fun _ => rfl) rfl
  have h1 : UnitsFrom s0 s1 := .of_units rfl
  exact (h0.trans h1).trans (.foldl _ (fun t sec => unitsFrom_fireMonitors t _ sec) _ _)

theorem unitsFrom_syncBell (q : HwQueue) : UnitsFrom s (syncBell s q) := .ite (.refl s) (unitsFrom_putHome s _)

theorem unitsFrom_setQueue (k : Nat) (q : HwQueue) : UnitsFrom s (setQueue s k q) := by
  unfold setQueue
  extract_lets s1
  have h1 : UnitsFrom s s1 := .of_units rfl
  split
  · exact .ite h1 (h1.trans (unitsFrom_syncBell s1 q))
  · exact h1.trans (unitsFrom_syncBell s1 q)

theorem unitsFrom_writeHome (l : List (Nat × Byte)) : UnitsFrom s (writeHome s l) :=
  (unitsFrom_putHome s l).trans (.foldl _ (fun t _ => .ite (unitsFrom_setQueue t _ _) (.refl t)) _ _)

@[simp] theorem takeLine_units (d line : Nat) : (takeLine s d line).units = s.units := by
  unfold takeLine
  split
  · rfl
  · dsimp only
    split <;> rfl

@[simp] theorem sendOut_units : (sendOut s).units = s.units := foldl_keeps State.units sendOne (fun _ _ => rfl) _ s

theorem unitsFrom_sendStore (x : PStore) : UnitsFrom s (sendStore s x) := by
  unfold sendStore
  extract_lets sec l _ s1
  have h1 : s1.units = s.units := sendOut_units _
  refine .ite (.trans (.of_units ?_) (unitsFrom_fireMonitors _ _ sec)) (.of_units h1)
  exact (takeLine_units _ _ _).trans h1

theorem unitsFrom_sendLoose : UnitsFrom s (sendLoose s) := .foldl _ (fun t x => unitsFrom_sendStore t x) _ s

theorem unitsFrom_resetQueues (ctx : Nat) : UnitsFrom s (resetQueues s ctx) :=
  .foldl _ (fun t _ => .ite (unitsFrom_setQueue t _ _) (.refl t)) _ s

theorem unitsFrom_resetCtx (ctx : Nat) : UnitsFrom s (resetCtx s ctx) := by
  unfold resetCtx
  extract_lets tms s2 ps st fl s3 s4
  have h2 : s2.units = s.units := foldl_keeps State.units _ (fun t x => by split; rfl; split <;> rfl) tms s
  have h3 : UnitsFrom s s3 :=
    .trans (.filter (fun u => decide (u.2.who.ctx ≠ ctx)) (by rw [← h2]))
      ((unitsFrom_resetQueues _ ctx).trans (unitsFrom_sendLoose _))
  have h4 : UnitsFrom s s4 := .ite (h3.trans (.of_units rfl)) h3
  split
  · exact h4.trans (.of_units rfl)
  · exact h4

theorem unitsFrom_contextFatal (u : Unit) (st : Strm) (code kind addr info extra : Nat) :
    UnitsFrom s (contextFatal s u st code kind addr info extra) :=
  .trans (.of_units (writeLog_units s _ _)) (unitsFrom_resetCtx _ _)

theorem unitsFrom_unattributable (issuer : UnitId) (ctx grid : Nat) (e : Imp) : UnitsFrom s (unattributable s issuer ctx grid e) :=
  .trans (.of_units (writeLog_units s _ _)) (unitsFrom_resetCtx _ _)

theorem unitsFrom_dropMigs (u : Unit) : UnitsFrom s (dropMigs s u) :=
  .ite (.trans (.foldl _ (fun t _ => unitsFrom_writeHome t _) _ s) (.of_units rfl)) (.refl s)

end

/-- Every unit stands at its own place, and none at `k`. -/
structure Away (k : Nat) (s : State) : Prop where
  placed : Placed s.units
  vacant : ∀ e ∈ s.units, e.1 ≠ k

theorem UnitsFrom.placed {s t : State} (h : UnitsFrom s t) (hp : Placed s.units) : Placed t.units := by
  intro e he
  obtain ⟨x, hx, hk, hid⟩ := h e he
  rw [← hk, ← hid]
  exact hp x hx

theorem UnitsFrom.away {s t : State} {k : Nat} (h : UnitsFrom s t) (ha : Away k s) : Away k t := by
  refine ⟨h.placed ha.placed, fun e he => ?_⟩
  obtain ⟨x, hx, hk, -⟩ := h e he
  rw [← hk]
  exact ha.vacant x hx

theorem away_dropUnit {s : State} (h : Placed s.units) (id : UnitId) : Away (ukey id) (s.dropUnit id) := by
  refine ⟨h.del _, fun e he => ?_⟩
  simp only [State.dropUnit, SMap.del_eq_filter, List.mem_filter, decide_eq_true_eq] at he
  exact he.2

theorem Away.unit? {s : State} {id : UnitId} (h : Away (ukey id) s) : s.unit? id = none := by
  cases hu : s.unit? id with
  | none => rfl
  | some u => exact absurd rfl (h.vacant _ (SMap.mem_of_look hu))

/-- What a fold ends with that keeps what it holds or takes what it meets is one of those met. -/
theorem mem_of_foldl_takes {α β : Type} {f : Option α → β → Option α} {g : β → α} {l : List β} {acc : Option α} {v : α}
    (h : l.foldl f acc = some v) (hf : ∀ acc b, f acc b = acc ∨ f acc b = some (g b)) : acc = some v ∨ ∃ b ∈ l, g b = v := by
  induction l generalizing acc with
  | nil => exact .inl h
  | cons b t ih =>
    rcases ih h with h | ⟨c, hc, h⟩
    · rcases hf acc b with hb | hb
      · exact .inl (hb.symm.trans h)
      · exact .inr ⟨b, List.mem_cons_self, Option.some.inj (hb.symm.trans h)⟩
    · exact .inr ⟨c, List.mem_cons_of_mem _ hc, h⟩

/-- The warp that takes an entry is one of those resident. -/
theorem lowestLive_mem {s : State} {wg : Nat} {v : Unit} (h : lowestLive s wg = some v) : ∃ j, (j, v) ∈ s.units := by
  unfold lowestLive at h
  have hf := mem_of_foldl_takes (g := fun e : Nat × Unit => e.2) h (fun acc b => by
    split
    · exact .inr rfl
    · split
      · exact .inr rfl
      · exact .inl rfl)
  obtain h | ⟨e, he, rfl⟩ := hf
  · exact nomatch h
  · exact ⟨e.1, List.mem_of_mem_filter he⟩

theorem Away.pushImp {s : State} {k j : Nat} {v : Unit} (h : Away k s) (hv : (j, v) ∈ s.units) (e : Imp) :
    Away k (pushImp s v e) := by
  unfold Machine.pushImp
  split
  · exact (unitsFrom_contextFatal s v _ _ _ _ _ _).away h
  · refine ⟨h.placed.put _, fun x hx => ?_⟩
    have hj : j = ukey v.id := h.placed _ hv
    rcases SMap.mem_put hx with rfl | hx
    · have hk := h.vacant _ hv
      rwa [hj] at hk
    · exact h.vacant x hx

theorem Away.passEntries {s : State} {k : Nat} (h : Away k s) (u : Unit) : Away k (passEntries s u) := by
  unfold Machine.passEntries
  generalize u.trap.imp = l
  induction l generalizing s with
  | nil => exact h
  | cons e t ih =>
    refine ih ?_
    dsimp only
    split
    · next v hv =>
      split at hv
      · cases hv
      · obtain ⟨j, hj⟩ := lowestLive_mem hv
        exact h.pushImp hj _
    · exact (unitsFrom_unattributable s _ _ _ _).away h

theorem barSet_units (s : State) (u : Unit) (kind idx : Nat) (b : Barrier) : (barSet s u kind idx b).units = s.units := by
  unfold barSet
  split
  · rfl
  · rfl
  · split <;> rfl

theorem leaveBars_units (s : State) (u : Unit) : (leaveBars s u).units = s.units := by
  unfold leaveBars
  extract_lets gone one
  have hone (t : State) (k i : Nat) : (one t k i).units = t.units := by
    unfold one
    dsimp only
    split
    · exact barSet_units t u k i _
    · rfl
  clear_value one gone
  exact ((hone _ 2 0).trans (foldl_keeps State.units _ (fun t i => hone t 1 i) _ _)).trans (hone s 0 0)

theorem retireWg_units (s : State) (k : Nat) : (retireWg s k).units = s.units := by
  unfold retireWg
  split
  · rfl
  · split <;> rfl

theorem retireTeam_units (s : State) (k : Nat) : (retireTeam s k).units = s.units := by
  unfold retireTeam
  split
  · rfl
  split
  · rfl
  · dsimp only
    split <;> rfl

theorem settlePreempts_units (s : State) : (settlePreempts s).units = s.units := rfl
theorem leaveLists_units (s : State) (ctx : Nat) (id : UnitId) : (leaveLists s ctx id).units = s.units := rfl
theorem openHandles_units (s : State) (u : Unit) : (openHandles s u).units = s.units := rfl

/-- A unit that leaves stands no more at its place. -/
theorem leave_unit? {s : State} (h : Placed s.units) (u : Unit) : (leave s u).unit? u.id = none := by
  unfold leave
  extract_lets s2
  have hbars : Placed (leaveBars (dropMigs s u) u).units := by
    rw [leaveBars_units]
    exact (unitsFrom_dropMigs s u).placed h
  have h2 : Away (ukey u.id) s2 := by
    refine UnitsFrom.away (.of_units ?_) (away_dropUnit hbars u.id)
    rw [leaveLists_units, openHandles_units]
  refine Away.unit? (UnitsFrom.away (.of_units ?_) (h2.passEntries u))
  rw [settlePreempts_units, retireTeam_units, retireWg_units]

end Sys2Proof.Machine

namespace Sys2Proof.Machine

/-! ## `yield` and `exit` of a simplex warp (R104, R105) -/

/-- The unit after `yield`: it offers no S word before two mclk are over, and is the youngest. -/
def Unit.yielded (u : Unit) (now age : Nat) (m : Bool) : Unit :=
  { u with yieldTo := now + 2, ageS := age }.sDone m [] (u.sS.spc + 1)

theorem exec_yield_ready {s : State} {u : Unit} (h : SReady s u []) (m : Bool) : exec (.yield m) s =
    .next { s.setUnit (u.yielded s.clk.now s.sch.age m) with sch := { s.sch with age := s.sch.age + 1 } } := by
  rw [exec_yield, execYield, sWord_ready h]
  rfl

theorem Unit.yielded_sameRegs (u : Unit) (now age : Nat) (m : Bool) : sameRegs u (u.yielded now age m) :=
  sDone_sameRegs { u with yieldTo := now + 2, ageS := age } m [] (u.sS.spc + 1)

/-- A stream that has yielded offers no word before its time. -/
theorem offers_yielding {x : State} {v : Unit} (h : x.clk.now < v.yieldTo) : offers x v .s = false := by
  simp [offers, h]

theorem pointGate_simplex {u : Unit} (h : u.who.rset = 0) (s : State) (st : Strm) (kind modes : Nat) (ops : List Nat) (k : Res) :
    pointGate s u st kind modes ops k = k := by
  rw [pointGate, compareGate, if_pos h]

/-- An `exit` with nothing to wait for is its release and the unit's leaving. -/
theorem exec_exit_ready {s : State} {u : Unit} (h : SReady s u []) (m : Bool) (hidle : u.laneIdle = true) (hfly : u.sS.fly = [])
    (hheld : exitHeld u = false) (hrs : u.who.rset = 0) (hclear : relClear s { u with lqwSeq := s.fl.seq } .s .dev) :
    exec (.exit m) s =
      .next (leave (spoil s { u with lqwSeq := s.fl.seq }) (({ u with lqwSeq := s.fl.seq } : Unit).released .dev)) := by
  rw [exec_exit, execExit, sWord_ready h]
  simp only [hidle, hfly, hheld, Bool.not_true, List.isEmpty_nil, Bool.false_eq_true, if_false, pointGate_simplex hrs]
  exact releaseGate_clear hclear _

theorem spoil_units (s : State) (u : Unit) : (spoil s u).units = s.units := rfl

/-- A unit that leaves an interval it has spoilt stands no more at its place. -/
theorem leave_spoil_unit? {s : State} (h : Placed s.units) (v : Unit) {w : Unit} {id : UnitId} (hw : w.id = id) :
    (leave (spoil s v) w).unit? id = none := by
  rw [← hw]
  refine leave_unit? ?_ w
  rwa [spoil_units]

end Sys2Proof.Machine

section
open Sys2Proof Sys2Proof.Machine

/-- Settles O7: each word is one change of its unit, and a unit that leaves stands no more at its place. -/
theorem plainWords : Obligations.PlainWords := by
  unfold Obligations.PlainWords
  refine ⟨⟨fun s u m h => ?nop, fun s u m h => ?yield, fun s u m d h hrs => ?rand⟩,
    fun s u m h hplaced hidle hfly hheld hrs hclear => ?exit⟩
  case nop => rw [exec_nop, execNop, sWord_ready h, retireS_eq]
  case yield =>
    have hid : u.id = s.cur := h.2.1
    refine ⟨_, u.yielded s.clk.now s.sch.age m, exec_yield_ready h m, ?_, rfl, fun x hx => ?_, rfl, rfl, rfl, rfl, u.yielded_sameRegs _ _ m, ?_⟩
    · exact hid ▸ unit?_setUnit_self s (u.yielded s.clk.now s.sch.age m)
    · exact offers_yielding (Nat.lt_succ_of_le hx)
    · exact hid ▸ otherUnits_setUnit s (u.yielded s.clk.now s.sch.age m)
  case rand =>
    refine ⟨_, ?_, rfl, rfl⟩
    rw [exec_rand, execRand, sWord_ready h, if_pos hrs, retireS_eq]
  case exit =>
    refine ⟨_, exec_exit_ready h m hidle hfly hheld hrs hclear, rfl, ?_⟩
    exact leave_spoil_unit? hplaced _ h.2.1

end

namespace Sys2Proof.Machine

/-! ## `trap`, `brk` and words that are not instructions (R101, R103, R64, R274) -/

section
variable {s : State} {u : Unit}

theorem Unit.entered_tspc (st : Strm) (seq : Nat) (h : Handler) (save : Nat) (f : Frame) :
    (u.entered st seq h save f).trap.tspc = BitVec.ofNat 64 f.spc := by
  simp [Unit.entered]

/-- After its save area was written the unit stands as its handler finds it, with the whole frame in its trap registers. -/
theorem enterTrap_regs (s : State) (u : Unit) (st : Strm) (h : Handler) (off : Nat) (f : Frame) :
    ∃ y, (enterTrap s u st h off f).unit? u.id = some y ∧ Entered y h f ∧ y.trap.tcause = f.tcause ∧
      y.trap.tspc = BitVec.ofNat 64 f.spc := by
  have he := u.entered_entered st s.fl.seq h (saveArea u off) f
  have hid := u.entered_id st s.fl.seq h (saveArea u off) f
  have hcause := u.entered_tcause st s.fl.seq h (saveArea u off) f
  have hspc := Unit.entered_tspc (u := u) st s.fl.seq h (saveArea u off) f
  unfold enterTrap
  extract_lets save s1 _ s2
  obtain ⟨e, hes⟩ : ∃ e, u.entered st s.fl.seq h save f = e := ⟨_, rfl⟩
  rw [hes] at he hid hcause hspc
  have h1 : s1.unit? u.id = some e := by
    unfold s1
    rw [hes]
    exact unit?_setUnit_id s hid
  have h2 : s2.unit? u.id = s1.unit? u.id := rfl
  obtain ⟨m, c, hy⟩ := unitsStay_writeHome s2 (bytesAt save (f.bytes s.tclk)) u.id e (h2.trans h1)
  exact ⟨_, hy, he.stay m c, hcause, hspc⟩

/-- The frame of a `trap` word: the software cause, its code, and the word after it. -/
def swFrame (s : State) (u : Unit) (code : Nat) : Frame := preciseFrame s u .s 0x20 0 code 0 true

theorem swFrame_tcause (s : State) (u : Unit) (code : Nat) : (swFrame s u code).tcause = BitVec.ofNat 32 (2 ^ 31 + 2 ^ 17 + 0x20) := by
  simp [swFrame, preciseFrame, Frame.tcause]

theorem exec_trap_ready {h : Handler} {off : Nat} (hr : SReady s u []) (h1 : u.inHandler = false) (h0 : u.trap.due = none)
    (h2 : u.settled = true) (h4 : handlerOf s u = some (h, off)) (m : Bool) (code : BitVec 12) :
    exec (.trap m code) s = .next (enterTrap s u .s h off (swFrame s u code.toNat)) := by
  have hmc : mcCause 0x20 = false := rfl
  rw [exec_trap, execTrap, sWord_ready hr]
  simp [takeTrap, beginTrap, swFrame, h0, h1, h2, h4, hmc]

/-- A cause of the management core is logged, and its context is reset. -/
theorem takeTrap_mc {cause : Nat} (h1 : u.inHandler = false) (h0 : u.trap.due = none) (hmc : mcCause cause = true)
    (st : Strm) (addr info : Nat) : takeTrap s u st cause addr info 0 false =
      .next (resetCtx (writeLog s u.who.ctx (unitRec u st cause 0 addr info 0)) u.who.ctx) := by
  simp only [takeTrap, h1, h0, hmc, Bool.false_eq_true, Option.isSome_none, if_false, if_true]
  rfl

theorem mcCause_decode {code : Nat} (h : 0x10 ≤ code ∧ code ≤ 0x18 ∨ code = 0x26) : mcCause code = true := by
  rcases h with ⟨hlo, hhi⟩ | rfl
  · simp [mcCause, hlo, hhi]
  · rfl

theorem exec_illegalInstruction_ready {code : Nat} (hu : s.unit? s.cur = some u) (h1 : u.inHandler = false)
    (h0 : u.trap.due = none) (hc : 0x10 ≤ code ∧ code ≤ 0x18 ∨ code = 0x26) (bit word : Nat) :
    exec (.illegalInstruction code bit word) s = .next (resetCtx (writeLog s u.who.ctx (unitRec u s.curS code 0
      (if s.curS = .s then bit else bit + rawHigh word * 2 ^ 32) (word % 2 ^ 64) 0)) u.who.ctx) := by
  rw [exec_illegalInstruction, execIllegalInstruction, withUnit, hu]
  exact takeTrap_mc h1 h0 (mcCause_decode hc) _ _ _

/-! A stop shows in the trap registers where the unit stands. -/

@[simp] theorem Unit.landEvery_spc (u : Unit) : u.landEvery.sS.spc = u.sS.spc := by simp [Unit.landEvery]
@[simp] theorem Unit.stop_id (u : Unit) (st : Strm) (info : Nat) : (u.stop st info).id = u.id := u.landEvery_id
theorem Unit.stop_tspc (u : Unit) (st : Strm) (info : Nat) : (u.stop st info).trap.tspc = BitVec.ofNat 64 u.sS.spc :=
  congrArg (BitVec.ofNat 64) u.landEvery_spc

theorem stopSiblings_simplex (h : u.who.rset = 0) (s : State) : stopSiblings s u = s := if_pos h

theorem stopAt_simplex (h : u.who.rset = 0) (s : State) (st : Strm) (info : Nat) :
    (stopAt s u st info).unit? u.id = some (u.stop st info) ∧ (stopAt s u st info).mem = s.mem := by
  rw [stopAt, stopSiblings_simplex h]
  exact ⟨unit?_setUnit_id s (u.stop_id st info), rfl⟩

theorem exec_brk_ready (h : SReady s u []) (m : Bool) (i : BitVec 13) : exec (.brk m i) s =
    .next (if debugged s u then stopAt s (u.sDone m [] (u.sS.spc + 1)) .s i.toNat else s.setUnit (u.sDone m [] (u.sS.spc + 1))) := by
  rw [exec_brk, execBrk, sWord_ready h]

end

end Sys2Proof.Machine

section
open Sys2Proof Sys2Proof.Machine

/-- Settles O10: `trap` enters the handler with its own frame, `brk` stops where a debugger is attached, and a decoding
cause is one of the management core's. -/
theorem trapAndBreakWords : Obligations.TrapAndBreakWords := by
  unfold Obligations.TrapAndBreakWords
  refine ⟨fun s u m code h off hr hin hdue hset hh => ?trap,
    ⟨fun s u m i hr hdbg => ?brk, fun s u m i hr hdbg hrs => ?stop⟩, fun s u code bit word hu hin hdue hc => ?illegal⟩
  case trap =>
    obtain ⟨v, hv, he, hcause, hspc⟩ := enterTrap_regs s u .s h off (swFrame s u code.toNat)
    refine ⟨_, v, exec_trap_ready hr hin hdue hset hh m code, hr.2.1 ▸ hv, ?_, he.info, hspc, he.spc, he.inHandler⟩
    exact hcause.trans (swFrame_tcause s u _)
  case brk => rw [exec_brk_ready hr, hdbg, if_neg Bool.false_ne_true]
  case stop =>
    obtain ⟨hunit, hmem⟩ := stopAt_simplex (u := u.sDone m [] (u.sS.spc + 1)) hrs s .s i.toNat
    refine ⟨_, (u.sDone m [] (u.sS.spc + 1)).stop .s i.toNat, exec_brk_ready hr m i, ?_, rfl, Unit.stop_tspc _ _ _, rfl, ?_⟩
    · rw [if_pos hdbg, ← hr.2.1]
      exact hunit
    · rw [if_pos hdbg]
      exact hmem
  case illegal => exact ⟨_, exec_illegalInstruction_ready hu hin hdue hc bit word, rfl, rfl, rfl, rfl, rfl⟩

end

namespace Sys2Proof.Machine

/-! ## Return from a trap (R102, R23) -/

@[simp] theorem Unit.ws_mbVal (u : Unit) (d : SReg) (x : Word) : (u.ws d x).mbVal = u.mbVal := by unfold Unit.ws; split <;> rfl
@[simp] theorem Unit.ws_mbCnt (u : Unit) (d : SReg) (x : Word) : (u.ws d x).mbCnt = u.mbCnt := by unfold Unit.ws; split <;> rfl

theorem tb_toNat {n : Nat} (x : BitVec n) (i : Nat) : tb x.toNat i = x.getLsbD i :=
  (Nat.testBit_eq_decide_div_mod_eq).symm

theorem ofNat_fld {n : Nat} (x : BitVec n) (lo k : Nat) : BitVec.ofNat k (fld x.toNat lo k) = x.extractLsb' lo k := by
  apply BitVec.eq_of_toNat_eq
  rw [BitVec.toNat_ofNat, BitVec.extractLsb'_toNat, fld, Nat.mod_mod, Nat.shiftRight_eq_div_pow]

/-- A table filled from a list holds the list's values. -/
theorem get_listTable {α : Type} [DecidableEq α] (d : α) (l : List α) {n k : Nat} (hk : k < n) :
    SMap.get d ((List.range n).foldl (fun m i => SMap.set d m i (l.getD i d)) []) k = l.getD k d := by
  rw [get_foldl_range (val := fun i _ => l.getD i d), if_pos hk]
  intro m i j
  rw [SMap.get_set]
  split
  · next h => rw [h]
  · rfl

/-- Slot `x` of the state set aside, put back where `tlpc` and the depth of `tpath` say. -/
def Slot.resumed (x : Slot) (tlpc depth : Nat) : Slot := if x.live then x.back (tlpc % 2 ^ 24) x.em depth else x

/-- The sibling of the trapping slot as `tpath` says: at `siblpc` with `sibem`, or idle. -/
def Slot.sibling (x : Slot) (tp : Word) : Slot :=
  if tp.getLsbD 7 then { x.back (tp.toNat / 2 ^ 40) (tp.extractLsb' 8 32) x.stack.length with live := true } else Slot.idle

section
variable (u : Unit) (sv : Saved)

theorem tpath_siblpc (tp : Word) : fld tp.toNat 40 24 = tp.toNat / 2 ^ 40 := by
  have := tp.isLt
  unfold fld
  omega

theorem tpath_depth (tp : Word) : fld tp.toNat 0 5 = tp.toNat % 2 ^ 5 := by
  unfold fld
  omega

theorem Unit.restored_trapping : (if u.trap.tpath.getLsbD 6 then (u.restored sv).slot1 else (u.restored sv).slot0) =
    (if u.trap.tpath.getLsbD 6 then sv.slot1 else sv.slot0).resumed u.trap.tlpc.toNat (u.trap.tpath.toNat % 2 ^ 5) := by
  simp only [Unit.restored, tb_toNat, tpath_depth, Slot.resumed]
  split <;> rfl

theorem Unit.restored_sibling : (if u.trap.tpath.getLsbD 6 then (u.restored sv).slot0 else (u.restored sv).slot1) =
    (if u.trap.tpath.getLsbD 6 then sv.slot0 else sv.slot1).sibling u.trap.tpath := by
  simp only [Unit.restored, tb_toNat, tpath_siblpc, ofNat_fld, Slot.sibling]
  split <;> rfl

variable {u sv} (h : u.trap.saved = some sv)
include h

theorem Unit.returned_id : u.returned.id = u.id := by simp [Unit.returned, h]
theorem Unit.returned_spc : u.returned.sS.spc = u.trap.tspc.toNat % 2 ^ 24 := by simp [Unit.returned, h]
theorem Unit.returned_lS : u.returned.lS = u.landEvery.restored sv := by simp [Unit.returned, h]
theorem Unit.returned_mbCnt : u.returned.mbCnt = (List.range 4).foldl (fun m n => SMap.set 0 m n (sv.mbCnt.getD n 0)) [] := by
  simp [Unit.returned, h]
theorem Unit.returned_mbVal : u.returned.mbVal = (List.range 4).foldl (fun m n => SMap.set 0 m n (sv.mbVal.getD n 0)) [] := by
  simp [Unit.returned, h]
theorem Unit.returned_trap : u.returned.trap =
    { u.trap with tcause := u.trap.tcause &&& 0x7FFFFFFF, flm := 0, saved := none, sup := sv.sup } := by simp [Unit.returned, h]

/-- The registers set aside are back. -/
theorem Unit.returned_bank : u.returned.rs 56 = sv.bank.getD 0 0 ∧ u.returned.rs 57 = sv.bank.getD 1 0 ∧
    u.returned.rs 58 = sv.bank.getD 2 0 ∧ u.returned.rs 59 = sv.bank.getD 3 0 := by
  simp [Unit.returned, h, Unit.rs_ws]

/-- Where the return leaves the trapping slot. -/
theorem Unit.returned_trapping : u.returned.slot (u.trap.tpath.getLsbD 6) =
    (if u.trap.tpath.getLsbD 6 then sv.slot1 else sv.slot0).resumed u.trap.tlpc.toNat (u.trap.tpath.toNat % 2 ^ 5) := by
  have hback := u.landEvery.restored_trapping sv
  rw [u.landEvery_trap] at hback
  rw [Unit.slot, Unit.returned_lS h, hback]

/-- Where the return leaves its sibling. -/
theorem Unit.returned_sibling : u.returned.slot (!u.trap.tpath.getLsbD 6) =
    (if u.trap.tpath.getLsbD 6 then sv.slot0 else sv.slot1).sibling u.trap.tpath := by
  have hback := u.landEvery.restored_sibling sv
  rw [u.landEvery_trap] at hback
  rw [Unit.slot, Unit.returned_lS h, ← hback]
  cases u.trap.tpath.getLsbD 6 <;> rfl

theorem Unit.returned_inHandler : u.returned.inHandler = false := by
  rw [Unit.inHandler, Unit.returned_trap h, tb_toNat]
  simp

end

theorem exec_rft_ready {s : State} {u : Unit} (h : SReady s u []) (m : Bool) : exec (.rft m) s = returnFromTrap s u := by
  rw [exec_rft, execRft, sWord_ready h]

theorem returnFromTrap_returned {s : State} {u : Unit} {sv : Saved} (hin : u.inHandler = true) (hsv : u.trap.saved = some sv)
    (hidle : u.laneIdle = true) (hbad : u.badReturn sv = none) : returnFromTrap s u = .next (s.setUnit u.returned) := by
  simp [returnFromTrap, hin, hsv, hidle, hbad]

theorem returnFromTrap_outside {s : State} {u : Unit} (hin : u.inHandler = false) : returnFromTrap s u = trapS s u 0x19 0x10 0 := by
  simp [returnFromTrap, hin]

/-! What the return makes of the two path slots. -/

section
variable {x y : Slot} {tp : Word} {tlpc : Nat}

theorem Slot.resumed_live (h : x.live = true) (depth : Nat) : (x.resumed tlpc depth).live = true ∧
    (x.resumed tlpc depth).lpc = tlpc % 2 ^ 24 ∧ (x.resumed tlpc depth).em = x.em ∧
    (x.resumed tlpc depth).stack = x.stack.drop (x.stack.length - depth) := by
  rw [Slot.resumed, if_pos h]
  exact ⟨h, rfl, rfl, rfl⟩

theorem Slot.resumed_idle (h : x.live = false) (depth : Nat) : x.resumed tlpc depth = x := by
  rw [Slot.resumed, h, if_neg Bool.false_ne_true]

theorem Slot.sibling_live (h : tp.getLsbD 7 = true) : (y.sibling tp).live = true ∧ (y.sibling tp).lpc = tp.toNat / 2 ^ 40 ∧
    (y.sibling tp).em = tp.extractLsb' 8 32 ∧ (y.sibling tp).stack = y.stack := by
  rw [Slot.sibling, if_pos h]
  refine ⟨rfl, rfl, rfl, ?_⟩
  rw [Slot.back, Nat.sub_self]
  rfl

theorem Slot.sibling_idle (h : tp.getLsbD 7 = false) : y.sibling tp = Slot.idle := by
  rw [Slot.sibling, h, if_neg Bool.false_ne_true]

end

end Sys2Proof.Machine

section
open Sys2Proof Sys2Proof.Machine

/-- Settles O11: the return is `Unit.returned`, read field by field. -/
theorem returnFromTrap : Obligations.ReturnFromTrap := by
  unfold Obligations.ReturnFromTrap
  refine ⟨fun s u m sv hr hin hsv hidle hbad => ?back,
    fun s u m hr hin => (exec_rft_ready hr m).trans (returnFromTrap_outside hin)⟩
  case back =>
    have hexec := (exec_rft_ready hr m).trans (returnFromTrap_returned (s := s) hin hsv hidle hbad)
    have hid : u.returned.id = s.cur := (Unit.returned_id hsv).trans hr.2.1
    have htrap := Unit.returned_trap hsv
    obtain ⟨h56, h57, h58, h59⟩ := Unit.returned_bank hsv
    have htrapping := Unit.returned_trapping hsv
    have hsibling := Unit.returned_sibling hsv
    refine ⟨_, _, hexec, unit?_setUnit_id s hid, Unit.returned_spc hsv, h56, h57, h58, h59, ?_, ?_, fun n hn => ⟨?_, ?_⟩,
      ⟨fun hx => ?_, fun hx => ?_, fun hb => ?_, fun hb => ?_⟩, Unit.returned_inHandler hsv, ?_, ?_, rfl⟩
    · rw [Unit.returned_lS hsv]; rfl
    · rw [Unit.returned_lS hsv]; rfl
    · rw [Unit.returned_mbVal hsv]; exact get_listTable 0 sv.mbVal hn
    · rw [Unit.returned_mbCnt hsv]; exact get_listTable 0 sv.mbCnt hn
    · rw [htrapping]; exact Slot.resumed_live hx _
    · rw [htrapping]; exact Slot.resumed_idle hx _
    · rw [hsibling]; exact Slot.sibling_live hb
    · rw [hsibling]; exact Slot.sibling_idle hb
    · rw [htrap]
    · rw [htrap]

end

namespace Sys2Proof.Machine

/-! ## Commands on a context's objects (R155 to R175, R270 to R288) -/

/-- The issuer may name the context `c`, which stands at `ctx` and is not being reset. -/
structure Names (s : State) (by_ : Issuer) (ctx : Nat) (c : Ctx) : Prop where
  look : SMap.look s.ctxs ctx = some c
  rights : may by_ c.tenant = true
  running : c.resetting = false

theorem okIf_pos {b : Bool} (h : b = true) (s s1 : State) : okIf s b s1 = ok s1 := if_pos h

section
variable {s : State} {by_ : Issuer} {ctx : Nat} {c : Ctx} (hc : Names s by_ ctx c)
include hc

theorem Names.onCtx (k : Ctx → Res) : onCtx s by_ ctx k = k c := by
  simp [Machine.onCtx, hc.look, hc.rights, hc.running]

theorem Names.onDebug_okIf (hd : c.debug = true) {b : Bool} (h : b = true) (s1 : State) :
    onDebug s by_ ctx (okIf s b s1) = ok s1 := by
  rw [onDebug, hc.onCtx, if_pos hd, okIf_pos h]

end

/-- A command that does nothing but replace its context. -/
theorem exec_sets {i : Instr} {s : State} {ctx : Nat} {d : Ctx} (h : exec i s = ok (setCtx s ctx d)) :
    ∃ r, exec i s = .next r ∧ r.mgmt = some ⟨.success, []⟩ ∧ SMap.look r.ctxs ctx = some d ∧ r.mem = s.mem ∧ r.units = s.units :=
  ⟨_, h, rfl, SMap.look_put_self _ _ _, rfl, rfl⟩

/-- Where a run of table entries was put, one value stands; elsewhere what stood there. -/
theorem look_putRun {α : Type} (t : α) (f n k : Nat) (m : SMap α) :
    SMap.look (((List.range n).map (fun i => f + i)).foldl (fun m i => SMap.put m i t) m) k =
      if f ≤ k ∧ k < f + n then some t else SMap.look m k := by
  induction n with
  | zero => rw [if_neg (by omega)]; rfl
  | succ n ih =>
    rw [List.range_succ, List.map_append, List.foldl_append]
    simp only [List.map_cons, List.map_nil, List.foldl_cons, List.foldl_nil, SMap.look_put]
    rcases Nat.lt_trichotomy k (f + n) with hlt | rfl | hgt
    · rw [if_neg (by omega), ih]
      exact if_congr (by omega) rfl rfl
    · rw [if_pos rfl, if_pos (by omega)]
    · rw [if_neg (by omega), ih, if_neg (by omega), if_neg (by omega)]

section
variable {s : State} {by_ : Issuer} {ctx : Nat} {c : Ctx} (hc : Names s by_ ctx c)
include hc

theorem exec_allocateTimelines_ok {f n : Nat} (hn : 0 < n) (hmax : f + n ≤ 4096) (hfree : ∀ k, k < n → SMap.look c.tls (f + k) = none)
    (e : Bool) : exec (.allocateTimelines by_ ctx f n e) s = ok (setCtx s ctx { c with
      tls := ((List.range n).map (fun i => f + i)).foldl (fun m i => SMap.put m i ⟨if e then .engine else .software, 0⟩) c.tls }) := by
  rw [exec_allocateTimelines, execAllocateTimelines, hc.onCtx, okIf_pos]
  simpa [hn, hmax] using hfree

theorem exec_createWorkList_ok {l b k d : Nat} {w : Bool} (hl : l < 4096) (hfree : SMap.look c.lists l = none) (hd : d < 8)
    (hb : b < 2 ^ 32) (hal : b % (if w then 8 else 4) = 0) (hfit : b % 2 ^ 22 + 2 ^ k * (if w then 8 else 4) ≤ Config.sliceBytes) :
    exec (.createWorkList by_ ctx l b k d w) s = ok (setCtx s ctx { c with lists := SMap.put c.lists l ⟨b, k, w, d, 0, 0, []⟩ }) := by
  rw [exec_createWorkList, execCreateWorkList, hc.onCtx, okIf_pos]
  simp only [hl, hfree, hd, hb, hal, hfit, decide_true, Option.isNone_none, Bool.and_true]

theorem exec_defineCollectiveGroup_ok {g : Nat} {m : List Nat} (hg : g < 65536) (hne : m ≠ []) (hm : ∀ x ∈ m, x < 2 ^ 18) :
    exec (.defineCollectiveGroup by_ ctx g m) s = ok (setCtx s ctx { c with groups := SMap.put c.groups g m }) := by
  rw [exec_defineCollectiveGroup, execDefineCollectiveGroup, hc.onCtx, okIf_pos]
  simpa [hg, hne] using hm

theorem exec_setSupervisorHandler_ok {h : Handler} (hs : imageBad h.sbase h.slen 4 4 = false)
    (hl : imageBad h.lbase h.llen 12 16 = false) (he : h.entry < h.slen) :
    exec (.setSupervisorHandler by_ ctx h) s = ok (setCtx s ctx { c with handler := some h }) := by
  rw [exec_setSupervisorHandler, execSetSupervisorHandler, hc.onCtx, okIf_pos]
  simp [hs, hl, he]

theorem exec_setTrapSaveArea_ok {o : Nat} (ho : o + 33792 ≤ Config.sliceBytes) :
    exec (.setTrapSaveArea by_ ctx o) s = ok (setCtx s ctx { c with saveOff := some o }) := by
  rw [exec_setTrapSaveArea, execSetTrapSaveArea, hc.onCtx, okIf_pos (decide_eq_true ho)]

theorem exec_setShadowArea_ok {k o n : Nat} (hk : k < 1024) (hn : 0 < n) (hal : o % 128 = 0) (hfit : o + n ≤ Config.sliceBytes) :
    exec (.setShadowArea by_ ctx k o n) s = ok (setCtx s ctx { c with shadows := SMap.put c.shadows k ⟨o, n⟩ }) := by
  rw [exec_setShadowArea, execSetShadowArea, hc.onCtx, okIf_pos]
  simp [hk, hn, hal, hfit]

theorem exec_setFaultLog_ok {d k : Nat} (hlo : 6 ≤ k) (hhi : k ≤ 16) (hfit : d + 2 ^ k * 64 ≤ 2 ^ 56) :
    exec (.setFaultLog by_ ctx d k) s = ok (setCtx s ctx { c with log := some ⟨d, k, 0⟩ }) := by
  rw [exec_setFaultLog, execSetFaultLog, hc.onCtx, okIf_pos]
  simp only [hlo, hhi, hfit, decide_true, Bool.and_true]

theorem exec_setEvictionSaveArea_ok {d : Nat} (hd : d < 2 ^ 56) :
    exec (.setEvictionSaveArea by_ ctx d) s = ok (setCtx s ctx { c with evictDva := some d }) := by
  rw [exec_setEvictionSaveArea, execSetEvictionSaveArea, hc.onCtx, okIf_pos (decide_eq_true hd)]

theorem exec_touchstoneEnable_ok {m : Nat} (hm : m ≤ 2) :
    exec (.touchstoneEnable by_ ctx m) s = ok (setCtx s ctx { c with tsOn := true, tsStart := m }) := by
  rw [exec_touchstoneEnable, execTouchstoneEnable, hc.onCtx, okIf_pos (decide_eq_true hm)]

theorem exec_debugAttach_ok : exec (.debugAttach by_ ctx) s = ok (setCtx s ctx { c with debug := true }) := by
  rw [exec_debugAttach, execDebugAttach, hc.onCtx]

end

/-! ## The debugger's commands (R103, R287, R352, R361) -/

section
variable (s : State)

@[simp] theorem sendOut_ctxs : (sendOut s).ctxs = s.ctxs := foldl_keeps State.ctxs sendOne (fun _ _ => rfl) _ s
@[simp] theorem sendOut_holds : (sendOut s).paths.holds = s.paths.holds :=
  foldl_keeps (fun t : State => t.paths.holds) sendOne (fun _ _ => rfl) _ s

theorem sendOne_seqs (x : PStore) : (sendOne s x).fl.stores.map (fun p => p.seq) = s.fl.stores.map (fun p => p.seq) := by
  simp only [sendOne, List.map_map]
  refine List.map_congr_left fun p _ => ?_
  rw [Function.comp_apply]
  split <;> rfl

@[simp] theorem sendOut_seqs : (sendOut s).fl.stores.map (fun p => p.seq) = s.fl.stores.map (fun p => p.seq) :=
  foldl_keeps (fun t : State => t.fl.stores.map (fun p => p.seq)) sendOne sendOne_seqs _ s

end

/-- No injected loss is left, and none has taken an acknowledgement. -/
structure Lossless (s : State) : Prop where
  loss : s.paths.loss = []
  acks : ∀ p ∈ s.fl.stores, p.lostAck = false

theorem lossless_dropLoss (s : State) : Lossless (dropLoss s) where
  loss := rfl
  acks p hp := by
    obtain ⟨q, -, rfl⟩ := List.mem_map.mp hp
    rfl

theorem Lossless.sendOne {s : State} (h : Lossless s) (x : PStore) : Lossless (sendOne s x) where
  loss := by simp [Machine.sendOne, h.loss]
  acks p hp := by
    obtain ⟨q, hq, rfl⟩ := List.mem_map.mp hp
    split
    · simp [h.loss]
    · exact h.acks q hq

theorem Lossless.sendOut {s : State} (h : Lossless s) : Lossless (sendOut s) := by
  unfold Machine.sendOut
  generalize s.fl.stores.filter _ = l
  induction l generalizing s with
  | nil => exact h
  | cons x t ih => exact ih (h.sendOne x)

/-- The machine whose debugger has let go of its holds and its injections. -/
def State.letGo (s : State) (ctx : Nat) (c : Ctx) : State :=
  let s0 := setCtx s ctx { c with debug := false }
  sendOut (dropLoss { s0 with paths := { s0.paths with holds := [] } })

theorem letGo_ctxs (s : State) (ctx : Nat) (c : Ctx) : SMap.look (s.letGo ctx c).ctxs ctx = some { c with debug := false } := by
  rw [State.letGo, sendOut_ctxs]
  exact SMap.look_put_self _ _ _

theorem letGo_holds (s : State) (ctx : Nat) (c : Ctx) : (s.letGo ctx c).paths.holds = [] := sendOut_holds _
theorem letGo_lossless (s : State) (ctx : Nat) (c : Ctx) : Lossless (s.letGo ctx c) := (lossless_dropLoss _).sendOut

/-- The units of a context that run on. -/
def runOn (ctx : Nat) (l : SMap Unit) : SMap Unit :=
  l.map (fun (u : Nat × Unit) => if u.2.who.ctx = ctx then (u.1, { u.2 with stopped := false }) else u)

theorem runOn_stopped {ctx : Nat} {l : SMap Unit} {e : Nat × Unit} (he : e ∈ runOn ctx l) (hctx : e.2.who.ctx = ctx) :
    e.2.stopped = false := by
  obtain ⟨x, -, rfl⟩ := List.mem_map.mp he
  revert hctx
  split
  · exact fun _ => rfl
  · exact fun hctx => absurd hctx ‹_›

section
variable {s : State} {by_ : Issuer} {ctx : Nat} {c : Ctx} (hc : Names s by_ ctx c)
include hc

theorem exec_debugDetach_ok : exec (.debugDetach by_ ctx) s =
    ok { s.letGo ctx c with units := runOn ctx (s.letGo ctx c).units } := by
  rw [exec_debugDetach, execDebugDetach, hc.onCtx]
  rfl

variable (hd : c.debug = true) {a b : Nat} (ha : a < 8)
include hd ha

theorem exec_aqueductHold_ok (hb : b < 8) : exec (.aqueductHold by_ ctx a b) s =
    ok { s with paths := { s.paths with holds := if s.paths.holds.contains (a, b) then s.paths.holds else (a, b) :: s.paths.holds } } := by
  rw [exec_aqueductHold, execAqueductHold, hc.onDebug_okIf hd]
  simp [ha, hb]

theorem exec_aqueductUnhold_ok (hb : b < 8) : exec (.aqueductUnhold by_ ctx a b) s =
    ok (sendOut { s with paths := { s.paths with holds := s.paths.holds.filter (fun h => decide (h ≠ (a, b))) } }) := by
  rw [exec_aqueductUnhold, execAqueductUnhold, hc.onDebug_okIf hd]
  simp [ha, hb]

theorem exec_injectAckloss_ok {k : Nat} (hk : k < 2 ^ 27) : exec (.injectAckloss by_ ctx a k) s =
    ok { s with paths := { s.paths with loss := s.paths.loss ++ [(a, k)] } } := by
  rw [exec_injectAckloss, execInjectAckloss, hc.onDebug_okIf hd]
  simp only [ha, hk, decide_true, Bool.and_true]

end

theorem contains_hold (l : List (Nat × Nat)) (x : Nat × Nat) : (if l.contains x then l else x :: l).contains x = true := by
  split
  · assumption
  · simp

theorem contains_unhold (l : List (Nat × Nat)) (x : Nat × Nat) : (l.filter (fun h => decide (h ≠ x))).contains x = false := by
  simp

/-- Without a pending result an `s` register is inverted at once. -/
theorem Unit.flip_s {u : Unit} (h : u.pend = []) (n k : Nat) : u.flip (.s n) k = u.flipS (BitVec.ofNat 6 n) k := by
  rw [Unit.flip, h]
  rfl

theorem Unit.flip_s_id {u : Unit} (h : u.pend = []) (n k : Nat) : (u.flip (.s n) k).id = u.id := by
  rw [Unit.flip_s h, Unit.flipS, Unit.ws_id]

/-- Bit `k` of the register is inverted, and nothing else is changed. -/
theorem Unit.flipS_regs (u : Unit) {r : SReg} (hr : r ≠ 0) (k : Nat) : (u.flipS r k).rs r = u.rs r ^^^ BitVec.ofNat 64 (2 ^ k) ∧
    (∀ m, m ≠ r → (u.flipS r k).rs m = u.rs m) ∧ (u.flipS r k).lS = u.lS := by
  refine ⟨?_, fun m hm => ?_, u.ws_lS _ _⟩
  · rw [Unit.flipS, Unit.rs_ws, if_neg hr, if_pos rfl]
  · rw [Unit.flipS, Unit.rs_ws, if_neg hm]
    split
    · next h0 => rw [h0, Unit.rs_zero]
    · rfl

theorem exec_replicaFlip_ok {s : State} {by_ : Issuer} {ctx : Nat} {c : Ctx} (hc : Names s by_ ctx c) (hd : c.debug = true)
    {id : UnitId} {u : Unit} (hu : s.unit? id = some u) (hctx : u.who.ctx = ctx) (hstop : u.stopped = true)
    (howes : u.owesWord = false) {n k : Nat} (hn : n < 64) (hk : k < 64) :
    exec (.replicaFlip by_ ctx id (.s n) k) s = ok (s.setUnit (u.flip (.s n) k)) := by
  rw [exec_replicaFlip, execReplicaFlip, onDebug, hc.onCtx, if_pos hd, hu]
  simp [howes, hctx, hstop, flipOk, hn, hk, okIf]

theorem sreg_ofNat_ne_zero {n : Nat} (h0 : 0 < n) (hn : n < 64) : BitVec.ofNat 6 n ≠ 0 := by
  intro h
  have hmod : n % 2 ^ 6 = 0 := congrArg BitVec.toNat h
  omega

/-- A simplex warp goes on alone. -/
theorem exec_debugResume_simplex {s : State} {id : UnitId} {u : Unit} (hu : s.unit? id = some u) (hid : u.id = id)
    (hrs : u.who.rset = 0) : exec (.debugResume id) s =
      .next { s with units := SMap.upd s.units (ukey id) (fun y => { y with stopped := false }) } := by
  rw [exec_debugResume, execDebugResume, hu, ← hid]
  simp only [replicas, hrs, if_true]
  rfl

end Sys2Proof.Machine

section
open Sys2Proof Sys2Proof.Machine

/-- Settles O49: each command passes the context's checks and its own limits, and then is one change of the machine. -/
theorem objectCommands : Obligations.ObjectCommands := by
  unfold Obligations.ObjectCommands
  intro s by_ ctx c hlook hmay hrun
  have hc : Names s by_ ctx c := ⟨hlook, hmay, hrun⟩
  refine ⟨fun f n e hn hmax hfree => ?timelines,
    fun l b k d w hl hfree hd hb hal hfit => exec_sets (exec_createWorkList_ok hc hl hfree hd hb hal hfit),
    fun g m hg hne hm => exec_sets (exec_defineCollectiveGroup_ok hc hg hne hm),
    fun h hs hl he => exec_sets (exec_setSupervisorHandler_ok hc hs hl he),
    fun o ho => exec_sets (exec_setTrapSaveArea_ok hc ho),
    fun k o n hk hn hal hfit => exec_sets (exec_setShadowArea_ok hc hk hn hal hfit),
    fun d k hlo hhi hfit => exec_sets (exec_setFaultLog_ok hc hlo hhi hfit),
    fun d hd => exec_sets (exec_setEvictionSaveArea_ok hc hd),
    fun m hm => exec_sets (exec_touchstoneEnable_ok hc hm),
    exec_sets (exec_debugAttach_ok hc), ?detach,
    fun hd a b ha hb => ⟨?hold, ?unhold, fun k hk => ⟨_, exec_injectAckloss_ok hc hd ha hk, rfl, rfl⟩⟩,
    fun id u n k hd hu hid hctx hstop h0 hn hk hpend howes => ?flip,
    fun id u hu hid hrs => exec_debugResume_simplex hu hid hrs⟩
  case timelines =>
    exact ⟨_, _, exec_allocateTimelines_ok hc hn hmax hfree e, rfl, SMap.look_put_self _ _ _, fun k => look_putRun _ f n k _⟩
  case detach =>
    have hloss := letGo_lossless s ctx c
    exact ⟨_, exec_debugDetach_ok hc, rfl, letGo_ctxs s ctx c, letGo_holds s ctx c, hloss.loss,
      fun e he hctx => runOn_stopped he hctx, hloss.acks⟩
  case hold => exact ⟨_, exec_aqueductHold_ok hc hd ha hb, rfl, contains_hold _ _, rfl⟩
  case unhold =>
    refine ⟨_, exec_aqueductUnhold_ok hc hd ha hb, rfl, ?_, sendOut_seqs _⟩
    exact (congrArg (fun l : List (Nat × Nat) => l.contains (a, b)) (sendOut_holds _)).trans (contains_unhold _ _)
  case flip =>
    have hregs := u.flipS_regs (sreg_ofNat_ne_zero h0 hn) k
    rw [← Unit.flip_s hpend] at hregs
    exact ⟨_, _, exec_replicaFlip_ok hc hd hu hctx hstop howes hn hk, rfl,
      unit?_setUnit_id s ((Unit.flip_s_id hpend n k).trans hid), hregs⟩

end

namespace Sys2Proof.Machine

/-! ## Integer compares, the byte dot product and mask words (R120, R129, R130) -/

section
variable {s : State} {u : Unit} {i : Bool} {w : LA}

/-- A ready integer compare writes a mask bit for each active lane. -/
theorem exec_laneCmpI_ready {d : BitVec 3} (hd : w.dst = .q d)
    (h : LReady s u i (selRegs w.a (tyRegs w.ty) ++ selRegs w.b (tyRegs w.ty))) :
    exec (.laneCmpI w) s = .next (lNext s u i w.m (if wide w.ty then 2 else 1) (if wide w.ty then 6 else 4)
      [.q d (laneAct s u i w.g) (maskOf fun l => ((u.opElems w w.a l).zip (u.opElems w w.b l)).all fun p =>
        intCmp w.md.toNat (readInt (tySigned w.ty) (elBits w.ty) p.1) (readInt (tySigned w.ty) (elBits w.ty) p.2))]) := by
  rw [exec_laneCmpI, execLaneCmpI, laneWord_ready h, hd, writeMask_q]

/-- The byte dot product as the sum of C and four products of bytes. -/
theorem bdotVal_eq_sum (md : BitVec 7) (a b c : Nat) : bdotVal md.toNat a b c = wrapInt 32 ((c : Int) +
    ((List.range 4).map fun k =>
      readInt (decide (md = 1) || decide (md = 2)) 8 (fld a (k * 8) 8) *
        readInt (decide (md = 1) || decide (md = 3)) 8 (fld b (k * 8) 8)).sum) := by
  have hmd (n : BitVec 7) : decide (md.toNat = n.toNat) = decide (md = n) := decide_eq_decide.mpr BitVec.toNat_inj
  have h1 : decide (md.toNat = 1) = decide (md = 1) := hmd 1
  have h2 : decide (md.toNat = 2) = decide (md = 2) := hmd 2
  have h3 : decide (md.toNat = 3) = decide (md = 3) := hmd 3
  rw [bdotVal, elemsOf, elemsOf, List.zip_map', List.foldl_map, h1, h2, h3]
  congr 1
  generalize (c : Int) = x
  generalize List.range 4 = l
  induction l generalizing x with
  | nil => simp
  | cons k t ih => rw [List.foldl_cons, ih, List.map_cons, List.sum_cons, add_assoc]

theorem exec_laneBdot_ready {d : BitVec 7} (hd : w.dst = .v d) (h : LReady s u i (intRegs w 3)) :
    exec (.laneBdot w) s = .next (lNext s u i w.m 1 6 (vRes d.toNat 1 (laneAct s u i w.g)
      ((lanesOf (laneAct s u i w.g)).map fun l => (l, bdotVal w.md.toNat (u.opVal w.ty w.imm.toNat w.a l)
        (u.opVal w.ty w.imm.toNat w.b l) (u.opVal w.ty w.imm.toNat w.c l))))) := by
  rw [exec_laneBdot, execLaneBdot, laneWord_ready h, hd, writeLane_v]

/-- On an undivided slot a mask operand is the `q` register. -/
theorem Unit.maskVal_q (hu : u.dual = false) (free : Nat) (i : Bool) (q : BitVec 3) : u.maskVal free i (.q q) = u.rq q := by
  rw [Unit.maskVal, Unit.crossQ, hu, Unit.rq]
  split
  · rfl
  · rfl

/-- A ready mask word of two `q` registers, on an undivided slot. -/
theorem maskWord_ready (hu : u.dual = false) {d a b : BitVec 3} (hd : w.dst = .q d) (ha : w.a = .q a) (hb : w.b = .q b)
    (h : LReady s u i []) (f : Mask → Mask → Mask) :
    maskWord s w f = .next (lNext s u i w.m 1 2 [.q d (laneAct s u i w.g) (f (u.rq a) (u.rq b))]) := by
  rw [maskWord, laneWord_ready h, hd, ha, hb, Unit.maskVal_q hu, Unit.maskVal_q hu, writeMask_q]

theorem exec_qmov_ready {d : BitVec 3} (hd : w.dst = .q d) (h : LReady s u i (selRegs w.a 1)) :
    exec (.qmov w) s = .next (lNext s u i w.m 1 2
      [.q d (laneAct s u i w.g) (maskOf fun l => decide (u.opVal w.ty w.imm.toNat w.a l ≠ 0))]) := by
  rw [exec_qmov, execQmov, laneWord_ready h, hd, writeMask_q]

theorem exec_qcnt_ready (hu : u.dual = false) {d : BitVec 7} {a : BitVec 3} (hd : w.dst = .v d) (ha : w.a = .q a)
    (h : LReady s u i (selRegs w.dst 1)) :
    exec (.qcnt w) s = .next (lNext s u i w.m 1 2 (vRes d.toNat 1 (laneAct s u i w.g)
      ((lanesOf (laneAct s u i w.g)).map fun l => (l, (List.range 32).countP fun k => (u.rq a).getLsbD k)))) := by
  rw [exec_qcnt, execQcnt, laneWord_ready h, hd, ha, Unit.maskVal_q hu, popBits_eq_countP, writeLane_v]
  rfl

theorem exec_emwr_ready (hu : u.dual = false) {a : BitVec 3} (ha : w.a = .q a) (h : LReady s u i []) :
    exec (.emwr w) s = .next (lNext s u i w.m 1 2 [.em (u.rq a)]) := by
  rw [exec_emwr, execEmwr, laneWord_ready h, ha, Unit.maskVal_q hu, retireL_eq]

end

/-! ### What the results of a slot leave of a slot -/

theorem Unit.LandsTo.lpc {u v : Unit} (h : u.LandsTo v) (j : Bool) : (v.slot j).lpc = (u.slot j).lpc := by rw [h.2 j]

/-- A result in a slot's hands leaves the exec mask of the other slot. -/
theorem Unit.em_land_other (u : Unit) (i : Bool) (f : Fly) : ((u.land (!i) f).slot i).em = (u.slot i).em := by
  obtain ⟨n, w, res⟩ := f
  cases res with
  | v d m x => exact u.noted_em (!i) i _
  | q d m x =>
    simp only [Unit.land]
    split <;> exact u.noted_em (!i) i _
  | em k => cases i <;> rfl
  | _ => exact congrArg Slot.em (Unit.slot_congr (u.land_sRes_lS (!i) _ rfl) i)

theorem Unit.em_landAll_other (u : Unit) (i : Bool) (l : List Fly) : ((u.landAll (!i) l).slot i).em = (u.slot i).em :=
  foldl_keeps (fun v : Unit => (v.slot i).em) (fun v f => v.land (!i) f) (fun v f => v.em_land_other i f) l u

theorem Unit.em_landMoved_own (u : Unit) (i : Bool) : ((u.landMoved i).slot i).em = (u.slot i).em := by
  unfold Unit.landMoved
  split
  · dsimp only
    rw [Unit.em_landAll_other, Unit.slot_setSlot, if_neg (Bool.not_eq_not.mpr rfl)]
  · rfl

/-- The exec mask of a slot after its results are written. -/
theorem Unit.em_landSlot_foldl (u : Unit) (i : Bool) :
    ((u.landSlot i).slot i).em = (u.slot i).fly.foldl (fun a f => f.res.onEm a) (u.slot i).em := by
  rw [Unit.landSlot, Unit.em_landAll, Unit.slot_setSlot, if_pos rfl]
  exact congrArg (fun a => List.foldl _ a _) (u.em_landMoved_own i)

theorem Unit.landSlot_lpc (u : Unit) (i : Bool) : ((u.landSlot i).slot i).lpc = (u.slot i).lpc := by
  obtain ⟨x, h⟩ := u.landMoved_landsTo i
  rw [(u.landsTo_landSlot i).lpc, Unit.slotCleared, Unit.slot_setSlot, if_pos rfl]
  exact (h.lpc i).trans (congrArg Slot.lpc ((Unit.slot_setSlot u (!i) i x).trans (if_neg (Bool.not_eq_not.mpr rfl))))

end Sys2Proof.Machine

section
open Sys2Proof Sys2Proof.Machine

/-- Settles O20: each word writes the value that its operands give; an `em` result is joined to the exec mask of its own slot, which
no other result changes (`Unit.em_landSlot_foldl`). -/
theorem laneCompareAndMaskWords : Obligations.LaneCompareAndMaskWords := by
  unfold Obligations.LaneCompareAndMaskWords
  refine ⟨⟨fun s u i w d hd h => ⟨_, exec_laneCmpI_ready hd h, fun l hl => getLsbD_maskOf _ hl⟩, fun s u i w d hd h => ?bdot⟩,
    fun s id v i keep due word hu hid hf hm hdue => ?lands, fun s u i w hu => ⟨fun d a b hd ha hb h => ?masks,
      fun d hd h => ⟨_, exec_qmov_ready hd h, fun l hl => getLsbD_maskOf _ hl⟩,
      fun d a hd ha h => exec_qcnt_ready hu hd ha h, fun a ha h => exec_emwr_ready hu ha h⟩⟩
  case bdot =>
    rw [exec_laneBdot_ready hd h]
    simp only [bdotVal_eq_sum]
  case lands =>
    have hflies : ∀ f ∈ (v.slot i).fly, f.due ≤ pulses s id.core := by simpa [hf] using hdue
    obtain ⟨hnext, hunit⟩ := exec_fixedResultWrite_slot hu hid i hm hflies
    refine ⟨_, _, hnext, hunit, ?_, v.landSlot_fly i, v.landSlot_lpc i, rfl⟩
    rw [v.em_landSlot_foldl i, hf]
    rfl
  case masks =>
    have word := maskWord_ready hu hd ha hb h
    exact ⟨word fun x y => x &&& y, word fun x y => x ||| y, word fun x y => x ^^^ y, word fun x y => x &&& ~~~y⟩

end

namespace Sys2Proof.Machine

/-! ## Conversions (R79, R115, R121 to R123) -/

section
variable {s : State} {u : Unit} {i : Bool} {w : LA} {d : BitVec 7}

/-- Lanes that raise no enabled flag let a word go on with the flags of all of them joined in (R77). -/
theorem flagGate_lanes_clear {act : Mask} {fl : Nat → Flags} (hc : ∀ l ∈ lanesOf act, fl l &&& u.te = 0) (k : Unit → Res) :
    flagGate s u i (laneFlags ((lanesOf act).map fun l => (l, fl l))) k =
      k (u.raise ((lanesOf act).foldl (fun x l => x ||| fl l) flNone)) := by
  rw [flagGate_clear s u i _ k (List.forall_mem_map.mpr hc), lanesFlags, List.foldl_map]

/-- What a converting word leaves: in each active lane the value of `r`, and the flags of all of them. -/
def convNext (s : State) (u : Unit) (i : Bool) (w : LA) (d : BitVec 7) (lat n : Nat) (r : Nat → Nat × Flags) : Res :=
  .next (lNext s (u.raise ((lanesOf (laneAct s u i w.g)).foldl (fun x l => x ||| (r l).2) flNone)) i w.m 1 lat
    (vRes d.toNat n (laneAct s u i w.g) ((lanesOf (laneAct s u i w.g)).map fun l => (l, (r l).1))))

/-- What `cvt` and `unpk` make of a lane. -/
def Unit.convLane (u : Unit) (w : LA) (rm : Rm) (l : Nat) : Nat × Flags :=
  convert (convSrc w.md) w.ty rm w.sat u.fzi u.fzo
    (pickElem (convSrc w.md) (w.md.toNat % 4) (u.opVal (convSrc w.md) w.imm.toNat w.a l))

theorem convWord_clear (hd : w.dst = .v d) (rmOf : Unit → Rm)
    (h : LReady s u i (selRegs w.dst (tyRegs w.ty) ++ selRegs w.a (tyRegs (convSrc w.md))))
    (hc : ∀ l ∈ lanesOf (laneAct s u i w.g), (u.convLane w (rmOf u) l).2 &&& u.te = 0) :
    convWord s w rmOf = convNext s u i w d 4 (tyRegs w.ty) fun l =>
      (convFill w.ty (u.convLane w (rmOf u) l).1, (u.convLane w (rmOf u) l).2) := by
  rw [convWord, laneWord_ready h, hd]
  simp only [List.map_map, Function.comp_def]
  exact flagGate_lanes_clear hc _

/-- What `pack` makes of one of its operands in a lane. -/
def Unit.packHalf (u : Unit) (w : LA) (o : Sel) (l : Nat) : Nat × Flags :=
  convert (convSrc w.md) w.ty (u.effRm w.rnd) w.sat u.fzi u.fzo
    (pickElem (convSrc w.md) 0 (u.opVal (convSrc w.md) w.imm.toNat o l))

/-- What `pack` makes of a lane: two elements of its destination replaced. -/
def Unit.packLane (u : Unit) (w : LA) (d : BitVec 7) (l : Nat) : Nat × Flags :=
  (putElem (elBits w.ty) (2 * (w.md.toNat % 4) + 1) (u.packHalf w w.b l).1
      (putElem (elBits w.ty) (2 * (w.md.toNat % 4)) (u.packHalf w w.a l).1 (u.rv d.toNat l).toNat),
    (u.packHalf w w.a l).2 ||| (u.packHalf w w.b l).2)

theorem exec_lanePack_clear (hd : w.dst = .v d)
    (h : LReady s u i (selRegs w.dst 1 ++ selRegs w.a (tyRegs (convSrc w.md)) ++ selRegs w.b (tyRegs (convSrc w.md))))
    (hc : ∀ l ∈ lanesOf (laneAct s u i w.g), (u.packLane w d l).2 &&& u.te = 0) :
    exec (.lanePack w) s = convNext s u i w d 4 1 (u.packLane w d) := by
  rw [exec_lanePack, execLanePack, laneWord_ready h, hd]
  simp only [List.map_map, Function.comp_def]
  exact flagGate_lanes_clear hc _

/-- What `scl` makes of a lane. -/
def Unit.sclLane (u : Unit) (w : LA) (f : Fmt) (l : Nat) : Nat × Flags :=
  sclVal f (u.effRm w.rnd) w.sat u.fzi u.fzo (u.opVal w.ty w.imm.toNat w.a l % 2 ^ f.width) (u.opVal .b32 w.imm.toNat w.b l % 256)

theorem exec_laneScl_clear (hd : w.dst = .v d) {f : Fmt} (hf : tyFmt w.ty = some f)
    (h : LReady s u i (selRegs w.dst 1 ++ selRegs w.a 1 ++ selRegs w.b 1))
    (hc : ∀ l ∈ lanesOf (laneAct s u i w.g), (u.sclLane w f l).2 &&& u.te = 0) :
    exec (.laneScl w) s = convNext s u i w d 4 1 (u.sclLane w f) := by
  rw [exec_laneScl, execLaneScl, laneWord_ready h, hd, hf]
  simp only [List.map_map, Function.comp_def]
  exact flagGate_lanes_clear hc _

/-- What `dot2` makes of a lane. -/
def Unit.dot2Lane (u : Unit) (w : LA) (f : Fmt) (l : Nat) : Nat × Flags :=
  elDot2 f (u.effRm w.rnd) w.sat u.fzi u.fzo (elemsOf 16 2 (u.opVal w.ty w.imm.toNat w.a l))
    (elemsOf 16 2 (u.opVal w.ty w.imm.toNat w.b l)) (u.opVal .f32 w.imm.toNat w.c l)

theorem exec_laneDot2_clear (hd : w.dst = .v d) {f : Fmt} (hf : tyFmt w.ty = some f) (h : LReady s u i (laRegs w 3))
    (hc : ∀ l ∈ lanesOf (laneAct s u i w.g), (u.dot2Lane w f l).2 &&& u.te = 0) :
    exec (.laneDot2 w) s = convNext s u i w d 6 1 (u.dot2Lane w f) := by
  rw [exec_laneDot2, execLaneDot2, laneWord_ready h, hd, hf]
  simp only [List.map_map, Function.comp_def]
  exact flagGate_lanes_clear hc _

end

/-! ### Exact conversions (R79) -/

theorem ofInt_num (v : Int) : (ofInt v).num = some (v : Rat) := by
  rw [ofInt, num_fin, signRat_natAbs, zpow_zero, mul_one]

theorem sgnInt_cast (neg : Bool) (n : Nat) : (sgnInt neg n : Rat) = signRat neg * n := by
  cases neg <;> simp [sgnInt, signRat]

/-- A value that is an integer needs no rounding to be one. -/
theorem roundInt_num {neg : Bool} {m : Nat} {e n : Int} (h : (FVal.fin neg m e).num = some (n : Rat)) (rm : Rm) :
    roundInt rm neg m e = (n, false) := by
  have hval : signRat neg * m * 2 ^ e = (n : Rat) := Option.some.inj h
  have hmag : (m : Rat) * 2 ^ e = n.natAbs * 2 ^ (0 : Int) := by
    rw [zpow_zero, mul_one, ← abs_num neg, hval, Nat.cast_natAbs, Int.cast_abs]
  have hsgn : sgnInt neg n.natAbs = n := by
    rw [zpow_zero, mul_one] at hmag
    have hcast : (sgnInt neg n.natAbs : Rat) = n := by rw [sgnInt_cast, ← hmag, ← mul_assoc, hval]
    exact_mod_cast hcast
  simp only [roundInt, roundAt_exact hmag rm neg false, hsgn]

/-- A value that is an integer of the range is converted to it. -/
theorem toInt_num {v : FVal} {n : Int} (h : v.num = some (n : Rat)) {sgn : Bool} {w : Nat} (hlo : intLo sgn w ≤ n)
    (hhi : n ≤ intHi sgn w) (rm : Rm) : toInt rm sgn w v = (wrapInt w n, flNone) := by
  obtain ⟨neg, m, e, rfl, -⟩ := num_eq_some h
  simp [toInt, roundInt_num h, not_lt.mpr hlo, not_lt.mpr hhi]

section
variable {src dst : LTy} {g : Fmt} {r x : Nat} (rm : Rm) (sat : Bool)

/-- A nonzero number of a floating type that another one has keeps its value. -/
theorem convert_num {f : Fmt} {a : Rat} (hs : tyFmt src = some f) (hd : tyFmt dst = some g) (hg : g ≠ .e8m0)
    (hx : f.num x = some a) (h0 : a ≠ 0) (hr : r < 2 ^ g.width) (hq : g.num r = some a) :
    convert src dst rm sat false false x = (r, flNone) := by
  have hv : (f.decode x).num = some a := hx
  have henc (rm : Rm) (sat : Bool) : g.encode rm sat false (f.decode x) = (r, flNone) := encode_num hg hr hq h0 hv rm sat
  simp only [convert, hs, hd, decodeFz_false, (isNan_num hv).2, henc, ite_self]
  simp [flNone]

/-- An integer that a floating type has keeps its value. -/
theorem convert_ofInt (hs : tyFmt src = none) (hd : tyFmt dst = some g) (hg : g ≠ .e8m0)
    (h0 : readInt (tySigned src) (elBits src) x ≠ 0) (hr : r < 2 ^ g.width)
    (hq : g.num r = some ((readInt (tySigned src) (elBits src) x : Int) : Rat)) :
    convert src dst rm sat false false x = (r, flNone) := by
  have henc := encode_num hg hr hq (Int.cast_ne_zero.mpr h0) (ofInt_num _) rm sat
  simp only [convert, hs, hd, henc]

/-- An integer that a floating type holds is converted to it where the destination has it. -/
theorem convert_toInt {f : Fmt} {n : Int} (hs : tyFmt src = some f) (hd : tyFmt dst = none) (hx : f.num x = some (n : Rat))
    (hlo : intLo (tySigned dst) (elBits dst) ≤ n) (hhi : n ≤ intHi (tySigned dst) (elBits dst)) :
    convert src dst rm sat false false x = (wrapInt (elBits dst) n, flNone) := by
  have hv : (f.decode x).num = some (n : Rat) := hx
  simp only [convert, hs, hd, decodeFz_false, toInt_num hv hlo hhi]

end

end Sys2Proof.Machine

section
open Sys2Proof Sys2Proof.Machine

/-- Settles O23: each word goes on where the flags of its lanes let it; an exact conversion encodes or rounds a value that needs no
rounding. -/
theorem laneConversionResults : Obligations.LaneConversionResults := by
  unfold Obligations.LaneConversionResults
  refine ⟨fun s u i w d hd => ⟨convWord_clear hd fun u => u.effRm w.rnd, convWord_clear hd fun _ => .rne, exec_lanePack_clear hd,
      fun f hf => ⟨exec_laneScl_clear hd hf, exec_laneDot2_clear hd hf⟩⟩,
    fun src dst rm sat x r => ⟨fun f g a hs hd hg hx h0 hr hq => convert_num rm sat hs hd hg hx h0 hr hq,
      fun g hs hd hg h0 hr hq => ?_, fun f n hs hd hx hlo hhi => ?_⟩⟩
  · exact convert_ofInt rm sat hs hd hg h0 hr hq
  · exact convert_toInt rm sat hs hd hx hlo hhi

end

namespace Sys2Proof.Machine

/-! ## A mask and its complement -/

section
variable {n : Nat} (x y : BitVec n)

/-- The bits of a mask outside another one and those inside it make up the mask. -/
theorem and_not_or_and : x &&& ~~~y ||| x &&& y = x := by
  refine BitVec.eq_of_getLsbD_eq fun k hk => ?_
  cases hy : y.getLsbD k <;> simp [hk, hy, -BitVec.getLsbD_eq_getElem]

theorem and_not_and : x &&& ~~~y &&& y = 0 := by
  refine BitVec.eq_of_getLsbD_eq fun k hk => ?_
  cases hy : y.getLsbD k <;> simp [hk, hy, -BitVec.getLsbD_eq_getElem]

/-- No bit of a mask lies outside another one where it is a part of it. -/
theorem and_not_eq_zero : x &&& ~~~y = 0 ↔ x &&& y = x := by
  constructor
  · intro h
    have := and_not_or_and x y
    rw [h] at this
    exact (BitVec.zero_or).symm.trans this
  · intro h
    have := and_not_and x (x &&& y)
    rw [h] at this
    calc x &&& ~~~y = x &&& y &&& ~~~y := by rw [h]
      _ = 0 := by
        rw [BitVec.and_assoc, BitVec.and_comm y, ← BitVec.and_assoc]
        exact and_not_and x y

end

/-! ## Moves, swizzles and polls (R124 to R127) -/

section
variable {s : State} {u : Unit} {i : Bool} {w : LA}

/-- A lane word with a mailbox as its destination: the mailbox holds the value of the lowest active lane, the others stay. -/
theorem writeLane_mb (hid : u.id = s.cur) (m : Bool) {act : Mask} {l : Nat} {t : List Nat} (hl : lanesOf act = l :: t) (iv lat : Nat)
    (k : BitVec 2) (n : Nat) (f : Nat → Nat) :
    ∃ r y, writeLane s u i m act iv lat (.mb k) n ((lanesOf act).map fun l => (l, f l)) = .next r ∧ r.unit? s.cur = some y ∧
      r.mem = s.mem ∧ SMap.get 0 y.mbVal k.toNat = BitVec.ofNat 64 (f l % 2 ^ 64) ∧
      ∀ j, j ≠ k.toNat → SMap.get 0 y.mbVal j = SMap.get 0 u.mbVal j := by
  have hval : (u.wmb s.clk.now k act ((lanesOf act).map fun l => (l, f l))).mbVal =
      SMap.set 0 u.mbVal k.toNat (BitVec.ofNat 64 (f l % 2 ^ 64)) := by
    simp [Unit.wmb, hl, SMap.look]
  have hunit := lNext_unit (s := s) (u := u.wmb s.clk.now k act ((lanesOf act).map fun l => (l, f l))) i m iv lat []
  rw [Unit.wmb_id, hid] at hunit
  refine ⟨_, _, rfl, hunit, lNext_mem i m iv lat [], ?_, fun j hj => ?_⟩
  · rw [Unit.lDone_mbVal, hval, SMap.get_set, if_pos rfl]
  · rw [Unit.lDone_mbVal, hval, SMap.get_set, if_neg hj]

theorem exec_laneMov_ready (h : LReady s u i (selRegs w.dst (tyRegs w.ty) ++ selRegs w.a (tyRegs w.ty))) :
    exec (.laneMov w) s = writeLane s u i w.m (laneAct s u i w.g) 1 4 w.dst (tyRegs w.ty)
      ((lanesOf (laneAct s u i w.g)).map fun l => (l, u.opVal w.ty w.imm.toNat w.a l)) := by
  rw [exec_laneMov, execLaneMov, laneWord_ready h]

theorem exec_laneSel_ready {d : BitVec 7} (hd : w.dst = .v d) (h : LReady s u i (intRegs w 2)) :
    exec (.laneSel w) s = .next (lNext s u i w.m 1 4 (vRes d.toNat (tyRegs w.ty) (laneAct s u i w.g)
      ((lanesOf (laneAct s u i w.g)).map fun l => (l, if (u.maskVal s.free i w.c).getLsbD l
        then u.opVal w.ty w.imm.toNat w.a l else u.opVal w.ty w.imm.toNat w.b l)))) := by
  have pick (l : Nat) : u.opVal w.ty w.imm.toNat (if (u.maskVal s.free i w.c).getLsbD l then w.a else w.b) l =
      if (u.maskVal s.free i w.c).getLsbD l then u.opVal w.ty w.imm.toNat w.a l else u.opVal w.ty w.imm.toNat w.b l := by
    split <;> rfl
  rw [exec_laneSel, execLaneSel, laneWord_ready h, hd, writeLane_v]
  simp only [pick]

/-- A group of registers of a lane, as the sum of its parts. -/
theorem Unit.laneRegs_eq_sum (u : Unit) (r n l : Nat) :
    u.laneRegs r n l = ((List.range n).map fun k => (u.rv (r + k) l).toNat * 2 ^ (32 * k)).sum := by
  induction n generalizing r with
  | zero => rfl
  | succ n ih =>
    have part (k : Nat) : (u.rv (r + (k + 1)) l).toNat * 2 ^ (32 * (k + 1)) =
        2 ^ 32 * ((u.rv (r + 1 + k) l).toNat * 2 ^ (32 * k)) := by
      rw [add_right_comm r 1 k, add_assoc, mul_add, mul_one, pow_add]
      ring
    rw [List.range_succ_eq_map, List.map_cons, List.map_map, List.sum_cons]
    simp only [Function.comp_def, Nat.succ_eq_add_one, part, List.sum_map_mul_left, ← ih]
    rw [mul_zero, pow_zero, mul_one]
    rfl

/-- On an undivided slot a lane reads another one's registers as they stand. -/
theorem Unit.crossV_whole (hu : u.dual = false) (free : Nat) (i : Bool) (r n l : Nat) :
    u.crossV free i r n l = ((List.range n).map fun k => (u.rv (r + k) l).toNat * 2 ^ (32 * k)).sum := by
  rw [← Unit.laneRegs_eq_sum, Unit.crossV, hu]
  rfl

theorem exec_laneLsw_ready (hu : u.dual = false) {d a : BitVec 7} (hd : w.dst = .v d) (ha : w.a = .v a)
    (h : LReady s u i (selRegs w.dst (tyRegs w.ty) ++ selRegs w.a (tyRegs w.ty) ++
      if w.md.toNat % 4 = 3 then [] else selRegs w.b 1)) :
    exec (.laneLsw w) s = .next (lNext s u i w.m (if wide w.ty then 2 else 1) 6
      (vRes d.toNat (tyRegs w.ty) (laneAct s u i w.g) ((lanesOf (laneAct s u i w.g)).map fun l =>
        (l, ((List.range (tyRegs w.ty)).map fun k => (u.rv (a.toNat + k) (swizzle (w.md.toNat % 4)
          (2 ^ (5 - w.md.toNat / 4 % 8)) l (u.opVal .b32 w.imm.toNat w.b l % 32))).toNat * 2 ^ (32 * k)).sum)))) := by
  rw [exec_laneLsw, execLaneLsw, laneWord_ready h, hd, ha]
  simp only [Unit.crossV_whole hu, writeLane_v]

theorem exec_laneBsel_ready {d : BitVec 7} (hd : w.dst = .v d) (h : LReady s u i (intRegs w 3)) :
    exec (.laneBsel w) s = .next (lNext s u i w.m 1 6 (vRes d.toNat 1 (laneAct s u i w.g)
      ((lanesOf (laneAct s u i w.g)).map fun l => (l, bselVal (u.opVal w.ty w.imm.toNat w.a l)
        (u.opVal w.ty w.imm.toNat w.b l) (u.opVal w.ty w.imm.toNat w.c l))))) := by
  rw [exec_laneBsel, execLaneBsel, laneWord_ready h, hd, writeLane_v]

/-- The byte that `bsel` takes from the eight of `v` by its control byte. -/
def bselByte (v x : Nat) : Nat :=
  match x / 8 % 4 with
  | 0 => fld v (8 * (x % 8)) 8
  | 1 => 0
  | 2 => 0xFF
  | _ => if 128 ≤ fld v (8 * (x % 8)) 8 then 0xFF else 0

theorem bselVal_eq (a b c : Nat) :
    bselVal a b c = joinElems 8 ((List.range 4).map fun k => bselByte (a + b * 2 ^ 32) (fld c (8 * k) 8)) := by
  rw [bselVal, elemsOf, List.map_map]
  simp only [Function.comp_def, mul_comm _ 8]
  rfl

/-! ### Polls -/

theorem ite_not_isEmpty {α β : Type} (l : List α) (x y : β) : (if !l.isEmpty then x else y) = if l = [] then y else x := by
  cases l <;> rfl

/-- What a poll of a `q` register of an undivided slot with an active lane answers. -/
theorem exec_lanePoll_ready (hu : u.dual = false) {q : BitVec 3} (ha : w.a = .q q)
    (h : LReady s u i (selRegs w.dst 1 ++ selRegs w.a 1)) (h0 : laneAct s u i w.g ≠ 0) :
    exec (.lanePoll w) s =
      let act := laneAct s u i w.g
      let hit := lanesOf (act &&& u.rq q)
      match w.md.toNat with
      | 0 => writeMask s u i w.m act 1 2 w.dst (if !hit.isEmpty then 0xFFFFFFFF else 0)
      | 1 => writeMask s u i w.m act 1 2 w.dst (if decide (act &&& ~~~(u.rq q) = 0) then 0xFFFFFFFF else 0)
      | 2 => writeMask s u i w.m act 1 2 w.dst (u.rq q)
      | 3 => writeLane s u i w.m act 1 2 w.dst 1 ((lanesOf act).map fun l => (l, hit.length))
      | _ => writeLane s u i w.m act 1 2 w.dst 1 ((lanesOf act).map fun l => (l, hit.headD 32)) := by
  rw [exec_lanePoll, execLanePoll, laneWord_ready h, ha, ← Unit.maskVal_q hu s.free i q]
  exact if_neg h0

end
end Sys2Proof.Machine

section
open Sys2Proof Sys2Proof.Machine

/-- Settles O25: each word writes what its operands give in the active lanes, or to its mailbox what the lowest of them gives. -/
theorem laneMoveResults : Obligations.LaneMoveResults := by
  unfold Obligations.LaneMoveResults
  refine ⟨fun s u i w => ⟨fun d hd h => ?mov, fun k l t hk h hl => ?movMb, fun d hd h => exec_laneSel_ready hd h,
      fun d a hd ha hu h => ?lsw, fun d hd h => ?bsel⟩,
    fun s u i w n h ha hu h0 => ⟨fun d hd => ⟨fun hm => ?any, fun hm => ?all, fun hm => ?mask⟩,
      fun d hd => ⟨fun hm => ?count, fun hm => ?lowest⟩, fun k l t hk hm hl => ?countMb⟩⟩
  case mov => rw [exec_laneMov_ready h, hd, writeLane_v]
  case movMb =>
    have hregs : selRegs w.dst (tyRegs w.ty) ++ selRegs w.a (tyRegs w.ty) = selRegs w.a (tyRegs w.ty) := by rw [hk]; rfl
    rw [exec_laneMov_ready (hregs ▸ h), hk]
    exact writeLane_mb h.2.1 w.m hl 1 4 k _ _
  case lsw => exact exec_laneLsw_ready hu hd ha h
  case bsel =>
    rw [exec_laneBsel_ready hd h]
    simp only [bselVal_eq]
    rfl
  case any =>
    rw [exec_lanePoll_ready hu ha h h0, hm, hd]
    simp only [ite_not_isEmpty]
    rfl
  case all =>
    rw [exec_lanePoll_ready hu ha h h0, hm, hd]
    simp only [and_not_eq_zero, decide_eq_true_eq]
    rfl
  case mask => rw [exec_lanePoll_ready hu ha h h0, hm, hd]; rfl
  case count => rw [exec_lanePoll_ready hu ha h h0, hm, hd]; rfl
  case lowest => rw [exec_lanePoll_ready hu ha h h0, hm, hd]; rfl
  case countMb =>
    rw [exec_lanePoll_ready hu ha h h0, hm, hk]
    obtain ⟨r, y, hr, hy, -, hval, -⟩ := writeLane_mb (s := s) (u := u) (i := i) h.2.1 w.m hl 1 2 k 1
      fun _ => (lanesOf (laneAct s u i w.g &&& u.rq n)).length
    exact ⟨r, y, hr, hy, hval.trans (BitVec.eq_of_toNat_eq (by simp))⟩

end

namespace Sys2Proof.Machine

/-! ## Reductions (R128)

A node of the tree stands for the active lanes below it. What holds of a single lane's value, and of a combination where it holds of
both parts, then holds of the root and all active lanes (`root_stands`). -/

section
variable {s : State} {u : Unit} {i : Bool} {w : LA}

/-- Steps that raise no enabled flag let a word go on with the flags of all of them joined in (R77). -/
theorem flagGate_steps_clear {l : List (Mask × Flags)} (hc : ∀ e ∈ l, e.2 &&& u.te = 0) (k : Unit → Res) :
    flagGate s u i l k = k (u.raise (flUnion l)) := by
  have hhot : l.filter (fun e => decide (e.2 &&& u.te ≠ 0)) = [] :=
    List.filter_eq_nil_iff.mpr fun e he => by simpa using hc e he
  rw [flagGate, hhot]
  rfl

/-- The leaf of a lane: its value where it is active. -/
def redLeaf (act : Mask) (val : Nat → Nat) (l : Nat) : Node :=
  if act.getLsbD l then some (BitVec.ofNat 32 (2 ^ l), val l) else none

/-- The reduction tree over the active lanes. -/
def redTree (f : Nat → Nat → Nat × Flags) (act : Mask) (val : Nat → Nat) : Node × List (Mask × Flags) :=
  treeGo f 5 ((List.range 32).map (redLeaf act val)) []

/-- A `red` with an active lane, none of whose steps raises an enabled flag, writes the root of its tree. -/
theorem exec_laneRed_clear (h : LReady s u i (selRegs w.dst (tyRegs w.ty) ++ selRegs w.a (tyRegs w.ty))) {m : Mask} {x : Nat}
    (hroot : (redTree (combine w.ty w.md.toNat u.fzi u.fzo) (laneAct s u i w.g) (u.redVal w)).1 = some (m, x))
    (hc : ∀ e ∈ (redTree (combine w.ty w.md.toNat u.fzi u.fzo) (laneAct s u i w.g) (u.redVal w)).2, e.2 &&& u.te = 0) :
    exec (.laneRed w) s = writeLane s
      (u.raise (flUnion (redTree (combine w.ty w.md.toNat u.fzi u.fzo) (laneAct s u i w.g) (u.redVal w)).2)) i w.m
      (laneAct s u i w.g) (redIv w.ty) 12 w.dst (tyRegs w.ty) ((lanesOf (laneAct s u i w.g)).map fun l => (l, x)) := by
  unfold redTree redLeaf at hroot hc ⊢
  rw [exec_laneRed, execLaneRed, laneWord_ready h]
  dsimp only
  rw [hroot]
  exact flagGate_steps_clear hc _

theorem exec_laneScan_clear {d : BitVec 7} (hd : w.dst = .v d)
    (h : LReady s u i (selRegs w.dst (tyRegs w.ty) ++ selRegs w.a (tyRegs w.ty)))
    (hc : ∀ e ∈ (scanGo (combine w.ty w.md.toNat u.fzi u.fzo)
      ((lanesOf (laneAct s u i w.g)).map fun l => (l, u.redVal w l)) none).2, e.2 &&& u.te = 0) :
    exec (.laneScan w) s = .next (lNext s (u.raise (flUnion (scanGo (combine w.ty w.md.toNat u.fzi u.fzo)
        ((lanesOf (laneAct s u i w.g)).map fun l => (l, u.redVal w l)) none).2)) i w.m (redIv w.ty) 12
      (vRes d.toNat (tyRegs w.ty) (laneAct s u i w.g) (scanGo (combine w.ty w.md.toNat u.fzi u.fzo)
        ((lanesOf (laneAct s u i w.g)).map fun l => (l, u.redVal w l)) none).1)) := by
  rw [exec_laneScan, execLaneScan, laneWord_ready h, hd]
  exact flagGate_steps_clear hc _

end

/-! ### The tree -/

section
variable {f : Nat → Nat → Nat × Flags} {val : Nat → Nat} {P : List Nat → Mask → Nat → Prop}

/-- A node stands for the lanes `ks`: none for no lane, else a mask and a value of which `P` holds. -/
def Stands (P : List Nat → Mask → Nat → Prop) (a : Node) (ks : List Nat) : Prop :=
  match a with
  | none => ks = []
  | some (m, x) => ks ≠ [] ∧ P ks m x

/-- `P` holds of the value of a single lane, and of a combination where it holds of both parts. -/
structure Combines (f : Nat → Nat → Nat × Flags) (val : Nat → Nat) (P : List Nat → Mask → Nat → Prop) : Prop where
  one : ∀ l, P [l] (BitVec.ofNat 32 (2 ^ l)) (val l)
  two : ∀ {ks js m n x y}, ks ≠ [] → js ≠ [] → P ks m x → P js n y → P (ks ++ js) (m ||| n) (f x y).1

theorem stands_redLeaf (hP : Combines f val P) (act : Mask) (l : Nat) :
    Stands P (redLeaf act val l) (if act.getLsbD l then [l] else []) := by
  unfold redLeaf
  split
  · exact ⟨List.cons_ne_nil _ _, hP.one l⟩
  · rfl

/-- What one step makes of two nodes, and its flags. -/
def pairNode (f : Nat → Nat → Nat × Flags) (a b : Node) : Node × List (Mask × Flags) :=
  match a, b with
  | some (m, x), some (n, y) => (some (m ||| n, (f x y).1), [(m ||| n, (f x y).2)])
  | some x, none => (some x, [])
  | none, y => (y, [])

theorem treeLevel_cons (a b : Node) (t : List Node) : treeLevel f (a :: b :: t) =
    ((pairNode f a b).1 :: (treeLevel f t).1, (pairNode f a b).2 ++ (treeLevel f t).2) := by
  cases a <;> cases b <;> rfl

/-- Two nodes combined stand for the lanes of both, and a step is taken only where both stand for a lane. -/
theorem stands_pairNode (hP : Combines f val P) {a b : Node} {ks js : List Nat} (ha : Stands P a ks) (hb : Stands P b js) :
    Stands P (pairNode f a b).1 (ks ++ js) ∧ ((ks ++ js).length ≤ 1 → (pairNode f a b).2 = []) := by
  match a, b with
  | some (m, x), some (n, y) =>
    obtain ⟨hk, hx⟩ := ha
    obtain ⟨hj, hy⟩ := hb
    refine ⟨⟨List.append_ne_nil_of_left_ne_nil hk js, hP.two hk hj hx hy⟩, fun hlen => ?_⟩
    have := List.length_pos_iff.mpr hk
    have := List.length_pos_iff.mpr hj
    rw [List.length_append] at hlen
    omega
  | some (m, x), none =>
    obtain rfl : js = [] := hb
    rw [List.append_nil]
    exact ⟨ha, fun _ => rfl⟩
  | none, y =>
    obtain rfl : ks = [] := ha
    exact ⟨hb, fun _ => rfl⟩

/-- The next level stands for the same lanes in the same order, has half as many nodes, and raises nothing for one lane. -/
theorem treeLevel_stands (hP : Combines f val P) : ∀ (l : List Node) (ks : List (List Nat)), List.Forall₂ (Stands P) l ks →
    ∃ js, List.Forall₂ (Stands P) (treeLevel f l).1 js ∧ js.flatten = ks.flatten ∧
      (treeLevel f l).1.length = (l.length + 1) / 2 ∧ (ks.flatten.length ≤ 1 → (treeLevel f l).2 = [])
  | [], ks, h => ⟨ks, h, rfl, rfl, fun _ => rfl⟩
  | [_], ks, h => ⟨ks, h, rfl, by simp [treeLevel], fun _ => rfl⟩
  | a :: b :: t, k :: j :: ks, .cons ha (.cons hb ht) => by
    obtain ⟨js, hjs, hflat, hlen, hfl⟩ := treeLevel_stands hP t ks ht
    obtain ⟨hpair, hpair'⟩ := stands_pairNode hP ha hb
    rw [treeLevel_cons]
    refine ⟨(k ++ j) :: js, .cons hpair hjs, by simp [hflat], by simp [hlen]; omega, fun h1 => ?_⟩
    simp only [List.flatten_cons, List.length_append] at h1 hpair'
    rw [hpair' (by omega), hfl (by omega), List.append_nil]

theorem treeGo_stands (hP : Combines f val P) (n : Nat) (l : List Node) (ks : List (List Nat)) (fl : List (Mask × Flags))
    (h : List.Forall₂ (Stands P) l ks) (hl : l.length ≤ 2 ^ n) :
    Stands P (treeGo f n l fl).1 ks.flatten ∧ (ks.flatten.length ≤ 1 → (treeGo f n l fl).2 = fl) := by
  induction n generalizing l ks fl with
  | zero =>
    refine ⟨?_, fun _ => rfl⟩
    cases h with
    | nil => rfl
    | cons ha ht =>
      cases ht with
      | nil => simpa [treeGo] using ha
      | cons _ _ => simp at hl
  | succ n ih =>
    obtain ⟨js, hjs, hflat, hlen, hfl⟩ := treeLevel_stands hP l ks h
    have hl' : (treeLevel f l).1.length ≤ 2 ^ n := by rw [hlen]; rw [pow_succ] at hl; omega
    obtain ⟨hroot, hroot'⟩ := ih _ js (fl ++ (treeLevel f l).2) hjs hl'
    rw [hflat] at hroot hroot'
    refine ⟨hroot, fun h1 => (hroot' h1).trans ?_⟩
    rw [hfl h1, List.append_nil]

theorem flatten_ite_singleton (p : Nat → Bool) (ks : List Nat) :
    (ks.map fun l => if p l then [l] else []).flatten = ks.filter p := by
  induction ks with
  | nil => rfl
  | cons k t ih =>
    rw [List.map_cons, List.flatten_cons, ih, List.filter_cons]
    split <;> rfl

/-- The root stands for all active lanes; of one lane it is that lane's value, and no step is taken. -/
theorem root_stands (hP : Combines f val P) (act : Mask) :
    Stands P (redTree f act val).1 (lanesOf act) ∧ ((lanesOf act).length ≤ 1 → (redTree f act val).2 = []) := by
  have hleaves : List.Forall₂ (Stands P) ((List.range 32).map (redLeaf act val))
      ((List.range 32).map fun l => if act.getLsbD l then [l] else []) := by
    rw [List.forall₂_map_left_iff, List.forall₂_map_right_iff, List.forall₂_same]
    exact fun l _ => stands_redLeaf hP act l
  have hroot := treeGo_stands hP 5 _ _ [] hleaves (by simp)
  rwa [flatten_ite_singleton] at hroot

theorem root_some (hP : Combines f val P) {act m : Mask} {x : Nat} (h : (redTree f act val).1 = some (m, x)) :
    P (lanesOf act) m x := by
  have hroot := (root_stands hP act).1
  rw [h] at hroot
  exact hroot.2

/-- The root of a tree names the active lanes. -/
theorem root_mask {act m : Mask} {x : Nat} (h : (redTree f act val).1 = some (m, x)) : m = act := by
  have hP : Combines f val fun ks m _ => ∀ l, l < 32 → (m.getLsbD l = true ↔ l ∈ ks) := by
    constructor
    · intro k l hl
      rw [getLsbD_laneBit k hl, List.mem_singleton, eq_comm]
    · intro ks js m n x y _ _ hk hj l hl
      rw [BitVec.getLsbD_or, Bool.or_eq_true, hk l hl, hj l hl, List.mem_append]
  refine BitVec.eq_of_getLsbD_eq fun l hl => Bool.eq_iff_iff.mpr ?_
  rw [root_some hP h l hl, mem_lanesOf]
  exact and_iff_right hl

/-- A reduction of one lane is that lane's value. -/
theorem redTree_single {act : Mask} {l : Nat} (h : lanesOf act = [l]) :
    redTree f act val = (some (BitVec.ofNat 32 (2 ^ l), val l), []) := by
  have hP : Combines f val fun ks m x => ∀ l, ks = [l] → m = BitVec.ofNat 32 (2 ^ l) ∧ x = val l := by
    constructor
    · rintro k l ⟨⟩
      exact ⟨rfl, rfl⟩
    · intro ks js m n x y hk hj _ _ l hl
      rcases List.append_eq_singleton_iff.mp hl with ⟨rfl, -⟩ | ⟨-, rfl⟩
      · exact absurd rfl hk
      · exact absurd rfl hj
  obtain ⟨hroot, hflags⟩ := root_stands hP act
  rw [h] at hroot hflags
  refine Prod.ext ?_ (hflags le_rfl)
  match hr : (redTree f act val).1 with
  | none =>
    rw [hr] at hroot
    exact absurd hroot (List.cons_ne_nil l [])
  | some (m, x) =>
    rw [hr] at hroot
    obtain ⟨rfl, rfl⟩ := hroot.2 l rfl
    rfl

end

/-! ### What a step combines -/

theorem elemsOf_one (n x : Nat) : elemsOf n 1 x = [x % 2 ^ n] := by simp [elemsOf, fld]

theorem joinElems_one (n x : Nat) : joinElems n [x] = x % 2 ^ n := by simp [joinElems]

theorem wrapInt_readInt (g : Bool) (n v : Nat) : wrapInt n (readInt g n v) = v % 2 ^ n := by
  have hmod : ((v % 2 ^ n : Nat) : Int) % 2 ^ n = (v % 2 ^ n : Nat) := by exact_mod_cast Nat.mod_mod v (2 ^ n)
  unfold wrapInt readInt
  dsimp only
  split
  · rw [Int.sub_emod_right, hmod, Int.toNat_natCast]
  · rw [hmod, Int.toNat_natCast]

theorem readInt_mod (g : Bool) (n v : Nat) : readInt g n (v % 2 ^ n) = readInt g n v := by
  rw [readInt, Nat.mod_mod]
  rfl

section
variable {t : LTy} (h1 : elCount t = 1)
include h1

theorem redVal_lt {u : Unit} {w : LA} (hw : w.ty = t) (l : Nat) : u.redVal w l < 2 ^ elBits w.ty := by
  subst hw
  rw [Unit.redVal, Unit.opElems, h1, elemsOf_one, joinElems_one]
  exact Nat.mod_lt _ (by positivity)

variable (h0 : tyFmt t = none) (fzi fzo : Bool) (x y : Nat)
include h0

theorem combine_add : (combine t 0 fzi fzo x y).1 = (x + y) % 2 ^ elBits t := by
  simp [combine, h1, h0, elemsOf_one, joinElems_one]

theorem combine_min : (combine t 1 fzi fzo x y).1 =
    if readInt (tySigned t) (elBits t) x ≤ readInt (tySigned t) (elBits t) y then x % 2 ^ elBits t else y % 2 ^ elBits t := by
  simp only [combine, h1, h0, elemsOf_one, inMin, List.zip_cons_cons, List.zip_nil_right, List.map_cons, List.map_nil,
    joinElems_one, readInt_mod, min_def]
  split <;> rw [wrapInt_readInt, Nat.mod_mod]

end

section
variable {t : LTy} (h1 : elCount t = 1) (h0 : tyFmt t = none) (fzi fzo : Bool) {val : Nat → Nat}
  (hval : ∀ l, val l < 2 ^ elBits t)
include h1 h0 hval

theorem combines_sum : Combines (combine t 0 fzi fzo) val fun ks _ x => x = (ks.map val).sum % 2 ^ elBits t := by
  constructor
  · intro l
    rw [List.map_singleton, List.sum_singleton, Nat.mod_eq_of_lt (hval l)]
  · rintro ks js m n _ _ - - rfl rfl
    rw [combine_add h1 h0, List.map_append, List.sum_append, ← Nat.add_mod]

theorem combines_min : Combines (combine t 1 fzi fzo) val fun ks _ x => (∃ l ∈ ks, x = val l) ∧
    ∀ l ∈ ks, readInt (tySigned t) (elBits t) x ≤ readInt (tySigned t) (elBits t) (val l) := by
  constructor
  · intro l
    exact ⟨⟨l, List.mem_singleton_self l, rfl⟩, fun k hk => by rw [List.mem_singleton.mp hk]⟩
  · rintro ks js m n _ _ - - ⟨⟨k, hk, rfl⟩, hks⟩ ⟨⟨j, hj, rfl⟩, hjs⟩
    simp only [combine_min h1 h0, Nat.mod_eq_of_lt (hval _), List.mem_append]
    split
    · next hle => exact ⟨⟨k, .inl hk, rfl⟩, fun l hl => hl.elim (hks l) fun hl => hle.trans (hjs l hl)⟩
    · next hlt => exact ⟨⟨j, .inr hj, rfl⟩, fun l hl => hl.elim (fun hl => (le_of_not_ge hlt).trans (hks l hl)) (hjs l)⟩

/-! ### The running sum -/

omit hval in
/-- A running sum of lanes that rise adds to what has been summed the values up to each lane. -/
theorem scanGo_sum_from (ks : List Nat) (hks : ks.Pairwise (· < ·)) (m : Mask) (y : Nat) :
    (scanGo (combine t 0 fzi fzo) (ks.map fun l => (l, val l)) (some (m, y))).1 =
      ks.map fun l => (l, (y + ((ks.filter (· ≤ l)).map val).sum) % 2 ^ elBits t) := by
  induction ks generalizing m y with
  | nil => rfl
  | cons k ks ih =>
    obtain ⟨hk, hks⟩ := List.pairwise_cons.mp hks
    have hnone : ks.filter (· ≤ k) = [] := List.filter_eq_nil_iff.mpr fun l hl => by simpa using hk l hl
    rw [List.map_cons, scanGo]
    simp only [ih hks, combine_add h1 h0, List.map_cons, List.filter_cons, le_refl, decide_true, if_true, hnone, List.map_nil,
      List.sum_cons, List.sum_nil, add_zero]
    congr 1
    refine List.map_congr_left fun l hl => ?_
    rw [if_pos (by simpa using (hk l hl).le), List.map_cons, List.sum_cons, Nat.mod_add_mod, add_assoc]

theorem scanGo_sum (ks : List Nat) (hks : ks.Pairwise (· < ·)) :
    (scanGo (combine t 0 fzi fzo) (ks.map fun l => (l, val l)) none).1 =
      ks.map fun l => (l, ((ks.filter (· ≤ l)).map val).sum % 2 ^ elBits t) := by
  cases ks with
  | nil => rfl
  | cons k ks =>
    obtain ⟨hk, hks⟩ := List.pairwise_cons.mp hks
    have hnone : ks.filter (· ≤ k) = [] := List.filter_eq_nil_iff.mpr fun l hl => by simpa using hk l hl
    rw [List.map_cons, scanGo]
    simp only [scanGo_sum_from h1 h0 fzi fzo ks hks, List.map_cons, List.filter_cons, le_refl, decide_true, if_true, hnone,
      List.map_nil, List.sum_cons, List.sum_nil, add_zero, Nat.mod_eq_of_lt (hval k)]
    congr 1
    refine List.map_congr_left fun l hl => ?_
    rw [if_pos (by simpa using (hk l hl).le), List.map_cons, List.sum_cons]

end

theorem lanesOf_pairwise (m : Mask) : (lanesOf m).Pairwise (· < ·) := List.pairwise_lt_range.filter _

theorem elBits_eq_width {t : LTy} {f : Fmt} (h : tyFmt t = some f) : elBits t = f.width := by
  cases t <;> cases h <;> rfl

/-- A floating sum that is a nonzero number of the format is that number. -/
theorem combine_fadd {t : LTy} {f : Fmt} (hf : tyFmt t = some f) (h1 : elCount t = 1) (h8 : f ≠ .e8m0) {x y r : Nat} {a b : Rat}
    (hx : x < 2 ^ f.width) (hy : y < 2 ^ f.width) (hr : r < 2 ^ f.width) (ha : f.num x = some a) (hb : f.num y = some b)
    (hab : f.num r = some (a + b)) (h0 : a + b ≠ 0) : combine t 0 false false x y = (r, flNone) := by
  obtain ⟨hsum, hflags⟩ := fadd_gives .rne (show (f.decode x).num = some a from ha) (show (f.decode y).num = some b from hb)
  have henc := encode_num h8 hr hab h0 hsum .rne false
  simp only [combine, h1, hf, elBits_eq_width hf, elemsOf_one, Nat.mod_eq_of_lt hx, Nat.mod_eq_of_lt hy, List.zip_cons_cons,
    List.zip_nil_right, List.map_cons, List.map_nil, decodeFz_false, henc, hflags, joinElems_one, Nat.mod_eq_of_lt hr]
  simp [flNone]

end Sys2Proof.Machine

section
open Sys2Proof Sys2Proof.Machine

/-- Settles O26: each word is a tree or a running prefix of `combine`; what a combination keeps of its parts holds of the
root and all active lanes (`root_some`). -/
theorem laneReductionResults : Obligations.LaneReductionResults := by
  unfold Obligations.LaneReductionResults
  refine ⟨fun s u i w => ⟨fun d m x hd h hroot hc => ?red, fun k m x hk h hroot hc hne => ?redMb, fun l hl => redTree_single hl,
      fun d hd h hc => exec_laneScan_clear hd h hc⟩,
    fun u w act h0 h1 => ⟨fun m x hroot => ⟨root_mask hroot, fun hm => ?sum, fun hm => ?min⟩, fun hm => ?scan⟩,
    fun t f x y r a b hf h1 hmem hx hy hr ha hb hab hne => combine_fadd hf h1 ?_ hx hy hr ha hb hab hne⟩
  case red =>
    rw [exec_laneRed_clear h hroot hc, hd]
    rfl
  case redMb =>
    have hregs : selRegs w.dst (tyRegs w.ty) ++ selRegs w.a (tyRegs w.ty) = selRegs w.a (tyRegs w.ty) := by rw [hk]; rfl
    obtain ⟨l, t, hl⟩ := List.exists_cons_of_ne_nil hne
    rw [exec_laneRed_clear (hregs.symm ▸ h) hroot hc, hk]
    obtain ⟨r, y, hr, hy, -, hval, -⟩ := writeLane_mb (i := i) (u := u.raise _) h.2.1 w.m hl (redIv w.ty) 12 k (tyRegs w.ty) fun _ => x
    exact ⟨r, y, hr, hy, hval⟩
  case sum =>
    rw [hm] at hroot
    exact root_some (combines_sum h1 h0 u.fzi u.fzo (redVal_lt h1 rfl)) hroot
  case min =>
    rw [hm] at hroot
    exact root_some (combines_min h1 h0 u.fzi u.fzo (redVal_lt h1 rfl)) hroot
  case scan =>
    rw [hm]
    exact scanGo_sum h1 h0 u.fzi u.fzo (redVal_lt h1 rfl) _ (lanesOf_pairwise act)
  · rintro rfl
    simp at hmem

end

namespace Sys2Proof.Machine

/-! ## What the control words make of a path slot (R131 to R135) -/

/-- Path `o` of a unit that was `u` stands at `pc` with the mask and the stack given, the other slot is `other`, and no
register has changed. -/
structure PathAt (u v : Unit) (o : Bool) (pc : Nat) (em : Mask) (stack : List StackE) (live : Bool) (other : Slot) :
    Prop where
  lpc : (v.slot o).lpc = pc
  em : (v.slot o).em = em
  stack : (v.slot o).stack = stack
  live : (v.slot o).live = live
  other : v.slot (!o) = other
  vRegs : v.lS.v = u.lS.v
  qRegs : v.lS.q = u.lS.q
  sS : v.sS = u.sS

section
variable (u : Unit) (i m : Bool) (pc seq : Nat) (em : Mask) (stack : List StackE)

@[simp] theorem Unit.moved_id : (u.moved i m pc em stack).id = u.id := by simp [Unit.moved]
@[simp] theorem Unit.joined_id : (u.joined seq i pc em stack).id = u.id := by simp [Unit.joined]
@[simp] theorem Unit.reunited_id : (u.reunited seq i pc em stack).id = u.id := by simp [Unit.reunited]

theorem Unit.pathAt_moved : PathAt u (u.moved i m pc em stack) i pc em stack (u.slot i).live (u.slot (!i)) := by
  cases i
  · exact ⟨rfl, rfl, rfl, rfl, rfl, rfl, rfl, rfl⟩
  · exact ⟨rfl, rfl, rfl, rfl, rfl, rfl, rfl, rfl⟩

theorem Unit.pathAt_joined : PathAt u (u.joined seq i pc em stack) i pc em stack (u.slot i).live (u.slot (!i)) := by
  obtain ⟨hpc, hem, hst, hlive, ho, hv, hq, hs⟩ := u.pathAt_moved i true pc em stack
  unfold Unit.joined
  generalize u.moved i true pc em stack = v at hpc hem hst hlive ho hv hq hs
  generalize dropEm (u.slot i).fly = own
  cases i
  · exact ⟨hpc, hem, hst, hlive, ho, hv, hq, hs⟩
  · exact ⟨hpc, hem, hst, hlive, ho, hv, hq, hs⟩

theorem Unit.pathAt_reunited : PathAt u (u.reunited seq i pc em stack) i pc em stack (u.slot i).live Slot.idle := by
  obtain ⟨hpc, hem, hst, hlive, -, hv, hq, hs⟩ := u.pathAt_moved i true pc em stack
  unfold Unit.reunited
  generalize u.moved i true pc em stack = v at hpc hem hst hlive hv hq hs
  generalize dropEm (u.slot i).fly ++ dropEm (u.slot (!i)).fly = all
  cases i
  · exact ⟨hpc, hem, hst, hlive, rfl, hv, hq, hs⟩
  · exact ⟨hpc, hem, hst, hlive, rfl, hv, hq, hs⟩

end

/-- A unit whose lanes have divided: the paths share the lanes that were active, and the slot that goes on holds them all
in one entry. -/
structure Divided (u v : Unit) (i : Bool) (t : Mask) (pc : Nat) : Prop where
  lpc : (v.slot i).lpc = (u.slot i).lpc + 1
  em : (v.slot i).em = (u.slot i).em &&& ~~~t
  stack : (v.slot i).stack = { kind := .pair, mask := (u.slot i).em, idx := none } :: (u.slot i).stack
  target : (v.slot (!i)).lpc = pc
  taken : (v.slot (!i)).em = t
  live : (v.slot (!i)).live = true
  vRegs : v.lS.v = u.lS.v
  qRegs : v.lS.q = u.lS.q
  sS : v.sS = u.sS

theorem Unit.divided_diverged (s : State) (u : Unit) (i m : Bool) (t : Mask) (pc : Nat) :
    Divided u (u.diverged s i m t ((u.slot i).em &&& ~~~t) pc (u.slot i)) i t pc := by
  unfold Unit.diverged
  extract_lets e v wait a b
  obtain ⟨hpc, hem, hst, -, -, hv, hq, hs⟩ : PathAt u v i _ _ _ _ _ := u.pathAt_moved i m _ _ _
  clear_value v wait
  cases i
  · exact ⟨hpc, hem, hst, rfl, rfl, rfl, hv, hq, hs⟩
  · exact ⟨hpc, hem, hst, rfl, rfl, rfl, hv, hq, hs⟩

theorem Unit.diverged_id (s : State) (u : Unit) (i m : Bool) (t n : Mask) (pc : Nat) (x : Slot) :
    (u.diverged s i m t n pc x).id = u.id := by simp [Unit.diverged]

/-- The active lanes are lanes of the slot's exec mask. -/
theorem em_and_laneAct (s : State) (u : Unit) (i : Bool) (g : Guard) : (u.slot i).em &&& laneAct s u i g = laneAct s u i g := by
  rw [laneAct, ← BitVec.and_assoc, BitVec.and_self]

/-- Lanes of the mask fail the condition of a branch unless all of them meet it. -/
theorem em_and_not_laneAct {s : State} {u : Unit} {i : Bool} {g : Guard} :
    (u.slot i).em &&& ~~~(laneAct s u i g) = 0 ↔ laneAct s u i g = (u.slot i).em := by
  rw [and_not_eq_zero, em_and_laneAct]

/-! ### The port of a control word -/

/-- A lane target lies in the lane image (R132, R134). -/
def inLane (s : State) (u : Unit) (t : Int) : Prop := 0 ≤ t ∧ t < (lLen s u : Int)

theorem not_inLane {s : State} {u : Unit} {t : Int} : ¬ inLane s u t ↔ t < 0 ∨ (lLen s u : Int) ≤ t := by
  unfold inLane
  omega

theorem portAfter_next {t : State} (h : t.sch.parked = false) (core iv : Nat) :
    portAfter (.next t) core iv = .next (holdPort t core iv) := by
  simp [portAfter, h]

theorem portAfter_parkAt (s : State) (u : Unit) (st : Strm) (why : Why) (core iv : Nat) :
    portAfter (parkAt s u st why) core iv = parkAt s u st why := rfl

section
variable {s : State} {u : Unit} {i : Bool} {w : LC} (h : LReady s u i [])
include h

theorem laneCtl_ready (k : Unit → Bool → Mask → Res) :
    laneCtl s w.g k = portAfter (k u i (laneAct s u i w.g)) u.id.core 1 := by
  rw [laneCtl, laneWord_ready h]

/-- A control word that has put its unit back holds the port for one mclk. -/
theorem LReady.goes (v : Unit) : portAfter (.next (s.setUnit v)) u.id.core 1 = .next (holdPort (s.setUnit v) u.id.core 1) :=
  portAfter_next (t := s.setUnit v) h.2.2.1 _ _

theorem LReady.goesFree (v : Unit) : portAfter (.next ((spendFree s u).setUnit v)) u.id.core 1 =
    .next (holdPort ((spendFree s u).setUnit v) u.id.core 1) :=
  portAfter_next (by rw [setUnit_sch, spendFree_sch]; exact h.2.2.1) _ _

/-! ### `ljmp`, `lbrk` and `lend` -/

theorem exec_ljmp_ready : exec (.ljmp w) s = portAfter
    (if ((u.slot i).lpc : Int) + w.off.toInt < 0 ∨ (lLen s u : Int) ≤ ((u.slot i).lpc : Int) + w.off.toInt then
      takeTrap s u (slotStrm i) 0x26 (wrapInt 64 (((u.slot i).lpc : Int) + w.off.toInt)) 0 0 false
    else .next (s.setUnit (u.lDone i w.m [] (((u.slot i).lpc : Int) + w.off.toInt).toNat))) u.id.core 1 := by
  rw [exec_ljmp, execLjmp, laneCtl_ready h]

theorem exec_ljmp_in (ht : inLane s u (((u.slot i).lpc : Int) + w.off.toInt)) : exec (.ljmp w) s =
    .next (holdPort (s.setUnit (u.lDone i w.m [] (((u.slot i).lpc : Int) + w.off.toInt).toNat)) u.id.core 1) := by
  rw [exec_ljmp_ready h, if_neg (fun e => not_inLane.mpr e ht), h.goes]

theorem exec_ljmp_out (ht : ¬ inLane s u (((u.slot i).lpc : Int) + w.off.toInt)) : exec (.ljmp w) s = portAfter
    (takeTrap s u (slotStrm i) 0x26 (wrapInt 64 (((u.slot i).lpc : Int) + w.off.toInt)) 0 0 false) u.id.core 1 := by
  rw [exec_ljmp_ready h, if_pos (not_inLane.mp ht)]

theorem exec_lbrk_undebugged (hd : debugged s u = false) : exec (.lbrk w) s =
    .next (holdPort ((spendFree s u).setUnit (u.lDone i w.m [] ((u.slot i).lpc + 1))) u.id.core 1) := by
  rw [exec_lbrk, execLbrk, laneCtl_ready h, hd]
  dsimp only
  rw [if_neg (fun e => Bool.false_ne_true e.2), h.goesFree]

theorem exec_lend_settled (hu : u.dual = false) (hs : (u.slot i).stack = []) (hf : (u.slot i).fly = [])
    (hp : u.pend.any (fun p => p.unbound && decide (p.strm ≠ .s)) = false) :
    exec (.lend w) s = .next (holdPort (s.setUnit u.endRun) u.id.core 1) := by
  rw [exec_lend, execLend, laneCtl_ready h]
  simp only [hu, hs, hf, hp, List.isEmpty_nil, Bool.not_true, Bool.false_eq_true, or_self, if_false, h.goes]

theorem exec_lend_unjoined (hu : u.dual = true ∨ (u.slot i).stack ≠ []) : exec (.lend w) s =
    portAfter (takeTrap s u (slotStrm i) 0x29 (u.slot i).lpc 0 0 false) u.id.core 1 := by
  have hcond : u.dual = true ∨ (!(u.slot i).stack.isEmpty) = true := by simpa using hu
  rw [exec_lend, execLend, laneCtl_ready h, if_pos hcond]

/-! ### `lbr` -/

theorem exec_lbr_none (ht : laneAct s u i w.g = 0) : exec (.lbr w) s =
    .next (holdPort ((spendFree s u).setUnit (u.lDone i w.m [] ((u.slot i).lpc + 1))) u.id.core 1) := by
  rw [exec_lbr, execLbr, laneCtl_ready h, if_pos ht, h.goesFree]

variable (ht : laneAct s u i w.g ≠ 0)
include ht

theorem exec_lbr_out (hout : ¬ inLane s u (((u.slot i).lpc : Int) + w.off.toInt)) : exec (.lbr w) s = portAfter
    (takeTrap s u (slotStrm i) 0x26 (wrapInt 64 (((u.slot i).lpc : Int) + w.off.toInt)) 0 0 false) u.id.core 1 := by
  rw [exec_lbr, execLbr, laneCtl_ready h, if_neg ht, if_pos (not_inLane.mp hout)]

variable (hin : inLane s u (((u.slot i).lpc : Int) + w.off.toInt))
include hin

theorem exec_lbr_all (hall : laneAct s u i w.g = (u.slot i).em) : exec (.lbr w) s = .next (holdPort
    ((spendFree s u).setUnit (u.lDone i w.m [] (((u.slot i).lpc : Int) + w.off.toInt).toNat)) u.id.core 1) := by
  rw [exec_lbr, execLbr, laneCtl_ready h, if_neg ht, if_neg (fun e => not_inLane.mpr e hin), if_pos (em_and_not_laneAct.mpr hall),
    h.goesFree]

variable (hsome : laneAct s u i w.g ≠ (u.slot i).em)
include hsome

/-- A branch that divides the lanes of its slot. -/
theorem exec_lbr_some : exec (.lbr w) s = portAfter
    (if (u.slot (!i)).live then
      if 14 < (u.slot i).stack.length then takeTrap s u (slotStrm i) 0x27 (u.slot i).lpc (u.slot i).stack.length 0 false
      else .next ((spendFree s u).setUnit (u.moved i w.m ((u.slot i).lpc + 1) ((u.slot i).em &&& ~~~(laneAct s u i w.g))
        (⟨.pending, laneAct s u i w.g, some (((u.slot i).lpc : Int) + w.off.toInt).toNat⟩ :: ⟨.join, (u.slot i).em, none⟩ ::
          (u.slot i).stack)))
    else if 16 ≤ (u.slot i).stack.length then takeTrap s u (slotStrm i) 0x27 (u.slot i).lpc (u.slot i).stack.length 0 false
    else .next ((spendFree s u).setUnit (u.diverged s i w.m (laneAct s u i w.g) ((u.slot i).em &&& ~~~(laneAct s u i w.g))
      (((u.slot i).lpc : Int) + w.off.toInt).toNat (u.slot i)))) u.id.core 1 := by
  rw [exec_lbr, execLbr, laneCtl_ready h, if_neg ht, if_neg (fun e => not_inLane.mpr e hin),
    if_neg (fun e => hsome (em_and_not_laneAct.mp e))]

end

/-! ### `ljoin` -/

theorem Slot.live_of_atJoin {x : Slot} (hx : x.atJoin = true) : x.live = true := (Bool.and_eq_true_iff.mp hx).1

@[simp] theorem Slot.reached_lpc (x : Slot) : x.reached.lpc = x.lpc := by unfold Slot.reached; split <;> [split <;> rfl; rfl]
@[simp] theorem Slot.reached_em (x : Slot) : x.reached.em = x.em := by unfold Slot.reached; split <;> [split <;> rfl; rfl]
@[simp] theorem Slot.reached_live (x : Slot) : x.reached.live = x.live := by unfold Slot.reached; split <;> [split <;> rfl; rfl]

theorem Unit.slot_setPark (u : Unit) (i j : Bool) (p : Option Park) :
    (u.setPark (slotStrm i) p).slot j = if j = i then { u.slot j with park := p } else u.slot j := by
  cases i <;> cases j <;> rfl

section
variable {s : State} {u : Unit} {i o : Bool}

/-- A path that comes first to the `ljoin` of a pair parks there. -/
theorem joinPair_first (hy : (u.slot (!i)).atJoin = false) (o : Bool) : joinPair s u i o =
    parkAt s ((u.setSlot i (u.slot i).reached).dirt (slotLine i)) (slotStrm i) .join := by
  rw [joinPair, hy]
  rfl

variable (hy : (u.slot (!i)).atJoin = true)
include hy

theorem joinPair_apart (hne : (u.slot i).lpc ≠ (u.slot (!i)).lpc) (o : Bool) : joinPair s u i o =
    takeTrap s u (slotStrm i) 0x28 (u.slot i).lpc (u.slot (!i)).lpc 0 false := by
  rw [joinPair, hy]
  exact if_pos hne

/-- The path that comes second leaves the owner with the mask of its pair entry. -/
theorem joinPair_second (heq : (u.slot i).lpc = (u.slot (!i)).lpc) (h0 : pathHeld s u .l0 = false) (h1 : pathHeld s u .l1 = false)
    {e : StackE} {r : List StackE} (hs : (u.slot o).stack = e :: r) :
    joinPair s u i o = .next (s.setUnit (u.reunited s.fl.seq o ((u.slot i).lpc + 1) e.mask r)) := by
  rw [joinPair, hy, h0, h1, hs]
  exact if_neg (not_not.mpr heq)

end

section
variable {s : State} {u : Unit} {i : Bool} {w : LC} (h : LReady s u i [])
include h

theorem exec_ljoin_base (hs : (u.slot i).stack = []) (hy : (u.slot (!i)).live = false) : exec (.ljoin w) s =
    .next (holdPort (s.setUnit (u.lDone i w.m [] ((u.slot i).lpc + 1))) u.id.core 1) := by
  simp only [exec_ljoin, execLjoin, laneCtl_ready h, hs, hy, Bool.false_eq_true, if_false, h.goes]

theorem exec_ljoin_opened (hs : (u.slot i).stack = []) (hy : (u.slot (!i)).live = true) :
    exec (.ljoin w) s = portAfter (joinPair s u i (!i)) u.id.core 1 := by
  simp only [exec_ljoin, execLjoin, laneCtl_ready h, hs, hy, if_true]

variable {e : StackE} {r : List StackE} (hs : (u.slot i).stack = e :: r)
include hs

theorem exec_ljoin_pair (hk : e.kind = .pair) : exec (.ljoin w) s = portAfter (joinPair s u i i) u.id.core 1 := by
  simp only [exec_ljoin, execLjoin, laneCtl_ready h, hs, hk]

theorem exec_ljoin_pending {j : StackE} {r' : List StackE} (hr : r = j :: r') (hk : e.kind = .pending)
    (hq : pathHeld s u (slotStrm i) = false) : exec (.ljoin w) s = .next (holdPort (s.setUnit
      (u.joined s.fl.seq i (e.idx.getD 0) e.mask ({ j with idx := some (u.slot i).lpc } :: r'))) u.id.core 1) := by
  simp only [exec_ljoin, execLjoin, laneCtl_ready h, hs, hr, hk, hq, Bool.false_eq_true, if_false, h.goes]

theorem exec_ljoin_join (hk : e.kind = .join) (hi : e.idx = some (u.slot i).lpc) (hq : pathHeld s u (slotStrm i) = false) :
    exec (.ljoin w) s = .next (holdPort (s.setUnit (u.joined s.fl.seq i ((u.slot i).lpc + 1) e.mask r)) u.id.core 1) := by
  simp only [exec_ljoin, execLjoin, laneCtl_ready h, hs, hk, hi, hq, ne_eq, not_true_eq_false, Bool.false_eq_true, if_false,
    h.goes]

theorem exec_ljoin_apart (hk : e.kind = .join) (hi : e.idx ≠ some (u.slot i).lpc) : exec (.ljoin w) s =
    portAfter (takeTrap s u (slotStrm i) 0x28 (u.slot i).lpc (e.idx.getD 0) 0 false) u.id.core 1 := by
  simp only [exec_ljoin, execLjoin, laneCtl_ready h, hs, hk, if_pos hi]

end
end Sys2Proof.Machine

namespace Sys2Proof.Machine

/-! ### Where a control word leaves the lanes -/

/-- Word `j` of unit `u` issues, and leaves path `o` at `pc` with a mask and a stack, the other slot as `other`, and the
registers and the memory as they were. -/
def LeavesPath (s : State) (u : Unit) (j : Instr) (o : Bool) (pc : Nat) (em : Mask) (st : List StackE) (live : Bool)
    (other : Slot) : Prop :=
  ∃ r v, exec j s = .next r ∧ r.unit? s.cur = some v ∧ r.mem = s.mem ∧ (v.slot o).lpc = pc ∧ (v.slot o).em = em ∧
    (v.slot o).stack = st ∧ (v.slot o).live = live ∧ v.slot (!o) = other ∧
    v.lS.v = u.lS.v ∧ v.lS.q = u.lS.q ∧ v.sS = u.sS

section
variable {s t : State} {u v : Unit} {i o : Bool} {w : LC} {j : Instr} (h : LReady s u i [])

theorem PathAt.leaves {pc : Nat} {em : Mask} {st : List StackE} {live : Bool} {other : Slot}
    (hv : PathAt u v o pc em st live other) (hx : exec j s = .next t) (hu : t.unit? s.cur = some v) (hm : t.mem = s.mem) : LeavesPath s u j o pc em st live other :=
  ⟨t, v, hx, hu, hm, hv.lpc, hv.em, hv.stack, hv.live, hv.other, hv.vRegs, hv.qRegs, hv.sS⟩

include h

theorem LReady.putBack (hv : v.id = u.id) (t : State) : (holdPort (t.setUnit v) u.id.core 1).unit? s.cur = some v :=
  (unit?_holdPort _ _ _ _).trans (unit?_setUnit_id t (hv.trans h.2.1))

/-! A branch that divides the lanes of its slot (R132). -/

section
variable (ht : laneAct s u i w.g ≠ 0) (hsome : laneAct s u i w.g ≠ (u.slot i).em)
  (hin : inLane s u (((u.slot i).lpc : Int) + w.off.toInt))
include ht hsome hin

theorem lbr_leaves_two_entries (hy : (u.slot (!i)).live = true) (hroom : (u.slot i).stack.length ≤ 14) :
    LeavesPath s u (.lbr w) i ((u.slot i).lpc + 1) ((u.slot i).em &&& ~~~(laneAct s u i w.g))
      (⟨.pending, laneAct s u i w.g, some (((u.slot i).lpc : Int) + w.off.toInt).toNat⟩ ::
        ⟨.join, (u.slot i).em, none⟩ :: (u.slot i).stack)
      (u.slot i).live (u.slot (!i)) := by
  refine (u.pathAt_moved i w.m _ _ _).leaves ?_ (h.putBack (u.moved_id ..) (spendFree s u)) (spendFree_mem s u)
  rw [exec_lbr_some h ht hin hsome, if_pos hy, if_neg (by omega), h.goesFree]

theorem exec_lbr_overflow (hfull : (u.slot (!i)).live = true ∧ 14 < (u.slot i).stack.length ∨
      (u.slot (!i)).live = false ∧ 16 ≤ (u.slot i).stack.length) : exec (.lbr w) s =
    portAfter (takeTrap s u (slotStrm i) 0x27 (u.slot i).lpc (u.slot i).stack.length 0 false) u.id.core 1 := by
  rw [exec_lbr_some h ht hin hsome]
  obtain ⟨hy, hlen⟩ | ⟨hy, hlen⟩ := hfull
  · rw [if_pos hy, if_pos hlen]
  · rw [if_neg (Bool.not_eq_true _ ▸ hy), if_pos hlen]

theorem exec_lbr_divided (hy : (u.slot (!i)).live = false) (hroom : (u.slot i).stack.length < 16) :
    ∃ r v, exec (.lbr w) s = .next r ∧ r.unit? s.cur = some v ∧ r.mem = s.mem ∧
      Divided u v i (laneAct s u i w.g) (((u.slot i).lpc : Int) + w.off.toInt).toNat := by
  refine ⟨_, _, ?_, h.putBack (u.diverged_id s i w.m _ _ _ _) (spendFree s u), spendFree_mem s u,
    u.divided_diverged s i w.m _ _⟩
  rw [exec_lbr_some h ht hin hsome, if_neg (Bool.not_eq_true _ ▸ hy), if_neg (by omega), h.goesFree]

end

/-! An `ljoin` that pops an entry of its path (R133). -/

theorem ljoin_leaves_pending {e j : StackE} {r : List StackE} (hs : (u.slot i).stack = e :: j :: r) (hk : e.kind = .pending)
    (hq : pathHeld s u (slotStrm i) = false) : LeavesPath s u (.ljoin w) i (e.idx.getD 0) e.mask
      ({ j with idx := some (u.slot i).lpc } :: r) (u.slot i).live (u.slot (!i)) :=
  (u.pathAt_joined i _ _ _ _).leaves (exec_ljoin_pending h hs rfl hk hq) (h.putBack (u.joined_id ..) s) rfl

theorem ljoin_leaves_join {e : StackE} {r : List StackE} (hs : (u.slot i).stack = e :: r) (hk : e.kind = .join)
    (hi : e.idx = some (u.slot i).lpc) (hq : pathHeld s u (slotStrm i) = false) :
    LeavesPath s u (.ljoin w) i ((u.slot i).lpc + 1) e.mask r (u.slot i).live (u.slot (!i)) :=
  (u.pathAt_joined i _ _ _ _).leaves (exec_ljoin_join h hs hk hi hq) (h.putBack (u.joined_id ..) s) rfl

/-- The first path of a pair keeps its place and its lanes, and waits. -/
theorem ljoin_parks {e : StackE} {r : List StackE} (hs : (u.slot i).stack = e :: r) (hk : e.kind = .pair)
    (hy : (u.slot (!i)).atJoin = false) :
    ∃ z v, exec (.ljoin w) s = .next z ∧ z.unit? s.cur = some v ∧ (v.slot i).atJoin = (u.slot i).live ∧
      (v.slot i).lpc = (u.slot i).lpc ∧ (v.slot i).em = (u.slot i).em ∧ v.slot (!i) = u.slot (!i) ∧ z.mem = s.mem := by
  have hid : ((u.setSlot i (u.slot i).reached).dirt (slotLine i)).id = s.cur := by
    rw [Unit.dirt_id, Unit.setSlot_id, h.2.1]
  obtain ⟨z, p, hz, hzu, hp, hmem, -, -⟩ :=
    parkAt_next s ((u.setSlot i (u.slot i).reached).dirt (slotLine i)) (slotStrm i) .join
  rw [hid] at hzu
  have hx : exec (.ljoin w) s = .next z := by
    rw [exec_ljoin_pair h hs hk, joinPair_first hy, portAfter_parkAt, hz]
  have hown : ((u.setSlot i (u.slot i).reached).dirt (slotLine i)).slot i = (u.slot i).reached :=
    (Unit.slot_setSlot u i i _).trans (if_pos rfl)
  have hother : ((u.setSlot i (u.slot i).reached).dirt (slotLine i)).slot (!i) = u.slot (!i) :=
    (Unit.slot_setSlot u i (!i) _).trans (if_neg (Bool.not_ne_self i))
  refine ⟨z, _, hx, hzu, ?_, ?_, ?_, ?_, hmem⟩
  · rw [Unit.slot_setPark, if_pos rfl, hown]
    simp [Slot.atJoin, hp]
  · rw [Unit.slot_setPark, if_pos rfl, hown]
    exact Slot.reached_lpc _
  · rw [Unit.slot_setPark, if_pos rfl, hown]
    exact Slot.reached_em _
  · rw [Unit.slot_setPark, if_neg (Bool.not_ne_self i), hother]

/-! The path of a pair that comes second (R133). -/

section
variable (hy : (u.slot (!i)).atJoin = true)
include hy

/-- An `ljoin` that pairs with the other slot leaves the owner of the pair alone, with all lanes. -/
theorem ljoin_leaves_owner {e : StackE} {r : List StackE} (hx : exec (.ljoin w) s = portAfter (joinPair s u i o) u.id.core 1)
    (heq : (u.slot i).lpc = (u.slot (!i)).lpc) (h0 : pathHeld s u .l0 = false) (h1 : pathHeld s u .l1 = false)
    (hs : (u.slot o).stack = e :: r) :
    LeavesPath s u (.ljoin w) o ((u.slot i).lpc + 1) e.mask r (u.slot o).live Slot.idle := by
  refine (u.pathAt_reunited o _ s.fl.seq _ _).leaves ?_ (h.putBack (u.reunited_id ..) s) rfl
  rw [hx, joinPair_second hy heq h0 h1 hs, h.goes]

theorem exec_ljoin_opposed (hpair : (u.slot i).stack = [] ∧ (u.slot (!i)).live = true ∨
      ∃ e r, (u.slot i).stack = e :: r ∧ e.kind = .pair) (hne : (u.slot i).lpc ≠ (u.slot (!i)).lpc) : exec (.ljoin w) s =
    portAfter (takeTrap s u (slotStrm i) 0x28 (u.slot i).lpc (u.slot (!i)).lpc 0 false) u.id.core 1 := by
  obtain ⟨hs, hlive⟩ | ⟨e, r, hs, hk⟩ := hpair
  · rw [exec_ljoin_opened h hs hlive, joinPair_apart hy hne]
  · rw [exec_ljoin_pair h hs hk, joinPair_apart hy hne]

end
end

/-! ### The end of a run (R12, R13, R135) -/

section
variable (u : Unit)

/-- The unit after its run `r` ended, with no next one started. -/
def Unit.runEnded (r : QRun) : Unit :=
  { u with
    mbCnt := bumpCounts u.mbCnt r.mask (fun n => n - 1), waitL := 0, dirty := [8, 9, 10, 11].foldl setAdd u.dirty,
    lS := { u.lS with running := none, slot0 := Slot.idle, slot1 := Slot.idle, turn := false },
    assay := { u.assay with passed := u.assay.passed.filter (fun e => decide (e.1 = .s)) } }

theorem Unit.endRun_eq {r : QRun} (hr : u.lS.running = some r) : u.endRun = (u.runEnded r).startRun := by
  rw [Unit.endRun, hr]
  rfl

theorem Unit.startRun_of_empty (hq : u.lS.queue = []) : u.startRun = u := by
  rw [Unit.startRun, hq]
  split
  · contradiction
  · rfl

/-- Starting a run leaves the registers, the mailboxes' values and the S-stream as they are. -/
theorem Unit.startRun_keeps : u.startRun.lS.v = u.lS.v ∧ u.startRun.lS.q = u.lS.q ∧ u.startRun.mbVal = u.mbVal ∧
    u.startRun.sS = u.sS := by
  unfold Unit.startRun
  split
  · exact ⟨rfl, rfl, rfl, rfl⟩
  · exact ⟨rfl, rfl, rfl, rfl⟩

theorem Unit.startRun_next {r : QRun} {l : List QRun} (hr : u.lS.running = none) (hq : u.lS.queue = r :: l) :
    u.startRun.lS.running = some r ∧ u.startRun.lS.slot1 = Slot.idle ∧
      u.startRun.lS.slot0 = { Slot.idle with live := true, lpc := r.entry, em := 0xFFFFFFFF } := by
  rw [Unit.startRun, hr, hq]
  exact ⟨rfl, rfl, rfl⟩

end

end Sys2Proof.Machine

section
open Sys2Proof Sys2Proof.Machine

/-- Settles O27: each control word is reduced to its own branch of the issue, and the path slot that it leaves is read
off. -/
theorem laneControlWords : Obligations.LaneControlWords := by
  unfold Obligations.LaneControlWords
  refine ⟨?issue, ?endRun, ?paths, ?divides, ?traps⟩
  case issue =>
    intro s u i w h x t pc inL go
    exact ⟨fun hin => exec_ljmp_in h hin, fun ht => exec_lbr_none h ht, fun ht hall hin => exec_lbr_all h ht hin hall,
      fun hs hy => exec_ljoin_base h hs hy, fun hd => exec_lbrk_undebugged h hd,
      fun hu hs hf hp => exec_lend_settled h hu hs hf hp⟩
  case endRun =>
    intro u r hr v
    have hv : v = (u.runEnded r).startRun := u.endRun_eq hr
    clear_value v
    subst hv
    obtain ⟨hregs, hmasks, hvals, hs⟩ := (u.runEnded r).startRun_keeps
    refine ⟨fun n hn => ?_, (u.runEnded r).startRun_runs, fun hq => ?_, fun q l hq => (u.runEnded r).startRun_next rfl hq,
      hregs, hmasks, hvals, hs⟩
    · rw [Unit.startRun_mbCnt]
      refine (get_bumpCounts u.mbCnt r.mask (fun k => k - 1) hn).trans ?_
      split <;> rfl
    · rw [(u.runEnded r).startRun_of_empty hq]
      exact ⟨(u.runEnded r).laneIdle_iff.mpr ⟨hq, rfl⟩, rfl, rfl⟩
  case paths =>
    intro s u i w h x y t pc quiet ends
    refine ⟨fun ht hsome h0 hlen hy hroom => lbr_leaves_two_entries h ht hsome ⟨h0, hlen⟩ hy hroom,
      fun e j r hs hk hq => ljoin_leaves_pending h hs hk hq, fun e r hs hk hi hq => ljoin_leaves_join h hs hk hi hq,
      fun e r hs hk hy => ljoin_parks h hs hk hy, fun e r hy heq h0 h1 => ⟨fun hs hk => ?_, fun hs hx hos => ?_⟩⟩
    · exact ljoin_leaves_owner h hy (exec_ljoin_pair h hs hk) heq h0 h1 hs
    · have hlive : (u.slot (!i)).live = true := Slot.live_of_atJoin hy
      have hends := ljoin_leaves_owner h hy (exec_ljoin_opened (w := w) h hs hlive) heq h0 h1 hos
      rw [hlive.trans hx.symm] at hends
      exact hends
  case divides =>
    intro s u i w h x t pc ht hsome h0 hlen hy hroom
    obtain ⟨r, v, hx, hu, hm, hd⟩ := exec_lbr_divided h ht hsome ⟨h0, hlen⟩ hy hroom
    refine ⟨r, v, hx, hu, hm, hd.lpc, hd.target, hd.taken, hd.live, ?_, ?_, hd.stack, hd.vRegs, hd.qRegs, hd.sS⟩
    · have hall := and_not_or_and x.em t
      rw [em_and_laneAct] at hall
      rw [hd.em, hd.taken]
      exact hall
    · rw [hd.em, hd.taken]
      exact and_not_and x.em t
  case traps =>
    intro s u i w h x y t pc inL traps
    exact ⟨fun hout => exec_ljmp_out h hout, fun ht hout => exec_lbr_out h ht hout,
      fun ht hsome hin hfull => exec_lbr_overflow h ht hsome hin hfull, fun e r hs hk hi => exec_ljoin_apart h hs hk hi,
      fun hpair hy hne => exec_ljoin_opposed h hy hpair hne, fun hu => exec_lend_unjoined h hu⟩

end

namespace Sys2Proof.Machine

/-! ## The gates of memory and synchronisation words as a simplex unit passes them (R156, R213, R290) -/

section
variable {s : State} {u : Unit}

section
variable (h : u.who.rset = 0)
include h

theorem compareGate_simplex (st : Strm) (kind : Nat) (bytes : List Byte) (k : Res) : compareGate s u st kind bytes k = k := by
  rw [compareGate, if_pos h]

theorem cmdGate_simplex (st : Strm) (kind : Nat) (ops : List Nat) (k : Res) : cmdGate s u st kind ops k = k :=
  compareGate_simplex h st kind _ k

theorem roomGate_simplex (st : Strm) (n : Nat) (k : Res) : roomGate s u st n k = k := by
  simp [roomGate, h]

theorem Unit.takes_simplex (st : Strm) : u.takes s st = false := by
  simp [Unit.takes, h]

theorem Unit.performs_simplex : u.performs = true := by
  simp [Unit.performs, h]

end

/-- Where the touchstone is off a word records nothing and meets no race. -/
theorem tsGate_plain (h : plain s u) (st : Strm) (kind : Nat) (rel : Bool) (sc : Scope) (accs : List (Nat × Nat))
    (k : (State → State) → Res) : tsGate s u st kind rel sc accs k = k (fun t => t) := by
  obtain ⟨-, hoff⟩ := h
  unfold tsGate
  cases hc : SMap.look s.ctxs u.who.ctx with
  | none => rfl
  | some c =>
    rw [hc] at hoff
    have hts : c.tsOn = false := hoff
    simp [hts]

/-- A release changes of its unit only what the touchstone keeps. -/
theorem afterRel_eq (u : Unit) (o : Order) (sc : Scope) :
    ∃ n c, afterRel u o sc = { u with tsInterval := n, tsScope := c } := by
  unfold afterRel
  split
  · exact ⟨_, _, rfl⟩
  · exact ⟨u.tsInterval, u.tsScope, rfl⟩

/-- A word whose release, if it is one, has nothing to wait for goes on; `g` stands for the compare point of a replica, which it passes. -/
theorem release_passes {st : Strm} {o : Order} {sc : Scope} (h : relOk s u st o sc) {g : Res → Res} (hg : ∀ k, g k = k)
    (go : Unit → Res) :
    (if relOrd o then g (releaseGate s u st sc (go (u.released sc))) else go u) = go (afterRel u o sc) := by
  unfold afterRel
  by_cases ho : relOrd o = true
  · rw [if_pos ho, if_pos ho, hg, releaseGate_clear (h ho)]
  · rw [if_neg ho, if_neg ho]

end

/-! ## The unit after a word of any stream -/

theorem sameArch.trans {u v w : Unit} (h : sameArch u v) (h' : sameArch v w) : sameArch u w := by
  obtain ⟨rs, rp, kst, vs, qs, mb, trap, fp, who⟩ := h
  obtain ⟨rs', rp', kst', vs', qs', mb', trap', fp', who'⟩ := h'
  exact ⟨fun r => (rs' r).trans (rs r), fun p => (rp' p).trans (rp p), kst'.trans kst, vs'.trans vs, qs'.trans qs, mb'.trans mb,
    trap'.trans trap, fp'.trans fp, who'.trans who⟩

theorem sameArch_afterRel (u : Unit) (o : Order) (sc : Scope) : sameArch u (afterRel u o sc) := by
  obtain ⟨n, c, h⟩ := afterRel_eq u o sc
  rw [h]
  exact ⟨fun _ => rfl, fun _ => rfl, rfl, rfl, rfl, rfl, rfl, rfl, rfl⟩

/-- What a word leaves of its unit's registers, whatever it has added of results, monitors and kept code. -/
theorem sameArch_done (u : Unit) (pend : List Pend) (mon : Option Monitor) (code : List OldWord) (st : Strm) (m : Bool) (l : List Fly) :
    sameArch u (({ u with pend := pend, mon := mon, code := code } : Unit).done st m l) := by
  cases st <;> exact ⟨fun _ => rfl, fun _ => rfl, rfl, rfl, rfl, rfl, rfl, rfl, rfl⟩

@[simp] theorem Unit.done_id (u : Unit) (st : Strm) (m : Bool) (l : List Fly) : (u.done st m l).id = u.id := by
  cases st <;> rfl

theorem Unit.done_s (u : Unit) (m : Bool) (l : List Fly) : u.done .s m l = u.sDone m l (u.sS.spc + 1) := rfl

theorem Unit.fly_done (u : Unit) (i m : Bool) (l : List Fly) : ((u.done (slotStrm i) m l).slot i).fly = (u.slot i).fly ++ l := by
  cases i <;> rfl

theorem slotStrm_ne_s (i : Bool) : slotStrm i ≠ .s := by cases i <;> decide

end Sys2Proof.Machine

namespace Sys2Proof.Machine

/-! ## Bytes written at home (R211, R254) -/

/-! ### What a write reaches -/

/-- What reads neither units, teams nor global SRAM is as before bytes were put at home. -/
theorem putHome_keeps {γ : Type} (g : State → γ)
    (hg : ∀ (t : State) us ts b, g { t with units := us, teams := ts, mem := { t.mem with sram := b } } = g t)
    (s : State) (l : List (Nat × Byte)) : g (putHome s l) = g s := by
  unfold putHome
  extract_lets s0 _ s1
  have h1 : g s1 = g s := hg s s0.units s0.teams _
  refine (foldl_keeps g _ (fun t sec => ?_) _ s1).trans h1
  exact hg t _ _ t.mem.sram

theorem setQueue_keeps {γ : Type} (g : State → γ)
    (hg : ∀ (t : State) us ts qs b, g { t with units := us, teams := ts, queues := qs, mem := { t.mem with sram := b } } = g t)
    (s : State) (k : Nat) (q : HwQueue) : g (setQueue s k q) = g s := by
  have hq : g { s with queues := SMap.put s.queues k q } = g s := hg s s.units s.teams _ s.mem.sram
  have hb : g (syncBell { s with queues := SMap.put s.queues k q } q) = g s := by
    unfold syncBell
    split
    · exact hq
    · exact (putHome_keeps g (fun t us ts => hg t us ts t.queues) _ _).trans hq
  unfold setQueue
  split
  · split <;> assumption
  · exact hb

/-- What reads neither units, teams, queues nor global SRAM is as before bytes were written at home. -/
theorem writeHome_keeps {γ : Type} (g : State → γ)
    (hg : ∀ (t : State) us ts qs b, g { t with units := us, teams := ts, queues := qs, mem := { t.mem with sram := b } } = g t)
    (s : State) (l : List (Nat × Byte)) : g (writeHome s l) = g s := by
  unfold writeHome ringBells
  rw [foldl_keeps g _ (fun t e => ?_) _ _, putHome_keeps g (fun t us ts => hg t us ts t.queues)]
  dsimp only
  split
  · exact setQueue_keeps g hg t _ _
  · rfl

@[simp] theorem writeHome_sch (s : State) (l : List (Nat × Byte)) : (writeHome s l).sch = s.sch :=
  writeHome_keeps State.sch (fun _ _ _ _ _ => rfl) s l

@[simp] theorem writeHome_badHome (s : State) (l : List (Nat × Byte)) : (writeHome s l).mem.badHome = s.mem.badHome :=
  writeHome_keeps (fun t : State => t.mem.badHome) (fun _ _ _ _ _ => rfl) s l

@[simp] theorem putHome_queues (s : State) (l : List (Nat × Byte)) : (putHome s l).queues = s.queues :=
  putHome_keeps State.queues (fun _ _ _ _ => rfl) s l

/-! ### What a home byte reads after a write -/

theorem homeByte_congr {s t : State} (h : t.mem.sram = s.mem.sram) (a : Nat) : homeByte t a = homeByte s a := by
  rw [homeByte, homeByte, h]

theorem putHome_sram (s : State) (l : List (Nat × Byte)) : (putHome s l).mem.sram = writeAll s.mem.sram l := by
  unfold putHome
  extract_lets s0 _ s1
  refine foldl_keeps (fun t : State => t.mem.sram) _ (fun t sec => ?_) _ s1
  rfl

theorem homeByte_putHome (s : State) {l : List (Nat × Byte)} (h : (l.map (fun e => e.1)).Nodup) (a : Nat) :
    homeByte (putHome s l) a = (SMap.look l a).getD (homeByte s a) := by
  rw [homeByte, putHome_sram, get_writeAll _ l h]
  rfl

theorem mem_bytesAt {a : Nat} {l : List Byte} {e : Nat × Byte} (h : e ∈ bytesAt a l) : a ≤ e.1 ∧ e.1 < a + l.length := by
  induction l generalizing a with
  | nil => cases h
  | cons b t ih =>
    rw [List.length_cons]
    rcases List.mem_cons.mp h with rfl | ht
    · simp
    · have := ih ht
      omega

theorem keys_bytesAt_nodup (a : Nat) (l : List Byte) : ((bytesAt a l).map (fun e => e.1)).Nodup := by
  induction l generalizing a with
  | nil => exact List.nodup_nil
  | cons b t ih =>
    refine List.nodup_cons.mpr ⟨fun hm => ?_, ih (a + 1)⟩
    obtain ⟨e, he, hea⟩ := List.mem_map.mp hm
    have := mem_bytesAt he
    simp only at hea
    omega

theorem getElem?_leBytes (n v k : Nat) : (leBytes n v)[k]? = if k < n then some (BitVec.ofNat 8 (v / 2 ^ (8 * k))) else none := by
  induction n generalizing v k with
  | zero => simp [leBytes]
  | succ n ih =>
    cases k with
    | zero => simp [leBytes]
    | succ k =>
      rw [leBytes, List.getElem?_cons_succ, ih, Nat.div_div_eq_div_mul,
        show 256 * 2 ^ (8 * k) = 2 ^ (8 * (k + 1)) by rw [Nat.mul_add, Nat.pow_add]; omega]
      simp

/-- The byte that a value of `n` bytes at `x` has at `a`. -/
theorem look_bytesAt_leBytes (x n v a : Nat) : SMap.look (bytesAt x (leBytes n v)) a =
    if x ≤ a ∧ a < x + n then some (BitVec.ofNat 8 (v / 2 ^ (8 * (a - x)))) else none := by
  rw [look_bytesAt, getElem?_leBytes]
  by_cases h : x ≤ a
  · rw [if_pos h]
    exact if_congr (by omega) rfl rfl
  · rw [if_neg h, if_neg (by omega)]

/-- A queue's head and status are mirrored in its doorbell block alone. -/
theorem homeByte_syncBell (s : State) (q : HwQueue) {a : Nat}
    (h : q.desc.tenant = none → ¬ (q.desc.bell + 8 ≤ a ∧ a < q.desc.bell + 24)) : homeByte (syncBell s q) a = homeByte s a := by
  unfold syncBell
  by_cases ht : q.desc.tenant.isSome = true
  · rw [if_pos ht]
  · rw [if_neg ht, homeByte, putHome_sram, get_writeAll_of_none]
    · rfl
    · rintro e he rfl
      have hm := mem_bytesAt he
      rw [List.length_append, leBytes_length, leBytes_length] at hm
      exact h (by simpa using ht) (by omega)

theorem homeByte_setQueue (s : State) (k : Nat) (q : HwQueue) {a : Nat}
    (h : q.desc.tenant = none → ¬ (q.desc.bell + 8 ≤ a ∧ a < q.desc.bell + 24)) : homeByte (setQueue s k q) a = homeByte s a := by
  have hb := homeByte_syncBell { s with queues := SMap.put s.queues k q } q h
  unfold setQueue
  split
  · split
    · rfl
    · exact hb
  · exact hb

theorem HwQueue.tailTo_desc (q : HwQueue) (v now : Nat) : (q.tailTo v now).1.desc = q.desc := by
  unfold HwQueue.tailTo
  split
  · rfl
  · split <;> rfl

/-- A byte that belongs to no doorbell block reads after a write what the write lists for it, or what it held. -/
theorem homeByte_writeHome (s : State) {l : List (Nat × Byte)} (h : (l.map (fun e => e.1)).Nodup) {a : Nat} (ha : ¬ bellByte s a) :
    homeByte (writeHome s l) a = (SMap.look l a).getD (homeByte s a) := by
  rw [← homeByte_putHome s h]
  unfold writeHome ringBells
  refine List.foldlRecOn (motive := fun t => homeByte t a = homeByte (putHome s l) a) _ _ rfl fun t ht e he => ?_
  rw [putHome_queues] at he
  dsimp only
  split
  · rw [homeByte_setQueue, ht]
    rw [HwQueue.tailTo_desc]
    exact fun hten hin => ha ⟨e, he, hten, hin⟩
  · exact ht

/-- The home bytes after a value of `n` bytes was written at `x`. -/
theorem homeByte_writeHome_value (s : State) (x n v : Nat) {a : Nat} (ha : ¬ bellByte s a) :
    homeByte (writeHome s (bytesAt x (leBytes n v))) a =
      if x ≤ a ∧ a < x + n then BitVec.ofNat 8 (v / 2 ^ (8 * (a - x))) else homeByte s a := by
  rw [homeByte_writeHome s (keys_bytesAt_nodup x _) ha, look_bytesAt_leBytes]
  split <;> rfl

theorem onlyBytes_writeHome (s : State) (x n v : Nat) : onlyBytes s (writeHome s (bytesAt x (leBytes n v))) x n := fun a hout ha => by
  rw [homeByte_writeHome_value s x n v ha, if_neg hout]

theorem holds_writeHome (s : State) (x n v : Nat) : holds s (writeHome s (bytesAt x (leBytes n v))) x n v := fun k hk ha => by
  rw [homeByte_writeHome_value s x n v ha, if_pos (by omega), Nat.add_sub_cancel_left]

/-! ### Atomics at home -/

theorem atomHome_one (s : State) (op : AtomOp) (n : Nat) (e : AtomAcc) : atomHome s op n [e] =
    (writeHome s (bytesAt e.addr (leBytes n (atomNew op n (leNat (readN (homeByte s) n e.addr)) e.v e.cmp))),
      [(e.lane, leNat (readN (homeByte s) n e.addr))]) := rfl

theorem atomHome_rec {motive : State → Prop} {s : State} (h0 : motive s) (hw : ∀ t l, motive t → motive (writeHome t l))
    (op : AtomOp) (n : Nat) (accs : List AtomAcc) : motive (atomHome s op n accs).1 := by
  unfold atomHome
  exact List.foldlRecOn (motive := fun r : State × List (Nat × Nat) => motive r.1) _ _ h0 fun r hr e _ => hw r.1 _ hr

theorem unitsStay_atomHome (s : State) (op : AtomOp) (n : Nat) (accs : List AtomAcc) : UnitsStay s (atomHome s op n accs).1 :=
  atomHome_rec (motive := UnitsStay s) (.refl s) (fun t l ht => ht.trans (unitsStay_writeHome t l)) op n accs

theorem atomHome_sch (s : State) (op : AtomOp) (n : Nat) (accs : List AtomAcc) : (atomHome s op n accs).1.sch = s.sch :=
  atomHome_rec (motive := fun t => t.sch = s.sch) rfl (fun t l ht => (writeHome_sch t l).trans ht) op n accs

end Sys2Proof.Machine

namespace Sys2Proof.Machine

/-! ## Loads, stores and atomics of a simplex unit at issue (R21, R143, R145 to R147) -/

/-- The unit `y`, which was `u`, has gone on to the next word of stream `st`, and no register has changed. -/
structure Steps (u y : Unit) (st : Strm) : Prop where
  pc : y.pcOf st = u.pcOf st + 1
  arch : sameArch u y

theorem steps_done (u : Unit) (o : Order) (sc : Scope) (st : Strm) (m : Bool) (l : List Fly) (pend : List Pend) (mon : Option Monitor)
    (code : List OldWord) : Steps u (({ afterRel u o sc with pend := pend, mon := mon, code := code } : Unit).done st m l) st where
  pc := by
    obtain ⟨n, c, h⟩ := afterRel_eq u o sc
    rw [h]
    cases st <;> rfl
  arch := (sameArch_afterRel u o sc).trans (sameArch_done _ _ _ _ _ _ _)

theorem Steps.stay {u y : Unit} {st : Strm} (h : Steps u y st) (mon : Option Monitor) (code : List OldWord) :
    Steps u { y with mon := mon, code := code } st := by
  cases st <;> exact ⟨h.pc, h.arch⟩

theorem steps_done_stay (u : Unit) (o : Order) (sc : Scope) (st : Strm) (m : Bool) (l : List Fly) (mon : Option Monitor) (code : List OldWord) :
    Steps u { (afterRel u o sc).done st m l with mon := mon, code := code } st :=
  (steps_done u o sc st m l _ (afterRel u o sc).mon (afterRel u o sc).code).stay mon code

theorem Steps.sOn {s t : State} {u y : Unit} (h : Steps u y .s) (hy : t.unit? s.cur = some y) : sOn s t u := ⟨y, hy, h.pc, h.arch⟩

theorem Unit.pcOf_slotStrm (u : Unit) (i : Bool) : u.pcOf (slotStrm i) = (u.slot i).lpc := by cases i <;> rfl

theorem Steps.lpc {u y : Unit} {i : Bool} (h : Steps u y (slotStrm i)) : (y.slot i).lpc = (u.slot i).lpc + 1 := by
  rw [← Unit.pcOf_slotStrm, ← Unit.pcOf_slotStrm, h.pc]

theorem Steps.lOn {s t : State} {u y : Unit} {i : Bool} (h : Steps u y (slotStrm i)) (hy : t.unit? s.cur = some y) : lOn s t u i :=
  ⟨y, hy, h.lpc, h.arch⟩

/-! ### Loads -/

section
variable {s : State} {u : Unit} (h : u.who.rset = 0) (st : Strm) (w : LoadW) (accs : List (Nat × Nat))
include h

/-- A global load leaves a pending result. -/
theorem issueLoad_global (hg : w.gsa = true) : issueLoad s u st w accs (fun t => t) =
    .next (issuePend s u st w.m 1 (newPend s u st w.dst (.ldg accs w.size w.sgn) w.acq w.act none)) := by
  simp [issueLoad, h, hg]

/-- A load of sound bytes that reads at once puts what it reads in flight. -/
theorem issueLoad_now (hg : w.gsa = false) (hr : readsNow s u st w.size accs) : issueLoad s u st w accs (fun t => t) =
    .next (s.setUnit (u.done st w.m (flights s u.id.core w.lat (dstRes w.dst w.act (accs.map (fun e =>
      (e.1, extLoad w.size w.sgn w.dst.width (leNat (readN (seenByte s u st s.fl.seq) w.size e.2))))))))) := by
  obtain ⟨hacq, hst, hsound⟩ := hr
  have hbad : accs.any (fun e => sectorBad s u.die e.2) = false :=
    List.any_eq_false.mpr fun e he => by rw [hsound e he]; exact Bool.false_ne_true
  simp [issueLoad, h, hg, hacq, hst, hbad]

end

/-! ### The bytes and the parts of a store word -/

theorem SMap.rising_put {α : Type} {m : SMap α} (h : SMap.rising none m = true) (k : Nat) (v : α) :
    SMap.rising none (m.put k v) = true := by
  refine SMap.rising_ins trivial ?_ (by simp [SMap.look_del])
  rw [SMap.del_eq_filter]
  exact SMap.rising_filter _ h

theorem SMap.keys_pairwise {α : Type} {m : SMap α} {b : Option Nat} (h : SMap.rising b m = true) :
    (∀ e ∈ m, SMap.under b e.1) ∧ (m.map (fun e => e.1)).Pairwise (· < ·) := by
  induction m generalizing b with
  | nil => exact ⟨fun _ he => absurd he List.not_mem_nil, List.Pairwise.nil⟩
  | cons e t ih =>
    obtain ⟨hb, ht⟩ := (SMap.rising_cons b e.1 e.2 t).mp h
    obtain ⟨hlow, hpw⟩ := ih ht
    refine ⟨fun x hx => ?_, List.pairwise_cons.mpr ⟨fun k hk => ?_, hpw⟩⟩
    · rcases List.mem_cons.mp hx with rfl | hx
      · exact hb
      · have hlt : e.1 < x.1 := hlow x hx
        cases b with
        | none => trivial
        | some j => exact Nat.lt_trans hb hlt
    · obtain ⟨x, hx, rfl⟩ := List.mem_map.mp hk
      exact hlow x hx

theorem keys_storeBytes_nodup (n : Nat) (accs : List (Nat × Nat × Nat)) : ((storeBytes n accs).map (fun e => e.1)).Nodup := by
  have hr : SMap.rising none (storeBytes n accs) = true := by
    unfold storeBytes
    refine List.foldlRecOn (motive := fun m => SMap.rising none m = true) _ _ rfl fun m hm e _ => ?_
    exact List.foldlRecOn (motive := fun m => SMap.rising none m = true) _ _ hm fun m hm b _ => SMap.rising_put hm b.1 b.2
  exact (SMap.keys_pairwise hr).2.imp fun hlt => Nat.ne_of_lt hlt

theorem SMap.look_filter_key {α : Type} (m : SMap α) (f : Nat → Bool) {a : Nat} (h : f a = true) :
    SMap.look (m.filter (fun e => f e.1)) a = SMap.look m a := by
  induction m with
  | nil => rfl
  | cons e t ih =>
    rw [List.filter_cons]
    split
    · rw [SMap.look, SMap.look, ih]
    · next hf =>
      have hne : e.1 ≠ a := by
        rintro rfl
        exact hf h
      rw [ih, SMap.look, if_neg hne]

theorem mem_sectorsOf {m : SMap Byte} {k : Nat} : k ∈ sectorsOf m ↔ ∃ b ∈ m, sectorOf b.1 = k := by
  rw [sectorsOf, List.mem_dedup, List.mem_map]

theorem PStore.sector_cons {p : PStore} {x : Nat × Byte} {l : SMap Byte} (h : p.bytes = x :: l) : p.sector = sectorOf x.1 := by
  rw [PStore.sector, h]

/-- What a part of a store word is: the bytes of one of its sectors, numbered from the place of its word on. -/
theorem mem_storeParts {s : State} {u : Unit} {st : Strm} {ef : Bool} {act : Mask} {m : SMap Byte} {p : PStore}
    (h : p ∈ storeParts s u st ef act m) : p.unit = some u.id ∧ s.fl.seq ≤ p.seq ∧ ∃ b ∈ m, p.sector = sectorOf b.1 := by
  obtain ⟨k, hk, rfl⟩ := List.mem_map.mp h
  refine ⟨rfl, Nat.le_add_right _ _, ?_⟩
  have hlt : k < (sectorsOf m).length := List.mem_range.mp hk
  obtain ⟨b, hb, hsec⟩ := mem_sectorsOf.mp (List.getElem_mem hlt)
  have hget : (sectorsOf m).getD k 0 = sectorOf b.1 := by rw [List.getD_eq_getElem _ _ hlt, hsec]
  refine ⟨b, hb, ?_⟩
  cases hf : m.filter (fun x => decide (sectorOf x.1 = (sectorsOf m).getD k 0)) with
  | nil =>
    refine absurd (hget.symm) ?_
    simpa using List.filter_eq_nil_iff.mp hf b hb
  | cons x t =>
    have hx : x ∈ m.filter (fun x => decide (sectorOf x.1 = (sectorsOf m).getD k 0)) := hf ▸ List.mem_cons_self
    have hxs : sectorOf x.1 = (sectorsOf m).getD k 0 := by simpa using (List.mem_filter.mp hx).2
    exact (PStore.sector_cons rfl).trans (hxs.trans hget)

/-- Every byte of a store word is in the part of its sector. -/
theorem exists_storePart (s : State) (u : Unit) (st : Strm) (ef : Bool) (act : Mask) {m : SMap Byte} {a : Nat} {b : Byte}
    (h : SMap.look m a = some b) : ∃ p ∈ storeParts s u st ef act m, SMap.look p.bytes a = some b := by
  obtain ⟨k, hk, hsec⟩ := List.getElem_of_mem (mem_sectorsOf.mpr ⟨_, SMap.mem_of_look h, rfl⟩)
  refine ⟨_, List.mem_map.mpr ⟨k, List.mem_range.mpr hk, rfl⟩, ?_⟩
  dsimp only
  rw [List.getD_eq_getElem _ _ hk, hsec, SMap.look_filter_key m (fun x => decide (sectorOf x = sectorOf a)) (by simp), h]

/-! ### Stores on their way -/

/-- A store as its word issued it, without the marks that its way home leaves on it. -/
def PStore.asIssued (p : PStore) : PStore := { p with sent := false, ord := 0, out := false, sentAt := 0, lostAck := false }

/-- Stores may have left the queue and gone to their homes; none is lost or new, and nothing else changes but monitors and mirrors. -/
structure Sends (s t : State) : Prop where
  quiet : Quiet s t
  sch : t.sch = s.sch
  stores : t.fl.stores.map PStore.asIssued = s.fl.stores.map PStore.asIssued

theorem Sends.refl (s : State) : Sends s s := ⟨.refl s, rfl, rfl⟩

theorem Sends.trans {s t r : State} (h : Sends s t) (h' : Sends t r) : Sends s r :=
  ⟨h.quiet.trans h'.quiet, h'.sch.trans h.sch, h'.stores.trans h.stores⟩

theorem Sends.foldl {β : Type} (f : State → β → State) (hf : ∀ t b, Sends t (f t b)) (l : List β) (s : State) :
    Sends s (l.foldl f s) :=
  List.foldlRecOn (motive := Sends s) l f (.refl s) fun t ht b _ => ht.trans (hf t b)

theorem sends_sendOne (s : State) (x : PStore) : Sends s (sendOne s x) where
  quiet := .of_eq rfl rfl
  sch := rfl
  stores := by
    simp only [sendOne, List.map_map]
    refine List.map_congr_left fun p _ => ?_
    rw [Function.comp_apply]
    split <;> rfl

theorem sends_takeLine (s : State) (d line : Nat) : Sends s (takeLine s d line) where
  quiet := quiet_takeLine s d line
  sch := by
    unfold takeLine
    split
    · rfl
    · dsimp only
      split <;> rfl
  stores := by
    unfold takeLine
    split
    · rfl
    · dsimp only
      split <;> rfl

theorem sends_sendStore (s : State) (x : PStore) : Sends s (sendStore s x) := by
  unfold sendStore
  extract_lets sec l _ s1
  have h0 : Sends s { s with fl := { s.fl with stores := l, seq := s.fl.seq + 1 } } := by
    refine ⟨.of_eq rfl rfl, rfl, ?_⟩
    unfold l
    rw [List.map_map]
    refine List.map_congr_left fun p _ => ?_
    rw [Function.comp_apply]
    split <;> rfl
  have h1 : Sends s s1 := h0.trans (.foldl sendOne sends_sendOne _ _)
  split
  · exact (h1.trans (sends_takeLine s1 _ _)).trans ⟨quiet_fireDie _ _ _, rfl, rfl⟩
  · exact h1

theorem sends_releaseStores (s : State) (id : UnitId) : Sends s (releaseStores s id) := by
  unfold releaseStores
  split
  · exact .refl s
  · refine .foldl _ (fun t p => ?_) _ s
    split
    · exact sends_sendStore t p
    · exact .refl t

/-- The parts of a store word stand in the queue behind every earlier store, and some may have left it. -/
theorem sends_queueStores (s : State) (id : UnitId) (l : List PStore) :
    Sends { s with fl := { s.fl with stores := s.fl.stores ++ l, seq := s.fl.seq + l.length } } (queueStores s id l) :=
  sends_releaseStores _ id

end Sys2Proof.Machine

namespace Sys2Proof.Machine

/-! ### Store words -/

/-- A word may mark its workgroup, and changes no more of the state. -/
theorem exists_wgs_ite {c : Prop} [Decidable c] {s a b : State} (ha : ∃ ws, a = { s with wgs := ws }) (hb : ∃ ws, b = { s with wgs := ws }) :
    ∃ ws, (if c then a else b) = { s with wgs := ws } := by
  split <;> assumption

theorem ackUse_afterRel (s : State) (u : Unit) (o : Order) (sc : Scope) : ackUse s (afterRel u o sc) = ackUse s u := by
  obtain ⟨n, c, h⟩ := afterRel_eq u o sc
  rw [h]
  rfl

theorem afterRel_id (u : Unit) (o : Order) (sc : Scope) : (afterRel u o sc).id = u.id := by
  obtain ⟨n, c, h⟩ := afterRel_eq u o sc
  rw [h]

theorem afterRel_pend (u : Unit) (o : Order) (sc : Scope) : (afterRel u o sc).pend = u.pend := by
  obtain ⟨n, c, h⟩ := afterRel_eq u o sc
  rw [h]

theorem atomPlace_afterRel (u : Unit) (o : Order) (sc sc' : Scope) : atomPlace (afterRel u o sc) sc' = atomPlace u sc' := by
  obtain ⟨n, c, h⟩ := afterRel_eq u o sc
  rw [h]
  rfl

theorem Unit.pend_done (u : Unit) (st : Strm) (m : Bool) (l : List Fly) : (u.done st m l).pend = u.pend := by
  cases st <;> rfl

/-- A word has room in the acknowledgement buffer where it takes no entry, where the buffer is empty, and where enough entries
are free. -/
theorem bufferFull_eq_false {s : State} {u : Unit} {n : Nat} (h : n = 0 ∨ ackUse s u = 0 ∨ ackUse s u + n ≤ 16) :
    bufferFull s u n = false := by
  simp only [bufferFull, Bool.and_eq_false_iff, decide_eq_false_iff_not]
  omega

theorem bufferFull_afterRel (s : State) (u : Unit) (o : Order) (sc : Scope) (n : Nat) :
    bufferFull s (afterRel u o sc) n = bufferFull s u n := by
  rw [bufferFull, ackUse_afterRel]
  rfl

section
variable {s : State} {u : Unit} {st : Strm}

/-- The parts of a store word in the store queue, after its release, if it is one. -/
def storeQueued (s : State) (u : Unit) (st : Strm) (w : StoreW) (m : SMap Byte) : State :=
  let v := afterRel u w.o w.sc
  queueStores (s.setUnit (v.done st w.m [])) v.id (storeParts s v st w.ef w.act m)

section
variable (h : u.who.rset = 0) {w : StoreW} (hrel : relOk s u st w.o w.sc) {accs : List (Nat × Nat × Nat)} {cross : List Nat}
  (hcross : cross = sectorsOf ((storeBytes w.size accs).filter (fun b => decide (gsaDie b.1 ≠ u.die))))
  (hroom : bufferFull s u cross.length = false) (hway : w.ef = true → ∀ k ∈ cross, wayFree s u.die (k / 4) = true)
include h hrel hcross hroom hway

theorem issueStore_eq : issueStore s u st w accs (fun t => t) = .next (if relOrd w.o then
    spoil (storeQueued s u st w (storeBytes w.size accs)) (afterRel u w.o w.sc) else storeQueued s u st w (storeBytes w.size accs)) := by
  have hdie : (afterRel u w.o w.sc).die = u.die := congrArg (fun k : UnitId => dieOf k.core) (afterRel_id u w.o w.sc)
  have hways : (w.ef && cross.any (fun k => !wayFree s (afterRel u w.o w.sc).die (k / 4))) = false := by
    rw [hdie]
    cases hef : w.ef with
    | false => rfl
    | true => exact List.any_eq_false.mpr fun k hk => by simp [hway hef k hk]
  unfold issueStore
  extract_lets m cross' go
  have hc : cross' = cross := hcross.symm
  rw [roomGate_simplex h, Unit.performs_simplex h, if_pos rfl, if_neg (not_not.mpr h)]
  refine (release_passes hrel (compareGate_simplex h st _ _) go).trans ?_
  unfold go
  rw [hc, bufferFull_afterRel, hroom, hways]
  rfl

/-- A global store word with room for its stores puts its parts in the store queue. -/
theorem issueStore_plain : ∃ t y, issueStore s u st w accs (fun t => t) = .next t ∧ t.unit? u.id = some y ∧ Steps u y st ∧
    t.sch = s.sch ∧ sameHome s t ∧ t.fl.stores.map PStore.asIssued =
      (s.fl.stores ++ storeParts s (afterRel u w.o w.sc) st w.ef w.act (storeBytes w.size accs)).map PStore.asIssued := by
  have hid : (afterRel u w.o w.sc).id = u.id := afterRel_id u w.o w.sc
  rw [issueStore_eq h hrel hcross hroom hway]
  have hsend := sends_queueStores (s.setUnit ((afterRel u w.o w.sc).done st w.m [])) (afterRel u w.o w.sc).id
    (storeParts s (afterRel u w.o w.sc) st w.ef w.act (storeBytes w.size accs))
  obtain ⟨q, hq⟩ : ∃ q, storeQueued s u st w (storeBytes w.size accs) = q := ⟨_, rfl⟩
  rw [show queueStores _ _ _ = q from hq] at hsend
  rw [hq]
  obtain ⟨mon, code, hy⟩ := hsend.quiet.units u.id ((afterRel u w.o w.sc).done st w.m [])
    (unit?_setUnit_id s ((Unit.done_id _ _ _ _).trans hid))
  obtain ⟨ws, hws⟩ := exists_wgs_ite (c := relOrd w.o = true) (s := q) (a := spoil q (afterRel u w.o w.sc)) ⟨_, rfl⟩ ⟨q.wgs, rfl⟩
  rw [hws]
  exact ⟨_, _, rfl, hy, steps_done_stay u w.o w.sc st w.m [] mon code, hsend.sch, hsend.quiet.home, hsend.stores⟩

end

/-- What a store to sound sectors does beside its write: it may mark pad lines and lift poison. -/
structure Lifts (s t : State) : Prop where
  units : t.units = s.units
  sch : t.sch = s.sch
  sram : t.mem.sram = s.mem.sram
  bad : ∀ k, s.mem.badHome.contains k = false → t.mem.badHome.contains k = false

theorem lifts_clearBad {s t : State} (h : Lifts s t) (k : Nat) : Lifts s (clearBad t k) where
  units := h.units
  sch := h.sch
  sram := h.sram
  bad j hj := by
    have hout := h.bad j hj
    simp only [List.contains_eq_mem, decide_eq_false_iff_not] at hout ⊢
    exact fun hm => hout (List.mem_filter.mp hm).1

/-- A pad or handle store word to sound sectors writes its bytes at home. -/
theorem localStore_sound (h : u.who.rset = 0) {w : StoreW} (hrel : relOk s u st w.o w.sc)
    (hheld : loadsHeld (afterRel u w.o w.sc) st = false) {accs : List (Nat × Nat × Nat)}
    (hsound : ∀ b ∈ storeBytes w.size accs, s.mem.badHome.contains (sectorOf b.1) = false) :
    ∃ t y, localStore s u st w accs = .next t ∧ t.unit? u.id = some y ∧ Steps u y st ∧ t.sch = s.sch ∧
      ∀ a, ¬ bellByte s a → homeByte t a = (SMap.look (storeBytes w.size accs) a).getD (homeByte s a) := by
  have hid : (afterRel u w.o w.sc).id = u.id := afterRel_id u w.o w.sc
  unfold localStore
  extract_lets m go
  have hgo : (if relOrd w.o then pointGate s u st 0x03 (modesByte w.sc false w.o) [] (releaseGate s u st w.sc (go (u.released w.sc)))
      else go u) = go (afterRel u w.o w.sc) := release_passes hrel (pointGate_simplex h s st _ _ _) go
  rw [hgo]
  unfold go
  rw [hheld, if_neg Bool.false_ne_true]
  extract_lets parts s1 s2
  have hlifts : Lifts s1 s2 := by
    refine List.foldlRecOn (motive := Lifts s1) _ _ ⟨rfl, rfl, rfl, fun _ hk => hk⟩ fun t ht p hp => ?_
    obtain ⟨-, -, b, hb, hsec⟩ := mem_storeParts hp
    have hgood : t.mem.badHome.contains p.sector = false := by
      refine ht.bad _ ?_
      rw [writeHome_badHome, hsec]
      exact hsound b hb
    rw [hgood, if_neg Bool.false_ne_true]
    split
    · exact lifts_clearBad ht p.sector
    · exact ht
  obtain ⟨mon, code, hy⟩ := unitsStay_writeHome (s.setUnit ((afterRel u w.o w.sc).done st w.m [])) m u.id _
    (unit?_setUnit_id s ((Unit.done_id _ _ _ _).trans hid))
  have hy2 : s2.unit? u.id = some { (afterRel u w.o w.sc).done st w.m [] with mon := mon, code := code } := by
    rw [State.unit?, hlifts.units]
    exact hy
  have hbytes : ∀ a, ¬ bellByte s a → homeByte s2 a = (SMap.look m a).getD (homeByte s a) := fun a ha => by
    rw [homeByte_congr hlifts.sram]
    exact homeByte_writeHome _ (keys_storeBytes_nodup w.size accs) ha
  have hsch : s2.sch = s.sch := hlifts.sch.trans (writeHome_sch _ _)
  obtain ⟨ws, hws⟩ := exists_wgs_ite (c := w.pad = true) (s := s2) (a := touchPad s2 (afterRel u w.o w.sc) (m.map (fun b => b.1)))
    ⟨_, rfl⟩ ⟨s2.wgs, rfl⟩
  rw [hws]
  exact ⟨_, _, rfl, hy2, steps_done_stay u w.o w.sc st w.m [] mon code, hsch, hbytes⟩

/-! ### Atomic words -/

/-- What a global atomic word leaves: it is queued for its place, and its result is pending. -/
structure AtomQueued (s t : State) (u y : Unit) (st : Strm) (w : AtomW) (accs : List AtomAcc) (p : Pend) (q : PAtom) : Prop where
  unit : t.unit? u.id = some y
  steps : Steps u y st
  sch : t.sch = s.sch
  mem : t.mem = s.mem
  pend : y.pend = u.pend ++ [p]
  dst : p.dst = w.dst
  what : p.what = .atom s.fl.seq
  atoms : t.fl.atoms = s.fl.atoms ++ [q]
  issuer : q.unit = u.id
  op : q.op = w.op
  size : q.size = w.size
  place : q.place = atomPlace u w.sc
  die : q.die = u.die
  accs : q.accs = accs
  result : q.pend = p.id

theorem issueAtom_plain (h : u.who.rset = 0) {w : AtomW} (hrel : relOk s u st w.o w.sc) {accs : List AtomAcc}
    (hroom : atomPlace u w.sc ≠ .slice → bufferFull s u ((accs.filter (fun e => decide (gsaDie e.addr ≠ u.die))).length) = false) :
    ∃ t y p q, issueAtom s u st w accs (fun t => t) = .next t ∧ AtomQueued s t u y st w accs p q := by
  have hfree : bufferFull s u (if atomPlace u w.sc = .slice then 0
      else (accs.filter (fun e => decide (gsaDie e.addr ≠ u.die))).length) = false := by
    split
    · rfl
    · next hp => exact hroom hp
  have hv : (afterRel u w.o w.sc).who.rset = 0 := by
    obtain ⟨n, c, hv⟩ := afterRel_eq u w.o w.sc
    rw [hv]
    exact h
  unfold issueAtom
  extract_lets far go
  rw [roomGate_simplex h, compareGate_simplex h]
  have hgo : (if relOrd w.o then releaseGate s u st w.sc (go (u.released w.sc)) else go u) = go (afterRel u w.o w.sc) :=
    release_passes hrel (g := fun k => k) (fun _ => rfl) go
  rw [hgo]
  unfold go
  extract_lets key red x p _ a s1
  have hred : red = false := by simp [red, hv]
  have hx : x = afterRel u w.o w.sc := by simp [x, hred]
  rw [Unit.takes_simplex hv, if_neg Bool.false_ne_true, bufferFull_afterRel, hfree, if_neg Bool.false_ne_true]
  have hid : (afterRel u w.o w.sc).id = u.id := afterRel_id u w.o w.sc
  have hsteps : Steps u (({ x with pend := x.pend ++ [p] } : Unit).done st w.m []) st := by
    rw [hx]
    exact steps_done u w.o w.sc st w.m [] _ (afterRel u w.o w.sc).mon (afterRel u w.o w.sc).code
  refine ⟨_, _, p, a, rfl, unit?_setUnit_id s (by rw [Unit.done_id, hx, hid]), hsteps, rfl, rfl, ?_, rfl, rfl, rfl, hid, rfl, rfl, ?_, ?_,
    rfl, rfl⟩
  · rw [Unit.pend_done, hx, afterRel_pend]
  · exact atomPlace_afterRel u w.o w.sc w.sc
  · exact congrArg (fun k : UnitId => dieOf k.core) hid

/-- A pad or handle atomic word on sound sectors is performed at once, and its old values are in flight. -/
theorem localAtom_sound (h : u.who.rset = 0) (hu : s.unit? u.id = some u) {w : AtomW} (hrel : relOk s u st w.o w.sc)
    (hheld : loadsHeld (afterRel u w.o w.sc) st = false) {accs : List AtomAcc}
    (hsound : ∀ e ∈ accs, s.mem.badHome.contains (sectorOf e.addr) = false) :
    ∃ t, ∃ y : Unit, ∃ l, localAtom s u st w accs = .next t ∧ t.unit? u.id = some (y.done st w.m l) ∧ Steps u (y.done st w.m l) st ∧
      t.sch = s.sch ∧ t.mem = (atomHome s w.op w.size accs).1.mem ∧ (∀ i, y.slot i = u.slot i) ∧ y.sS = u.sS ∧
      l = flights s u.id.core w.lat (dstRes w.dst w.act (atomHome s w.op w.size accs).2) := by
  have hid : (afterRel u w.o w.sc).id = u.id := afterRel_id u w.o w.sc
  have hgood : accs.any (fun e => s.mem.badHome.contains (sectorOf e.addr)) = false :=
    List.any_eq_false.mpr fun e he => by rw [hsound e he]; exact Bool.false_ne_true
  unfold localAtom
  extract_lets done r go
  have hgo : (if relOrd w.o then pointGate s u st 0x03 (modesByte w.sc false w.o) [] (releaseGate s u st w.sc (go (u.released w.sc)))
      else go u) = go (afterRel u w.o w.sc) := release_passes hrel (pointGate_simplex h s st _ _ _) go
  rw [hgo]
  unfold go
  obtain ⟨mon, code, hy⟩ := unitsStay_atomHome s w.op w.size accs u.id u hu
  rw [hheld, if_neg Bool.false_ne_true, hgood, if_neg Bool.false_ne_true, hid, hy]
  dsimp only
  have hv : ({ u with mon := mon, code := code, tsInterval := (afterRel u w.o w.sc).tsInterval,
                      tsScope := (afterRel u w.o w.sc).tsScope } : Unit) =
      { afterRel u w.o w.sc with mon := mon, code := code } := by
    obtain ⟨n, c, hrel⟩ := afterRel_eq u w.o w.sc
    rw [hrel]
  have hsteps := steps_done u w.o w.sc st w.m (flights s u.id.core w.lat (dstRes w.dst w.act r.2)) (afterRel u w.o w.sc).pend mon code
  have hslots : (afterRel u w.o w.sc).sS = u.sS ∧ (afterRel u w.o w.sc).lS = u.lS := by
    obtain ⟨n, c, hrel⟩ := afterRel_eq u w.o w.sc
    rw [hrel]
    exact ⟨rfl, rfl⟩
  obtain ⟨hsS, hlS⟩ := hslots
  rw [hv]
  have hdone (t : State) : ∃ ws, done t (afterRel u w.o w.sc) = { t with wgs := ws } := exists_wgs_ite ⟨_, rfl⟩ ⟨_, rfl⟩
  rw [(hdone _).choose_spec]
  refine ⟨_, { afterRel u w.o w.sc with mon := mon, code := code }, _, rfl, unit?_setUnit_id r.1 ((Unit.done_id _ _ _ _).trans hid), hsteps,
    atomHome_sch s w.op w.size accs, rfl, fun i => ?_, hsS, rfl⟩
  rw [Unit.slot, Unit.slot, ← hlS]

end

end Sys2Proof.Machine

namespace Sys2Proof.Machine

/-! ## Checked accesses (R137, R139) -/

section
variable {s : State} {u : Unit} {st : Strm}

theorem checked_pass {l : List (Nat × Chk)} (h : laneFail l = none) (k : List (Nat × Nat) → Res) :
    checked s u st l k = k (okAddrs l) := by
  rw [checked, h]

/-- The one access of an S word whose check passes. -/
theorem checked_one {c : Chk} {x : Nat} (h : c = .ok x) (k : List (Nat × Nat) → Res) : checked s u st [(0, c)] k = k [(0, x)] := by
  subst h
  rfl

/-- The one access of an S word whose check fails. -/
theorem checked_one_bad {c : Chk} {cause addr info : Nat} (h : c = .bad cause addr info) (k : List (Nat × Nat) → Res) :
    checked s u .s [(0, c)] k = trapS s u cause addr info := by
  subst h
  by_cases hc : cause = 0x22 <;> simp [checked, laneFail, failWith, trapS, hc]

theorem checkS_pad_base (a : SReg) (n kind : Nat) : checkS s u .pad a 0 n kind = checkPad s u ((u.rs a).toNat % 2 ^ 24) n kind := by
  simp [checkS]

theorem checkS_gsa_base (a : SReg) (n kind : Nat) :
    checkS s u .gsa a 0 n kind = checkGsa s u.who.ctx ((u.rs a).toNat % 2 ^ 32) n kind kind := by
  simp [checkS]

end

/-! ## Scalar atomics -/

/-- The accesses and the fields of a scalar atomic of unit `u` at `x`. -/
def scalarAccs (u : Unit) (d : SReg) (op : AtomOp) (w : Bool) (x : Nat) : List AtomAcc :=
  let n := if w then 8 else 4
  [⟨0, x, (if op = .cas then u.rs (d + 1) else u.rs d).toNat % 2 ^ (8 * n), (u.rs d).toNat % 2 ^ (8 * n)⟩]

def scalarAtom (m : Bool) (d : SReg) (op : AtomOp) (w : Bool) (o : Order) (sc : Scope) (pad : Bool) : AtomW :=
  { m := m, op := op, o := o, sc := sc, act := 1, size := if w then 8 else 4, dst := .s d, lat := 8, lane := false, pad := pad }

section
variable {s : State} {u : Unit} {m : Bool} {d a : SReg} {op : AtomOp} {w : Bool} {o : Order} {sc : Scope} {x : Nat}
  (h : SReady s u (if op = .cas then [d, a, d + 1] else [d, a]))
include h

theorem exec_atom_pad (hx : checkPad s u ((u.rs a).toNat % 2 ^ 24) (if w then 8 else 4) 2 = .ok x) :
    exec (.atom m d a op w o sc true) s = localAtom s u .s (scalarAtom m d op w o sc true) (scalarAccs u d op w x) := by
  rw [exec_atom, execAtom, sWord_ready h, if_pos rfl, checked_one ((checkS_pad_base a _ 2).trans hx)]
  rfl

theorem exec_atom_gsa (hplain : plain s u) (hx : checkGsa s u.who.ctx ((u.rs a).toNat % 2 ^ 32) (if w then 8 else 4) 2 2 = .ok x) :
    exec (.atom m d a op w o sc false) s =
      issueAtom s u .s (scalarAtom m d op w o sc false) (scalarAccs u d op w x) (fun t => t) := by
  rw [exec_atom, execAtom, sWord_ready h, if_neg Bool.false_ne_true, checked_one ((checkS_gsa_base a _ 2).trans hx)]
  exact tsGate_plain hplain .s 2 (relOrd o) sc _ _

end

end Sys2Proof.Machine

section
open Sys2Proof Sys2Proof.Machine

/-- Settles O14: at the pad the word is an atomic at home on sound sectors, whose one access writes its own bytes; on global SRAM
it enters the list of atomics with its result pending. -/
theorem scalarAtomics : Obligations.ScalarAtomics := by
  unfold Obligations.ScalarAtomics
  intro s u m d a op w o sc x h hplain hrel n v cmp old
  obtain ⟨hu, hcur, -, -⟩ := id h
  rw [← hcur] at hu ⊢
  refine ⟨fun hx hheld hsound => ?_, fun hx hroom => ?_⟩
  · obtain ⟨t, y, l, hexec, hy, hsteps, -, hmem, -, hsS, hl⟩ :=
      localAtom_sound (w := scalarAtom m d op w o sc true) (accs := scalarAccs u d op w x) hplain.1 hu hrel hheld fun e he => by
        obtain rfl := List.mem_singleton.mp he
        exact hsound
    have hhome : t.mem.sram = (writeHome s (bytesAt x (leBytes n (atomNew op n old v cmp)))).mem.sram := congrArg Memory.sram hmem
    refine ⟨t, _, (exec_atom_pad h hx).trans hexec, hy, fun b hb hbell => ?_, fun k hk hbell => ?_, hsteps.pc, hsteps.arch, ?_⟩
    · rw [homeByte_congr hhome]
      exact onlyBytes_writeHome s x n _ b hb hbell
    · rw [homeByte_congr hhome]
      exact holds_writeHome s x n _ k hk hbell
    · rw [hl, Unit.done_s]
      exact congrArg (fun z => z.fly ++ _) hsS
  · obtain ⟨t, y, p, q, hexec, hq⟩ := issueAtom_plain (st := .s) (w := scalarAtom m d op w o sc false) (accs := scalarAccs u d op w x)
      hplain.1 hrel fun hp => bufferFull_eq_false (by
        have hfar := List.length_filter_le (fun e => decide (gsaDie e.addr ≠ u.die)) (scalarAccs u d op w x)
        rcases hroom with hs | hd | h0 | h1
        · exact absurd hs hp
        · exact .inl (by simp [scalarAccs, hd])
        · exact .inr (.inl h0)
        · exact .inr (.inr (Nat.le_trans (Nat.add_le_add_left hfar _) h1)))
    refine ⟨t, y, p, q, (exec_atom_gsa h hplain hx).trans hexec, hq.unit, ⟨fun b => homeByte_congr (congrArg Memory.sram hq.mem) b, hq.mem⟩,
      hq.steps.pc, hq.steps.arch, hq.pend, hq.dst, hq.what, ?_, ?_, hq.issuer, hq.op, hq.size, hq.place, hq.die, hq.accs, hq.result⟩
    · rw [hq.atoms, List.dropLast_concat]
    · rw [hq.atoms, List.getLast?_concat]

end

namespace Sys2Proof.Machine

/-! ## Lane memory words whose checks pass (R139, R140) -/

/-- The load, the store and the atomic that a lane word issues for its active lanes. -/
def laneLoad (w : LM) (d : BitVec 7) (sp : Space) (act : Mask) : LoadW :=
  { m := w.m, dst := .v d.toNat (tyRegs w.ty), acq := acqOrd w.ord, rb := w.rb, act := act, size := ltySize w.ty, sgn := tySigned w.ty,
    lat := sp.latL, gsa := decide (sp = .gsa) }

def laneStore (w : LM) (sp : Space) (act : Mask) : StoreW :=
  { m := w.m, ef := w.ef, o := w.ord, sc := w.sc, act := act, size := ltySize w.ty, lane := true, pad := decide (sp = .pad) }

def laneAtom (w : LM) (d : BitVec 7) (sp : Space) (act : Mask) : AtomW :=
  { m := w.m, op := lmAtom w.fn, o := w.ord, sc := w.sc, act := act, size := ltySize w.ty, dst := .v d.toNat (tyRegs w.ty),
    lat := if sp = .hnd then 20 else 12, lane := true, pad := decide (sp = .pad) }

/-- What the active lanes of a store and of an atomic access. -/
def laneStoreAccs (s : State) (u : Unit) (w : LM) (sp : Space) (act : Mask) : List (Nat × Nat × Nat) :=
  (okAddrs (checksL s u sp w w.c 1 act)).map (fun e => (e.1, e.2, u.opVal w.ty 0 w.b e.1))

def laneAtomAccs (s : State) (u : Unit) (w : LM) (sp : Space) (act : Mask) : List AtomAcc :=
  (okAddrs (checksL s u sp w w.c 2 act)).map (fun e => ⟨e.1, e.2, u.opVal w.ty 0 w.b e.1 % 2 ^ (8 * ltySize w.ty),
    u.opVal w.ty 0 w.c e.1 % 2 ^ (8 * ltySize w.ty)⟩)

/-- The registers that a lane word of a space names: the handle's too, where there is one. -/
def withHandle (regs : List (Nat × Nat)) (sp : Space) (h : Sel) : List (Nat × Nat) := regs ++ if sp = .hnd then selRegs h 1 else []

theorem withHandle_of_ne {sp : Space} (hsp : sp ≠ .hnd) (regs : List (Nat × Nat)) (h : Sel) : withHandle regs sp h = regs := by
  rw [withHandle, if_neg hsp, List.append_nil]

section
variable {s : State} {u : Unit} {i : Bool} {w : LM} {sp : Space}

theorem loadL_passes {d : BitVec 7} (h : LReady s u i (withHandle (selRegs w.dst (tyRegs w.ty) ++ selRegs w.a 1) sp w.b)) (hd : w.dst = .v d)
    (hplain : plain s u) (hok : laneFail (checksL s u sp w w.b 0 (laneAct s u i w.g)) = none) :
    loadL s sp w = portAfter (issueLoad s u (slotStrm i) (laneLoad w d sp (laneAct s u i w.g))
      (okAddrs (checksL s u sp w w.b 0 (laneAct s u i w.g))) (fun t => t)) u.id.core (memIv w.ty) := by
  unfold withHandle at h
  rw [loadL, laneWord_ready h]
  dsimp only
  rw [checked_pass hok, hd, tsGate_plain hplain, ite_self]
  rfl

theorem storeL_passes (h : LReady s u i (withHandle (selRegs w.a 1 ++ selRegs w.b (tyRegs w.ty)) sp w.c)) (hplain : plain s u)
    (hok : laneFail (checksL s u sp w w.c 1 (laneAct s u i w.g)) = none) :
    storeL s sp w = portAfter (if sp = .gsa then
        issueStore s u (slotStrm i) (laneStore w sp (laneAct s u i w.g)) (laneStoreAccs s u w sp (laneAct s u i w.g)) (fun t => t)
      else localStore s u (slotStrm i) (laneStore w sp (laneAct s u i w.g)) (laneStoreAccs s u w sp (laneAct s u i w.g)))
      u.id.core (memIv w.ty) := by
  unfold withHandle at h
  rw [storeL, laneWord_ready h]
  dsimp only
  rw [checked_pass hok, tsGate_plain hplain]
  rfl

end

/-! ### Loads -/

section
variable {s : State} {u : Unit} {i : Bool} {w : LM} {d : BitVec 7} {sp : Space} {regs : List (Nat × Nat)} (h : LReady s u i regs)
include h

theorem laneLoad_global (hplain : plain s u) (accs : List (Nat × Nat)) (iv : Nat) :
    portAfter (issueLoad s u (slotStrm i) (laneLoad w d .gsa (laneAct s u i w.g)) accs (fun t => t)) u.id.core iv =
      .next (holdPort (issuePend s u (slotStrm i) w.m 1 (newPend s u (slotStrm i) (.v d.toNat (tyRegs w.ty))
        (.ldg accs (ltySize w.ty) (tySigned w.ty)) (acqOrd w.ord) (laneAct s u i w.g) none)) u.id.core iv) := by
  obtain ⟨-, -, hparked, -⟩ := h
  rw [issueLoad_global hplain.1 (slotStrm i) _ accs rfl]
  exact portAfter_next (t := issuePend _ _ _ _ _ _) hparked _ iv

theorem laneLoad_now (hplain : plain s u) (hsp : sp ≠ .gsa) (accs : List (Nat × Nat)) (hr : readsNow s u (slotStrm i) (ltySize w.ty) accs)
    (iv : Nat) : portAfter (issueLoad s u (slotStrm i) (laneLoad w d sp (laneAct s u i w.g)) accs (fun t => t)) u.id.core iv =
      .next (holdPort (s.setUnit (u.done (slotStrm i) w.m (flights s u.id.core sp.latL (vRes d.toNat (tyRegs w.ty) (laneAct s u i w.g)
        (accs.map (fun e => (e.1, extLoad (ltySize w.ty) (tySigned w.ty) (32 * tyRegs w.ty)
          (leNat (readN (seenByte s u (slotStrm i) s.fl.seq) (ltySize w.ty) e.2))))))))) u.id.core iv) := by
  obtain ⟨-, -, hparked, -⟩ := h
  rw [issueLoad_now hplain.1 (slotStrm i) (laneLoad w d sp (laneAct s u i w.g)) accs (decide_eq_false hsp) hr]
  exact portAfter_next (t := s.setUnit _) hparked _ iv

end

/-! ### Stores -/

section
variable {s : State} {u : Unit} {i : Bool} {w : LM} {sp : Space}
  (h : LReady s u i (withHandle (selRegs w.a 1 ++ selRegs w.b (tyRegs w.ty)) sp w.c)) (hplain : plain s u) (hrel : relOk s u (slotStrm i) w.ord w.sc) (hok : laneFail (checksL s u sp w w.c 1 (laneAct s u i w.g)) = none)
include h hplain hrel hok

theorem laneStore_global (hsp : sp = .gsa) {cross : List Nat}
    (hcross : cross = sectorsOf ((storeBytes (ltySize w.ty) (laneStoreAccs s u w sp (laneAct s u i w.g))).filter
      (fun b => decide (gsaDie b.1 ≠ u.die))))
    (hroom : cross = [] ∨ ackUse s u = 0 ∨ ackUse s u + cross.length ≤ 16)
    (hway : w.ef = true → ∀ k ∈ cross, wayFree s u.die (k / 4) = true) :
    ∃ t, storeL s sp w = .next t ∧ lOn s t u i ∧ sameHome s t ∧ t.fl.stores.map PStore.asIssued = (s.fl.stores ++
      storeParts s (afterRel u w.ord w.sc) (slotStrm i) w.ef (laneAct s u i w.g)
        (storeBytes (ltySize w.ty) (laneStoreAccs s u w sp (laneAct s u i w.g)))).map PStore.asIssued := by
  obtain ⟨-, hcur, hparked, -⟩ := id h
  have hfull : bufferFull s u cross.length = false := bufferFull_eq_false (hroom.imp_left fun h0 => by rw [h0]; rfl)
  obtain ⟨t, y, hissue, hy, hsteps, hsch, hhome, hstores⟩ := issueStore_plain (st := slotStrm i) hplain.1
    (w := laneStore w sp (laneAct s u i w.g)) hrel hcross hfull hway
  refine ⟨holdPort t u.id.core (memIv w.ty), ?_, hsteps.lOn (hcur ▸ hy), hhome, hstores⟩
  rw [storeL_passes h hplain hok, if_pos hsp, hissue, portAfter_next (hsch ▸ hparked)]

theorem laneStore_home (hsp : sp ≠ .gsa) (hheld : loadsHeld (afterRel u w.ord w.sc) (slotStrm i) = false)
    (hsound : ∀ b ∈ storeBytes (ltySize w.ty) (laneStoreAccs s u w sp (laneAct s u i w.g)), s.mem.badHome.contains (sectorOf b.1) = false) :
    ∃ t, storeL s sp w = .next t ∧ lOn s t u i ∧ ∀ a, ¬ bellByte s a → homeByte t a =
      (SMap.look (storeBytes (ltySize w.ty) (laneStoreAccs s u w sp (laneAct s u i w.g))) a).getD (homeByte s a) := by
  obtain ⟨-, hcur, hparked, -⟩ := id h
  obtain ⟨t, y, hstore, hy, hsteps, hsch, hbytes⟩ := localStore_sound (st := slotStrm i) hplain.1
    (w := laneStore w sp (laneAct s u i w.g)) hrel hheld hsound
  refine ⟨holdPort t u.id.core (memIv w.ty), ?_, hsteps.lOn (hcur ▸ hy), hbytes⟩
  rw [storeL_passes h hplain hok, if_neg hsp, hstore, portAfter_next (hsch ▸ hparked)]

end

theorem length_of_asIssued {l l' : List PStore} (h : l.map PStore.asIssued = l'.map PStore.asIssued) : l.length = l'.length := by
  simpa using congrArg List.length h

theorem exists_of_asIssued {l l' : List PStore} (h : l.map PStore.asIssued = l'.map PStore.asIssued) {p : PStore} (hp : p ∈ l') :
    ∃ q ∈ l, q.asIssued = p.asIssued :=
  List.mem_map.mp (h ▸ List.mem_map_of_mem hp)

theorem length_storeParts (s : State) (u : Unit) (st : Strm) (ef : Bool) (act : Mask) (m : SMap Byte) :
    (storeParts s u st ef act m).length = (sectorsOf m).length := by
  rw [storeParts, List.length_map, List.length_range]

end Sys2Proof.Machine

section
open Sys2Proof Sys2Proof.Machine

/-- Settles O28: a load issues as a load of any stream does; a store of sound sectors is one write at home, and a global one puts its
parts in the queue, from which some may at once leave for their homes. -/
theorem laneMemoryWords : Obligations.LaneMemoryWords := by
  unfold Obligations.LaneMemoryWords
  refine ⟨?loads, ?stores⟩
  case loads =>
    intro s u i w d hd hplain act n st regs vals local_
    refine ⟨fun h hok => ?_, fun h hok hr => ?_, fun h hok hr => ?_⟩
    · exact (loadL_passes ((withHandle_of_ne (sp := .gsa) (by decide) _ w.b).symm ▸ h) hd hplain hok).trans (laneLoad_global h hplain _ _)
    · exact (loadL_passes ((withHandle_of_ne (sp := .pad) (by decide) _ w.b).symm ▸ h) hd hplain hok).trans
        (laneLoad_now h hplain (by decide) _ hr _)
    · exact (loadL_passes (sp := .hnd) h hd hplain hok).trans (laneLoad_now h hplain (by decide) _ hr _)
  case stores =>
    intro s u i w hplain hrel act n st regs bytes cross home
    refine ⟨fun h hok hroom hway => ?_, fun h hok hheld hsound => ?_, fun h hok hheld hsound => ?_⟩
    · obtain ⟨t, hexec, hon, hhome, hstores⟩ := laneStore_global ((withHandle_of_ne (sp := .gsa) (by decide) _ w.c).symm ▸ h) hplain hrel
        hok rfl rfl hroom hway
      refine ⟨t, hexec, hon, hhome, ?_, fun a b hb => ?_⟩
      · rw [length_of_asIssued hstores, List.length_append, length_storeParts]
        rfl
      · obtain ⟨p, hp, hpb⟩ := exists_storePart s (afterRel u w.ord w.sc) (slotStrm i) w.ef act hb
        obtain ⟨hunit, hseq, -⟩ := mem_storeParts hp
        obtain ⟨q, hq, hqp⟩ := exists_of_asIssued hstores (List.mem_append_right _ hp)
        exact ⟨q, hq, (congrArg PStore.unit hqp).trans (hunit.trans (congrArg some (afterRel_id u w.ord w.sc))),
          (congrArg PStore.seq hqp).symm ▸ hseq, (congrArg (fun x : PStore => SMap.look x.bytes a) hqp).trans hpb⟩
    · exact laneStore_home ((withHandle_of_ne (sp := .pad) (by decide) _ w.c).symm ▸ h) hplain hrel hok (by decide) hheld hsound
    · exact laneStore_home (sp := .hnd) h hplain hrel hok (by decide) hheld hsound

end

namespace Sys2Proof.Machine

/-! ## Lane atomics -/

/-- The registers that a lane atomic names. -/
def laneAtomRegs (w : LM) : List (Nat × Nat) :=
  selRegs w.dst (tyRegs w.ty) ++ selRegs w.a 1 ++ selRegs w.b (tyRegs w.ty) ++
    if lmAtom w.fn = .cas then selRegs w.c (tyRegs w.ty) else if lmSpace w.fn = .hnd then selRegs w.c 1 else []

section
variable {s : State} {u : Unit} {i : Bool} {w : LM} {d : BitVec 7} (h : LReady s u i (laneAtomRegs w)) (hd : w.dst = .v d)
  (hplain : plain s u) (hrel : relOk s u (slotStrm i) w.ord w.sc)
  (hok : laneFail (checksL s u (lmSpace w.fn) w w.c 2 (laneAct s u i w.g)) = none)
include h hd hplain hok

theorem exec_laneAtom_passes : exec (.laneAtom w) s = portAfter (if lmSpace w.fn = .gsa then
        issueAtom s u (slotStrm i) (laneAtom w d (lmSpace w.fn) (laneAct s u i w.g))
          (laneAtomAccs s u w (lmSpace w.fn) (laneAct s u i w.g)) (fun t => t)
      else localAtom s u (slotStrm i) (laneAtom w d (lmSpace w.fn) (laneAct s u i w.g))
        (laneAtomAccs s u w (lmSpace w.fn) (laneAct s u i w.g)))
      u.id.core (if lmSpace w.fn = .gsa then memIv w.ty else 2) := by
  unfold laneAtomRegs at h
  rw [exec_laneAtom, execLaneAtom, laneWord_ready h]
  dsimp only
  rw [checked_pass hok, hd, tsGate_plain hplain]
  rfl

include hrel

/-- The lanes of an atomic on the pad or through a handle are performed one after another. -/
theorem exec_laneAtom_home (hsp : lmSpace w.fn ≠ .gsa) (hheld : loadsHeld (afterRel u w.ord w.sc) (slotStrm i) = false)
    (hsound : ∀ e ∈ laneAtomAccs s u w (lmSpace w.fn) (laneAct s u i w.g), s.mem.badHome.contains (sectorOf e.addr) = false) :
    ∃ t y, exec (.laneAtom w) s = .next t ∧ t.unit? s.cur = some y ∧ Steps u y (slotStrm i) ∧
      t.mem = (atomHome s (lmAtom w.fn) (ltySize w.ty) (laneAtomAccs s u w (lmSpace w.fn) (laneAct s u i w.g))).1.mem ∧
      (y.slot i).fly = (u.slot i).fly ++ flights s u.id.core (if lmSpace w.fn = .hnd then 20 else 12)
        (vRes d.toNat (tyRegs w.ty) (laneAct s u i w.g)
          (atomHome s (lmAtom w.fn) (ltySize w.ty) (laneAtomAccs s u w (lmSpace w.fn) (laneAct s u i w.g))).2) := by
  obtain ⟨hu, hcur, hparked, -⟩ := id h
  obtain ⟨t, y, l, hatom, hy, hsteps, hsch, hmem, hslot, -, hl⟩ := localAtom_sound hplain.1 (hcur.symm ▸ hu)
    (w := laneAtom w d (lmSpace w.fn) (laneAct s u i w.g)) hrel hheld hsound
  refine ⟨holdPort t u.id.core 2, _, ?_, hcur ▸ hy, hsteps, hmem, ?_⟩
  · rw [exec_laneAtom_passes h hd hplain hok, if_neg hsp, if_neg hsp, hatom, portAfter_next (hsch ▸ hparked)]
  · rw [Unit.fly_done, hslot, hl]
    rfl

/-- A lane atomic on global SRAM is queued for its place. -/
theorem exec_laneAtom_global (hsp : lmSpace w.fn = .gsa)
    (hroom : atomPlace u w.sc ≠ .slice → bufferFull s u ((laneAtomAccs s u w (lmSpace w.fn) (laneAct s u i w.g)).filter
      (fun e => decide (gsaDie e.addr ≠ u.die))).length = false) :
    ∃ t y p q, exec (.laneAtom w) s = .next (holdPort t u.id.core (memIv w.ty)) ∧
      AtomQueued s t u y (slotStrm i) (laneAtom w d (lmSpace w.fn) (laneAct s u i w.g))
        (laneAtomAccs s u w (lmSpace w.fn) (laneAct s u i w.g)) p q := by
  obtain ⟨-, -, hparked, -⟩ := id h
  obtain ⟨t, y, p, q, hatom, hq⟩ := issueAtom_plain hplain.1 (w := laneAtom w d (lmSpace w.fn) (laneAct s u i w.g)) hrel hroom
  refine ⟨t, y, p, q, ?_, hq⟩
  rw [exec_laneAtom_passes h hd hplain hok, if_pos hsp, if_pos hsp, hatom, portAfter_next (hq.sch ▸ hparked)]

end

end Sys2Proof.Machine

section
open Sys2Proof Sys2Proof.Machine

/-- Settles O29: off global SRAM the word is the atomics of its lanes at home, in the order of the lanes; on global SRAM it enters the
list of atomics with its group pending. -/
theorem laneAtomics : Obligations.LaneAtomics := by
  unfold Obligations.LaneAtomics
  intro s u i w d hd hplain hrel act n st sp size rc accs h hok
  obtain ⟨-, hcur, -⟩ := id h
  refine ⟨fun hsp hheld hsound => ?_, fun hsp hroom => ?_⟩
  · obtain ⟨t, y, hexec, hy, hsteps, hmem, hfly⟩ := exec_laneAtom_home h hd hplain hrel hok hsp hheld hsound
    exact ⟨t, y, hexec, hy, homeByte_congr (congrArg Memory.sram hmem), hsteps.lpc, hsteps.arch, hfly⟩
  · obtain ⟨t, y, p, q, hexec, hq⟩ := exec_laneAtom_global h hd hplain hrel hok hsp fun hp => bufferFull_eq_false (hroom.resolve_left hp)
    refine ⟨_, y, p, q, hexec, hcur ▸ hq.unit, ⟨homeByte_congr (congrArg Memory.sram hq.mem), hq.mem⟩, hq.steps.lpc, hq.steps.arch,
      hq.pend, hq.dst, hq.what, ?_, hq.issuer, hq.op, hq.accs, hq.place⟩
    rw [holdPort_fl, hq.atoms, List.getLast?_concat]

end

namespace Sys2Proof.Machine

/-! ## Failing checks (R29, R137, R139) -/

/-! ### When a check fails -/

section
variable {s : State} {ctx a n kind win : Nat}

theorem checkGsa_misaligned (h : a % n ≠ 0) : checkGsa s ctx a n kind win = .bad 0x22 a (misInfo n kind) := by
  rw [checkGsa, if_pos h]

theorem checkGsa_outside (h : a % n = 0) (hs : Config.sliceBytes < a % 2 ^ 22 + n) : checkGsa s ctx a n kind win = .bad 0x23 a win := by
  rw [checkGsa, if_neg (not_not.mpr h), if_pos hs]

theorem checkGsa_refused (h : a % n = 0) (hadm : admitted s ctx (gsaCore a) (a % 2 ^ 22) n win = false) :
    checkGsa s ctx a n kind win = .bad 0x23 a win := by
  rw [checkGsa, if_neg (not_not.mpr h), hadm, if_neg Bool.false_ne_true, ite_self]

theorem checkGsa_admitted (h : a % n = 0) (hs : a % 2 ^ 22 + n ≤ Config.sliceBytes)
    (hadm : admitted s ctx (gsaCore a) (a % 2 ^ 22) n win = true) : checkGsa s ctx a n kind win = .ok a := by
  rw [checkGsa, if_neg (not_not.mpr h), if_neg (Nat.not_lt.mpr hs), if_pos hadm]

theorem admitted_iff {core off : Nat} : admitted s ctx core off n win = true ↔
    ∃ e ∈ s.windows, e.1 / 16 = core ∧ e.2.admits ctx off n win = true := by
  simp [admitted, List.any_eq_true]

/-- What an entry admits lies in its range and belongs to its context. -/
theorem Window.admits_range {e : Window} {off : Nat} (h : e.admits ctx off n win = true) :
    e.ctx = ctx ∧ e.base * 4096 ≤ off ∧ off + n ≤ (e.limit + 1) * 4096 := by
  simp only [Window.admits, Bool.and_eq_true, decide_eq_true_eq] at h
  obtain ⟨⟨⟨hctx, hlo⟩, hhi⟩, -⟩ := h
  exact ⟨hctx, hlo, hhi⟩

/-- Within its range an entry admits the kinds of access that it has enabled. -/
theorem Window.admits_enabled {e : Window} {off : Nat} (hctx : e.ctx = ctx) (hlo : e.base * 4096 ≤ off)
    (hhi : off + n ≤ (e.limit + 1) * 4096) :
    e.admits ctx off n 0 = e.rd ∧ e.admits ctx off n 1 = e.wr ∧ e.admits ctx off n 2 = e.at_ := by
  simp [Window.admits, hctx, hlo, hhi]

theorem checkGsa_cause {c t x : Nat} (h : checkGsa s ctx a n kind win = .bad c t x) : c = 0x22 ∨ c = 0x23 := by
  by_cases hal : a % n = 0
  · by_cases hs : Config.sliceBytes < a % 2 ^ 22 + n
    · rw [checkGsa_outside hal hs] at h
      cases h
      exact .inr rfl
    · cases hadm : admitted s ctx (gsaCore a) (a % 2 ^ 22) n win with
      | false =>
        rw [checkGsa_refused hal hadm] at h
        cases h
        exact .inr rfl
      | true =>
        rw [checkGsa_admitted hal (Nat.not_lt.mp hs) hadm] at h
        cases h
  · rw [checkGsa_misaligned hal] at h
    cases h
    exact .inl rfl

end

section
variable {s : State} {u : Unit} {a n kind : Nat}

theorem checkPad_misaligned (h : a % n ≠ 0) : checkPad s u a n kind = .bad 0x22 a (misInfo n kind) := by
  rw [checkPad, if_pos h]

theorem checkPad_aligned (h : a % n = 0) : checkPad s u a n kind = .ok (padEA s u a) := by
  rw [checkPad, if_neg (not_not.mpr h)]

theorem checkPad_cause {c t x : Nat} (h : checkPad s u a n kind = .bad c t x) : c = 0x22 := by
  by_cases hal : a % n = 0
  · rw [checkPad_aligned hal] at h
    cases h
  · rw [checkPad_misaligned hal] at h
    cases h
    rfl

/-- An aligned access through a handle whose number has a buffer. -/
theorem checkHnd_aligned {h off : Nat} {e : Handle} (hal : off % n = 0)
    (he : SMap.look (s.cluster u.cluster).handles (h / 256 % 256) = some e) : checkHnd s u h off n kind =
      if e.holder ≠ some u.id then .bad 0x24 (h % 2 ^ 16) 0
      else if e.gen ≠ h % 256 then .bad 0x24 (h % 2 ^ 16) 1
      else if e.size < off + n then .bad 0x24 (h % 2 ^ 16) 2
      else .ok (e.base + off) := by
  rw [checkHnd, if_neg (not_not.mpr hal), he]

theorem checkHnd_cause {h off c t x : Nat} (hbad : checkHnd s u h off n kind = .bad c t x) : c = 0x22 ∨ c = 0x24 := by
  unfold checkHnd at hbad
  split at hbad
  · cases hbad
    exact .inl rfl
  · right
    split at hbad
    · cases hbad
      rfl
    · split at hbad
      · cases hbad
        rfl
      · split at hbad
        · cases hbad
          rfl
        · split at hbad
          · cases hbad
            rfl
          · cases hbad

end

/-- The cause with which an aligned lane access of a space is denied. -/
def Space.denial (sp : Space) : Nat :=
  match sp with
  | .hnd => 0x24
  | _ => 0x23

theorem checkL_cause {s : State} {u : Unit} {sp : Space} {w : LM} {h : Sel} {kind l c t x : Nat}
    (hbad : checkL s u sp w h kind l = .bad c t x) : c = 0x22 ∨ c = sp.denial := by
  cases sp with
  | pad => exact .inl (checkPad_cause hbad)
  | gsa => exact checkGsa_cause hbad
  | hnd => exact checkHnd_cause hbad

/-! ### Which failure the one trap of a lane word names -/

/-- What a lane's check adds to the failures whose cause satisfies `p`: lane, cause, address and detail. -/
def failure (p : Nat → Bool) (e : Nat × Chk) : Option (Nat × Nat × Nat × Nat) :=
  match e.2 with
  | .bad c a x => if p c then some (e.1, c, a, x) else none
  | .ok _ => none

theorem failure_eq_some {p : Nat → Bool} {e : Nat × Chk} {j d y z : Nat} :
    failure p e = some (j, d, y, z) ↔ e = (j, .bad d y z) ∧ p d = true := by
  obtain ⟨k, c⟩ := e
  cases c with
  | ok a => simp [failure]
  | bad c a x =>
    simp only [failure, Option.ite_none_right_eq_some, Option.some.injEq, Prod.mk.injEq, Chk.bad.injEq]
    constructor
    · rintro ⟨hp, rfl, rfl, rfl, rfl⟩
      exact ⟨⟨rfl, rfl, rfl, rfl⟩, hp⟩
    · rintro ⟨⟨rfl, rfl, rfl, rfl⟩, hp⟩
      exact ⟨hp, rfl, rfl, rfl, rfl⟩

theorem failWith_eq (l : List (Nat × Chk)) (p : Nat → Bool) : failWith l p = (l.filterMap (failure p)).head?.map
    (fun r => (r.2.1, r.2.2.1, r.2.2.2, maskOf (fun k => (l.filterMap (failure p)).any (fun e => decide (e.1 = k))))) := by
  unfold failWith
  extract_lets bad
  have hbad : l.filterMap (failure p) = bad := rfl
  rw [hbad]
  cases bad <;> rfl

section
variable {l : List (Nat × Chk)} {p : Nat → Bool}

theorem mem_failures {j d y z : Nat} : (j, d, y, z) ∈ l.filterMap (failure p) ↔ (j, .bad d y z) ∈ l ∧ p d = true := by
  simp only [List.mem_filterMap, failure_eq_some]
  constructor
  · rintro ⟨e, he, rfl, hp⟩
    exact ⟨he, hp⟩
  · rintro ⟨he, hp⟩
    exact ⟨_, he, rfl, hp⟩

theorem failures_pairwise (hl : (l.map (fun e => e.1)).Pairwise (· < ·)) :
    (l.filterMap (failure p)).Pairwise (fun e f => e.1 < f.1) := by
  refine List.Pairwise.filterMap _ (fun e f hef b hb b' hb' => ?_) (List.pairwise_map.mp hl)
  obtain ⟨rfl, -⟩ := failure_eq_some.mp hb
  obtain ⟨rfl, -⟩ := failure_eq_some.mp hb'
  exact hef

/-- No lane fails with a cause that the search is for. -/
theorem failWith_none (h : failWith l p = none) {j d y z : Nat} (hj : (j, .bad d y z) ∈ l) : p d = false := by
  rw [failWith_eq, Option.map_eq_none_iff, List.head?_eq_none_iff] at h
  by_contra hp
  have hmem := mem_failures.mpr ⟨hj, Bool.of_not_eq_false hp⟩
  rw [h] at hmem
  exact absurd hmem List.not_mem_nil

/-- The failure that is found has a cause that the search is for, is that of the lowest lane, and comes with all lanes that have one. -/
theorem failWith_some (hl : (l.map (fun e => e.1)).Pairwise (· < ·)) {c a x : Nat} {m : Mask} (h : failWith l p = some (c, a, x, m)) :
    p c = true ∧ (∃ k, (k, .bad c a x) ∈ l ∧ ∀ j d y z, (j, .bad d y z) ∈ l → p d = true → k ≤ j) ∧
      ∀ j, j < 32 → (m.getLsbD j = true ↔ ∃ d y z, (j, .bad d y z) ∈ l ∧ p d = true) := by
  rw [failWith_eq, Option.map_eq_some_iff] at h
  obtain ⟨⟨k, d, y, z⟩, hhead, heq⟩ := h
  cases heq
  obtain ⟨r, hr⟩ := List.head?_eq_some_iff.mp hhead
  obtain ⟨hk, hp⟩ := mem_failures.mp (hr ▸ List.mem_cons_self : (k, d, y, z) ∈ l.filterMap (failure p))
  refine ⟨hp, ⟨k, hk, fun j _ _ _ hj hpd => ?_⟩, fun j hj => ?_⟩
  · have hpw := failures_pairwise (p := p) hl
    have hmem := mem_failures.mpr ⟨hj, hpd⟩
    rw [hr] at hpw hmem
    rcases List.mem_cons.mp hmem with heq | hin
    · exact Nat.le_of_eq (congrArg Prod.fst heq).symm
    · exact Nat.le_of_lt (List.rel_of_pairwise_cons hpw hin)
  · rw [getLsbD_maskOf _ hj, List.any_eq_true]
    constructor
    · rintro ⟨⟨j', d, y, z⟩, hin, hdec⟩
      obtain rfl := of_decide_eq_true hdec
      exact ⟨d, y, z, mem_failures.mp hin⟩
    · rintro ⟨d, y, z, hin⟩
      exact ⟨_, mem_failures.mpr hin, decide_eq_true rfl⟩

/-- The one trap of a lane word whose checks know one cause beside misalignment (R139): all lanes that fail with its cause, the address
and the detail of the lowest of them, and misalignment before the other cause. -/
theorem laneFail_some (hl : (l.map (fun e => e.1)).Pairwise (· < ·)) {denial : Nat}
    (hcause : ∀ j d y z, (j, .bad d y z) ∈ l → d = 0x22 ∨ d = denial) {c a x : Nat} {m : Mask} (h : laneFail l = some (c, a, x, m)) :
    (∀ j, j < 32 → (m.getLsbD j = true ↔ ∃ y z, (j, .bad c y z) ∈ l)) ∧
      (∃ k, (k, .bad c a x) ∈ l ∧ ∀ j y z, (j, .bad c y z) ∈ l → k ≤ j) ∧ ((∃ j y z, (j, .bad 0x22 y z) ∈ l) → c = 0x22) := by
  have hone {p : Nat → Bool} (hf : failWith l p = some (c, a, x, m)) (hp : ∀ j d y z, (j, .bad d y z) ∈ l → p d = true → d = c) :
      (∀ j, j < 32 → (m.getLsbD j = true ↔ ∃ y z, (j, .bad c y z) ∈ l)) ∧
        (∃ k, (k, .bad c a x) ∈ l ∧ ∀ j y z, (j, .bad c y z) ∈ l → k ≤ j) := by
    obtain ⟨hc, ⟨k, hk, hmin⟩, hmask⟩ := failWith_some hl hf
    refine ⟨fun j hj => (hmask j hj).trans ⟨?_, fun ⟨y, z, hin⟩ => ⟨c, y, z, hin, hc⟩⟩, k, hk,
      fun j y z hin => hmin j c y z hin hc⟩
    rintro ⟨d, y, z, hin, hpd⟩
    obtain rfl := hp j d y z hin hpd
    exact ⟨y, z, hin⟩
  unfold laneFail at h
  cases hm : failWith l (fun c => decide (c = 0x22)) with
  | some r =>
    rw [hm] at h
    obtain rfl : r = (c, a, x, m) := Option.some.inj h
    have hc : c = 0x22 := of_decide_eq_true (failWith_some hl hm).1
    obtain ⟨hmask, hlow⟩ := hone hm fun j d y z _ hd => (of_decide_eq_true hd).trans hc.symm
    exact ⟨hmask, hlow, fun _ => hc⟩
  | none =>
    rw [hm] at h
    have hnone {j d y z : Nat} (hin : (j, .bad d y z) ∈ l) : d ≠ 0x22 := of_decide_eq_false (failWith_none hm hin)
    have hden {j d y z : Nat} (hin : (j, .bad d y z) ∈ l) : d = denial := (hcause j d y z hin).resolve_left (hnone hin)
    obtain ⟨-, ⟨k, hk, -⟩, -⟩ := failWith_some hl h
    obtain ⟨hmask, hlow⟩ := hone h fun j d y z hin _ => (hden hin).trans (hden hk).symm
    exact ⟨hmask, hlow, fun ⟨j, y, z, hin⟩ => absurd rfl (hnone hin)⟩

end

/-! ### The trap of an access that fails -/

section
variable {s : State} {u : Unit} {m : Bool} {d a : SReg} {ty : MTy} {o : Order} {c t x : Nat}

theorem loadS_bad (h : SReady s u [d, a]) {sp : Space} {off : Nat} (hc : checkS s u sp a off (mtySize ty) 0 = .bad c t x) (rb : Bool) :
    loadS s sp m d a ty o rb off = trapS s u c t x := by
  rw [loadS, sWord_ready h, checked_one_bad hc]

theorem storeS_bad (h : SReady s u [d, a]) {sp : Space} {off : Nat} (hc : checkS s u sp a off (mtySize ty) 1 = .bad c t x) (sc : Scope)
    (ef : Bool) : storeS s sp m d a ty o sc ef off = trapS s u c t x := by
  rw [storeS, sWord_ready h, checked_one_bad hc]

theorem execAtom_bad {op : AtomOp} {w pad : Bool} (h : SReady s u (if op = .cas then [d, a, d + 1] else [d, a]))
    (hc : checkS s u (if pad then .pad else .gsa) a 0 (if w then 8 else 4) 2 = .bad c t x) (sc : Scope) :
    execAtom m d a op w o sc pad s = trapS s u c t x := by
  rw [execAtom, sWord_ready h]
  exact checked_one_bad hc _

end

section
variable {s : State} {u : Unit} {i : Bool} {w : LM} {sp : Space}

theorem loadL_checked (h : LReady s u i (withHandle (selRegs w.dst (tyRegs w.ty) ++ selRegs w.a 1) sp w.b)) :
    ∃ k, loadL s sp w = portAfter (checked s u (slotStrm i) (checksL s u sp w w.b 0 (laneAct s u i w.g)) k) u.id.core (memIv w.ty) := by
  unfold withHandle at h
  rw [loadL, laneWord_ready h]
  exact ⟨_, rfl⟩

theorem storeL_checked (h : LReady s u i (withHandle (selRegs w.a 1 ++ selRegs w.b (tyRegs w.ty)) sp w.c)) :
    ∃ k, storeL s sp w = portAfter (checked s u (slotStrm i) (checksL s u sp w w.c 1 (laneAct s u i w.g)) k) u.id.core (memIv w.ty) := by
  unfold withHandle at h
  rw [storeL, laneWord_ready h]
  exact ⟨_, rfl⟩

theorem exec_laneAtom_checked (h : LReady s u i (laneAtomRegs w)) :
    ∃ k, exec (.laneAtom w) s = portAfter (checked s u (slotStrm i) (checksL s u (lmSpace w.fn) w w.c 2 (laneAct s u i w.g)) k) u.id.core
      (if lmSpace w.fn = .gsa then memIv w.ty else 2) := by
  unfold laneAtomRegs at h
  rw [exec_laneAtom, execLaneAtom, laneWord_ready h]
  exact ⟨_, rfl⟩

theorem mem_checksL {h : Sel} {kind : Nat} {act : Mask} {l : Nat} {c : Chk} :
    (l, c) ∈ checksL s u sp w h kind act ↔ l ∈ lanesOf act ∧ checkL s u sp w h kind l = c := by
  simp only [checksL, List.mem_map, Prod.mk.injEq]
  constructor
  · rintro ⟨k, hk, rfl, rfl⟩
    exact ⟨hk, rfl⟩
  · rintro ⟨hl, hc⟩
    exact ⟨l, hl, rfl, hc⟩

/-- A lane word whose checks fail takes the one trap of R139. -/
theorem checked_fails {h : Sel} {kind : Nat} {act : Mask} {c a x : Nat} {m : Mask} {iv : Nat} {r : Res}
    (hr : ∃ k, r = portAfter (checked s u (slotStrm i) (checksL s u sp w h kind act) k) u.id.core iv)
    (hf : laneFail (checksL s u sp w h kind act) = some (c, a, x, m)) :
    let fails (l : Nat) : Prop := l ∈ lanesOf act ∧ ∃ y z, checkL s u sp w h kind l = .bad c y z
    r = portAfter (takeTrap s u (slotStrm i) c a x m false) u.id.core iv ∧
      (∀ l, l < 32 → (BitVec.getLsbD m l = true ↔ fails l)) ∧
      (∃ l, fails l ∧ checkL s u sp w h kind l = .bad c a x ∧ ∀ k, fails k → l ≤ k) ∧
      ((∃ l ∈ lanesOf act, ∃ y z, checkL s u sp w h kind l = .bad 0x22 y z) → c = 0x22) := by
  intro fails
  have hl : ((checksL s u sp w h kind act).map (fun e => e.1)).Pairwise (· < ·) := by
    rw [checksL, List.map_map]
    exact (List.map_id' (lanesOf act)).symm ▸ lanesOf_pairwise act
  obtain ⟨hmask, ⟨k, hk, hlow⟩, hmis⟩ := laneFail_some hl (fun j d y z hin => checkL_cause (mem_checksL.mp hin).2) hf
  obtain ⟨k', rfl⟩ := hr
  have hfails (l : Nat) : fails l ↔ ∃ y z, (l, .bad c y z) ∈ checksL s u sp w h kind act := by
    simp only [fails, mem_checksL, exists_and_left]
  refine ⟨?_, fun l hlt => (hmask l hlt).trans (hfails l).symm,
    ⟨k, (hfails k).mpr ⟨a, x, hk⟩, (mem_checksL.mp hk).2, fun j hj => ?_⟩, ?_⟩
  · rw [checked, hf]
    dsimp only
    rw [if_neg (slotStrm_ne_s i)]
  · obtain ⟨y, z, hj⟩ := (hfails j).mp hj
    exact hlow j y z hj
  · rintro ⟨j, hj, y, z, hbad⟩
    exact hmis ⟨j, y, z, mem_checksL.mpr ⟨hj, hbad⟩⟩

end

end Sys2Proof.Machine

section
open Sys2Proof Sys2Proof.Machine

/-- Settles O13: the checks are read off their definitions; a scalar word has one check, and the failure that a lane word's trap
names is the first of the list of failures with its cause. -/
theorem accessFaults : Obligations.AccessFaults := by
  unfold Obligations.AccessFaults
  refine ⟨⟨?atoms, ?scalars⟩, ⟨?misaligned, ?slice, ?uncovered, ?covered, ?pad, ?handle⟩, ?lanes⟩
  case atoms =>
    intro s u m d a op w o sc c t i h n
    exact ⟨fun hc => execAtom_bad (w := w) (pad := false) h ((checkS_gsa_base a _ 2).trans hc) sc,
      fun hc => execAtom_bad (w := w) (pad := true) h ((checkS_pad_base a _ 2).trans hc) sc⟩
  case scalars =>
    intro s u m d a ty o sc rb off c t i h n ea
    exact ⟨fun hc => loadS_bad (sp := .gsa) h hc rb, fun hc => loadS_bad (sp := .pad) h hc rb,
      fun hc => storeS_bad (sp := .gsa) h hc sc rb, fun hc => storeS_bad (sp := .pad) h hc sc rb, fun hc => loadS_bad (sp := .hnd) h hc rb,
      fun hc => storeS_bad (sp := .hnd) h hc sc rb⟩
  case misaligned => exact fun s ctx a n kind win h => checkGsa_misaligned h
  case slice => exact fun s ctx a n kind win h hs => checkGsa_outside h hs
  case uncovered =>
    intro s ctx a n kind win h hnone
    refine checkGsa_refused h ?_
    by_contra hadm
    obtain ⟨e, he, hcore, hadmits⟩ := admitted_iff.mp (Bool.of_not_eq_false hadm)
    exact hnone e he ⟨hcore, Window.admits_range hadmits⟩
  case covered =>
    intro s ctx a n e h hs he hcore hctx hlo hhi
    obtain ⟨hrd, hwr, hat⟩ := Window.admits_enabled hctx hlo hhi
    exact ⟨fun hen => checkGsa_admitted h hs (admitted_iff.mpr ⟨e, he, hcore, hrd.trans hen⟩),
      fun hen => checkGsa_admitted h hs (admitted_iff.mpr ⟨e, he, hcore, hwr.trans hen⟩),
      fun hen => checkGsa_admitted h hs (admitted_iff.mpr ⟨e, he, hcore, hat.trans hen⟩)⟩
  case pad => exact fun s u a n kind => ⟨fun h => checkPad_misaligned h, fun h => checkPad_aligned h⟩
  case handle =>
    intro s u h off n kind e hal he
    rw [checkHnd_aligned hal he]
    refine ⟨fun hh => if_pos hh, fun hh hg => ?_, fun hh hg hs => ?_, fun hh hg hs => ?_⟩
    · rw [if_neg (not_not.mpr hh), if_pos hg]
    · rw [if_neg (not_not.mpr hh), if_neg (not_not.mpr hg), if_pos hs]
    · rw [if_neg (not_not.mpr hh), if_neg (not_not.mpr hg), if_neg (Nat.not_lt.mpr hs)]
  case lanes =>
    intro s u i w c a x m act n traps ld sd sp
    have hne {sp : Space} (hsp : sp ≠ .hnd) (regs : List (Nat × Nat)) (h : Sel) := (withHandle_of_ne hsp regs h).symm
    exact ⟨fun h hf => checked_fails (loadL_checked (hne (sp := .gsa) (by decide) _ w.b ▸ h)) hf,
      fun h hf => checked_fails (loadL_checked (hne (sp := .pad) (by decide) _ w.b ▸ h)) hf,
      fun h hf => checked_fails (loadL_checked (sp := .hnd) h) hf,
      fun h hf => checked_fails (storeL_checked (hne (sp := .gsa) (by decide) _ w.c ▸ h)) hf,
      fun h hf => checked_fails (storeL_checked (hne (sp := .pad) (by decide) _ w.c ▸ h)) hf,
      fun h hf => checked_fails (storeL_checked (sp := .hnd) h) hf, fun h hf => checked_fails (exec_laneAtom_checked h) hf⟩

end

namespace Sys2Proof.Machine

/-! ## The new value of an atomic (R82, R146) -/

/-- A sum with a NaN is a NaN, which is not signalling. -/
theorem fadd_nan (rm : Rm) {a b : FVal} (h : (∃ q, a = .nan q) ∨ (∃ q, b = .nan q)) : (fadd rm a b).1 = .nan false := by
  rcases h with ⟨q, rfl⟩ | ⟨q, rfl⟩
  · cases b <;> rfl
  · cases a <;> rfl

/-- The two formats of `fadd`, by the bytes of a location. -/
theorem atomNew_fadd {f : Fmt} {n : Nat} (hf : f = .f32 ∧ n = 4 ∨ f = .f64 ∧ n = 8) (x y cmp : Nat) :
    atomNew .fadd n x y cmp = accAdd f x y := by
  rcases hf with ⟨rfl, rfl⟩ | ⟨rfl, rfl⟩ <;> rfl

theorem accAdd_num {f : Fmt} (h8 : f ≠ .e8m0) {x y r : Nat} {a b : Rat} (hr : r < 2 ^ f.width) (ha : f.num x = some a)
    (hb : f.num y = some b) (hab : f.num r = some (a + b)) (h0 : a + b ≠ 0) : accAdd f x y = r := by
  obtain ⟨hsum, -⟩ := fadd_gives .rne (show (f.decode x).num = some a from ha) (show (f.decode y).num = some b from hb)
  rw [accAdd, encode_num h8 hr hab h0 hsum]

/-- The signed minimum and maximum are taken of the numbers that the values stand for. -/
theorem readInt_atomNew_smin (n old v cmp : Nat) : readInt true (8 * n) (atomNew .smin n old v cmp) =
    min (readInt true (8 * n) old) (readInt true (8 * n) v) := by
  unfold atomNew
  dsimp only
  split <;> omega

theorem readInt_atomNew_smax (n old v cmp : Nat) : readInt true (8 * n) (atomNew .smax n old v cmp) =
    max (readInt true (8 * n) old) (readInt true (8 * n) v) := by
  unfold atomNew
  dsimp only
  split <;> omega

end Sys2Proof.Machine

section
open Sys2Proof Sys2Proof.Machine

/-- Settles O15: `fadd` is the exact sum encoded again, the other operations are read off `atomNew`, and one access at home is one write
of its value. -/
theorem atomicValues : Obligations.AtomicValues := by
  unfold Obligations.AtomicValues
  refine ⟨⟨?sums, ?integers⟩, ?home⟩
  case sums =>
    intro f n x y r a b cmp hf hx hy hr
    rw [atomNew_fadd hf]
    refine ⟨fun ha hb hab h0 => accAdd_num ?_ ?_ ha hb hab h0, fun hnan => ?_⟩
    · rcases hf with ⟨rfl, -⟩ | ⟨rfl, -⟩ <;> decide
    · rcases hf with ⟨rfl, rfl⟩ | ⟨rfl, rfl⟩ <;> exact hr
    · rw [accAdd, fadd_nan .rne hnan]
      rcases hf with ⟨rfl, rfl⟩ | ⟨rfl, rfl⟩ <;> rfl
  case integers =>
    intro n old v cmp hn hold hv
    exact ⟨rfl, rfl, rfl, rfl, rfl, rfl, Nat.min_def, Nat.max_def, readInt_atomNew_smin n old v cmp, readInt_atomNew_smax n old v cmp⟩
  case home =>
    intro s op n e hn old
    rw [atomHome_one]
    exact ⟨rfl, onlyBytes_writeHome s e.addr n _, holds_writeHome s e.addr n _⟩

end

namespace Sys2Proof.Machine

/-! ## Fences and barriers of a simplex unit (R148 to R150) -/

section
variable {s : State} {u : Unit} {st : Strm} {m : Bool} {o : Order} {sc : Scope}

/-- A fence passes once what it orders is done. -/
theorem fenceW_passes (h : u.who.rset = 0) (hrel : relOk s u st o sc) (hacq : acqOrd o = true → loadsHeld (afterRel u o sc) st = false) :
    fenceW s u st m o sc = .next (s.setUnit ((afterRel u o sc).done st m [])) := by
  unfold fenceW
  extract_lets go
  refine (release_passes hrel (pointGate_simplex h s st _ _ _) go).trans ?_
  unfold go
  rw [if_neg]
  · rfl
  · rintro ⟨ho, hheld⟩
    exact absurd hheld (by rw [hacq ho]; exact Bool.false_ne_true)

section
variable {kind idx c : Nat} (hout : (barGet s u kind idx).arrived.contains (ukey u.id) = false)
include hout

/-- An arrival with a legal count that agrees with the open phase joins it. -/
theorem arriveW_joins (h : u.who.rset = 0) (hrel : relOk s u st o sc) {n : Nat} (hn : n = if c = 0 then barFull s u kind else c)
    (hfull : n ≤ barFull s u kind) (hcount : (barGet s u kind idx).count = 0 ∨ (barGet s u kind idx).count = n) :
    arriveW s u st m o sc kind idx c = .next (arriveBar (s.setUnit ((afterRel u o sc).done st m [])) (afterRel u o sc) kind idx n) := by
  subst hn
  unfold arriveW
  extract_lets b full n go
  rw [if_neg (by rw [hout]; exact Bool.false_ne_true), if_neg (Nat.not_lt.mpr hfull), if_neg (fun hne => hcount.elim hne.1 hne.2)]
  exact release_passes hrel (pointGate_simplex h s st _ _ _) go

/-- A count that no set of participants reaches. -/
theorem arriveW_over (hc : barFull s u kind < c) : arriveW s u st m o sc kind idx c = takeTrap s u st 0x2A idx (c % 2 ^ 32) 0 false := by
  unfold arriveW
  extract_lets b full n
  rw [if_neg (by rw [hout]; exact Bool.false_ne_true), if_pos]
  have hn : n = c := if_neg (Nat.ne_of_gt (Nat.zero_lt_of_lt hc))
  exact Nat.lt_of_lt_of_eq hc hn.symm

/-- A count that is not that of the open phase. -/
theorem arriveW_other {n : Nat} (hn : n = if c = 0 then barFull s u kind else c) (hfull : n ≤ barFull s u kind)
    (h0 : (barGet s u kind idx).count ≠ 0) (hne : (barGet s u kind idx).count ≠ n) : arriveW s u st m o sc kind idx c =
      takeTrap s u st 0x2A idx ((barGet s u kind idx).count * 2 ^ 32 + c % 2 ^ 32) 0 false := by
  subst hn
  unfold arriveW
  extract_lets b full n
  rw [if_neg (by rw [hout]; exact Bool.false_ne_true), if_neg (Nat.not_lt.mpr hfull), if_pos ⟨h0, hne⟩]

/-- A wait passes while no arrival of the unit is outstanding. -/
theorem waitW_passes : waitW s u st m kind idx = .next (s.setUnit (u.done st m [])) := by
  unfold waitW
  extract_lets b done_
  rw [if_neg]
  · rfl
  · rintro ⟨hin, -⟩
    exact absurd hin (by rw [hout]; exact Bool.false_ne_true)

end

/-! ### The S words of the three kinds of barrier -/

theorem afterRel_done_s (u : Unit) (o : Order) (sc : Scope) (m : Bool) (l : List Fly) :
    (afterRel u o sc).done .s m l = (afterRel u o sc).sDone m l (u.sS.spc + 1) := by
  obtain ⟨n, c, h⟩ := afterRel_eq u o sc
  rw [h]
  rfl

theorem ofNat_toNat_four (nb : BitVec 4) : (BitVec.ofNat 4 nb.toNat).toNat = nb.toNat := by rw [BitVec.ofNat_toNat, BitVec.setWidth_eq]

theorem exec_arrive {a : SReg} {kind idx : Nat} {nb : BitVec 4} (h : SReady s u [a]) (hk : kind ≤ 2)
    (hidx : idx = if kind = 1 then nb.toNat else 0) :
    exec (if kind = 0 then .barArrive m a o sc else if kind = 1 then .nbarArrive m (BitVec.ofNat 4 idx) a o sc else .dbarArrive m a o sc) s =
      arriveW s u .s m o sc kind idx (u.rs a).toNat := by
  obtain rfl | rfl | rfl : kind = 0 ∨ kind = 1 ∨ kind = 2 := by omega
  · subst hidx
    exact sWord_ready h _
  · subst hidx
    refine (sWord_ready h _).trans ?_
    rw [if_pos rfl, ofNat_toNat_four]
  · subst hidx
    exact sWord_ready h _

theorem exec_wait {kind idx : Nat} {nb : BitVec 4} (h : SReady s u []) (hk : kind ≤ 2) (hidx : idx = if kind = 1 then nb.toNat else 0) :
    exec (if kind = 0 then .barWait m o sc else if kind = 1 then .nbarWait m (BitVec.ofNat 4 idx) o sc else .dbarWait m o sc) s =
      waitW s u .s m kind idx := by
  obtain rfl | rfl | rfl : kind = 0 ∨ kind = 1 ∨ kind = 2 := by omega
  · subst hidx
    exact sWord_ready h _
  · subst hidx
    refine (sWord_ready h _).trans ?_
    rw [if_pos rfl, ofNat_toNat_four]
  · subst hidx
    exact sWord_ready h _

end

/-! ### The completion of a phase of the workgroup barrier -/

/-- The workgroup barrier of a workgroup, where there is one. -/
def wgBar (s : State) (k : Nat) : Option Barrier := (SMap.look s.wgs k).map (fun w => w.bar)

theorem wgBar_barSet {s : State} {u : Unit} {w : Wg} (hw : SMap.look s.wgs u.who.wg = some w) (b : Barrier) :
    wgBar (barSet s u 0 0 b) u.who.wg = some b := by
  simp [wgBar, barSet, SMap.look_upd, hw]

/-- The shadow of a workgroup takes nothing from its barrier. -/
theorem wgBar_capture (s : State) (k ph : Nat) : wgBar (capture s k ph) k = wgBar s k := by
  unfold capture
  split
  · rfl
  · next w hw => simp [wgBar, SMap.look_put, hw]

section
variable {s : State} {u : Unit} {n : Nat} {w : Wg} (hw : SMap.look s.wgs u.who.wg = some w) (hcount : w.bar.count = 0 ∨ w.bar.count = n)
include hw hcount

theorem wgBar_arriveBar : wgBar (arriveBar s u 0 0 n) u.who.wg = some (if w.bar.arrived.length + 1 < n then
      { w.bar with count := n, arrived := w.bar.arrived ++ [ukey u.id] } else { count := 0, arrived := [], phases := w.bar.phases + 1 }) := by
  have hb : barGet s u 0 0 = w.bar := by simp only [barGet, hw]
  have hn : (if w.bar.count = 0 then n else w.bar.count) = n := by
    split
    · rfl
    · next h0 => exact hcount.resolve_left h0
  unfold arriveBar
  rw [hb]
  dsimp only
  rw [hn, List.length_append, List.length_singleton]
  split
  · exact wgBar_barSet hw _
  · rw [if_pos rfl, wgBar_capture, wgBar_barSet hw]

end

end Sys2Proof.Machine

section
open Sys2Proof Sys2Proof.Machine

/-- Settles O16: fences, arrivals and waits by the branches of their words for any stream, and the phase by what `arriveBar` makes of
the barrier. -/
theorem fenceAndBarrierWords : Obligations.FenceAndBarrierWords := by
  unfold Obligations.FenceAndBarrierWords
  refine ⟨?fence, ?barriers, ?phase⟩
  case fence =>
    intro s u m o sc h hs hrel hacq
    rw [exec_fence, execFence, sWord_ready h]
    exact (fenceW_passes hs hrel hacq).trans (by rw [afterRel_done_s])
  case barriers =>
    intro s u m o sc a nb kind idx hs w q hk hidx
    refine ⟨fun h hrel => ?joins, fun h hout => ?traps, fun h hout => ?waits⟩
    case joins =>
      intro c n hout hfull hcount
      rw [← afterRel_done_s]
      exact (exec_arrive h hk hidx).trans (arriveW_joins hout hs hrel rfl hfull hcount)
    case traps =>
      intro c
      exact ⟨fun hc => (exec_arrive h hk hidx).trans (arriveW_over hout hc),
        fun n hn hfull h0 hne => (exec_arrive h hk hidx).trans (arriveW_other hout hn hfull h0 hne)⟩
    case waits => exact (exec_wait h hk hidx).trans (waitW_passes hout)
  case phase =>
    intro s u n w hw hcount hn
    refine ⟨_, wgBar_arriveBar hw hcount, fun hlt => if_pos hlt, fun hle => if_neg (Nat.not_lt.mpr hle)⟩

end

namespace Sys2Proof.Machine

/-! ## Lane fence and barrier words (R148 to R151) -/

section
variable {s : State} {u : Unit} {i : Bool} {w : LM} {regs : List (Nat × Nat)}

/-- A word that names fewer registers is ready as well. -/
theorem LReady.left {more : List (Nat × Nat)} (h : LReady s u i (regs ++ more)) : LReady s u i regs := by
  obtain ⟨hu, hcur, hparked, hslot, hregs⟩ := h
  rw [List.any_append, Bool.or_eq_false_iff] at hregs
  exact ⟨hu, hcur, hparked, hslot, hregs.1⟩

theorem LReady.bare (h : LReady s u i regs) : LReady s u i [] := LReady.left (regs := []) h

section
variable (h : LReady s u i regs)
include h

theorem laneSync_ready (k : Unit → Strm → Mask → Res) :
    laneSync s w regs k = portAfter (k u (slotStrm i) (laneAct s u i w.g)) u.id.core 1 := by
  rw [laneSync, laneWord_ready h]

/-- While both path slots are live a barrier word takes the divergent-barrier trap. -/
theorem laneBar_dual (hd : u.dual = true) (k : Unit → Strm → Nat → Res) :
    laneBar s w regs k = portAfter (takeTrap s u (slotStrm i) 0x2B 0 w.fn.toNat 0 false) u.id.core 1 := by
  rw [laneBar, laneSync_ready h, if_pos hd]

/-- On an undivided slot a barrier word runs its meaning for the lowest active lane. -/
theorem laneBar_lowest (hd : u.dual = false) {l : Nat} {r : List Nat} (hl : lanesOf (laneAct s u i w.g) = l :: r)
    (k : Unit → Strm → Nat → Res) : laneBar s w regs k = portAfter (k u (slotStrm i) l) u.id.core 1 := by
  rw [laneBar, laneSync_ready h, hd, if_neg Bool.false_ne_true, hl]

/-- Without an active lane a barrier word only goes on. -/
theorem laneBar_noLane (hd : u.dual = false) (hl : lanesOf (laneAct s u i w.g) = []) (k : Unit → Strm → Nat → Res) :
    laneBar s w regs k = .next (holdPort (s.setUnit (u.done (slotStrm i) w.m [])) u.id.core 1) := by
  rw [laneBar, laneSync_ready h, hd, if_neg Bool.false_ne_true, hl]
  exact h.bare.goes _

end

end

end Sys2Proof.Machine

section
open Sys2Proof Sys2Proof.Machine

/-- Settles O30: a lane word is the fence, the arrival or the wait of its stream with the operands of the lowest active lane, and then
holds the port. -/
theorem laneSyncWords : Obligations.LaneSyncWords := by
  unfold Obligations.LaneSyncWords
  intro s u i w hs st act go v joins joined
  refine ⟨?fence, ?arrivals, ?waits, ?divergent, ?count, ?noLane⟩
  case fence =>
    intro h hrel hacq
    rw [exec_laneFence, execLaneFence, laneSync_ready h, fenceW_passes hs hrel hacq]
    exact h.bare.goes _
  case arrivals =>
    intro l r hd hl hrel
    refine ⟨fun h hjoin hparked => ?_, fun h hjoin hparked => ?_⟩
    all_goals obtain ⟨hout, hfull, hcount⟩ := hjoin
    · rw [exec_laneBarArrive, execLaneBarArrive, laneBar_lowest h hd hl, arriveW_joins hout hs hrel rfl hfull hcount]
      exact portAfter_next hparked _ _
    · rw [exec_laneNbarArrive, execLaneNbarArrive, laneBar_lowest h hd hl, arriveW_joins hout hs hrel rfl hfull hcount]
      exact portAfter_next hparked _ _
  case waits =>
    intro l r hd hl
    refine ⟨fun h hout => ?_, fun h hout => ?_⟩
    · rw [exec_laneBarWait, execLaneBarWait, laneBar_lowest h hd hl, waitW_passes hout]
      exact h.bare.goes _
    · rw [exec_laneNbarWait, execLaneNbarWait, laneBar_lowest h hd hl, waitW_passes hout]
      exact h.bare.goes _
  case divergent =>
    intro traps hd dv
    refine ⟨fun h => ?_, fun h => ?_, fun h => ?_, fun h => ?_⟩
    · exact (exec_laneBarArrive s).trans (laneBar_dual (w := w) h hd _)
    · exact (exec_laneBarWait s).trans (laneBar_dual (w := w) h hd _)
    · exact (exec_laneNbarArrive s).trans (laneBar_dual (w := w) h hd _)
    · exact (exec_laneNbarWait s).trans (laneBar_dual (w := w) h hd _)
  case count =>
    intro l r hd hl hout hc h
    rw [exec_laneBarArrive, execLaneBarArrive, laneBar_lowest h hd hl, arriveW_over hout hc]
  case noLane =>
    intro hd hl h
    exact ⟨(exec_laneBarArrive s).trans (laneBar_noLane h.left hd hl _), (exec_laneNbarArrive s).trans (laneBar_noLane h hd hl _)⟩

end

namespace Sys2Proof.Machine

/-! ## Monitors (R152) -/

section
variable {s : State} {u : Unit}

theorem Unit.tookLead_simplex (h : u.who.rset = 0) : u.tookLead = u := if_pos h

theorem tellReplicas_simplex (h : u.who.rset = 0) (v : Nat) : tellReplicas s u v = s := if_neg fun hr => hr.1 h

/-- `mwait` goes on once no armed monitor is left that has not fired. -/
theorem exec_mwait_fired {a : SReg} (h : SReady s u [a]) (hs : u.who.rset = 0) (hfired : ∀ x, u.mon = some x → x.fired = true)
    (m : Bool) : exec (.mwait m a) s = .next (s.setUnit ({ u with mon := none }.sDone m [] (u.sS.spc + 1))) := by
  rw [exec_mwait, execMwait, sWord_ready h, Unit.takes_simplex hs, if_neg Bool.false_ne_true, u.tookLead_simplex hs, tellReplicas_simplex hs]
  cases hmon : u.mon with
  | none => rfl
  | some x =>
    dsimp only
    rw [if_pos (hfired x hmon)]
    rfl

/-- A timeout that has passed takes the monitor-timeout trap. -/
theorem exec_monitorTimeout_passed {t since tick : Nat} {x : Monitor} (hu : s.unit? u.id = some u)
    (hpark : u.sS.park = some { why := .monitor t, since := since, tick := tick }) (hmon : u.mon = some x) (hfired : x.fired = false)
    (ht : t ≠ 0) (hpassed : since + t < s.clk.now) (hdue : u.trap.due = none) (hrun : u.stopped = false) (hs : u.who.rset = 0) :
    exec (.monitorTimeout u.id) s = trapS s u 0x2C x.addr t := by
  simp only [exec_monitorTimeout, execMonitorTimeout, hu, hpark, hmon, hfired, hdue, hrun]
  rw [if_pos ⟨rfl, ht, hpassed, rfl, trivial⟩, monTimeout, tellReplicas_simplex hs, u.tookLead_simplex hs, hmon]

theorem preciseFrame_tcause {cause : Nat} (h : cause < 2 ^ 16) (addr info : Nat) (lanes : Mask) (adv : Bool) :
    (preciseFrame s u .s cause addr info lanes adv).tcause = BitVec.ofNat 32 (2 ^ 31 + 2 ^ 17 + cause) := by
  simp [preciseFrame, Frame.tcause, Nat.mod_eq_of_lt (show cause < 65536 from h)]

/-! ## Handles (R153) -/

theorem look_setHandle (cl k : Nat) (h : Handle) : SMap.look ((setHandle s cl k h).cluster cl).handles k = some h := by
  simp [setHandle]

/-- A handle has no part in the time of a core. -/
theorem flights_setHandle (cl k : Nat) (h : Handle) (core lat : Nat) (rs : List FRes) :
    flights (setHandle s cl k h) core lat rs = flights s core lat rs := by
  have hpulse : ((setHandle s cl k h).cluster (clusterOf core)).pulse = (s.cluster (clusterOf core)).pulse := by
    rw [setHandle, cluster_setCluster]
    split
    · next heq => rw [heq]
    · rfl
  unfold flights dueAt pulses
  rw [hpulse]
  rfl

theorem giveBad_none {h : Handle} {g : Nat} {r : UnitId} (hh : h.holder = some u.id) (hg : h.gen = g) :
    giveBad u (some h) g (some r) = none := by
  simp [giveBad, hh, hg]

/-- A give by the holder offers the handle to its recipient. -/
theorem exec_hgive_held {a b : SReg} {h : Handle} {r : UnitId} (hr : SReady s u [a, b]) (hs : u.who.rset = 0) (hrel : relClear s u .s .cl)
    (hlook : SMap.look (s.cluster u.cluster).handles ((u.rs a).toNat % 2 ^ 16 / 256) = some h) (hh : h.holder = some u.id)
    (hg : h.gen = (u.rs a).toNat % 256) (hrec : recipient u ((u.rs b).toNat % 2 ^ 16) = some r) (m : Bool) :
    exec (.hgive m a b) s = .next ((spoil (setHandle s u.cluster ((u.rs a).toNat % 2 ^ 16 / 256)
      { h with holder := none, offer := some r, opened := false }) u).setUnit ((u.released .cl).done .s m [])) := by
  have hgen : h.gen = (u.rs a).toNat % 2 ^ 16 % 256 := by omega
  rw [exec_hgive, execHgive, sWord_ready hr]
  dsimp only
  rw [hlook, hrec, giveBad_none hh hgen]
  dsimp only
  rw [roomGate_simplex hs, cmdGate_simplex hs, releaseGate_clear hrel]
  rfl

section
variable {d a : SReg} (hr : SReady s u [d, a]) (m : Bool)
include hr

/-- A take by the unit to which the handle is offered. -/
theorem exec_htake_offered {h : Handle} (hlook : SMap.look (s.cluster u.cluster).handles ((u.rs a).toNat / 256 % 256) = some h)
    (hoffer : h.offer = some u.id) : exec (.htake m d a) s = .next (sNext (spoil (setHandle s u.cluster ((u.rs a).toNat / 256 % 256)
      { h with gen := nextGen h.gen, holder := some u.id, offer := none, opened := false }) u) u m 12
        [.s d (BitVec.ofNat 64 ((u.rs a).toNat / 256 % 256 * 256 + nextGen h.gen))]) := by
  rw [exec_htake, execHtake, sWord_ready hr]
  dsimp only
  rw [hlook]
  dsimp only
  rw [if_pos (.inl hoffer)]
  rfl

theorem exec_htake_refused (hno : ∀ h, SMap.look (s.cluster u.cluster).handles ((u.rs a).toNat / 256 % 256) = some h →
      h.offer ≠ some u.id ∧ ¬ (h.opened = true ∧ h.team = u.who.team)) : exec (.htake m d a) s = .next (sNext s u m 12 [.s d 0]) := by
  rw [exec_htake, execHtake, sWord_ready hr]
  dsimp only
  cases hlook : SMap.look (s.cluster u.cluster).handles ((u.rs a).toNat / 256 % 256) with
  | none => rfl
  | some h =>
    obtain ⟨hoffer, hopen⟩ := hno h hlook
    dsimp only
    rw [if_neg (not_or.mpr ⟨hoffer, hopen⟩)]
    rfl

end

end

end Sys2Proof.Machine

section
open Sys2Proof Sys2Proof.Machine

/-- Settles O17: the words by the branch that the hypotheses choose, the timeout's trap by the frame with which its handler is entered. -/
theorem monitorAndHandleWords : Obligations.MonitorAndHandleWords := by
  unfold Obligations.MonitorAndHandleWords
  refine ⟨⟨?mon, ?mwait, ?timeout, ?timeoutEnters⟩, ?give, ?take, ?refused⟩
  case mon =>
    intro s u m a h hok
    rw [exec_mon, execMon, sWord_ready h]
    dsimp only
    rw [hok]
    rfl
  case mwait => exact fun s u m a h hs hfired => exec_mwait_fired h hs hfired m
  case timeout =>
    intro s u t since tick x hu hpark hmon hfired ht hpassed hdue hrun hs
    exact exec_monitorTimeout_passed hu hpark hmon hfired ht hpassed hdue hrun hs
  case timeoutEnters =>
    intro s u t since tick x h off hu hpark hmon hfired ht hpassed hset hdue hrun hs hin hh
    obtain ⟨y, hy, -, hcause, -⟩ := enterTrap_regs s u .s h off (preciseFrame s u .s 0x2C x.addr t 0 false)
    refine ⟨_, (exec_monitorTimeout_passed hu hpark hmon hfired ht hpassed hdue hrun hs).trans
      (trapS_enter hin hdue hset rfl hh x.addr t), ?_⟩
    rw [hy, Option.map_some, hcause, preciseFrame_tcause (by decide)]
  case give =>
    intro s u m a b h r hr hs hrel hlook hh hg hrec
    obtain ⟨-, hcur, -⟩ := id hr
    refine ⟨_, exec_hgive_held hr hs hrel hlook hh hg hrec m, rfl, look_setHandle _ _ _, _, unit?_setUnit_id _ hcur, rfl, ?_⟩
    exact sameArch_done (u.released .cl) u.pend u.mon u.code .s m []
  case take =>
    intro s u m d a h hr hlook hoffer
    obtain ⟨-, hcur, -⟩ := id hr
    refine ⟨_, _, exec_htake_offered hr m hlook hoffer, unit?_setUnit_id _ hcur, rfl, sameArch_done u u.pend u.mon u.code .s m _,
      look_setHandle _ _ _, ?_⟩
    exact congrArg (u.sS.fly ++ ·) (flights_setHandle _ _ _ _ _ _)
  case refused => exact fun s u m d a hr hno => exec_htake_refused hr m hno

end

namespace Sys2Proof.Machine

/-! ## Timelines (R155) -/

section
variable {s : State} {u : Unit}

/-- A raised timeline, and every other. -/
theorem timelineOf_raiseTimeline (ctx n v k : Nat) : timelineOf (raiseTimeline s ctx n v) ctx k =
    if k = n then (timelineOf s ctx k).map (fun t => { t with val := max t.val v }) else timelineOf s ctx k := by
  unfold timelineOf raiseTimeline
  dsimp only
  rw [SMap.look_upd, if_pos rfl]
  cases hc : SMap.look s.ctxs ctx with
  | none => simp
  | some c => exact SMap.look_upd c.tls n _ k

section
variable {a b : SReg} (h : SReady s u [a, b]) (m : Bool)
include h

theorem exec_tlw_reached {t : Timeline} (ht : timelineOf s u.who.ctx ((u.rs a).toNat % 4096) = some t) (hv : (u.rs b).toNat ≤ t.val) :
    exec (.tlw m a b) s = .next (s.setUnit (u.sDone m [] (u.sS.spc + 1))) := by
  rw [exec_tlw, execTlw, sWord_ready h]
  dsimp only
  rw [ht]
  exact if_pos hv

theorem exec_tls_software {t : Timeline} (hs : u.who.rset = 0) (hrel : relClear s u .s .dev)
    (ht : timelineOf s u.who.ctx ((u.rs a).toNat % 4096) = some t) (hsw : t.owner = .software) : exec (.tls m a b) s =
      .next ((spoil (raiseTimeline s u.who.ctx ((u.rs a).toNat % 4096) (u.rs b).toNat) u).setUnit ((u.released .dev).done .s m [])) := by
  rw [exec_tls, execTls, sWord_ready h]
  dsimp only
  rw [ht]
  dsimp only
  rw [if_neg (not_not.mpr hsw), roomGate_simplex hs, cmdGate_simplex hs, releaseGate_clear hrel, Unit.performs_simplex hs, if_pos rfl]
  rfl

/-- A number that is not allocated. -/
theorem exec_tlw_tls_unallocated (ht : timelineOf s u.who.ctx ((u.rs a).toNat % 4096) = none) :
    exec (.tlw m a b) s = trapS s u 0x2D ((u.rs a).toNat % 4096) 0 ∧ exec (.tls m a b) s = trapS s u 0x2D ((u.rs a).toNat % 4096) 0 := by
  rw [exec_tlw, execTlw, exec_tls, execTls, sWord_ready h, sWord_ready h]
  dsimp only
  rw [ht]
  exact ⟨rfl, rfl⟩

end

theorem exec_tlr_simplex {d a : SReg} (h : SReady s u [d, a]) (hs : u.who.rset = 0) {t : Timeline}
    (ht : timelineOf s u.who.ctx ((u.rs a).toNat % 4096) = some t) (m : Bool) : exec (.tlr m d a) s =
      .next (issuePend s u .s m 1 (newPend s u .s (.s d) (.tlr ((u.rs a).toNat % 4096)) false 1 none)) := by
  rw [exec_tlr, execTlr, sWord_ready h]
  dsimp only
  rw [ht]
  exact if_pos hs

/-! ## The touchstone words (R156) -/

theorem setTsn_ready (h : SReady s u []) {c : Ctx} (hc : SMap.look s.ctxs u.who.ctx = some c) (m : Bool) (mode : Nat) : setTsn s m mode =
    .next (s.setUnit ((if c.tsOn then { u with tsMode := mode } else u).sDone m [] (u.sS.spc + 1))) := by
  rw [setTsn, sWord_ready h]
  dsimp only
  rw [hc]
  dsimp only
  by_cases hon : c.tsOn = true
  · rw [if_pos hon, if_pos hon]
    rfl
  · rw [if_neg hon, if_neg hon]
    rfl

end

end Sys2Proof.Machine

section
open Sys2Proof Sys2Proof.Machine

/-- Settles O18: the words by the branch that the hypotheses choose; `tls` updates one entry of one context's timelines. -/
theorem timelineWords : Obligations.TimelineWords := by
  unfold Obligations.TimelineWords
  refine ⟨⟨?tlw, ?tls, ?tlr, ?unallocated⟩, ?tsn⟩
  case tlw => exact fun s u m a b t h ht hv => exec_tlw_reached h m ht hv
  case tls =>
    intro s u m a b t h hs hrel ht hsw
    obtain ⟨-, hcur, -⟩ := id h
    refine ⟨_, exec_tls_software h m hs hrel ht hsw, rfl, ?_, fun k hk => ?_, _, unit?_setUnit_id _ hcur, rfl,
      sameArch_done (u.released .dev) u.pend u.mon u.code .s m []⟩
    · have hraised := timelineOf_raiseTimeline (s := s) u.who.ctx ((u.rs a).toNat % 4096) (u.rs b).toNat ((u.rs a).toNat % 4096)
      rw [if_pos rfl, ht] at hraised
      exact congrArg (Option.map Timeline.val) hraised
    · exact (timelineOf_raiseTimeline u.who.ctx ((u.rs a).toNat % 4096) (u.rs b).toNat k).trans (if_neg hk)
  case tlr => exact fun s u m d a t h hs ht => exec_tlr_simplex h hs ht m
  case unallocated => exact fun s u m a b h ht => exec_tlw_tls_unallocated h m ht
  case tsn =>
    intro s u m c h hc mode
    exact ⟨setTsn_ready h hc m 0, setTsn_ready h hc m 1, setTsn_ready h hc m 2⟩

end

namespace Sys2Proof.Machine

/-! ## A store through a handle across two sectors

The statement of O12 asks that the sector of a store's first byte be sound. Nothing in it says that a buffer begins at an aligned
address, as those that R235 carves do: a check reads the offset alone, so an 8-byte store at offset 0 of a buffer that begins in the last
byte of a sector reaches the next sector too. Where that one is poisoned, the store leaves an imprecise fault (R233), and the trap registers
of its unit are not as they were. -/

/-- The warp that stores: `s6` holds the handle of buffer 3 in generation 7. -/
def straddleUnit : Unit :=
  let who : Ident := { ctx := 1, grid := 1, team := 1, wg := 1, isLm := false, producer := true, leader := true, cls := 0, rset := 0, rep := 0,
                       rmode := 0, warpid := 0, wgid := 0, teamid := 0, dieid := 0, gridid := 0, coreid := 0, sbase := 0x1000, slen := 64,
                       lbase := 0x2000, llen := 64 }
  let u := newUnit ⟨0, 0⟩ who 0 0 1
  { u with sS := { u.sS with s := [(6, 0x307)] } }

/-- Its machine: the buffer begins in the last byte of sector 0x2800, and sector 0x2801 is poisoned. -/
def straddleState : State :=
  let h : Handle := { team := 1, base := 0x5001F, size := 64, gen := 7, holder := some ⟨0, 0⟩, offer := none, opened := false }
  { State.reset with
    units := [(ukey ⟨0, 0⟩, straddleUnit)], clusters := [(0, { Cluster.init with handles := [(3, h)] })],
    mem := { State.reset.mem with badHome := [0x2801] } }

/-- The store: eight bytes at offset 0 of the buffer. -/
def straddleStore : Instr := .sth false 0 6 .b64 .rlx .wg false 0

/-- The causes in the imprecise queue of the unit at the cursor of `s` after an instruction. -/
def imprecise (s : State) (r : Res) : Option (List Nat) :=
  match r with
  | .next t => (t.unit? s.cur).map (fun u => u.trap.imp.map (fun e => e.code))
  | _ => none

theorem straddle_ready : SReady straddleState straddleUnit [0, 6] := ⟨rfl, rfl, by decide, by decide⟩

theorem straddle_checked : checkHnd straddleState straddleUnit ((straddleUnit.rs 6).toNat % 2 ^ 16)
    ((straddleUnit.rs 6).toNat / 2 ^ 32 + (0 : BitVec 4).toNat * 8) 8 1 = .ok 0x5001F := by decide

theorem straddle_first_sound : straddleState.mem.badHome.contains (sectorOf 0x5001F) = false := by decide

/-- The store leaves a fault of its second sector behind. -/
theorem straddle_faults : imprecise straddleState (exec straddleStore straddleState) = some [0x43] := by decide

/-- A word that leaves every register of its unit leaves the imprecise queue. -/
theorem imprecise_of_sOn {s t : State} {u : Unit} (h : sOn s t u) : imprecise s (.next t) = some (u.trap.imp.map (fun e => e.code)) := by
  obtain ⟨v, hv, -, -, -, -, -, -, -, htrap, -, -⟩ := h
  simp only [imprecise, hv, htrap, Option.map_some]

end Sys2Proof.Machine

section
open Sys2Proof Sys2Proof.Machine

/-- Refutes O12: a store through a handle to a buffer that begins in the last byte of a sound sector reaches the poisoned sector after
it, and faults. -/
theorem not_scalarMemoryWords : ¬ Obligations.ScalarMemoryWords := by
  unfold Obligations.ScalarMemoryWords
  rintro ⟨-, hstores⟩
  have hplain : plain straddleState straddleUnit := ⟨rfl, trivial⟩
  have hrel : relOk straddleState straddleUnit .s .rlx .wg := fun hr => absurd hr (by decide)
  obtain ⟨-, -, hhandle⟩ := hstores straddleState straddleUnit false 0 6 .b64 .rlx .wg false 0 0x5001F straddle_ready hplain hrel
  obtain ⟨t, hexec, -, -, hon⟩ := hhandle straddle_checked (by decide) straddle_first_sound
  have hkept := imprecise_of_sOn hon
  rw [← hexec] at hkept
  exact absurd (straddle_faults.symm.trans hkept) (by decide)

end

namespace Sys2Proof.Machine

/-! ## Home bytes through several writes (R211, R254) -/

theorem SMap.look_append {α : Type} (m r : SMap α) (k : Nat) : SMap.look (m ++ r) k = (SMap.look m k).or (SMap.look r k) := by
  induction m with
  | nil => rfl
  | cons e t ih =>
    rw [List.cons_append, SMap.look, SMap.look, ih]
    split <;> rfl

/-- A write lists a byte by a part of it that does, the parts before it being of other bytes. -/
theorem SMap.look_flatMap {α β : Type} {l : List α} {f : α → SMap β} {e : α} {k : Nat} {b : β} (he : e ∈ l)
    (hb : SMap.look (f e) k = some b) (ho : ∀ x ∈ l, x ≠ e → SMap.look (f x) k = none) : SMap.look (l.flatMap f) k = some b := by
  induction l with
  | nil => cases he
  | cons x t ih =>
    rw [List.flatMap_cons, SMap.look_append]
    by_cases hx : x = e
    · rw [hx, hb]
      rfl
    · rw [ho x List.mem_cons_self hx, Option.none_or]
      exact ih ((List.mem_cons.mp he).resolve_left (Ne.symm hx)) fun y hy => ho y (List.mem_cons_of_mem x hy)

theorem SMap.look_flatMap_none {α β : Type} {l : List α} {f : α → SMap β} {k : Nat} (h : ∀ x ∈ l, SMap.look (f x) k = none) :
    SMap.look (l.flatMap f) k = none := by
  induction l with
  | nil => rfl
  | cons x t ih =>
    rw [List.flatMap_cons, SMap.look_append, h x List.mem_cons_self, Option.none_or]
    exact ih fun y hy => h y (List.mem_cons_of_mem x hy)

/-- The bytes of four-byte counters at `x + 4 * i` are of different places. -/
theorem keys_counters_nodup {l : List Nat} (hl : l.Nodup) (x : Nat) (v : Nat → Nat) :
    ((l.flatMap (fun i => bytesAt (x + 4 * i) (leBytes 4 (v i)))).map (fun e => e.1)).Nodup := by
  rw [List.map_flatMap]
  refine List.nodup_flatMap.mpr ⟨fun i _ => keys_bytesAt_nodup _ _, hl.imp fun {i j} hne => ?_⟩
  intro k hi hj
  obtain ⟨e, he, rfl⟩ := List.mem_map.mp hi
  obtain ⟨f, hf, hfe⟩ := List.mem_map.mp hj
  have hei := mem_bytesAt he
  have hfj := mem_bytesAt hf
  rw [leBytes_length] at hei hfj
  omega

theorem bellByte_congr {s t : State} (h : t.queues = s.queues) (a : Nat) : bellByte t a ↔ bellByte s a := by
  rw [bellByte, bellByte, h]

/-- A doorbell block once a queue was replaced is one of before, or that of the queue. -/
theorem bellByte_setQueue {s : State} {k : Nat} {q : HwQueue} {a : Nat} (h : bellByte (setQueue s k q) a) :
    bellByte s a ∨ q.desc.tenant = none ∧ q.desc.bell + 8 ≤ a ∧ a < q.desc.bell + 24 := by
  have hsync (t : State) : (syncBell t q).queues = t.queues := by
    unfold syncBell
    split
    · rfl
    · exact putHome_queues t _
  have hput : (setQueue s k q).queues = SMap.put s.queues k q := by
    unfold setQueue
    split
    · split
      · rfl
      · exact hsync _
    · exact hsync _
  obtain ⟨e, he, hblock⟩ := h
  rw [hput] at he
  rcases SMap.mem_put he with rfl | he
  · exact .inr hblock
  · exact .inl ⟨e, he, hblock⟩

/-- A write at home gives no queue another doorbell block. -/
theorem bellByte_of_writeHome {s : State} {l : List (Nat × Byte)} {a : Nat} (h : bellByte (writeHome s l) a) : bellByte s a := by
  have hput : bellByte (putHome s l) a → bellByte s a := (bellByte_congr (putHome_queues s l) a).mp
  refine List.foldlRecOn (motive := fun t => bellByte t a → bellByte s a) _ _ hput (fun t ht e he => ?_) h
  rw [putHome_queues] at he
  dsimp only
  split
  · intro hb
    rcases bellByte_setQueue hb with hb | hb
    · exact ht hb
    · rw [HwQueue.tailTo_desc] at hb
      exact ⟨e, he, hb⟩
  · exact ht

end Sys2Proof.Machine

namespace Sys2Proof.Machine

/-! ## Commands handed to an engine (R159 to R163, R177) -/

section
variable {s : State} {u : Unit} {r : SReg}

/-- A register without a pending result waits for no mailbox. -/
theorem Unit.mbPend_of_clear (h : u.sPend r = false) : u.mbPend r = none := by
  unfold Unit.mbPend
  split
  · rfl
  · rw [List.find?_eq_none.mpr fun p hp => ?_]
    · rfl
    · have hclear := List.any_eq_false.mp h p hp
      simp only [Bool.and_eq_true, not_and] at hclear ⊢
      exact fun hps _ => hclear hps.1 hps.2

theorem statusGate_clear (h : r = 0 ∨ u.sPend r = false) (k : Res) : statusGate s u r k = k := by
  unfold statusGate
  split
  · rfl
  · next h0 =>
    have hclear := h.resolve_left h0
    rw [Unit.mbPend_of_clear hclear, hclear]
    rfl

/-- A simplex unit has a free command slot, nothing to release, and no result pending on the status register that its command
names (R163). -/
structure CommandFree (s : State) (u : Unit) (r : SReg) : Prop where
  simplex : u.who.rset = 0
  release : relClear s u .s .dev
  slots : (jobsOf s u).length < 64
  status : r = 0 ∨ u.sPend r = false

theorem commandGate_free (h : CommandFree s u r) (kind : Nat) (ops : List Nat) (k : Res) : commandGate s u kind ops r k = k := by
  rw [commandGate, statusGate_clear h.status, if_neg (Nat.not_le.mpr h.slots), roomGate_simplex h.simplex, cmdGate_simplex h.simplex,
    releaseGate_clear h.release]

theorem statusPend_simplex (h : u.who.rset = 0) (r : SReg) (what : PWhat) :
    statusPend s u r what = if r = 0 then none else some (newPend s u .s (.s r) what false 1 none) := by
  rw [statusPend, if_pos h]

/-- What pends after a command that names status register `r`, beside what pended before. -/
def statusDue (r : SReg) (what : PWhat) : List (PDst × PWhat) := if r = 0 then [] else [(.s r, what)]

/-- What a command leaves: `y`, which was `u`, stands at the next word with its status pending, and the engine has one more
command; memory and the doorbells are as they were. -/
structure Handed (s t : State) (u y : Unit) (r : SReg) (j : Job) : Prop where
  unit : t.unit? u.id = some y
  steps : Steps u y .s
  pend : y.pend.map (fun p => (p.dst, p.what)) = u.pend.map (fun p => (p.dst, p.what)) ++ statusDue r (.status j.id)
  mem : t.mem = s.mem
  queues : t.queues = s.queues
  jobs : t.fl.jobs = s.fl.jobs ++ [j]

/-- A word that has added `pend` steps on, its release behind it. -/
theorem steps_released (u : Unit) (pend : List Pend) (m : Bool) (l : List Fly) :
    Steps u (({ u.released .dev with pend := pend } : Unit).done .s m l) .s :=
  steps_done u .rel .dev .s m l pend u.mon u.code

theorem handOver_simplex (h : u.who.rset = 0) (m : Bool) (r : SReg) (j : Job) : ∃ y, Handed s (handOver s u m r j) u y r j := by
  unfold handOver
  extract_lets v x w s1
  have hw : ∃ pend, w = { v with pend := pend } ∧
      pend.map (fun p => (p.dst, p.what)) = u.pend.map (fun p => (p.dst, p.what)) ++ statusDue r (.status j.id) := by
    have hv : v.who.rset = 0 := h
    unfold w x statusDue
    rw [statusPend_simplex hv]
    by_cases hr : r = 0
    · rw [if_pos hr, if_pos hr, List.append_nil]
      exact ⟨v.pend, rfl, rfl⟩
    · rw [if_neg hr, if_neg hr]
      dsimp only
      rw [if_pos hv]
      exact ⟨_, rfl, List.map_append⟩
  obtain ⟨pend, hw, hpend⟩ := hw
  refine ⟨w.done .s m [], ?_, ?_, ?_, rfl, rfl, ?_⟩
  · exact unit?_setUnit_id s (by rw [Unit.done_id, hw]; rfl)
  · rw [hw]
    exact steps_released u pend m []
  · rw [Unit.pend_done, hw]
    exact hpend
  · dsimp only
    rw [if_pos (Unit.performs_simplex h)]
    rfl

end

/-! ### Copies -/

/-- The registers of a group by their number; none past its end. -/
theorem groupVals_getD (u : Unit) (c : SReg) (n k : Nat) :
    ((groupRegs c n).map (fun r => (u.rs r).toNat)).getD k 0 = if k < n then (u.rs (c + BitVec.ofNat 6 k)).toNat else 0 := by
  rw [groupRegs, List.map_map, List.getD_eq_getElem?_getD, List.getElem?_map]
  by_cases h : k < n
  · rw [if_pos h, List.getElem?_range h]
    rfl
  · rw [if_neg h, List.getElem?_eq_none (by simpa using h)]
    rfl

theorem groupVals_head (u : Unit) (c : SReg) {n : Nat} (h : 0 < n) :
    ((groupRegs c n).map (fun r => (u.rs r).toNat)).getD 0 0 = (u.rs c).toNat := by
  rw [groupVals_getD, if_pos h]
  exact congrArg (fun r => (u.rs r).toNat) (BitVec.add_zero c)

section
variable {s : State} {u : Unit} {a b c : SReg}

theorem copyWord_handsOver {n : Nat} {ends : EndK × EndK} (hn : 0 < n) (hp : u.who.producer = true) (hf : CommandFree s u (ccwSts (u.rs c).toNat))
    (hr : SReady s u (a :: b :: groupRegs c n)) (hc : copyFail s u n ends a b c = none) (m : Bool) (major f : Nat) :
    copyWord s m major f n ends a b c = .next (handOver s u m (ccwSts (u.rs c).toNat) (copyJob s u n ends a b c)) := by
  rw [copyWord, sWord_ready hr, rightsGate, if_pos hp]
  dsimp only
  rw [hc, failGate, groupVals_head u c hn, commandGate_free hf]


/-! ### Multicasts -/

/-- The writes of a take of credits (R169): one four-byte counter for each bit of the mask. -/
def creditWrites (s : State) (g k : Nat) : List (Nat × Byte) := ((List.range 32).filter (fun i => tb k i)).flatMap
  (fun i => bytesAt (g + 4 * i) (leBytes 4 (leNat (readN (homeByte s) 4 (g + 4 * i)) - 1)))

theorem takeCredits_eq (s : State) (g k : Nat) : takeCredits s g k = writeHome s (creditWrites s g k) := rfl

theorem mem_credits {k i : Nat} : i ∈ (List.range 32).filter (fun i => tb k i) ↔ i < 32 ∧ k.testBit i = true := by
  rw [List.mem_filter, List.mem_range, tb, Nat.testBit_eq_decide_div_mod_eq]

theorem keys_creditWrites_nodup (s : State) (g k : Nat) : ((creditWrites s g k).map (fun e => e.1)).Nodup :=
  keys_counters_nodup (List.nodup_range.filter _) g _

section
variable {t : State} (hmem : t.mem = s.mem) (hqueues : t.queues = s.queues) (g : Nat)
include hmem hqueues

/-- Every named counter holds one less than in a machine of the same memory and doorbells. -/
theorem holds_takeCredits {k i : Nat} (hi : i < 32) (hk : k.testBit i = true) :
    holds s (takeCredits t g k) (g + 4 * i) 4 (leNat (readN (homeByte s) 4 (g + 4 * i)) - 1) := by
  intro n hn ha
  have hbytes : homeByte t = homeByte s := funext (homeByte_congr (by rw [hmem]))
  rw [takeCredits_eq, homeByte_writeHome t (keys_creditWrites_nodup t g k) (mt (bellByte_congr hqueues _).mp ha), creditWrites, hbytes,
    SMap.look_flatMap (mem_credits.mpr ⟨hi, hk⟩) (b := BitVec.ofNat 8 ((leNat (readN (homeByte s) 4 (g + 4 * i)) - 1) / 2 ^ (8 * n)))]
  · rfl
  · rw [look_bytesAt_leBytes, if_pos (by omega), Nat.add_sub_cancel_left]
  · intro x _ hx
    rw [look_bytesAt_leBytes, if_neg (by omega)]

/-- Every byte that belongs to no named counter is as before. -/
theorem homeByte_takeCredits {k a : Nat} (hout : ∀ i, i < 32 → k.testBit i = true → ¬ (g + 4 * i ≤ a ∧ a < g + 4 * i + 4))
    (ha : ¬ bellByte s a) : homeByte (takeCredits t g k) a = homeByte s a := by
  rw [takeCredits_eq, homeByte_writeHome t (keys_creditWrites_nodup t g k) (mt (bellByte_congr hqueues _).mp ha), creditWrites,
    SMap.look_flatMap_none]
  · exact homeByte_congr (by rw [hmem]) a
  · intro i hi
    obtain ⟨hlt, hbit⟩ := mem_credits.mp hi
    rw [look_bytesAt_leBytes, if_neg (hout i hlt hbit)]

end

theorem unitsStay_takeCredits (s : State) (g k : Nat) : UnitsStay s (takeCredits s g k) := unitsStay_writeHome s _

@[simp] theorem takeCredits_fl (s : State) (g k : Nat) : (takeCredits s g k).fl = s.fl :=
  writeHome_keeps State.fl (fun _ _ _ _ _ => rfl) s _

/-- A multicast whose checks pass comes to its credits. -/
theorem exec_cpm_checked (hp : u.who.producer = true) (hf : CommandFree s u (ccwSts (u.rs c).toNat))
    (hr : SReady s u (a :: b :: groupRegs c 4)) (hc : cpmFail s u a b c = none) (hpark : parkedAs u .reported = false) (m : Bool) :
    exec (.cpm m a b c) s =
      if creditsReady s ((u.rs a).toNat % 2 ^ 32) ((u.rs (c + 2)).toNat % 2 ^ 32) = true then
        .next (takeCredits (handOver s u m (ccwSts (u.rs c).toNat) (cpmJob s u b c)) ((u.rs a).toNat % 2 ^ 32)
          ((u.rs (c + 2)).toNat % 2 ^ 32))
      else parkAt s u .s (.credit ((u.rs a).toNat % 2 ^ 32) ((u.rs (c + 2)).toNat % 2 ^ 32)) := by
  have hmask : ((groupRegs c 4).map (fun r => (u.rs r).toNat)).getD 2 0 = (u.rs (c + 2)).toNat := rfl
  have hperf : ¬ ((!u.performs) = true ∨ parkedAs u .reported = true) := by
    rw [Unit.performs_simplex hf.simplex, hpark]
    decide
  rw [exec_cpm, execCpm, sWord_ready hr, rightsGate, if_pos hp]
  dsimp only
  rw [hc, failGate, groupVals_head u c (by decide), hmask, commandGate_free hf, if_neg hperf]

end

end Sys2Proof.Machine

section
open Sys2Proof Sys2Proof.Machine

/-- Settles O32: a command whose checks pass is handed over (`handOver_simplex`), with the fields that its registers name; a multicast
also takes its credits in one write. -/
theorem copyWords : Obligations.CopyWords := by
  unfold Obligations.CopyWords
  refine ⟨?copies, ?multicast⟩
  case copies =>
    intro s u m a b c hprod hset hrel hslots sts low hsts copied
    have hfree : CommandFree s u sts := ⟨hset, hrel, hslots, hsts⟩
    have key (i : Instr) (major f n : Nat) (ends : EndK × EndK) (hi : exec i s = copyWord s m major f n ends a b c)
        (hn : n = 1 ∨ n = 4 ∨ n = 7) : copied i n ends := by
      intro hr hc
      have hpos : 0 < n := by omega
      obtain ⟨y, hy⟩ := handOver_simplex (s := s) hset m sts (copyJob s u n ends a b c)
      obtain ⟨-, hcur, -⟩ := id hr
      refine ⟨_, y, _, hi.trans (copyWord_handsOver hpos hprod hfree hr hc m major f), hcur ▸ hy.unit, hy.steps.pc, hy.steps.arch, hy.mem,
        hy.pend, hy.jobs, rfl, rfl, rfl, rfl, ?_⟩
      rcases hn with rfl | rfl | rfl <;> exact ⟨rfl, rfl, rfl, rfl, rfl, rfl, rfl, rfl, rfl⟩
    exact ⟨fun dir => key _ 0x28 0 1 _ (exec_cp s) (.inl rfl), fun dir => key _ 0x29 0 4 _ (exec_cp2 s) (.inr (.inl rfl)),
      fun dir => key _ 0x29 1 7 _ (exec_cp3 s) (.inr (.inr rfl)), fun g => key _ 0x2A 0 1 _ (exec_cpsc s) (.inl rfl)⟩
  case multicast =>
    intro s u m a b c hprod hset hrel hslots hr hc hpark sts mask credit count hsts
    have hfree : CommandFree s u sts := ⟨hset, hrel, hslots, hsts⟩
    have hexec := exec_cpm_checked hprod hfree hr hc hpark m
    refine ⟨fun hready => ?_, fun hnone => hexec.trans (if_neg (by rw [hnone]; exact Bool.false_ne_true))⟩
    obtain ⟨y, hy⟩ := handOver_simplex (s := s) hset m sts (cpmJob s u b c)
    obtain ⟨t, ht⟩ : ∃ t, handOver s u m sts (cpmJob s u b c) = t := ⟨_, rfl⟩
    rw [ht] at hy
    obtain ⟨-, hcur, -⟩ := id hr
    obtain ⟨mon, code, hunit⟩ := unitsStay_takeCredits t credit mask u.id y hy.unit
    refine ⟨takeCredits t credit mask, ?_, ?_, (hy.steps.stay mon code).sOn (hcur ▸ hunit),
      fun i hi hbit => holds_takeCredits hy.mem hy.queues credit hi hbit, fun x hout hx => homeByte_takeCredits hy.mem hy.queues credit hout hx⟩
    · rw [hexec, if_pos hready, ht]
    · rw [takeCredits_fl]
      exact hy.jobs

end


namespace Sys2Proof.Machine

/-! ## Batches and collectives (R165 to R167, R175) -/

section
variable {s : State} {u : Unit}

theorem replicas_simplex (h : u.who.rset = 0) : replicas s u = [u] := if_pos h

/-- The machine with every command of the unit that has no batch put into batch `n`. -/
def closeBatch (s : State) (u : Unit) (n : Nat) : State :=
  { s with fl := { s.fl with jobs := s.fl.jobs.map (fun (j : Job) => if ownJob s u j ∧ j.batch = none then { j with batch := some n } else j) } }

theorem exec_cbat_simplex {c : SReg} (hr : SReady s u [c]) (hp : u.who.producer = true) (h : u.who.rset = 0) (m : Bool) :
    exec (.cbat m c) s = .next (sNext (closeBatch s u (u.lastBatch + 1)) { u with lastBatch := u.lastBatch + 1 } m 4
      [.s c (BitVec.ofNat 64 (u.lastBatch + 1))]) := by
  rw [exec_cbat, execCbat, sWord_ready hr, rightsGate, if_pos hp]
  dsimp only
  rw [Unit.takes_simplex h, if_neg Bool.false_ne_true, u.tookLead_simplex h, tellReplicas_simplex h]
  rfl

/-- Closing a batch leaves which commands are outstanding. -/
theorem closeBatch_ids (n : Nat) : (closeBatch s u n).fl.jobs.map (fun j => j.id) = s.fl.jobs.map (fun j => j.id) := by
  rw [closeBatch, List.map_map]
  refine List.map_congr_left fun j _ => ?_
  rw [Function.comp_apply]
  split <;> rfl

/-- No command of the unit is without a batch then. -/
theorem closeBatch_batched (h : u.who.rset = 0) {n : Nat} {j : Job} (hj : j ∈ (closeBatch s u n).fl.jobs) (hunit : j.unit = u.id)
    (hwg : j.wgroup = u.who.wg) : j.batch ≠ none := by
  obtain ⟨x, -, rfl⟩ := List.mem_map.mp hj
  by_cases hx : ownJob s u x = true ∧ x.batch = none
  · rw [if_pos hx]
    exact Option.some_ne_none n
  · rw [if_neg hx] at hunit hwg ⊢
    have hown : ownJob s u x = true := by simp [ownJob, replicas_simplex h, hunit, hwg]
    exact fun hnone => hx ⟨hown, hnone⟩

/-- The command of a collective whose descriptor stands at `g`. -/
def collJob (s : State) (u : Unit) (op g : Nat) : Job :=
  let d := collOf op (read64 s u g)
  { newJob s u (.dva d.src) (.dva d.dst) 0 with coll := some d }

section
variable {a : SReg} (hr : SReady s u [a]) (m : Bool)
include hr

theorem exec_cwait_closed (hn : (u.rs a).toNat ≤ u.lastBatch) : exec (.cwait m a) s =
    if (batchOpen s u (u.rs a).toNat || reportedFault u) = true then parkAt s u .s (.batch (u.rs a).toNat)
    else .next (s.setUnit (u.sDone m [] (u.sS.spc + 1))) := by
  rw [exec_cwait, execCwait, sWord_ready hr]
  exact if_neg (Nat.not_lt.mpr hn)

theorem exec_cwait_unclosed (hn : u.lastBatch < (u.rs a).toNat) :
    exec (.cwait m a) s = trapS s u 0x31 (u.rs a).toNat u.lastBatch := by
  rw [exec_cwait, execCwait, sWord_ready hr]
  exact if_pos hn

/-- A collective whose descriptor is read and passes is handed over. -/
theorem collWord_handsOver {c : SReg} {g x op : Nat} (hg : (u.rs a).toNat % 2 ^ 32 = g) (hp : u.who.producer = true)
    (hf : CommandFree s u c) (hchk : checkGsa s u.who.ctx g 64 7 0 = .ok x) (hsound : bad64 s u g = false)
    (hd : collBad s u.who.ctx (collOf op (read64 s u g)) (read64 s u g) = none) :
    collWord s m op a c = .next (handOver s u m c (collJob s u op g)) := by
  rw [collWord, sWord_ready hr, rightsGate, if_pos hp]
  dsimp only
  rw [hg, hchk]
  dsimp only
  rw [hsound, if_neg Bool.false_ne_true, hd]
  dsimp only
  rw [if_neg Bool.false_ne_true, commandGate_free hf]
  rfl

end

end

end Sys2Proof.Machine

section
open Sys2Proof Sys2Proof.Machine

/-- Settles O33: `cbat` and `cwait` by their branches, and the five collectives by the one word that they share. -/
theorem batchAndCollectiveWords : Obligations.BatchAndCollectiveWords := by
  unfold Obligations.BatchAndCollectiveWords
  refine ⟨?cbat, ?cwait, fun s u m a hr hn => exec_cwait_unclosed hr m hn, ?collectives⟩
  case cbat =>
    intro s u m c hr hp hset
    obtain ⟨-, hcur, -⟩ := id hr
    refine ⟨_, _, exec_cbat_simplex hr hp hset m, unit?_setUnit_id _ hcur, rfl, rfl, sameArch_done u u.pend u.mon u.code .s m [], rfl,
      closeBatch_ids _, fun j hj => closeBatch_batched hset hj⟩
  case cwait =>
    intro s u m a hr hn
    refine ⟨fun hdone hfault => ?_, fun hwait => ?_⟩
    · rw [exec_cwait_closed hr m hn, hdone, hfault]
      rfl
    · rw [exec_cwait_closed hr m hn, if_pos (Bool.or_eq_true_iff.mpr hwait)]
  case collectives =>
    intro s u m a c x hr hp hset hrel hslots hc g hchk hsound made
    have hfree : CommandFree s u c := ⟨hset, hrel, hslots, hc⟩
    have key (i : Instr) (op : Nat) (hi : exec i s = collWord s m op a c) : made i op := by
      intro hd
      obtain ⟨y, hy⟩ := handOver_simplex (s := s) hset m c (collJob s u op g)
      obtain ⟨-, hcur, -⟩ := id hr
      exact ⟨_, _, hi.trans (collWord_handsOver hr m rfl hp hfree hchk hsound hd), hy.mem, hy.steps.sOn (hcur ▸ hy.unit), hy.jobs, rfl, rfl⟩
    exact ⟨key _ 0 (exec_collAr s), key _ 1 (exec_collRs s), key _ 2 (exec_collAg s), key _ 3 (exec_collBc s), key _ 4 (exec_collAa s)⟩

end

namespace Sys2Proof.Machine

/-! ## What reading at a DVA leaves alone (R242, R249)

An access to device memory counts activations and fills the shares of the translation. -/

section
variable {γ : Type} (g : State → γ) (hg : ∀ (t : State) fl pl n, g { t with fl := fl, plant := pl, free := n } = g t)
include hg

theorem activate_keeps (s : State) (p : Phys) : g (activate s p) = g s := by
  unfold activate
  split
  · exact hg s s.fl _ s.free
  · rfl

theorem nodesPut_keeps (s : State) (share ctx dva : Nat) (l : List (Nat × Phys × Nat)) : g (nodesPut s share ctx dva l) = g s := by
  refine foldl_keeps g _ (fun t e => ?_) l s
  split
  · rfl
  · exact hg t _ t.plant _

theorem shareFill_keeps (s : State) (ctx dva : Nat) : g (shareFill s ctx dva) = g s := by
  unfold shareFill
  extract_lets k l s1
  have h1 : g s1 = g s := (nodesPut_keeps g hg _ _ _ _ _).trans (foldl_keeps g _ (fun t _ => activate_keeps g hg t _) _ s)
  split
  · exact (hg s1 _ s1.plant _).trans h1
  · exact h1

theorem walkDone_keeps (s : State) (w : Walk) : g (walkDone s w) = g s := by
  unfold walkDone
  extract_lets s1 _ s2 _ miss
  have h2 : g s2 = g s := (hg s1 _ s1.plant s1.free).trans (shareFill_keeps g hg s _ _)
  have hmiss (k : Nat) : g (miss k) = g s := (hg s2 _ s2.plant s2.free).trans h2
  split
  · exact h2
  · exact hmiss _
  · exact hmiss _

theorem joinWalks_keeps (s : State) (ctx dva : Nat) : g (joinWalks s ctx dva) = g s := by
  unfold joinWalks
  extract_lets s1 l
  have h1 : g s1 = g s := foldl_keeps g _ (walkDone_keeps g hg) _ s
  split
  · cases l.head? with
    | none => exact h1
    | some w => exact (walkDone_keeps g hg s1 w).trans h1
  · exact h1

theorem useDva_keeps (s : State) (ctx dva : Nat) : g (useDva s ctx dva) = g s := by
  unfold useDva
  extract_lets hit
  split
  · rfl
  split
  · exact joinWalks_keeps g hg s ctx dva
  · exact (shareFill_keeps g hg _ ctx dva).trans (joinWalks_keeps g hg s ctx dva)

theorem touchDva_keeps (s : State) (ctx dva n : Nat) : g (touchDva s ctx dva n) = g s := by
  refine foldl_keeps g _ (fun t i => ?_) _ s
  dsimp only
  split
  · exact (activate_keeps g hg _ _).trans (useDva_keeps g hg t ctx _)
  · exact useDva_keeps g hg t ctx _

theorem touchLads_keeps (s : State) (ctx : Nat) (p : Packet) : g (touchLads s ctx p) = g s := by
  unfold touchLads
  split
  · rfl
  · exact touchDva_keeps g hg s ctx _ _

end

theorem readDone_keeps {γ : Type} (g : State → γ) (hg : ∀ (t : State) ts, g { t with tenants := ts } = g t) (s : State) (who : Nat) :
    g (readDone s who) = g s := by
  unfold readDone
  split
  · exact hg s _
  · rfl

/-! ## Child packets (R170, R171) -/

/-- What a packet's checks read of the machine. -/
theorem packetCheck_congr {s t : State} (hc : t.ctxs = s.ctxs) (hset : t.set = s.set) (ctx : Nat) (p : Packet)
    (lads : Option (List Lading)) : packetCheck t ctx p lads = packetCheck s ctx p lads := by
  have ht : t = { t with ctxs := s.ctxs, set := s.set } := by rw [← hc, ← hset]
  rw [ht]
  rfl

theorem kidsOf_congr {s t : State} (hc : t.ctxs = s.ctxs) (ctx cls : Nat) : kidsOf t ctx cls = kidsOf s ctx cls := by
  rw [kidsOf, kidsOf, hc]

section
variable {s : State} {u : Unit}

/-- A launch that passes puts its packet into the queue of its class. -/
theorem launchRun_passes {p : Packet} {lads : List Lading} (hdepth : fld u.who.gridid.toNat 32 4 < 10)
    (hchk : packetCheck s u.who.ctx p (some lads) = none) (hroom : (kidsOf s u.who.ctx p.cls).length < 256) :
    launchRun s u p (some lads) = ((addChild s u p lads).1, 0, (addChild s u p lads).2) := by
  rw [launchRun, if_neg (Nat.not_le.mpr hdepth), hchk]
  exact if_neg (Nat.not_le.mpr hroom)

/-- The child stands at the end of its class's queue, under the next grid number of its context. -/
theorem kidsOf_addChild {p : Packet} {k : Ctx} (hk : SMap.look s.ctxs u.who.ctx = some k) (hcls : p.cls < k.kids.length)
    (lads : List Lading) : (kidsOf (addChild s u p lads).1 u.who.ctx p.cls).map (fun y => (y.pkt, y.num)) =
      (kidsOf s u.who.ctx p.cls).map (fun y => (y.pkt, y.num)) ++ [(p, k.nextGrid)] := by
  simp [kidsOf, addChild, takeNum, hk, SMap.look_upd, hcls]

/-- Its parent counts one more child. -/
theorem grids_addChild {g : Grid} (hg : SMap.look s.grids u.who.grid = some g) (p : Packet) (lads : List Lading) :
    (SMap.look (addChild s u p lads).1.grids u.who.grid).map (fun y => y.kids) = some (g.kids + 1) := by
  have hsame : (takeNum s u.who.ctx).1.grids = s.grids := by
    unfold takeNum
    split <;> rfl
  simp [addChild, SMap.look_upd, hsame, hg]

/-- A launch that succeeded retires; it has no more to do with contexts and grids. -/
theorem launchDone_ok (m : Bool) (c : SReg) (info : Nat) :
    (launchDone s u m c 0 info).ctxs = s.ctxs ∧ (launchDone s u m c 0 info).grids = s.grids := by
  unfold launchDone
  extract_lets w v bumped x s1 s2
  rw [if_neg fun h => h.2.1 rfl]
  exact ⟨rfl, rfl⟩

/-- The machine once a launch has read its packet and lading list. -/
def launchSeen (s : State) (u : Unit) (p : Packet) : State := readDone (touchLads s u.who.ctx p) (unitWho u.id)

theorem launchSeen_keeps {γ : Type} (g : State → γ) (hg : ∀ (t : State) fl pl n, g { t with fl := fl, plant := pl, free := n } = g t)
    (hts : ∀ (t : State) ts, g { t with tenants := ts } = g t) (p : Packet) : g (launchSeen s u p) = g s :=
  (readDone_keeps g hts _ _).trans (touchLads_keeps g hg s _ p)

@[simp] theorem launchSeen_ctxs (p : Packet) : (launchSeen s u p).ctxs = s.ctxs :=
  launchSeen_keeps State.ctxs (fun _ _ _ _ => rfl) (fun _ _ => rfl) p

@[simp] theorem launchSeen_grids (p : Packet) : (launchSeen s u p).grids = s.grids :=
  launchSeen_keeps State.grids (fun _ _ _ _ => rfl) (fun _ _ => rfl) p

@[simp] theorem launchSeen_set (p : Packet) : (launchSeen s u p).set = s.set :=
  launchSeen_keeps State.set (fun _ _ _ _ => rfl) (fun _ _ => rfl) p

/-- A launch whose packet is read and sound comes to its checks. -/
theorem exec_launch_reads {a c : SReg} {x : Nat} {l : List Byte} {g : Nat} {p : Packet} (hg : (u.rs a).toNat % 2 ^ 32 = g)
    (hpkt : packetOf (read64 s u g) = p) (hr : SReady s u [a]) (hlead : teamLeader u = true) (hset : u.who.rset = 0)
    (hrel : relClear s u .s .dev) (hc : c = 0 ∨ u.sPend c = false) (hchk : checkGsa s u.who.ctx g 64 7 0 = .ok x)
    (hsound : bad64 s u g = false) (hl : readLads s (unitWho u.id) u.who.ctx p = .ok l) (m : Bool) :
    exec (.launch m a c) s =
      let o := launchRun (launchSeen s u p) u p (some (ladingsOf p.ladn l))
      .next (launchDone o.1 u m c o.2.1 o.2.2) := by
  have hperf : ¬ (!u.performs) = true := by
    rw [Unit.performs_simplex hset]
    decide
  rw [exec_launch, execLaunch, sWord_ready hr, rightsGate, if_pos hlead]
  dsimp only
  rw [hg, hpkt, hchk]
  dsimp only
  rw [statusGate_clear hc, roomGate_simplex hset, cmdGate_simplex hset, releaseGate_clear hrel, hsound, if_neg Bool.false_ne_true,
    if_neg hperf, hl]
  rfl

/-- Reading does not decide a launch: one that passes as the machine stands passes once all is read. -/
theorem launchRun_seen {p : Packet} {lads : List Lading} (hdepth : fld u.who.gridid.toNat 32 4 < 10)
    (hchk : packetCheck s u.who.ctx p (some lads) = none) (hroom : (kidsOf s u.who.ctx p.cls).length < 256) :
    launchRun (launchSeen s u p) u p (some lads) = ((addChild (launchSeen s u p) u p lads).1, 0, (addChild (launchSeen s u p) u p lads).2) :=
  launchRun_passes hdepth ((packetCheck_congr (launchSeen_ctxs p) (launchSeen_set p) _ _ _).trans hchk)
    (by rw [kidsOf_congr (launchSeen_ctxs p)]; exact hroom)

end

end Sys2Proof.Machine

namespace Sys2Proof.Machine

/-! ## Work lists (R172, R173) -/

section
variable {s : State} {ctx n : Nat} {w : WorkList}

theorem listOf_congr {s t : State} (h : t.ctxs = s.ctxs) (ctx n : Nat) : listOf t ctx n = listOf s ctx n := by
  rw [listOf, listOf, h]

/-- A work list replaced, and every other. -/
theorem listOf_setList (h : listOf s ctx n = some w) (z : WorkList) (k : Nat) :
    listOf (setList s ctx n z) ctx k = if k = n then some z else listOf s ctx k := by
  obtain ⟨c, hc, -⟩ := Option.bind_eq_some_iff.mp h
  unfold listOf setList
  dsimp only
  rw [SMap.look_upd, if_pos rfl, hc]
  exact SMap.look_put c.lists n z k

/-- An item makes the tail of its list rise by one. -/
theorem listOf_appendItem (v k : Nat) : listOf (appendItem s ctx n v) ctx k =
    (listOf s ctx k).map (fun x => { x with tail := x.tail + if n = k then 1 else 0 }) := by
  unfold appendItem
  cases hn : listOf s ctx n with
  | none =>
    dsimp only
    by_cases hk : n = k
    · rw [← hk, hn, Option.map_none]
    · simp [hk]
  | some w =>
    dsimp only
    have hwrite (l : List (Nat × Byte)) (j : Nat) : listOf (writeHome s l) ctx j = listOf s ctx j :=
      writeHome_keeps (fun t => listOf t ctx j) (fun _ _ _ _ _ => rfl) s l
    rw [listOf_setList ((hwrite _ n).trans hn), hwrite]
    by_cases hk : n = k
    · rw [if_pos hk.symm, ← hk, hn, if_pos rfl]
      rfl
    · rw [if_neg (Ne.symm hk), if_neg hk]
      simp

/-- An item stands at its list's tail; no other byte changes. -/
theorem homeByte_appendItem (hn : listOf s ctx n = some w) (v : Nat) {a : Nat} (ha : ¬ bellByte s a) :
    homeByte (appendItem s ctx n v) a =
      if w.base + w.tail % 2 ^ w.k * w.itemSize ≤ a ∧ a < w.base + w.tail % 2 ^ w.k * w.itemSize + w.itemSize then
        BitVec.ofNat 8 (v / 2 ^ (8 * (a - (w.base + w.tail % 2 ^ w.k * w.itemSize)))) else homeByte s a := by
  unfold appendItem
  rw [hn]
  exact homeByte_writeHome_value s _ _ v ha

theorem bellByte_of_appendItem {v a : Nat} (h : bellByte (appendItem s ctx n v) a) : bellByte s a := by
  unfold appendItem at h
  split at h
  · exact h
  · exact bellByte_of_writeHome h

theorem unitsStay_appendItem (v : Nat) : UnitsStay s (appendItem s ctx n v) := by
  unfold appendItem
  split
  · exact .refl s
  · exact (unitsStay_writeHome s _).trans (.of_units rfl)

end

/-! ### Items in order -/

/-- Items, each with its list, appended in order. -/
def appendAll (s : State) (ctx : Nat) (l : List (Nat × Nat)) : State := l.foldl (fun t e => appendItem t ctx e.1 e.2) s

/-- The items of `l` that are bound for list `n`. -/
def boundFor (l : List (Nat × Nat)) (n : Nat) : Nat := (l.filter (fun f => decide (f.1 = n))).length

/-- Where the `j`-th of the items `l` goes, which is bound for list `n`, now `x`. -/
def itemAt (l : List (Nat × Nat)) (j n : Nat) (x : WorkList) : Nat :=
  x.base + (x.tail + boundFor (l.take j) n) % 2 ^ x.k * x.itemSize

theorem boundFor_concat (l : List (Nat × Nat)) (e : Nat × Nat) (n : Nat) :
    boundFor (l ++ [e]) n = boundFor l n + if e.1 = n then 1 else 0 := by
  rw [boundFor, List.filter_append, List.length_append]
  by_cases h : e.1 = n <;> simp [boundFor, h]

theorem boundFor_take_succ {l : List (Nat × Nat)} {j : Nat} {e : Nat × Nat} (h : l[j]? = some e) :
    boundFor (l.take (j + 1)) e.1 = boundFor (l.take j) e.1 + 1 := by
  rw [List.take_add_one, h, Option.toList_some, boundFor_concat, if_pos rfl]

theorem boundFor_take_le {l : List (Nat × Nat)} {i j : Nat} (h : i ≤ j) (n : Nat) : boundFor (l.take i) n ≤ boundFor (l.take j) n := by
  have hsub : (l.take i).Sublist (l.take j) := List.take_sublist_take_left h
  exact (hsub.filter _).length_le

/-- Of two items bound for one list the earlier one has fewer before it. -/
theorem boundFor_take_lt {l : List (Nat × Nat)} {i j : Nat} {e : Nat × Nat} (hi : l[i]? = some e) (h : i < j) :
    boundFor (l.take i) e.1 < boundFor (l.take j) e.1 := by
  have hstep := boundFor_take_succ hi
  have hle := boundFor_take_le (l := l) (show i + 1 ≤ j from h) e.1
  omega

theorem boundFor_take_lt_all {l : List (Nat × Nat)} {j : Nat} {e : Nat × Nat} (h : l[j]? = some e) :
    boundFor (l.take j) e.1 < boundFor l e.1 := by
  have hlt : j < l.length := (List.getElem?_eq_some_iff.mp h).1
  have := boundFor_take_lt h hlt
  rwa [List.take_length] at this

theorem itemAt_concat {l : List (Nat × Nat)} {j : Nat} (h : j ≤ l.length) (e : Nat × Nat) (n : Nat) (x : WorkList) :
    itemAt (l ++ [e]) j n x = itemAt l j n x := by
  rw [itemAt, itemAt, List.take_append_of_le_length h]

/-- Slots of a ring less than a round apart are different. -/
theorem ring_slots_ne {t p q m : Nat} (hpq : p < q) (hq : q < m) : (t + p) % m ≠ (t + q) % m := by
  intro h
  have hdvd := (Nat.modEq_iff_dvd' (by omega : t + p ≤ t + q)).mp h
  have := Nat.le_of_dvd (by omega) hdvd
  omega

/-- Different slots of one list share no byte. -/
theorem slots_apart (b z : Nat) {p q a : Nat} (h : p ≠ q) (ha : b + q * z ≤ a ∧ a < b + q * z + z) :
    ¬ (b + p * z ≤ a ∧ a < b + p * z + z) := by
  intro hp
  rcases Nat.lt_or_gt_of_ne h with hlt | hlt
  · have := Nat.mul_le_mul_right z (Nat.succ_le_of_lt hlt)
    rw [Nat.succ_mul] at this
    omega
  · have := Nat.mul_le_mul_right z (Nat.succ_le_of_lt hlt)
    rw [Nat.succ_mul] at this
    omega

/-- A slot lies in its list's ring. -/
theorem slot_in_ring (b z k t : Nat) : b ≤ b + t % 2 ^ k * z ∧ b + t % 2 ^ k * z + z ≤ b + 2 ^ k * z := by
  have := Nat.mul_le_mul_right z (Nat.succ_le_of_lt (Nat.mod_lt t (Nat.two_pow_pos k)))
  rw [Nat.succ_mul] at this
  omega

section
variable {s : State} {ctx : Nat}

theorem appendAll_concat (l : List (Nat × Nat)) (e : Nat × Nat) :
    appendAll s ctx (l ++ [e]) = appendItem (appendAll s ctx l) ctx e.1 e.2 := by
  rw [appendAll, List.foldl_append]
  rfl

/-- Every list's tail rises by the items bound for it. -/
theorem listOf_appendAll (l : List (Nat × Nat)) (k : Nat) : listOf (appendAll s ctx l) ctx k =
    (listOf s ctx k).map (fun x => { x with tail := x.tail + boundFor l k }) := by
  induction l using List.reverseRecOn with
  | nil => exact Option.map_id'.symm
  | append_singleton l e ih =>
    rw [appendAll_concat, listOf_appendItem, ih, Option.map_map]
    refine congrArg (fun f => Option.map f (listOf s ctx k)) (funext fun x => ?_)
    simp only [Function.comp_apply, boundFor_concat, Nat.add_assoc]

theorem bellByte_of_appendAll {l : List (Nat × Nat)} {a : Nat} (h : bellByte (appendAll s ctx l) a) : bellByte s a :=
  List.foldlRecOn (motive := fun t => bellByte t a → bellByte s a) l _ id (fun _ ht _ _ hb => ht (bellByte_of_appendItem hb)) h

theorem unitsStay_appendAll (l : List (Nat × Nat)) : UnitsStay s (appendAll s ctx l) :=
  .foldl _ (fun _ _ => unitsStay_appendItem _) l s

/-- The last of the items goes to the place that it has among them. -/
theorem homeByte_appendAll_concat (l : List (Nat × Nat)) {e : Nat × Nat} {x : WorkList} (hx : listOf s ctx e.1 = some x) {a : Nat}
    (ha : ¬ bellByte s a) : homeByte (appendAll s ctx (l ++ [e])) a =
      if itemAt l l.length e.1 x ≤ a ∧ a < itemAt l l.length e.1 x + x.itemSize then
        BitVec.ofNat 8 (e.2 / 2 ^ (8 * (a - itemAt l l.length e.1 x))) else homeByte (appendAll s ctx l) a := by
  have hlist := listOf_appendAll (s := s) (ctx := ctx) l e.1
  rw [hx, Option.map_some] at hlist
  rw [appendAll_concat, homeByte_appendItem hlist e.2 (mt bellByte_of_appendAll ha), itemAt, List.take_length]
  rfl

/-- Bytes at no item's place are as before. -/
theorem homeByte_appendAll_out {l : List (Nat × Nat)} (hl : ∀ e ∈ l, ∃ x, listOf s ctx e.1 = some x) {a : Nat} (ha : ¬ bellByte s a)
    (hout : ∀ j e x, l[j]? = some e → listOf s ctx e.1 = some x → ¬ (itemAt l j e.1 x ≤ a ∧ a < itemAt l j e.1 x + x.itemSize)) :
    homeByte (appendAll s ctx l) a = homeByte s a := by
  induction l using List.reverseRecOn with
  | nil => rfl
  | append_singleton l e ih =>
    obtain ⟨x, hx⟩ := hl e (List.mem_append_right l List.mem_cons_self)
    rw [homeByte_appendAll_concat l hx ha, if_neg]
    · refine ih (fun f hf => hl f (List.mem_append_left [e] hf)) fun j f y hj hy => ?_
      have hlt : j < l.length := (List.getElem?_eq_some_iff.mp hj).1
      have := hout j f y ((List.getElem?_append_left hlt).trans hj) hy
      rwa [itemAt_concat (Nat.le_of_lt hlt)] at this
    · have := hout l.length e x (by simp) hx
      rwa [itemAt_concat (Nat.le_refl _)] at this

/-- The rings of different lists that the items name are apart. -/
def RingsApart (s : State) (ctx : Nat) (l : List (Nat × Nat)) : Prop :=
  ∀ e ∈ l, ∀ f ∈ l, e.1 ≠ f.1 → ∀ x y, listOf s ctx e.1 = some x → listOf s ctx f.1 = some y →
    x.base + 2 ^ x.k * x.itemSize ≤ y.base ∨ y.base + 2 ^ y.k * y.itemSize ≤ x.base

/-- Every list that the items name holds all those bound for it. -/
def RingsHold (s : State) (ctx : Nat) (l : List (Nat × Nat)) : Prop :=
  ∀ e ∈ l, ∀ x, listOf s ctx e.1 = some x → boundFor l e.1 ≤ 2 ^ x.k

theorem RingsApart.congr {t : State} {l : List (Nat × Nat)} (h : RingsApart s ctx l) (hc : t.ctxs = s.ctxs) : RingsApart t ctx l :=
  fun e he f hf hne x y hx hy => h e he f hf hne x y ((listOf_congr hc _ _).symm.trans hx) ((listOf_congr hc _ _).symm.trans hy)

theorem RingsHold.congr {t : State} {l : List (Nat × Nat)} (h : RingsHold s ctx l) (hc : t.ctxs = s.ctxs) : RingsHold t ctx l :=
  fun e he x hx => h e he x ((listOf_congr hc _ _).symm.trans hx)

/-- Lists with room for what the items add hold them. -/
theorem ringsHold_of_listsRoom {l : List (Nat × Nat)} (h : listsRoom s ctx l = true) : RingsHold s ctx l := by
  intro e he x hx
  have hroom := List.all_eq_true.mp h e he
  rw [hx] at hroom
  have hfit := of_decide_eq_true hroom
  unfold boundFor
  omega

/-- An item's place has no byte of a later item's. -/
theorem itemAt_apart {l : List (Nat × Nat)} (hroom : RingsHold s ctx l) (hapart : RingsApart s ctx l) {i j : Nat} {e f : Nat × Nat}
    (hij : i < j) (hi : l[i]? = some e) (hj : l[j]? = some f) {x y : WorkList} (hx : listOf s ctx e.1 = some x)
    (hy : listOf s ctx f.1 = some y) {a : Nat} (ha : itemAt l i e.1 x ≤ a ∧ a < itemAt l i e.1 x + x.itemSize) :
    ¬ (itemAt l j f.1 y ≤ a ∧ a < itemAt l j f.1 y + y.itemSize) := by
  have hem : e ∈ l := List.mem_of_getElem? hi
  have hfm : f ∈ l := List.mem_of_getElem? hj
  by_cases hsame : e.1 = f.1
  · have hxy : y = x := by
      rw [← hsame, hx] at hy
      exact (Option.some.inj hy).symm
    subst hxy
    have hp := boundFor_take_lt hi hij
    have hq := boundFor_take_lt_all hj
    have hfit := hroom f hfm y hy
    rw [hsame] at hp ha
    exact slots_apart y.base y.itemSize (Ne.symm (ring_slots_ne hp (Nat.lt_of_lt_of_le hq hfit))) ha
  · have hin := slot_in_ring x.base x.itemSize x.k (x.tail + boundFor (l.take i) e.1)
    have hin' := slot_in_ring y.base y.itemSize y.k (y.tail + boundFor (l.take j) f.1)
    have hrings := hapart e hem f hfm hsame x y hx hy
    unfold itemAt at ha ⊢
    omega

/-- Every item stands at its place once all are appended. -/
theorem holds_appendAll {l : List (Nat × Nat)} (hl : ∀ e ∈ l, ∃ x, listOf s ctx e.1 = some x) (hroom : RingsHold s ctx l)
    (hapart : RingsApart s ctx l) {j : Nat} {e : Nat × Nat} {x : WorkList} (hj : l[j]? = some e) (hx : listOf s ctx e.1 = some x) :
    holds s (appendAll s ctx l) (itemAt l j e.1 x) x.itemSize e.2 := by
  induction l using List.reverseRecOn with
  | nil => cases hj
  | append_singleton l f ih =>
    intro k hk hbell
    obtain ⟨y, hy⟩ := hl f (List.mem_append_right l List.mem_cons_self)
    have hf : (l ++ [f])[l.length]? = some f := by simp
    rw [homeByte_appendAll_concat l hy hbell]
    by_cases hlt : j < l.length
    · have hin : itemAt (l ++ [f]) j e.1 x ≤ itemAt (l ++ [f]) j e.1 x + k ∧
          itemAt (l ++ [f]) j e.1 x + k < itemAt (l ++ [f]) j e.1 x + x.itemSize := by omega
      have hmiss := itemAt_apart hroom hapart hlt hj hf hx hy hin
      rw [itemAt_concat (Nat.le_refl _)] at hmiss
      rw [if_neg hmiss]
      rw [itemAt_concat (Nat.le_of_lt hlt)] at hbell ⊢
      refine ih (fun g hg => hl g (List.mem_append_left [f] hg)) (fun g hg z hz => ?_)
        (fun g hg g' hg' => hapart g (List.mem_append_left [f] hg) g' (List.mem_append_left [f] hg'))
        ((List.getElem?_append_left hlt).symm.trans hj) k hk hbell
      have := hroom g (List.mem_append_left [f] hg) z hz
      rw [boundFor_concat] at this
      omega
    · have hjl : j = l.length := by
        have := (List.getElem?_eq_some_iff.mp hj).1
        rw [List.length_append, List.length_singleton] at this
        omega
      subst hjl
      have hef : f = e := Option.some.inj (hf.symm.trans hj)
      subst hef
      have hxy : y = x := Option.some.inj (hy.symm.trans hx)
      subst hxy
      rw [itemAt_concat (Nat.le_refl _), if_pos (by omega), Nat.add_sub_cancel_left]

end

end Sys2Proof.Machine

namespace Sys2Proof.Machine

/-! ### The words -/

section
variable {s : State} {u : Unit}

/-- A `wtake` to which an item of its list comes takes the oldest. -/
theorem exec_wtake_takes {a c : SReg} {w : WorkList} (hr : SReady s u [a, c, c + 1]) (hset : u.who.rset = 0)
    (hpark : parkedAs u .reported = false) (hw : listOf s u.who.ctx ((u.rs a).toNat % 4096) = some w)
    (hturn : if w.waiters.contains u.id then 0 < w.items ∧ w.waiters.head? = some u.id else w.waiters.length < w.items) (m nb : Bool) :
    exec (.wtake m nb a c) s = .next (sNext (spoil (setList s u.who.ctx ((u.rs a).toNat % 4096)
      { w with head := w.head + 1, waiters := w.waiters.filter (fun x => decide (x ≠ u.id)) }) u) u m 8
        [.s c (BitVec.ofNat 64 (leNat (readN (homeByte s) w.itemSize (w.base + w.head % 2 ^ w.k * w.itemSize)))), .s (c + 1) 1]) := by
  rw [exec_wtake, execWtake, sWord_ready hr]
  dsimp only
  rw [hw]
  dsimp only
  rw [Unit.takes_simplex hset, hpark, if_neg Bool.false_ne_true, if_neg Bool.false_ne_true, if_pos hturn, takeDone, tellReplicas_simplex hset,
    u.tookLead_simplex hset]
  rfl

/-- A `qsnc` that has been told of quiescence retires. -/
theorem exec_qsnc_reported (hr : SReady s u []) (hset : u.who.rset = 0) (hpark : parkedAs u .reported = true) (m : Bool) :
    exec (.qsnc m) s = .next (s.setUnit (u.sDone m [] (u.sS.spc + 1))) := by
  rw [exec_qsnc, execQsnc, sWord_ready hr, Unit.takes_simplex hset, if_neg Bool.false_ne_true, hpark, if_pos rfl,
    tellReplicas_simplex hset, u.tookLead_simplex hset]
  rfl

/-- What the active lanes append: each its item, with the number of its list (R172). -/
def laneItems (u : Unit) (w : LA) (act : Mask) : List (Nat × Nat) :=
  (lanesOf act).map (fun l => (u.opVal .b32 0 w.b l % 4096, u.opVal w.ty 0 w.a l % 2 ^ (32 * tyRegs w.ty)))

/-- A `wapp` whose items fit their lists, with room in each, appends them all. -/
theorem exec_wapp_appends {i : Bool} {w : LA} (hr : LReady s u i (selRegs w.a (tyRegs w.ty) ++ selRegs w.b 1)) (hset : u.who.rset = 0)
    (hrel : relClear s u (slotStrm i) .dev)
    (hfit : ∀ e ∈ laneItems u w (laneAct s u i w.g), ∃ x, listOf s u.who.ctx e.1 = some x ∧ x.itemSize = 4 * tyRegs w.ty)
    (hroom : listsRoom s u.who.ctx (laneItems u w (laneAct s u i w.g)) = true) :
    exec (.wapp w) s = .next (appendAll (lNext (spoil s u) (u.released .dev) i w.m 1 0 []) u.who.ctx
      (laneItems u w (laneAct s u i w.g))) := by
  rw [exec_wapp, execWapp, laneWord_ready hr]
  extract_lets st items bad own l
  have hl : l = laneItems u w (laneAct s u i w.g) := List.map_map
  have hbad : bad = [] := by
    refine List.filter_eq_nil_iff.mpr fun e he => ?_
    obtain ⟨x, hx, hsize⟩ := hfit e.2 (by rw [← hl]; exact List.mem_map_of_mem he)
    rw [hx]
    simp [hsize]
  have hperf : u.performs = true := Unit.performs_simplex hset
  rw [hbad]
  dsimp only
  rw [roomGate_simplex hset, compareGate_simplex hset, releaseGate_clear hrel, hl, hroom, hperf, if_neg (by decide)]
  rfl

/-- A lane word that issues leaves memory, the queues and the lists. -/
theorem lNext_wapp (i m : Bool) (v : Unit) : let t := lNext (spoil s u) v i m 1 0 []
    t.mem = s.mem ∧ t.queues = s.queues ∧ t.ctxs = s.ctxs := by
  simp [lNext, spoil, onWg]

end

end Sys2Proof.Machine

section
open Sys2Proof Sys2Proof.Machine

/-- Settles O34: a launch by what `addChild` makes of its context, the takes by their branches, and `wapp` by the places of its items,
which differ while every ring has room (`itemAt_apart`). -/
theorem workWords : Obligations.WorkWords := by
  unfold Obligations.WorkWords
  refine ⟨?launch, ?wtake, fun s u m hr hset hpark => exec_qsnc_reported hr hset hpark m, ?wapp⟩
  case launch =>
    intro s u m a c x l hr hlead hset hrel hc g p hchk hsound hl
    have hexec := exec_launch_reads rfl rfl hr hlead hset hrel hc hchk hsound hl m
    refine ⟨_, hexec, fun hdepth hpkt hroom => ?_⟩
    rw [launchRun_seen hdepth hpkt hroom]
    obtain ⟨hctxs, hgrids⟩ := launchDone_ok (s := (addChild (launchSeen s u p) u p (ladingsOf p.ladn l)).1) (u := u) m c
      (addChild (launchSeen s u p) u p (ladingsOf p.ladn l)).2
    refine ⟨fun k hk hlen => ?_, fun k hk => ?_⟩
    · have hcls : p.cls < k.kids.length := hlen ▸ Nat.mod_lt _ (by decide)
      rw [kidsOf_congr hctxs, ← kidsOf_congr (launchSeen_ctxs (s := s) (u := u) p) u.who.ctx p.cls]
      exact kidsOf_addChild ((congrArg (SMap.look · _) (launchSeen_ctxs p)).trans hk) hcls _
    · rw [hgrids]
      exact grids_addChild ((congrArg (SMap.look · _) (launchSeen_grids p)).trans hk) _ _
  case wtake =>
    intro s u m nb a c w hr hset hpark n hw hturn
    obtain ⟨-, hcur, -⟩ := id hr
    refine ⟨_, _, _, exec_wtake_takes hr hset hpark hw hturn m nb, rfl, unit?_setUnit_id _ hcur, rfl,
      sameArch_done u u.pend u.mon u.code .s m _, rfl, (listOf_setList hw _ n).trans (if_pos rfl), rfl, rfl⟩
  case wapp =>
    intro s u i w hr hset hrel n items hfit hroom at_ hapart
    obtain ⟨-, hcur, -⟩ := id hr
    obtain ⟨t, ht⟩ : ∃ t, lNext (spoil s u) (u.released .dev) i w.m 1 0 [] = t := ⟨_, rfl⟩
    have hunit : t.unit? u.id = some ((u.released .dev).done (slotStrm i) w.m []) := by
      rw [← ht]
      cases i <;> exact lNext_unit (u := u.released .dev) _ w.m 1 0 []
    obtain ⟨hmem, hqueues, hctxs⟩ := lNext_wapp (s := s) (u := u) i w.m (u.released .dev)
    rw [ht] at hmem hqueues hctxs
    have hexec := exec_wapp_appends hr hset hrel hfit hroom
    rw [ht] at hexec
    have hlist := listOf_congr hctxs u.who.ctx
    have hbell := bellByte_congr hqueues
    have hlists : ∀ e ∈ items, ∃ x, listOf t u.who.ctx e.1 = some x := fun e he => (hfit e he).imp fun x hx => (hlist e.1).trans hx.1
    have hrooms : RingsHold t u.who.ctx items := (ringsHold_of_listsRoom hroom).congr hctxs
    have haparts : RingsApart t u.who.ctx items := RingsApart.congr hapart hctxs
    obtain ⟨mon, code, hy⟩ := unitsStay_appendAll items u.id _ hunit
    refine ⟨_, hexec, ((steps_done u .rel .dev (slotStrm i) w.m [] u.pend u.mon u.code).stay mon code).lOn (hcur ▸ hy), fun j e x hj hx => ?_,
      fun a ha hout => ?_, fun k x hx => ?_⟩
    · have hheld := holds_appendAll hlists hrooms haparts hj ((hlist _).trans hx)
      exact fun k hk ha => hheld k hk (mt (hbell _).mp ha)
    · exact (homeByte_appendAll_out hlists (mt (hbell a).mp ha) fun j e x hj hx => hout j e x hj ((hlist _).symm.trans hx)).trans
        (homeByte_congr (by rw [hmem]) a)
    · rw [show listOf (appendAll t u.who.ctx (laneItems u w (laneAct s u i w.g))) u.who.ctx k = _ from listOf_appendAll items k, hlist, hx]
      rfl

end

namespace Sys2Proof.Machine

/-! ## A run of a copy (R164) -/

/-- What is found by its number has it. -/
theorem id_of_find? {α : Type} (f : α → Nat) {l : List α} {id : Nat} {x : α} (h : l.find? (fun y => decide (f y = id)) = some x) :
    f x = id := by simpa using List.find?_some h

section
variable {s : State} {j : Job}

theorem choose_lt {n m : Nat} (h : 0 < m) : choose n m < m := by
  unfold choose
  split
  · exact h
  · exact Nat.mod_lt _ h

theorem choose_le (n m : Nat) : choose n m ≤ m := by
  unfold choose
  split
  · exact Nat.zero_le m
  · exact Nat.le_of_lt (Nat.mod_lt _ (by omega))

/-- The next run begins at an element of a part that has not moved, and ends with the part. -/
theorem jobPick_part (s : State) (h : j.todo ≠ []) : ∃ r ∈ j.todo, r.1 ≤ (jobPick s j).1 ∧
    (jobPick s j).1 + (jobPick s j).2 = r.1 + r.2 ∧ ((jobPick s j).1 - r.1) % 2 ^ j.es = 0 := by
  have hlt : choose s.free j.todo.length < j.todo.length := choose_lt (List.length_pos_iff.mpr h)
  have hget : j.todo[choose s.free j.todo.length]? = some j.todo[choose s.free j.todo.length] := List.getElem?_eq_getElem hlt
  refine ⟨j.todo[choose s.free j.todo.length], List.getElem_mem hlt, ?_⟩
  obtain ⟨r, hr⟩ : ∃ r, j.todo[choose s.free j.todo.length] = r := ⟨_, rfl⟩
  rw [hr] at hget ⊢
  have hle : choose (s.free + 1) (r.2 / 2 ^ j.es) * 2 ^ j.es ≤ r.2 :=
    (Nat.mul_le_mul_right _ (choose_le _ _)).trans (Nat.div_mul_le_self _ _)
  simp only [jobPick, hget, Option.getD_some]
  refine ⟨Nat.le_add_right _ _, by omega, ?_⟩
  rw [Nat.add_sub_cancel_left]
  exact Nat.mul_mod_left _ _

/-- The end of a copy in a window that lets it through. -/
theorem sideAt_gsa {a o : Nat} {wr : Bool} (hin : (a + o) % 2 ^ 32 % 2 ^ 22 < Config.sliceBytes)
    (hadm : admitted s j.ctx (gsaCore ((a + o) % 2 ^ 32)) ((a + o) % 2 ^ 32 % 2 ^ 22) 1 (if wr then 1 else 0) = true) :
    sideAt s j (.gsa a) o wr = .ok (fun i => .sram [(a + o) % 2 ^ 32 + i]) (runTo 4096 ((a + o) % 2 ^ 32)) := by
  unfold sideAt
  dsimp only
  rw [if_neg]
  rintro (hout | hno)
  · exact absurd hin (Nat.not_lt.mpr hout)
  · rw [hadm] at hno
    exact absurd hno (by decide)

/-- A translation cache has no part in a copy between windows. -/
theorem fillEnds_gsa {sa da : Nat} (hsrc : j.src = .gsa sa) (hdst : j.dst = .gsa da) (d r : Nat) : fillEnds s j d r = s := by
  rw [fillEnds, hsrc, hdst]

/-- A due run between two places in windows moves. -/
theorem exec_bargeChunkMove_gsa {id sa da n x y : Nat} (hj : s.fl.jobs.find? (fun x => decide (x.id = id)) = some j) (hmov : j.moving = true)
    (hrank : outranked s j = false) (hsrc : j.src = .gsa sa) (hdst : j.dst = .gsa da)
    (hx : (sa + (jobSpan j (jobPick s j).1).1) % 2 ^ 32 = x) (hy : (da + (jobSpan j (jobPick s j).1).2.1) % 2 ^ 32 = y)
    (hn : min (min (min (jobSpan j (jobPick s j).1).2.2 (jobPick s j).2) 65536) (min (4096 - y % 4096) (4096 - x % 4096)) = n)
    (hxin : x % 2 ^ 22 < Config.sliceBytes) (hyin : y % 2 ^ 22 < Config.sliceBytes)
    (hxadm : admitted s j.ctx (gsaCore x) (x % 2 ^ 22) 1 0 = true) (hyadm : admitted s j.ctx (gsaCore y) (y % 2 ^ 22) 1 1 = true) :
    exec (.bargeChunkMove id) s = .next (moveRun s j (fun i => .sram [x + i]) (fun i => .sram [y + i]) (jobPick s j).1 n y x) := by
  subst hx hy hn
  rw [exec_bargeChunkMove, execBargeChunkMove, hj]
  dsimp only
  rw [hmov, hrank, if_neg (by decide), fillEnds_gsa hsrc hdst, hsrc, hdst, sideAt_gsa (wr := true) hyin hyadm,
    sideAt_gsa (wr := false) hxin hxadm]
  exact if_neg Bool.false_ne_true

/-! ### What a run writes -/

theorem flatMap_range_eq_bytesAt (y : Nat) (l : List Byte) :
    (List.range l.length).flatMap (fun i => [y + i].map (fun a => (a, l.getD i 0))) = bytesAt y l := by
  induction l generalizing y with
  | nil => rfl
  | cons b t ih =>
    rw [List.length_cons, List.range_succ_eq_map, List.flatMap_cons, List.flatMap_map, bytesAt, ← ih (y + 1)]
    refine congrArg ((y, b) :: ·) (List.flatMap_congr fun i _ => ?_)
    rw [Nat.succ_eq_add_one, List.getD_cons_succ, Nat.add_assoc, Nat.add_comm 1 i]

/-- What reads no poison is as before poison was lifted. -/
theorem lift_sram_keeps {γ : Type} (g : State → γ)
    (hg : ∀ (t : State) b m d, g { t with mem := { t.mem with badHome := b, badMir := m, doubt := d } } = g t) (s : State) (l : List Nat) :
    g ((Loc.sram l).lift s) = g s :=
  foldl_keeps g _ (fun t _ => hg t _ _ _) l s

theorem liftRun_sram_keeps {γ : Type} (g : State → γ)
    (hg : ∀ (t : State) b m d, g { t with mem := { t.mem with badHome := b, badMir := m, doubt := d } } = g t) (s : State) (j : Job) (y x n : Nat) :
    g (liftRun s j (fun i => .sram [y + i]) x n) = g s := by
  refine foldl_keeps g _ (fun t i => ?_) _ s
  split
  · exact lift_sram_keeps g hg t _
  · rfl

/-- A run written in global SRAM is a write of its bytes, and poison that is lifted. -/
theorem writeRun_sram_keeps {γ : Type} (g : State → γ)
    (hg : ∀ (t : State) b m d, g { t with mem := { t.mem with badHome := b, badMir := m, doubt := d } } = g t) (s : State) (y : Nat)
    (l : List Byte) : g (writeRun s (fun i => .sram [y + i]) l) = g (writeHome s (bytesAt y l)) := by
  unfold writeRun
  dsimp only
  rw [flatMap_range_eq_bytesAt]
  refine foldl_keeps g _ (fun t sec => ?_) _ _
  split
  · exact hg t _ _ _
  · rfl

theorem find?_setJob {id : Nat} (h : s.fl.jobs.find? (fun x => decide (x.id = id)) = some j) {z : Job} (hz : z.id = id) :
    (setJob s z).fl.jobs.find? (fun x => decide (x.id = id)) = some z := by
  have hid := id_of_find? Job.id h
  have hsame : (fun x : Job => decide (x.id = id)) ∘ (fun x : Job => if x.id = z.id then z else x) = fun x => decide (x.id = id) := by
    funext x
    rw [Function.comp_apply]
    split
    · next hx => rw [hx]
    · rfl
  rw [setJob, List.find?_map, hsame, h, Option.map_some, if_pos (hid.trans hz.symm)]

theorem beaten_of_pre_nil (h : j.pre = []) (x : Nat) (l : Loc) : beaten j x l = false := by
  rw [beaten, h, SMap.look_nil]

theorem locByte_sram (h : j.pre = []) (a : Nat) : locByte s j (.sram [a]) = dieByte s j.die a := by
  rw [locByte, h, SMap.look_nil]
  rfl

/-- A run whose place a later row has written moves nothing. -/
theorem moveRun_late {y x n0 daddr saddr : Nat} {b : Byte × Nat} {f : Nat → Loc} (hb : SMap.look j.pre (4 * y) = some b) (hlt : x + 1 < b.2) :
    ∃ m, moveRun s j f (fun i => .sram [y + i]) x n0 daddr saddr =
      setJob (readDone { s with free := s.free + 2 } (jobWho j.id)) { j with moved := addPart j.moved x m } := by
  have hlate : beaten j x (.sram [y + 0]) = true := by
    have hkey : SMap.look j.pre (Loc.sram [y + 0]).key = some b := hb
    rw [beaten, hkey]
    exact decide_eq_true hlt
  unfold moveRun
  extract_lets late n j1 s0
  have hl : late = true := hlate
  rw [if_pos hl]
  exact ⟨n, rfl⟩

/-- A run of sound bytes to sound sectors, none of which the copy has written before, moves whole (R164). -/
theorem moveRun_sound {y x k n daddr saddr : Nat} (hpre : j.pre = [])
    (hsound : ∀ i, i < n → sectorBad s j.die (x + i) = false ∧ s.mem.badHome.contains (sectorOf (y + i)) = false) :
    ∃ pre, moveRun s j (fun i => .sram [x + i]) (fun i => .sram [y + i]) k n daddr saddr =
      setJob (liftRun (writeRun (readDone { s with free := s.free + 2 } (jobWho j.id)) (fun i => .sram [y + i])
        ((List.range n).map (fun i => dieByte s j.die (x + i)))) { j with moved := addPart j.moved k n } (fun i => .sram [y + i]) k n)
      { j with moved := addPart j.moved k n, pre := pre } := by
  unfold moveRun
  extract_lets late m j1 s0 l old bad s1 pre j2
  have hlate : late = false := beaten_of_pre_nil hpre _ _
  have hm : m = n := by
    unfold m
    rw [List.takeWhile_eq_self_iff.mpr fun i _ => ?_, List.length_range]
    rw [hlate, beaten_of_pre_nil hpre]
    rfl
  clear_value m
  subst hm
  have hread : (List.range m).find? (fun i => locBad s j (.sram [x + i])) = none :=
    List.find?_eq_none.mpr fun i hi => by
      have : locBad s j (.sram [x + i]) = false := (hsound i (List.mem_range.mp hi)).1
      rw [this]
      exact Bool.false_ne_true
  have hbad : bad = none := List.find?_eq_none.mpr fun i hi => by
    have hgood : (Loc.sram [y + i]).poisoned s = false := by
      rw [Loc.poisoned, List.any_cons, (hsound i (List.mem_range.mp hi)).2]
      rfl
    rw [partBad, hgood]
    exact Bool.false_ne_true
  have hl : l = (List.range m).map (fun i => dieByte s j.die (x + i)) := List.map_congr_left fun i _ => locByte_sram hpre _
  rw [hlate, if_neg Bool.false_ne_true, hread, hbad, ← hl]
  exact ⟨pre, rfl⟩

/-- Neither the end of a read nor the lifting of poison changes a byte of global SRAM: the bytes after a run are those of its write. -/
theorem homeByte_writeRun (s : State) (j : Job) (who y x n : Nat) (l : List Byte) {a : Nat} (ha : ¬ bellByte s a) :
    homeByte (liftRun (writeRun (readDone { s with free := s.free + 2 } who) (fun i => .sram [y + i]) l) j (fun i => .sram [y + i]) x n) a =
      (if y ≤ a then l[a - y]? else none).getD (homeByte s a) := by
  obtain ⟨t, ht⟩ : ∃ t, readDone { s with free := s.free + 2 } who = t := ⟨_, rfl⟩
  have hmem : t.mem = s.mem := ht ▸ readDone_keeps State.mem (fun _ _ => rfl) { s with free := s.free + 2 } who
  have hqueues : t.queues = s.queues := ht ▸ readDone_keeps State.queues (fun _ _ => rfl) { s with free := s.free + 2 } who
  have hbyte : homeByte t a = homeByte s a := homeByte_congr (by rw [hmem]) a
  rw [ht, liftRun_sram_keeps (fun r => homeByte r a) (fun _ _ _ _ => rfl), writeRun_sram_keeps (fun r => homeByte r a) (fun _ _ _ _ => rfl),
    homeByte_writeHome t (keys_bytesAt_nodup y l) (mt (bellByte_congr hqueues a).mp ha), look_bytesAt, hbyte]

/-- A run leaves which commands are outstanding, but for what it sets of its own. -/
theorem fl_writeRun (s : State) (j : Job) (who y x n : Nat) (l : List Byte) :
    (liftRun (writeRun (readDone { s with free := s.free + 2 } who) (fun i => .sram [y + i]) l) j (fun i => .sram [y + i]) x n).fl = s.fl := by
  rw [liftRun_sram_keeps State.fl (fun _ _ _ _ => rfl), writeRun_sram_keeps State.fl (fun _ _ _ _ => rfl),
    writeHome_keeps State.fl (fun _ _ _ _ _ => rfl), readDone_keeps State.fl (fun _ _ => rfl)]

end

/-! ## Ends of commands (R165, R167, R175) -/

section
variable {s : State} {j : Job}

@[simp] theorem deliver_mem (u : UnitId) (what : PWhat) (v : Nat) : (deliver s u what v).mem = s.mem := by
  unfold deliver
  split <;> rfl

@[simp] theorem deliver_fl (u : UnitId) (what : PWhat) (v : Nat) : (deliver s u what v).fl = s.fl := by
  unfold deliver
  split <;> rfl

/-- The status word comes to the result that waits for it. -/
theorem unit?_deliver {id : UnitId} {u : Unit} (hu : s.unit? id = some u) (hid : u.id = id) (what : PWhat) (v : Nat) :
    (deliver s id what v).unit? id =
      some { u with pend := u.pend.map (fun (p : Pend) => if p.what = what then { p with vals := [(0, v)] } else p) } := by
  unfold deliver
  rw [hu]
  exact unit?_setUnit_id s hid

/-- The machine whose engines are free of a command. -/
def withoutJob (s : State) (j : Job) : State := { s with fl := { s.fl with jobs := s.fl.jobs.filter (fun x => decide (x.id ≠ j.id)) } }

/-- The end of a command without a fault. -/
theorem endJob_sound (h : j.code = 0) : endJob s j = deliver (withoutJob s j) j.unit (.status j.id) (2 ^ 63 + j.info % 2 ^ 56) := by
  rw [endJob, if_pos h, statusWord, h]
  rfl

/-- A copy of which every part has moved ends. -/
theorem exec_copyComplete_moved {id : Nat} (hj : s.fl.jobs.find? (fun x => decide (x.id = id)) = some j) (hcoll : j.coll = none)
    (htodo : j.todo = []) : exec (.copyComplete id) s = .next (endJob s j) := by
  rw [exec_copyComplete, execCopyComplete, hj]
  exact if_pos ⟨by rw [hcoll]; rfl, .inr htodo⟩

/-- A collective of one member has its source as its result. -/
theorem exec_collectiveComplete_alone {id : Nat} {c : Coll} {l : List Byte} {r : State}
    (hj : s.fl.jobs.find? (fun x => decide (x.id = id)) = some j) (hcoll : j.coll = some c) (hrank : collOutranked s j = false)
    (hwait : j.collWait s c = none) (hsize : collSize s j.ctx c.group = some 1)
    (hread : readRun s j.ctx c.src (c.elems * collBytes c.ty) = .ok l)
    (hput : putDva (touchDva (readDone s (jobWho id)) j.ctx c.src (c.elems * collBytes c.ty)) j.ctx c.dst l l.length = (r, none)) :
    exec (.collectiveComplete id false) s = .next (endJob (raiseTimeline r j.ctx c.tl c.val) j) := by
  have hres : collResult s c 1 (myRank s j.ctx c.group) l = l := if_pos (Nat.le_refl 1)
  have hfree : (if 1 ≤ 1 ∧ (!false) = true then 0 else 2 * 1 * c.elems + l.length) = 0 := if_pos (by decide)
  rw [exec_collectiveComplete, execCollectiveComplete, hj]
  dsimp only
  rw [hcoll]
  dsimp only
  rw [hrank, if_neg Bool.false_ne_true, hwait]
  dsimp only
  rw [hread, hsize, Option.getD_some]
  dsimp only
  rw [hres, hfree, if_neg Bool.false_ne_true, Nat.add_zero, hput]

end

end Sys2Proof.Machine

namespace Sys2Proof.Machine

/-! ## Translation caches (R249, R250) -/

/-- A cache takes what is put; with room it loses nothing. -/
theorem cachePut_eq_cons {α : Type} (mine : α → Bool) (cap n : Nat) (l : List α) (x : α) :
    ∃ r, cachePut mine cap n l x = x :: r ∧ (l.countP mine < cap → r = l) := by
  unfold cachePut
  by_cases h : l.countP mine < cap
  · exact ⟨l, if_pos h, fun _ => rfl⟩
  · exact ⟨_, if_neg h, fun h' => absurd h' h⟩

theorem pageBytes_pos (e : BitVec 64) : 0 < pageBytes e := Nat.mul_pos (by decide) (Nat.pow_pos (by decide))

/-- A share is one of nine, so that it holds 16,384 entries. -/
theorem tlbCap_shareOf (s : State) (ctx dva : Nat) : tlbCap (shareOf s ctx dva) = 16384 := by
  have hlt : shareOf s ctx dva < 16 := by
    have hmod : (fld dva 20 36 + ctx) % 9 < 9 := Nat.mod_lt _ (by decide)
    unfold shareOf
    dsimp only
    split <;> omega
  exact if_pos hlt

section
variable {s : State}

/-- The entries that a walk reads fill no translation. -/
theorem tlb_nodesPut (s : State) (share ctx dva : Nat) (l : List (Nat × Phys × Nat)) :
    (nodesPut (l.foldl (fun t e => activate t e.2.1) s) share ctx dva l).fl.tlb = s.fl.tlb := by
  have hact : (l.foldl (fun t e => activate t e.2.1) s).fl.tlb = s.fl.tlb :=
    foldl_keeps (fun t : State => t.fl.tlb) _ (fun t e => by unfold activate; split <;> rfl) l s
  refine Eq.trans (foldl_keeps (fun t : State => t.fl.tlb) _ (fun t e => ?_) l _) hact
  dsimp only
  split <;> rfl

/-- A walk that ends at a leaf enters it in its share. -/
theorem tlb_shareFill_leaf {ctx dva : Nat} {e : BitVec 64} (h : shareWalk s ctx dva = .leaf e) :
    ∃ r, (shareFill s ctx dva).fl.tlb =
        { place := shareOf s ctx dva, ctx := ctx, dva := dva / pageBytes e * pageBytes e, entry := e } :: r ∧
      (s.fl.tlb.countP (fun y => decide (y.place = shareOf s ctx dva)) < 16384 → r = s.fl.tlb) := by
  unfold shareFill
  extract_lets k l s1
  rw [h, ← tlb_nodesPut s k ctx dva l, ← tlbCap_shareOf s ctx dva]
  exact cachePut_eq_cons _ _ _ s1.fl.tlb _

theorem tlb_shareFill_absent {ctx dva : Nat} (h : shareWalk s ctx dva = .absent) : (shareFill s ctx dva).fl.tlb = s.fl.tlb := by
  unfold shareFill
  extract_lets k l s1
  rw [h]
  exact tlb_nodesPut s k ctx dva l

/-- A walk that is done is no longer in flight; its share has the leaf, or its requester the failure. -/
theorem walkDone_leaf {w : Walk} {e : BitVec 64} (h : shareWalk s w.ctx w.dva = .leaf e) :
    (walkDone s w).fl.tlb = (shareFill s w.ctx w.dva).fl.tlb ∧ ∀ y ∈ (walkDone s w).fl.walks, y.id ≠ w.id := by
  unfold walkDone
  rw [h]
  exact ⟨rfl, fun y hy => of_decide_eq_true (List.mem_filter.mp hy).2⟩

theorem walkDone_absent {w : Walk} (h : shareWalk s w.ctx w.dva = .absent) :
    (walkDone s w).fl.tlb = ⟨1000, w.ctx, w.dva, 0⟩ :: s.fl.tlb ∧ ∀ y ∈ (walkDone s w).fl.walks, y.id ≠ w.id := by
  rw [← tlb_shareFill_absent h]
  unfold walkDone
  rw [h]
  exact ⟨rfl, fun y hy => of_decide_eq_true (List.mem_filter.mp hy).2⟩

theorem exec_pageWalkComplete_found {id : Nat} {w : Walk} (hw : s.fl.walks.find? (fun x => decide (x.id = id)) = some w) :
    exec (.pageWalkComplete id) s = .next (walkDone s w) := by
  rw [exec_pageWalkComplete, execPageWalkComplete, hw]

/-- Whether an invalidation takes what a cache holds for `n` bytes from `a` of a context (R250). -/
def Inval.takes (v : Inval) (ctx a n : Nat) : Bool := decide (ctx = v.ctx) && decide (a ≤ v.last) && decide (v.first < a + n)

theorem Inval.takes_iff (v : Inval) (ctx a n : Nat) : v.takes ctx a n = true ↔ ctx = v.ctx ∧ a ≤ v.last ∧ v.first < a + n := by
  simp [Inval.takes, and_assoc]

/-- The caches once an invalidation is done. -/
def invalidated (s : State) (v : Inval) : State :=
  { s with fl := { s.fl with
    tlb := s.fl.tlb.filter (fun x => !v.takes x.ctx x.dva (if x.place < 1000 then pageBytes x.entry else 4096)),
    nodes := s.fl.nodes.filter (fun x => !v.takes x.ctx (x.idx * coverage x.level) (coverage x.level)),
    invals := s.fl.invals.filter (fun x => decide (x.id ≠ v.id)) } }

theorem exec_invalidationComplete_found {id : Nat} {v : Inval} (hv : s.fl.invals.find? (fun x => decide (x.id = id)) = some v) :
    exec (.invalidationComplete id) s = .next (invalidated s v) := by
  obtain rfl := id_of_find? Inval.id hv
  rw [exec_invalidationComplete, execInvalidationComplete, hv]
  rfl

theorem mem_tlb_invalidated {v : Inval} {x : Tlb} : x ∈ (invalidated s v).fl.tlb ↔
    x ∈ s.fl.tlb ∧ v.takes x.ctx x.dva (if x.place < 1000 then pageBytes x.entry else 4096) = false := by
  simp [invalidated]

theorem mem_nodes_invalidated {v : Inval} {x : WalkE} : x ∈ (invalidated s v).fl.nodes ↔
    x ∈ s.fl.nodes ∧ v.takes x.ctx (x.idx * coverage x.level) (coverage x.level) = false := by
  simp [invalidated]

theorem Inval.takes_other {v : Inval} {ctx : Nat} (h : ctx ≠ v.ctx) (a n : Nat) : v.takes ctx a n = false :=
  Bool.eq_false_iff.mpr fun ht => h ((v.takes_iff ctx a n).mp ht).1

end

/-! ## Parked words (R169, R174) -/

section
variable {s : State}

/-- A parked multicast whose credits have come takes them. -/
theorem exec_cpmCreditTake_ready {id : UnitId} {v : Unit} {p : Park} {g k : Nat} (hu : s.unit? id = some v) (hp : v.sS.park = some p)
    (hwhy : p.why = .credit g k) (hready : creditsReady s g k = true) : exec (.cpmCreditTake id) s =
      .next (takeCredits (spoil (s.setUnit (v.setPark .s (some { p with why := .reported }))) v) g k) := by
  rw [exec_cpmCreditTake, execCpmCreditTake, hu]
  dsimp only
  rw [hp]
  dsimp only
  rw [hwhy]
  exact if_pos hready

/-- A quiet warp that is told of the quiescence is parked with the report. -/
theorem Unit.park_report {u : Unit} (hq : u.quiet = true) (hp : u.performs = true) :
    u.report.sS.park.map (fun q => q.why) = some .reported := by
  have hpark : u.sS.park ≠ none := fun hnone => by
    rw [Unit.quiet, hnone, Bool.and_false] at hq
    exact Bool.false_ne_true hq
  obtain ⟨p, hp'⟩ := Option.ne_none_iff_exists'.mp hpark
  rw [Unit.report, if_pos ⟨hq, hp⟩, hp']
  rfl

end

end Sys2Proof.Machine

section
open Sys2Proof Sys2Proof.Machine

/-- Settles O40: each event by the branch that its hypotheses choose; the bytes of a run are those of the one write that it makes. -/
theorem engineEvents : Obligations.EngineEvents := by
  unfold Obligations.EngineEvents
  refine ⟨?chunk, ?copyEnd, ?walk, ?invalidation, ?collective, ?credits, ?quiet⟩
  case chunk =>
    intro s id j sa da hj hcoll hcode htodo hrank hsrc hdst k sp x y n hxin hyin hxadm hyadm
    have hmov : j.moving = true := by simp [Job.moving, hcoll, hcode, htodo]
    have hid := id_of_find? Job.id hj
    have hexec := exec_bargeChunkMove_gsa (n := n) hj hmov hrank hsrc hdst rfl rfl rfl hxin hyin hxadm hyadm
    refine ⟨jobPick_part s htodo, fun hpre hsound => ?_, fun b hb hlate => ?_⟩
    · obtain ⟨pre, hrun⟩ := moveRun_sound (k := k.1) (daddr := y) (saddr := x) hpre hsound
      refine ⟨_, hexec.trans (congrArg _ hrun), fun a ha => ?_, ?_⟩
      · refine (homeByte_writeRun s _ _ y k.1 n _ ha).trans ?_
        by_cases hy : y ≤ a
        · by_cases hn : a - y < n
          · rw [if_pos hy, if_pos ⟨hy, by omega⟩, List.getElem?_map, List.getElem?_range hn]
            rfl
          · rw [if_pos hy, if_neg (by omega), List.getElem?_eq_none (by simpa using hn)]
            rfl
        · rw [if_neg hy, if_neg fun h => hy h.1]
          rfl
      · rw [find?_setJob (by rw [fl_writeRun]; exact hj) (by exact hid)]
        exact congrArg (fun c => some (addPart j.moved k.1 n, c)) hcode
    · obtain ⟨m, hrun⟩ := moveRun_late (f := fun i => .sram [x + i]) (n0 := n) (daddr := y) (saddr := x) hb hlate
      refine ⟨_, m, hexec.trans (congrArg _ hrun), readDone_keeps State.mem (fun _ _ => rfl) _ _, ?_⟩
      rw [find?_setJob (by rw [readDone_keeps State.fl (fun _ _ => rfl)]; exact hj) (by exact hid)]
      exact congrArg (fun c => some (addPart j.moved k.1 m, c)) hcode
  case copyEnd =>
    intro s id j hj hcoll hcode htodo
    have hid := id_of_find? Job.id hj
    refine ⟨_, (exec_copyComplete_moved hj hcoll htodo).trans (congrArg _ (endJob_sound hcode)), deliver_mem _ _ _, fun x hx => ?_,
      fun u hu huid => ⟨_, unit?_deliver (s := withoutJob s j) hu huid _ _, rfl⟩⟩
    rw [deliver_fl] at hx
    exact hid ▸ of_decide_eq_true (List.mem_filter.mp hx).2
  case walk =>
    intro s id w hw
    have hid := id_of_find? Walk.id hw
    refine ⟨fun e he => ?_, fun habsent => ?_⟩
    · obtain ⟨htlb, hgone⟩ := walkDone_leaf he
      obtain ⟨r, hr, hroom⟩ := tlb_shareFill_leaf he
      exact ⟨_, _, r, exec_pageWalkComplete_found hw, htlb.trans hr, rfl, rfl, rfl, Nat.div_mul_le_self _ _,
        Nat.lt_div_mul_add (pageBytes_pos e), fun y hy => hid ▸ hgone y hy, hroom⟩
    · obtain ⟨htlb, hgone⟩ := walkDone_absent habsent
      exact ⟨_, exec_pageWalkComplete_found hw, htlb, fun y hy => hid ▸ hgone y hy⟩
  case invalidation =>
    intro s id v hv
    have hid := id_of_find? Inval.id hv
    refine ⟨_, exec_invalidationComplete_found hv, fun y hy => hid ▸ of_decide_eq_true (List.mem_filter.mp hy).2,
      fun x hx hctx hplace hlo hhi => ?_, fun x hx hctx hlo hhi => ?_,
      fun x hx hctx => mem_tlb_invalidated.mpr ⟨hx, Inval.takes_other hctx _ _⟩,
      fun x hx hctx => mem_nodes_invalidated.mpr ⟨hx, Inval.takes_other hctx _ _⟩⟩
    · obtain ⟨-, hkept⟩ := mem_tlb_invalidated.mp hx
      rw [if_pos hplace] at hkept
      exact absurd ((v.takes_iff _ _ _).mpr ⟨hctx, hlo, hhi⟩) (Bool.eq_false_iff.mp hkept)
    · obtain ⟨-, hkept⟩ := mem_nodes_invalidated.mp hx
      exact absurd ((v.takes_iff _ _ _).mpr ⟨hctx, hlo, hhi⟩) (Bool.eq_false_iff.mp hkept)
  case collective =>
    intro s id j c l r hj hcoll hrank hwait hsize hread hput
    exact exec_collectiveComplete_alone hj hcoll hrank hwait hsize hread hput
  case credits =>
    intro s u v p g k hu hid hp hwhy hready
    have hexec := exec_cpmCreditTake_ready hu hp hwhy hready
    obtain ⟨t, ht⟩ : ∃ t, spoil (s.setUnit (v.setPark .s (some { p with why := .reported }))) v = t := ⟨_, rfl⟩
    have hunit : t.unit? u = some (v.setPark .s (some { p with why := .reported })) := ht ▸ unit?_setUnit_id s hid
    have hmem : t.mem = s.mem := ht ▸ rfl
    have hqueues : t.queues = s.queues := ht ▸ rfl
    rw [ht] at hexec
    obtain ⟨mon, code, hy⟩ := unitsStay_takeCredits t g k u _ hunit
    exact ⟨_, _, hexec, hy, rfl, fun i hi hbit => holds_takeCredits hmem hqueues g hi hbit⟩
  case quiet =>
    intro s ctx hq
    refine ⟨_, (exec_quiescenceReport s).trans (if_pos hq), rfl, rfl, fun e he hctx hquiet hperf => ?_⟩
    refine ⟨(e.1, e.2.report), List.mem_map.mpr ⟨e, he, if_pos hctx⟩, rfl, Unit.park_report hquiet hperf⟩

end

namespace Sys2Proof.Machine

/-! ## The engine of a cluster (R178) -/

@[simp] theorem engine_onEngine (s : State) (cl : Nat) (f : Engine → Engine) :
    ((onEngine s cl f).cluster cl).engine = f (s.cluster cl).engine := by
  simp [onEngine]

@[simp] theorem engineOf_onEngine (s : State) (u : Unit) (f : Engine → Engine) :
    engineOf (onEngine s u.cluster f) u = f (engineOf s u) :=
  engine_onEngine s u.cluster f

theorem engineOf_congr {s t : State} (h : t.clusters = s.clusters) (u : Unit) : engineOf t u = engineOf s u := by
  rw [engineOf, engineOf, State.cluster, State.cluster, h]

/-- Issuing a lane word changes no engine. -/
@[simp] theorem lNext_clusters (s : State) (u : Unit) (i m : Bool) (iv lat : Nat) (rs : List FRes) :
    (lNext s u i m iv lat rs).clusters = s.clusters := by
  simp [lNext]

theorem engineOf_lNext_spoil (s : State) (u : Unit) (i m : Bool) (iv lat : Nat) (rs : List FRes) :
    engineOf (lNext (spoil s u) u i m iv lat rs) u = engineOf s u :=
  engineOf_congr (lNext_clusters (spoil s u) u i m iv lat rs) u

theorem steps_done_same (u : Unit) (st : Strm) (m : Bool) (l : List Fly) : Steps u (u.done st m l) st where
  pc := by cases st <;> rfl
  arch := sameArch_done u u.pend u.mon u.code st m l

theorem Unit.lDone_eq_done (u : Unit) (i m : Bool) (l : List Fly) : u.lDone i m l ((u.slot i).lpc + 1) = u.done (slotStrm i) m l := by
  cases i <;> rfl

/-! ## Feed words (R193 to R196) -/

section
variable {s : State} {u : Unit} {i : Bool} {regs : List (Nat × Nat)}

/-- A lane word that has changed its engine alone, and issues, goes on to the next word and leaves memory. -/
theorem LReady.feeds (h : LReady s u i regs) (f : Engine → Engine) (m : Bool) (iv lat : Nat) (rs : List FRes) :
    lOn s (lNext (spoil (onEngine s u.cluster f) u) u i m iv lat rs) u i ∧
      (lNext (spoil (onEngine s u.cluster f) u) u i m iv lat rs).mem = s.mem := by
  obtain ⟨-, hcur, -⟩ := h
  have hunit := lNext_unit (s := spoil (onEngine s u.cluster f) u) (u := u) i m iv lat rs
  rw [hcur, Unit.lDone_eq_done] at hunit
  exact ⟨(steps_done_same u (slotStrm i) m _).lOn hunit, lNext_mem i m iv lat rs⟩

theorem feedGate_granted {obj n : Nat} {g : Resv} {offs : List (Nat × Nat)} (he : hasEngine s u = true) (hr : resvOf s u obj = some g)
    (hg : g.granted = true) (ha : ∀ e ∈ offs, e.2 % n = 0) (kind : Nat) (k : Res) : feedGate s u i obj n kind offs k = k := by
  unfold feedGate
  extract_lets st bad
  have hbad : bad = [] := List.filter_eq_nil_iff.mpr fun e hm => by simp [ha e hm]
  rw [he, hr, hbad]
  exact if_pos hg

/-- A unit holds no reservation of an object once its own are taken out. -/
theorem resvOf_of_resv {t : State} {obj : Nat}
    (h : (engineOf t u).resv = (engineOf s u).resv.filter (fun r => !(decide (r.obj = obj) && decide (r.unit = u.id)))) :
    resvOf t u obj = none := by
  rw [resvOf, h, List.find?_eq_none]
  intro r hr
  rw [(Bool.not_eq_true' _).mp (List.mem_filter.mp hr).2]
  exact Bool.false_ne_true

section
variable {w : LA}

theorem exec_xreqReserve_posts (h : LReady s u i []) (he : hasEngine s u = true) (hact : laneAct s u i w.g ≠ 0) (hd : u.dual = false)
    (hnone : resvOf s u (xObj w.md.toNat) = none) (hroom : (engineOf s u).resv.length < 16) :
    exec (.xreqReserve w) s = .next (lNext (spoil (onEngine s u.cluster (fun x => { x with resv := x.resv ++
      [{ obj := xObj w.md.toNat, unit := u.id, prio := fld w.md.toNat 5 2, arr := arrKey s u, granted := false }] })) u)
      u i w.m 1 0 []) := by
  rw [exec_xreqReserve, execXreqReserve, laneWord_ready h]
  dsimp only
  rw [if_neg hact, he, hd, hnone, if_neg (Nat.not_le.mpr hroom)]
  rfl

theorem exec_xreqRelease_gives (h : LReady s u i []) (he : hasEngine s u = true) (hact : laneAct s u i w.g ≠ 0) (hd : u.dual = false)
    {g : Resv} (hr : resvOf s u (xObj w.md.toNat) = some g) (hg : g.granted = true)
    (hfly : xObj w.md.toNat = 8 → (u.slot i).fly = []) :
    exec (.xreqRelease w) s = .next (lNext (spoil (onEngine s u.cluster (fun x => { x with
      resv := x.resv.filter (fun r => !(decide (r.obj = xObj w.md.toNat) && decide (r.unit = u.id))) })) u) u i w.m 1 0 []) := by
  have hread : ¬ (xObj w.md.toNat = 8 ∧ (!(u.slot i).fly.isEmpty) = true) := fun hb => by
    rw [hfly hb.1] at hb
    exact Bool.false_ne_true hb.2
  rw [exec_xreqRelease, execXreqRelease, laneWord_ready h]
  dsimp only
  rw [if_neg hact, he, hd]
  simp only [hr, hg]
  exact if_neg hread

/-- A tile half once bytes have been fed: they are written in order, and are sound. -/
def Engine.feed (e : Engine) (bytes : List (Nat × Byte)) : Engine :=
  { e with o := bytes.foldl (fun y b => SMap.set 0 y b.1 b.2) e.o,
           oBad := e.oBad.filter (fun k => !bytes.any (fun b => decide (b.1 = k))) }

/-- The bytes of a feed: of each active lane its value, at its offset in the tile half. -/
def feedBytes (u : Unit) (w : LA) (act : Mask) (obj : Nat) : List (Nat × Byte) :=
  ((lanesOf act).map (fun x => (x, u.opVal .b32 w.imm.toNat w.b x % 2 ^ 14))).flatMap
    (fun e => bytesAt (obj * 16384 + e.2) (leBytes (4 * tyRegs w.ty) (u.opVal w.ty 0 w.a e.1)))

theorem exec_xfeed_granted (h : LReady s u i (selRegs w.a (tyRegs w.ty) ++ selRegs w.b 1)) (he : hasEngine s u = true) {obj : Nat}
    (ho : obj = fld w.md.toNat 0 2 * 2 + fld w.md.toNat 2 1) {g : Resv} (hr : resvOf s u obj = some g) (hg : g.granted = true)
    (ha : ∀ e ∈ (lanesOf (laneAct s u i w.g)).map (fun x => (x, u.opVal .b32 w.imm.toNat w.b x % 2 ^ 14)), e.2 % (4 * tyRegs w.ty) = 0) :
    exec (.xfeed w) s = .next (lNext (spoil (onEngine s u.cluster (fun x => x.feed (feedBytes u w (laneAct s u i w.g) obj))) u)
      u i w.m (feedIv (4 * tyRegs w.ty)) 0 []) := by
  subst ho
  rw [exec_xfeed, execXfeed, laneWord_ready h]
  exact feedGate_granted he hr hg ha 5 _

end

end

end Sys2Proof.Machine

section
open Sys2Proof Sys2Proof.Machine

/-- Settles O31: a word that passes its gates changes its cluster's engine alone (`LReady.feeds`), or only reads it. -/
theorem feedWords : Obligations.FeedWords := by
  unfold Obligations.FeedWords
  intro s u i w he act obj n moved
  refine ⟨?reserve, ?release, ?feed, ?read⟩
  case reserve =>
    intro hact hd h hnone hroom
    refine ⟨_, exec_xreqReserve_posts h he hact hd hnone hroom, h.feeds _ w.m 1 0 [], ?_⟩
    rw [engineOf_lNext_spoil, engineOf_onEngine]
  case release =>
    rintro hact hd h ⟨g, hr, hg⟩ hfly
    refine ⟨_, exec_xreqRelease_gives h he hact hd hr hg hfly, h.feeds _ w.m 1 0 [], resvOf_of_resv (s := s) ?_⟩
    rw [engineOf_lNext_spoil, engineOf_onEngine]
  case feed =>
    intro g h o hr hg l ha bytes
    refine ⟨_, exec_xfeed_granted h he rfl hr hg ha, h.feeds _ w.m (feedIv (4 * n)) 0 [], ?_⟩
    rw [engineOf_lNext_spoil, engineOf_onEngine]
    exact ⟨rfl, rfl, rfl⟩
  case read =>
    intro g d hdst h hr hg l ha
    rw [exec_xread, execXread, laneWord_ready h]
    refine (feedGate_granted he hr hg ha 6 _).trans ?_
    rw [hdst]
    rfl

end

namespace Sys2Proof.Machine

/-! ## Matrix words at issue (R180, R181) -/

section
variable {s t : State} {u : Unit} {regs : List SReg} {kind : MKind}

/-- A lockmaster whose queue has room, or that waits for its word, runs the word. -/
theorem mxWord_ready (h : SReady s u regs) (hlm : u.who.isLm = true) (hroom : (engineOf s u).queue.length < 8 ∨ u.mxWait ≠ none)
    (k : Unit → Res) : mxWord s regs k = k u := by
  have hgo : ¬ (8 ≤ (engineOf s u).queue.length ∧ u.mxWait = none) := fun hfull =>
    hroom.elim (Nat.not_lt.mpr hfull.1) fun hwait => hwait hfull.2
  rw [mxWord, sWord_ready h, hlm, if_neg hgo]
  rfl

/-- A word of `kind` has entered the queue of the engine of `u` under the team's next number, and `u` has gone on; of the home bytes
the word has changed those of `bytes`. -/
structure Enqueued (s t : State) (u : Unit) (kind : MKind) (bytes : List (Nat × Byte)) : Prop where
  on : sOn s t u
  queue : ∃ w, (engineOf t u).queue = (engineOf s u).queue ++ [w] ∧ w.kind = kind ∧ w.num = nextNum s u ∧ w.done = 0
  acc : (engineOf t u).acc = (engineOf s u).acc
  home : ∀ x, ¬ bellByte s x → homeByte t x = (SMap.look bytes x).getD (homeByte s x)

/-- What it is that a word is queued, with the word that stands in the queue. -/
theorem exists_word_of_enqueued {i : Instr} {bytes : List (Nat × Byte)} (h : ∃ t, exec i s = .next t ∧ Enqueued s t u kind bytes) :
    ∃ t w, exec i s = .next t ∧ sOn s t u ∧ (engineOf t u).queue = (engineOf s u).queue ++ [w] ∧ w.kind = kind ∧
      w.num = nextNum s u ∧ w.done = 0 ∧ (engineOf t u).acc = (engineOf s u).acc ∧
      (∀ x, ¬ bellByte s x → homeByte t x = (SMap.look bytes x).getD (homeByte s x)) := by
  obtain ⟨t, ht, hon, ⟨w, hq, hkind, hnum, hdone⟩, hacc, hhome⟩ := h
  exact ⟨t, w, ht, hon, hq, hkind, hnum, hdone, hacc, hhome⟩

/-- The machine after a matrix word has issued (R180). -/
def mxNext (s : State) (u : Unit) (m : Bool) (kind : MKind) : State := (pushWord s u kind).setUnit (u.done .s m [])

theorem mxIssue_eq (s : State) (u : Unit) (m : Bool) (kind : MKind) : mxIssue s u m kind = .next (mxNext s u m kind) := rfl

/-- A word as it enters the queue (R180). -/
def queuedWord (s : State) (u : Unit) (kind : MKind) : MWord :=
  { num := nextNum s u, seq := s.fl.seq, kind := kind, arr := arrKey s u, done := 0, idx := u.sS.spc, raw := rawAt s u .s }

theorem engineOf_mxNext (s : State) (u : Unit) (m : Bool) (kind : MKind) : engineOf (mxNext s u m kind) u =
    { engineOf s u with queue := (engineOf s u).queue ++ [queuedWord s u kind] } :=
  engineOf_onEngine s u fun x => { x with queue := x.queue ++ [queuedWord s u kind] }

theorem enqueued_mxNext (hid : u.id = s.cur) (m : Bool) (kind : MKind) : Enqueued s (mxNext s u m kind) u kind [] where
  on := (steps_done_same u .s m []).sOn (unit?_setUnit_id (pushWord s u kind) ((Unit.done_id u .s m []).trans hid))
  queue := ⟨queuedWord s u kind, congrArg Engine.queue (engineOf_mxNext s u m kind), rfl, rfl, rfl⟩
  acc := by rw [engineOf_mxNext]
  home := fun _ _ => rfl

/-- A word whose issue has changed neither queue nor accumulators before has entered the queue as it was. -/
theorem Enqueued.of_onEngine {f : Engine → Engine} (hq : (f (engineOf s u)).queue = (engineOf s u).queue)
    (ha : (f (engineOf s u)).acc = (engineOf s u).acc) {bytes : List (Nat × Byte)}
    (h : Enqueued (onEngine s u.cluster f) t u kind bytes) : Enqueued s t u kind bytes where
  on := h.on
  queue := by
    have hqueue := h.queue
    rw [engineOf_onEngine, hq] at hqueue
    exact hqueue
  acc := by
    have hacc := h.acc
    rw [engineOf_onEngine, ha] at hacc
    exact hacc
  home := h.home

/-- A word in the queue that also writes bytes of global SRAM. -/
theorem Enqueued.write (h : Enqueued s t u kind []) (hbell : t.queues = s.queues) {l : List (Nat × Byte)}
    (hl : (l.map (fun e => e.1)).Nodup) : Enqueued s (writeHome t l) u kind l where
  on := by
    obtain ⟨v, hv, hpc, harch⟩ := h.on
    obtain ⟨mon, code, hy⟩ := unitsStay_writeHome t l s.cur v hv
    exact (Steps.stay (st := .s) ⟨hpc, harch⟩ mon code).sOn hy
  queue := by
    rw [engineOf_congr (writeHome_keeps State.clusters (fun _ _ _ _ _ => rfl) t l)]
    exact h.queue
  acc := by
    rw [engineOf_congr (writeHome_keeps State.clusters (fun _ _ _ _ _ => rfl) t l)]
    exact h.acc
  home := fun x hx => by
    rw [homeByte_writeHome t hl (mt (bellByte_congr hbell x).mp hx), h.home x hx]
    rfl

/-- A matrix word that comes to its issue is queued. -/
theorem mxWord_enqueues (h : SReady s u regs) (hlm : u.who.isLm = true) (hroom : (engineOf s u).queue.length < 8) {i : Instr}
    {k : Unit → Res} (hi : exec i s = mxWord s regs k) {m : Bool} (hk : k u = mxIssue s u m kind) :
    ∃ t, exec i s = .next t ∧ Enqueued s t u kind [] := by
  obtain ⟨-, hid, -⟩ := id h
  exact ⟨mxNext s u m kind, (hi.trans (mxWord_ready h hlm (.inl hroom) k)).trans hk, enqueued_mxNext hid m kind⟩

theorem failGate_passes {f : Option (Nat × Nat × Nat)} (h : f = none) (k : Res) : failGate s u f k = k := by
  rw [h, failGate]

/-! ### Words on a split table (R198, R199, R202) -/

/-- The bytes of the header that `mrow.mig` writes: the state, and the instant. -/
theorem keys_migBytes_nodup (g e : Nat) :
    ((bytesAt (g + 34) [2] ++ bytesAt (g + 40) (leBytes 8 e)).map (fun b => b.1)).Nodup := by
  rw [List.map_append]
  refine List.Nodup.append (keys_bytesAt_nodup _ _) (keys_bytesAt_nodup _ _) fun x hx hy => ?_
  obtain ⟨b, hb, rfl⟩ := List.mem_map.mp hx
  obtain ⟨c, hc, hcb⟩ := List.mem_map.mp hy
  have hlow := mem_bytesAt hb
  have hhigh := mem_bytesAt hc
  rw [List.length_singleton] at hlow
  omega

/-- The machine with a migration pending (R202). -/
def withMig (s : State) (u : Unit) (g e : Nat) : State := onEngine s u.cluster (fun x => { x with migs := x.migs ++ [(g, e)] })

theorem exec_mrowMig_enqueues {a b : SReg} {g e : Nat} (h : SReady s u [a, b]) (hlm : u.who.isLm = true)
    (hroom : (engineOf s u).queue.length < 8) (hg : g = (u.rs a).toNat % 2 ^ 32) (hf : tabFail s u g .mig = none)
    (he : e = max (u.rs b).toNat (nextNum s u)) (m : Bool) :
    ∃ t, exec (.mrowMig m a b) s = .next t ∧
      Enqueued s t u (.mrowMig g e) (bytesAt (g + 34) [2] ++ bytesAt (g + 40) (leBytes 8 e)) := by
  obtain ⟨-, hid, -⟩ := id h
  refine ⟨writeHome (mxNext (withMig s u g e) u m (.mrowMig g e)) (bytesAt (g + 34) [2] ++ bytesAt (g + 40) (leBytes 8 e)), ?_,
    (Enqueued.of_onEngine rfl rfl (enqueued_mxNext (s := withMig s u g e) hid m _)).write rfl (keys_migBytes_nodup _ _)⟩
  rw [exec_mrowMig, execMrowMig, tabWord, mxWord_ready h hlm (.inl hroom)]
  dsimp only
  rw [← hg, failGate_passes hf, ← he]
  rfl

theorem exec_mrowReg_enqueues {a : SReg} {g : Nat} (h : SReady s u [a]) (hlm : u.who.isLm = true)
    (hroom : (engineOf s u).queue.length < 8) (hg : g = (u.rs a).toNat % 2 ^ 32) (hf : tabFail s u g .reg = none) (m : Bool) :
    ∃ t, exec (.mrowReg m a) s = .next t ∧ Enqueued s t u (.mrowReg g) (bytesAt (g + 34) [0]) := by
  subst hg
  obtain ⟨-, hid, -⟩ := id h
  refine ⟨_, ((exec_mrowReg s).trans (mxWord_ready h hlm (.inl hroom) _)).trans (failGate_passes hf _), ?_⟩
  exact (enqueued_mxNext hid m _).write rfl (keys_bytesAt_nodup _ _)

end

/-! ### Words that wait for their completion (R181, R182, R190 to R192) -/

section
variable {s : State} {u : Unit} {m : Bool} {tile : Nat} {c : SReg} {kind : MKind}

theorem mxAwait_issue (hw : u.mxWait = none) (issue : Res → Res) : mxAwait s u m tile c kind issue =
    issue (parkAt (pushWord s u kind) u .s (.mxDone (nextNum s u))) := by
  rw [mxAwait, hw]

section
variable {n : Nat} {w : Word} (hw : u.mxWait = some n) (hd : (engineOf s u).doneStat = some (n, w)) (issue : Res → Res)
include hw hd

theorem mxAwait_done : mxAwait s u m tile c kind issue =
    if tb w.toNat 17 ∧ kind.isDrain then trapS s (u.setPark .s none) 0x36 tile w.toNat else .next (sNext s u m 4 [.s c w]) := by
  rw [mxAwait, hw]
  dsimp only
  rw [hd]
  exact if_pos rfl

/-- A word that waits gives its status, unless it is a drain of a marked tile. -/
theorem mxAwait_status (h : w.getLsbD 17 = false ∨ kind.isDrain = false) :
    mxAwait s u m tile c kind issue = .next (sNext s u m 4 [.s c w]) := by
  rw [mxAwait_done hw hd, if_neg]
  rw [tb_toNat]
  rintro ⟨hmark, hdrain⟩
  rcases h with h | h
  · exact Bool.false_ne_true (h.symm.trans hmark)
  · exact Bool.false_ne_true (h.symm.trans hdrain)

/-- A drain of a marked tile takes the tile-checksum trap. -/
theorem mxAwait_marked (h : w.getLsbD 17 = true) (hk : kind.isDrain = true) :
    mxAwait s u m tile c kind issue = trapS s (u.setPark .s none) 0x36 tile w.toNat := by
  rw [mxAwait_done hw hd, if_pos ⟨(tb_toNat w 17).trans h, hk⟩]

end

theorem exec_mdrn_parks {t : BitVec 3} {a b : SReg} (h : SReady s u ((if a = 0 then [] else [a, a + 1]) ++ [b, c]))
    (hlm : u.who.isLm = true) (hw : u.mxWait = none) (hroom : (engineOf s u).queue.length < 8) (hf : mdrnFail s u a b = none)
    (hset : u.who.rset = 0) : exec (.mdrn m t a b c) s =
      parkAt (pushWord s u (.mdrn t.toNat (drainPair u a) (u.rs b) true)) u .s (.mxDone (nextNum s u)) := by
  have hred : ¬ ((drainPair u a).isSome = true ∧ u.who.rset ≠ 0) := fun hr => hr.2 hset
  rw [exec_mdrn, execMdrn, mxWord_ready h hlm (.inl hroom)]
  dsimp only
  rw [mxAwait_issue hw, failGate_passes hf, if_neg hred, Unit.performs_simplex hset]

theorem exec_mchkRd_parks {t : BitVec 3} (h : SReady s u [c]) (hlm : u.who.isLm = true) (hw : u.mxWait = none)
    (hroom : (engineOf s u).queue.length < 8) :
    exec (.mchkRd m t c) s = parkAt (pushWord s u (.mchkRd t.toNat)) u .s (.mxDone (nextNum s u)) := by
  rw [exec_mchkRd, execMchkRd, mxWord_ready h hlm (.inl hroom), mxAwait_issue hw]

end

end Sys2Proof.Machine

section
open Sys2Proof Sys2Proof.Machine

/-- Settles O35: a word whose checks pass enters the queue (`Enqueued`); one that waits does what `mxAwait` makes of its status. -/
theorem matrixWords : Obligations.MatrixWords := by
  unfold Obligations.MatrixWords
  refine ⟨?issue, ?await⟩
  case issue =>
    intro s u m hlm hroom queued g
    refine ⟨?mma, ?mzero, ?mspl, ?mrowMig, ?mrowReg, ?mage, ?mchkClr, ?mchkInj, ?msl⟩
    case mma => exact fun t a b c h hf => exists_word_of_enqueued (mxWord_enqueues h hlm hroom (exec_mma s) (failGate_passes hf _))
    case mzero => exact fun t h _ => exists_word_of_enqueued (mxWord_enqueues h hlm hroom (exec_mzero s) rfl)
    case mspl => exact fun t a b c h hf => exists_word_of_enqueued (mxWord_enqueues h hlm hroom (exec_mspl s) (failGate_passes hf _))
    case mrowMig => exact fun a b h hf => exists_word_of_enqueued (exec_mrowMig_enqueues h hlm hroom rfl hf rfl m)
    case mrowReg => exact fun a h hf => exists_word_of_enqueued (exec_mrowReg_enqueues h hlm hroom rfl hf m)
    case mage => exact fun b a c h hf => exists_word_of_enqueued (mxWord_enqueues h hlm hroom (exec_mage s) (failGate_passes hf _))
    case mchkClr => exact fun t h _ => exists_word_of_enqueued (mxWord_enqueues h hlm hroom (exec_mchkClr s) rfl)
    case mchkInj => exact fun t a h _ => exists_word_of_enqueued (mxWord_enqueues h hlm hroom (exec_mchkInj s) rfl)
    case msl => exact fun a b c h hf => exists_word_of_enqueued (mxWord_enqueues h hlm hroom (exec_msl s) (failGate_passes hf _))
  case await =>
    intro s u m t a b c hlm regs
    refine ⟨fun h hw hroom hf hset => exec_mdrn_parks h hlm hw hroom hf hset, fun h hw hroom => exec_mchkRd_parks h hlm hw hroom,
      fun n w hw hd => ?_⟩
    have hroom : (engineOf s u).queue.length < 8 ∨ u.mxWait ≠ none := .inr (by rw [hw]; exact Option.some_ne_none n)
    refine ⟨fun h hmark => ?_, fun h hmark => ?_, fun h => ?_⟩
    · exact ((exec_mdrn s).trans (mxWord_ready h hlm hroom _)).trans (mxAwait_status hw hd _ (.inl hmark))
    · exact ((exec_mdrn s).trans (mxWord_ready h hlm hroom _)).trans (mxAwait_marked hw hd _ hmark rfl)
    · exact ((exec_mchkRd s).trans (mxWord_ready h hlm hroom _)).trans (mxAwait_status hw hd _ (.inr rfl))

end

namespace Sys2Proof.Machine

/-! ## Tiles (R82, R178, R187, R188) -/

theorem SMap.look_eq_none {α : Type} {m : SMap α} {k : Nat} (h : ∀ e ∈ m, e.1 ≠ k) : SMap.look m k = none :=
  Option.eq_none_iff_forall_ne_some.mpr fun _ hv => h _ (SMap.mem_of_look hv) rfl

/-- What is read of a map that lists, from key `b` on, the values of `v` that are not zero. -/
theorem get_nonzero (v : Nat → Nat) (b : Nat) {keys : List Nat} {j : Nat} (hj : j ∈ keys) :
    ((SMap.look (keys.filterMap (fun k => if v k = 0 then none else some (b + k, BitVec.ofNat 32 (v k)))) (b + j)).getD 0 : Half) =
      BitVec.ofNat 32 (v j) := by
  by_cases hv : v j = 0
  · rw [SMap.look_eq_none, hv]
    · rfl
    · intro e he hkey
      obtain ⟨k, -, hk⟩ := List.mem_filterMap.mp he
      split at hk
      · cases hk
      · next hne =>
        obtain rfl := Option.some.inj hk
        exact hne (Nat.add_left_cancel hkey ▸ hv)
  · induction keys with
    | nil => cases hj
    | cons x t ih =>
      rw [List.filterMap_cons]
      by_cases hx : x = j
      · rw [hx, if_neg hv, SMap.look, if_pos rfl]
        rfl
      · have ht : j ∈ t := (List.mem_cons.mp hj).resolve_left (Ne.symm hx)
        split
        · exact ih ht
        · next e he =>
          split at he
          · cases he
          · obtain rfl := Option.some.inj he
            rw [SMap.look, if_neg (fun h => hx (Nat.add_left_cancel h))]
            exact ih ht

section
variable (e : Engine) (t : Nat) {l j : Nat} (hl : l < 128) (hj : j < 128)
include hl hj

/-- An element of a tile that was replaced by a function of its elements. -/
theorem get_mapTile (f : Nat → Nat → Nat → Nat) : SMap.get 0 (e.mapTile t f).acc (t * 16384 + l * 128 + j) =
    BitVec.ofNat 32 (f l j (SMap.get 0 e.acc (t * 16384 + l * 128 + j)).toNat) := by
  have hdiv : (l * 128 + j) / 128 = l := by omega
  have hmod : (l * 128 + j) % 128 = j := by omega
  have hmem : l * 128 + j ∈ List.range 16384 := List.mem_range.mpr (by omega)
  have hbelow : SMap.look (e.acc.filter (fun x => decide (x.1 < t * 16384))) (t * 16384 + (l * 128 + j)) = none :=
    SMap.look_eq_none fun x hx hkey => by
      have := of_decide_eq_true (List.mem_filter.mp hx).2
      omega
  have habove : SMap.look (e.acc.filter (fun x => decide (t * 16384 + 16384 ≤ x.1))) (t * 16384 + (l * 128 + j)) = none :=
    SMap.look_eq_none fun x hx hkey => by
      have := of_decide_eq_true (List.mem_filter.mp hx).2
      omega
  rw [Nat.add_assoc, SMap.get, Engine.mapTile]
  dsimp only
  rw [SMap.look_append, SMap.look_append, hbelow, habove, Option.none_or, Option.or_none]
  rw [get_nonzero (fun k => f (k / 128) (k % 128) (e.at_ t (k / 128) (k % 128))) (t * 16384) hmem]
  rw [hdiv, hmod, Engine.at_, Nat.add_assoc]

theorem get_zeroTile : SMap.get 0 (e.zeroTile t).acc (t * 16384 + l * 128 + j) = 0 :=
  get_mapTile e t hl hj fun _ _ _ => 0

end

theorem contains_setDel (l : List Nat) (k : Nat) : (setDel l k).contains k = false := by
  simp [setDel]

theorem checked83_none (g : List (List Sum)) : checked83 g none = (g, false, false) := rfl

/-- An element of a tile after a pass without an injected fault: the sum at its place has been added to it. -/
theorem get_applyPass (s : State) (cl t : Nat) (g : List (List Sum)) (hinj : SMap.look (s.cluster cl).engine.inj t = none) {l j : Nat}
    (hl : l < 128) (hj : j < 128) : SMap.get 0 ((applyPass s cl t g).cluster cl).engine.acc (t * 16384 + l * 128 + j) =
      BitVec.ofNat 32 (accAdd .f32 (SMap.get 0 (s.cluster cl).engine.acc (t * 16384 + l * 128 + j)).toNat
        (((g.map (fun row => row.map passRound)).getD l []).getD j 0)) := by
  rw [applyPass, engine_onEngine]
  dsimp only
  rw [hinj, checked83_none, get_mapTile _ t hl hj]

/-! ### The sums of a pass (R80, R188) -/

theorem getD_map_range {α : Type} (f : Nat → α) (d : α) {n x : Nat} (hx : x < n) : ((List.range n).map f).getD x d = f x := by
  rw [List.getD_eq_getElem?_getD, List.getElem?_map, List.getElem?_range hx]
  rfl

/-- The rounded sum at a place of the grid: that of its lines of A and B. -/
theorem getD_gridSums (bf : Bool) (A B : Nat → List FVal) {l j : Nat} (hl : l < 128) (hj : j < 128) :
    (((gridSums bf false ((List.range 128).map A) ((List.range 128).map B)).map (fun row => row.map passRound)).getD l []).getD j 0 =
      passRound (sumOf bf (List.zipWith (product false) (A l) (B j))) := by
  rw [gridSums, List.map_map, List.map_map, getD_map_range _ _ hl]
  simp only [Function.comp_apply, List.map_map]
  rw [getD_map_range _ _ hj]
  rfl

section
variable {s : State} {cl t : Nat} {a b : Option (Word × Word)} {ta tb_ : Nat} {w : Word} {i : Nat}

/-- Line `x` of an operand of a pass, its elements under their scales. -/
def passLine (s : State) (cl f bl sa : Nat) (p : Option (Word × Word)) (half i x : Nat) : List FVal :=
  scaledLine (s.cluster cl).engine f bl sa i x (lineIn s cl p half i x).bytes

theorem map_scaledLine (f bl sa : Nat) (p : Option (Word × Word)) (half : Nat) :
    (List.range 128).map (fun x => scaledLine (s.cluster cl).engine f bl sa i x
      ((((List.range 128).map (fun x => lineIn s cl p half i x)).map (fun l => l.bytes)).getD x [])) =
    (List.range 128).map (passLine s cl f bl sa p half i) := by
  refine List.map_congr_left fun x hx => ?_
  rw [List.map_map, getD_map_range _ _ (List.mem_range.mp hx)]
  rfl

/-- A pass whose operands and scales are sound adds the sums of its lines. -/
theorem mmaPass_sound {f : FmtB} (hf : f = fmtBOf w.toNat)
    (hok : ∀ x, x < 128 → (lineIn s cl a ta i x).ok = true ∧ (lineIn s cl b tb_ i x).ok = true ∧
      scalesBad (s.cluster cl).engine (scaleAddrs f.afmt f.abl f.asa i x) = false ∧
      scalesBad (s.cluster cl).engine (scaleAddrs f.bfmt f.bbl f.bsa i x) = false) :
    mmaPass s cl t a b ta tb_ w i = applyPass s cl t (gridSums (decide (f.afmt = 0)) false
      ((List.range 128).map (passLine s cl f.afmt f.abl f.asa a ta i)) ((List.range 128).map (passLine s cl f.bfmt f.bbl f.bsa b tb_ i))) := by
  subst hf
  unfold mmaPass
  extract_lets f e la lb ad va vb
  have hla : la.any (fun l => !l.ok) = false := List.any_eq_false.mpr fun y hy => by
    obtain ⟨x, hx, rfl⟩ := List.mem_map.mp hy
    rw [(hok x (List.mem_range.mp hx)).1]
    exact Bool.false_ne_true
  have hlb : lb.any (fun l => !l.ok) = false := List.any_eq_false.mpr fun y hy => by
    obtain ⟨x, hx, rfl⟩ := List.mem_map.mp hy
    rw [(hok x (List.mem_range.mp hx)).2.1]
    exact Bool.false_ne_true
  have had : scalesBad e ad = false := List.any_eq_false.mpr fun k hk => by
    obtain ⟨x, hx, hk⟩ := List.mem_flatMap.mp hk
    obtain ⟨-, -, hsa, hsb⟩ := hok x (List.mem_range.mp hx)
    exact (List.mem_append.mp hk).elim (List.any_eq_false.mp hsa k) (List.any_eq_false.mp hsb k)
  rw [hla, hlb, had, if_neg (by decide)]
  exact congrArg₂ (fun x y => applyPass s cl t (gridSums _ false x y)) (map_scaledLine _ _ _ a ta) (map_scaledLine _ _ _ b tb_)

end

end Sys2Proof.Machine

namespace Sys2Proof.Machine

/-! ## The arbiter of reservations (R193) -/

/-- A reservation is granted no later than another: its priority is higher, or it is equal and it has not come later. -/
def Resv.Before (r q : Resv) : Prop := q.prio < r.prio ∨ q.prio = r.prio ∧ r.arr ≤ q.arr

theorem Resv.Before.refl (r : Resv) : r.Before r := .inr ⟨rfl, Nat.le_refl _⟩

theorem Resv.Before.trans {p q r : Resv} (h : p.Before q) (h' : q.Before r) : p.Before r := by
  unfold Resv.Before at *
  omega

/-- One step of the arbiter: the candidate so far, or the next reservation. -/
def grantStep (acc : Option Resv) (r : Resv) : Option Resv :=
  match acc with
  | none => some r
  | some b => if b.prio < r.prio ∨ (b.prio = r.prio ∧ r.arr < b.arr) then some r else some b

theorem nextGrant_eq (e : Engine) (now obj : Nat) :
    nextGrant e now obj = (e.resv.filter (fun r => decide (r.obj = obj) && grantable e now r)).foldl grantStep none := rfl

theorem grantStep_some (acc : Option Resv) (x : Resv) :
    ∃ b, grantStep acc x = some b ∧ (b = x ∨ acc = some b) ∧ b.Before x ∧ ∀ a, acc = some a → b.Before a := by
  cases acc with
  | none => exact ⟨x, rfl, .inl rfl, .refl x, nofun⟩
  | some c =>
    unfold grantStep
    by_cases hlater : c.prio < x.prio ∨ c.prio = x.prio ∧ x.arr < c.arr
    · refine ⟨x, if_pos hlater, .inl rfl, .refl x, fun a ha => ?_⟩
      obtain rfl := Option.some.inj ha
      unfold Resv.Before
      omega
    · refine ⟨c, if_neg hlater, .inr rfl, ?_, fun a ha => ?_⟩
      · unfold Resv.Before
        omega
      · obtain rfl := Option.some.inj ha
        exact .refl c

/-- The arbiter's choice is one of the reservations, and before all of them. -/
theorem foldl_grantStep {l : List Resv} {acc : Option Resv} {r : Resv} (h : l.foldl grantStep acc = some r) :
    (r ∈ l ∨ acc = some r) ∧ (∀ q ∈ l, r.Before q) ∧ ∀ a, acc = some a → r.Before a := by
  induction l generalizing acc with
  | nil => exact ⟨.inr h, nofun, fun a ha => Option.some.inj (ha.symm.trans h) ▸ .refl a⟩
  | cons x t ih =>
    obtain ⟨b, hb, hfrom, hx, hacc⟩ := grantStep_some acc x
    obtain ⟨hmem, ht, hstep⟩ := ih h
    have hr : r.Before b := hstep b hb
    refine ⟨?_, fun q hq => ?_, fun a ha => hr.trans (hacc a ha)⟩
    · rcases hmem with hm | hm
      · exact .inl (List.mem_cons_of_mem x hm)
      · obtain rfl := Option.some.inj (hb.symm.trans hm)
        exact hfrom.imp_left fun he => List.mem_cons.mpr (.inl he)
    · rcases List.mem_cons.mp hq with rfl | hq
      · exact hr.trans hx
      · exact ht q hq

/-- The reservation that is granted can be, and is before every other of its object that can be. -/
theorem nextGrant_some {e : Engine} {now obj : Nat} {r : Resv} (h : nextGrant e now obj = some r) :
    r ∈ e.resv ∧ r.obj = obj ∧ grantable e now r = true ∧
      ∀ q ∈ e.resv, q.obj = obj → grantable e now q = true → r.Before q := by
  rw [nextGrant_eq] at h
  obtain ⟨hmem, hbest, -⟩ := foldl_grantStep h
  obtain ⟨hr, hcan⟩ := List.mem_filter.mp (hmem.resolve_right nofun)
  rw [Bool.and_eq_true, decide_eq_true_eq] at hcan
  refine ⟨hr, hcan.1, hcan.2, fun q hq hobj hgrant => hbest q (List.mem_filter.mpr ⟨hq, ?_⟩)⟩
  rw [Bool.and_eq_true, decide_eq_true_eq]
  exact ⟨hobj, hgrant⟩

theorem not_granted_of_grantable {e : Engine} {now : Nat} {r : Resv} (h : grantable e now r = true) : r.granted = false := by
  simp only [grantable, Bool.and_eq_true, Bool.not_eq_true'] at h
  exact h.1.1.1

theorem exec_reservationGrant_grants {s : State} {cl obj : Nat} {r : Resv} (h : nextGrant (s.cluster cl).engine s.clk.now obj = some r) :
    exec (.reservationGrant cl obj) s = .next (onEngine s cl (fun e => { e with
      resv := e.resv.map (fun (x : Resv) => if x.obj = r.obj ∧ x.arr = r.arr then { x with granted := true } else x) })) := by
  rw [exec_reservationGrant, execReservationGrant, h]

/-! ## Words in their turn (R180) -/

section
variable {s : State} {cl : Nat} {w : MWord} {r : List MWord}

/-- The oldest word, ready and with no line of lent memory to ask for, is performed once. -/
theorem exec_matrixWordPerform_ready (hq : (s.cluster cl).engine.queue = w :: r) (hready : wordReady s cl w = true)
    (hsnoop : wordSnoop s cl w = none) : exec (.matrixWordPerform cl) s =
      if w.done + 1 < w.kind.passes then
        .next (onEngine (perform (readDone s (engineWho cl)) cl w).1 cl (fun e => { e with
          queue := e.queue.map (fun (x : MWord) => if x.num = w.num then { x with done := x.done + 1 } else x) }))
      else .next (completeWord (perform (readDone s (engineWho cl)) cl w).1 cl w (perform (readDone s (engineWho cl)) cl w).2) := by
  rw [exec_matrixWordPerform, execMatrixWordPerform, hq]
  dsimp only
  rw [if_pos hready, hsnoop]

theorem perform_mzero {t : Nat} (h : w.kind = .mzero t) : (perform s cl w).1 = onEngine s cl (fun x => x.zeroTile t) := by
  rw [perform, h]

end

/-! ## The exact sum of finite products (R80 to R82) -/

/-- Once a value with `P` is at hand, a fold whose steps keep such a value ends with one. -/
theorem foldl_some_holds {α β : Type} {P : α → Prop} {f : Option α → β → Option α}
    (hkeep : ∀ x v, P x → ∃ y, f (some x) v = some y ∧ P y)
    (l : List β) {x : α} (hx : P x) : ∃ y, l.foldl f (some x) = some y ∧ P y := by
  induction l generalizing x with
  | nil => exact ⟨x, rfl, hx⟩
  | cons v t ih =>
    obtain ⟨y, hy, hP⟩ := hkeep x v hx
    rw [List.foldl_cons, hy]
    exact ih hP

/-- A fold over a list with an element that gives a value with `P` whatever was before it. -/
theorem foldl_holds_of_mem {α β : Type} {P : α → Prop} {f : Option α → β → Option α}
    (hkeep : ∀ x v, P x → ∃ y, f (some x) v = some y ∧ P y)
    {v : β} (hmeet : ∀ a, ∃ y, f a v = some y ∧ P y) {l : List β} (hv : v ∈ l) (a : Option α) :
    ∃ y, l.foldl f a = some y ∧ P y := by
  obtain ⟨l₁, l₂, rfl⟩ := List.append_of_mem hv
  obtain ⟨y, hy, hP⟩ := hmeet (l₁.foldl f a)
  rw [List.foldl_append, List.foldl_cons, hy]
  exact foldl_some_holds hkeep l₂ hP

/-- One step of the search for the smallest unit of the nonzero products. -/
def lowStep (acc : Option Int) (v : FVal) : Option Int :=
  match v with
  | .fin _ m e => if m = 0 then acc else (match acc with | some x => some (min x e) | none => some e)
  | _ => acc

theorem lowUnit_eq (l : List FVal) : lowUnit l = (l.foldl lowStep none).getD 0 := rfl

section
variable {l : List FVal} {s : Bool} {m : Nat} {e : Int} (hv : FVal.fin s m e ∈ l) (hm : m ≠ 0)
include hv hm

theorem topExp_some : ∃ x, topExp l = some x := by
  refine (foldl_holds_of_mem (P := fun _ => True) (fun x v _ => ?_) (fun a => ?_) hv none).imp fun _ h => h.1
  · rcases v with _ | _ | ⟨_, n, _⟩
    · exact ⟨x, rfl, trivial⟩
    · exact ⟨x, rfl, trivial⟩
    · by_cases hn : n = 0
      · exact ⟨x, if_pos hn, trivial⟩
      · exact ⟨_, if_neg hn, trivial⟩
  · cases a <;> exact ⟨_, if_neg hm, trivial⟩

/-- The unit of the sum is no larger than that of any nonzero product. -/
theorem lowUnit_le : lowUnit l ≤ e := by
  suffices h : ∃ x, l.foldl lowStep none = some x ∧ x ≤ e by
    obtain ⟨x, hx, hle⟩ := h
    rw [lowUnit_eq, hx]
    exact hle
  refine foldl_holds_of_mem (fun x v hle => ?_) (fun a => ?_) hv none
  · rcases v with _ | _ | ⟨_, n, k⟩
    · exact ⟨x, rfl, hle⟩
    · exact ⟨x, rfl, hle⟩
    · by_cases hn : n = 0
      · exact ⟨x, if_pos hn, hle⟩
      · exact ⟨min x k, if_neg hn, (min_le_left x k).trans hle⟩
  · cases a with
    | none => exact ⟨e, if_neg hm, le_refl e⟩
    | some x => exact ⟨min x e, if_neg hm, min_le_right x e⟩

end

/-- A number in units that are no larger than its own loses no bit. -/
theorem unitsOf_num {v : FVal} {q : Rat} {u : Int} (hv : v.num = some q) (hu : ∀ s m e, v = .fin s m e → m ≠ 0 → u ≤ e) :
    ∃ k : Int, unitsOf u v = (k, false) ∧ (k : Rat) * 2 ^ u = q := by
  obtain ⟨s, m, e, rfl, rfl⟩ := num_eq_some hv
  by_cases h : u ≤ e
  · exact ⟨_, if_pos h, sgnInt_zpow h s m⟩
  · obtain rfl : m = 0 := by
      by_contra hm
      exact h (hu s m e rfl hm)
    refine ⟨0, (if_neg h).trans ?_, by simp⟩
    cases s <;> simp [sgnInt]

/-- The units of a list of numbers add up to their sum. -/
theorem foldl_unitsOf {l : List FVal} {qs : List Rat} {u : Int} (hl : l.map FVal.num = qs.map some)
    (hu : ∀ s m e, FVal.fin s m e ∈ l → m ≠ 0 → u ≤ e) (c : Int) : ∃ k : Int,
      l.foldl (fun (acc : Int × Bool) v => let x := unitsOf u v; (acc.1 + x.1, acc.2 || x.2)) (c, false) = (c + k, false) ∧
        (k : Rat) * 2 ^ u = qs.sum := by
  induction l generalizing qs c with
  | nil =>
    obtain rfl : qs = [] := List.map_eq_nil_iff.mp hl.symm
    exact ⟨0, by rw [add_zero]; rfl, by simp⟩
  | cons v t ih =>
    obtain _ | ⟨q, qt⟩ := qs
    · exact nomatch hl
    · obtain ⟨hv, ht⟩ := List.cons.inj hl
      obtain ⟨k, hk, hkq⟩ := unitsOf_num hv fun s m e hfin => hu s m e (hfin ▸ List.mem_cons_self)
      obtain ⟨n, hn, hnq⟩ := ih ht (fun s m e hmem => hu s m e (List.mem_cons_of_mem v hmem)) (c + k)
      refine ⟨k + n, ?_, ?_⟩
      · rw [List.foldl_cons, hk]
        exact hn.trans (by rw [add_assoc])
      · rw [Int.cast_add, add_mul, hkq, hnq, List.sum_cons]

theorem product_num {a b : FVal} {p q : Rat} (ha : a.num = some p) (hb : b.num = some q) :
    (product false a b).num = some (p * q) :=
  (fmul_gives ha hb).1

theorem zipWith_product_num {a b : List FVal} {xs ys : List Rat} (ha : a.map FVal.num = xs.map some) (hb : b.map FVal.num = ys.map some) :
    (List.zipWith (product false) a b).map FVal.num = (List.zipWith (· * ·) xs ys).map some := by
  induction a generalizing xs b ys with
  | nil =>
    obtain rfl : xs = [] := List.map_eq_nil_iff.mp ha.symm
    rfl
  | cons v t ih =>
    obtain _ | ⟨x, xt⟩ := xs
    · exact nomatch ha
    · obtain _ | ⟨y, yt⟩ := ys
      · obtain rfl : b = [] := List.map_eq_nil_iff.mp hb
        rfl
      · obtain _ | ⟨z, zt⟩ := b
        · exact nomatch hb
        · obtain ⟨hv, ht⟩ := List.cons.inj ha
          obtain ⟨hz, hzt⟩ := List.cons.inj hb
          exact congrArg₂ List.cons (product_num hv hz) (ih ht hzt)

section
variable {l : List FVal} {qs : List Rat} (hl : l.map FVal.num = qs.map some)
include hl

theorem num_of_mem {v : FVal} (hv : v ∈ l) : ∃ q, v.num = some q := by
  obtain ⟨q, -, hq⟩ := List.mem_map.mp (hl ▸ List.mem_map_of_mem hv)
  exact ⟨q, hq.symm⟩

/-- Numbers whose sum is not zero are not all zero. -/
theorem nonzero_of_sum (h0 : qs.sum ≠ 0) : ∃ s m e, FVal.fin s m e ∈ l ∧ m ≠ 0 := by
  obtain ⟨q, hq, hq0⟩ : ∃ q ∈ qs, q ≠ 0 := by
    by_contra hall
    push Not at hall
    exact h0 (List.sum_eq_zero hall)
  obtain ⟨v, hv, hvq⟩ := List.mem_map.mp (hl ▸ List.mem_map_of_mem hq)
  obtain ⟨s, m, e, rfl, rfl⟩ := num_eq_some hvq
  refine ⟨s, m, e, hv, fun hm => hq0 ?_⟩
  rw [hm, Nat.cast_zero, mul_zero, zero_mul]

/-- The sum of finite products in a format other than BF16 is exact. -/
theorem sumOf_exact (h0 : qs.sum ≠ 0) : ∃ c u p st, sumOf false l = .exact c u false p st ∧ (c : Rat) * 2 ^ u = qs.sum := by
  obtain ⟨s, m, e, hmem, hm⟩ := nonzero_of_sum hl h0
  obtain ⟨x, hx⟩ := topExp_some hmem hm
  obtain ⟨c, hc, hsum⟩ := foldl_unitsOf hl (fun _ _ _ hv hn => lowUnit_le hv hn) 0
  have hnan : l.any FVal.isNan = false := List.any_eq_false.mpr fun v hv => by
    obtain ⟨q, hq⟩ := num_of_mem hl hv
    obtain ⟨_, _, _, rfl, -⟩ := num_eq_some hq
    exact Bool.false_ne_true
  have hinf (neg : Bool) : l.any (fun v => decide (v = .inf neg)) = false := List.any_eq_false.mpr fun v hv => by
    obtain ⟨q, hq⟩ := num_of_mem hl hv
    obtain ⟨_, _, _, rfl, -⟩ := num_eq_some hq
    simp
  rw [zero_add] at hc
  refine ⟨c, lowUnit l, l.any isPlus0, x - 71, ?_, hsum⟩
  unfold sumOf
  simp only [hnan, hinf, hx, Bool.false_eq_true, Bool.and_self, if_false]
  rw [hc]

end

/-- A sum without a lost bit, and not zero, is rounded as FP32 encodes it. -/
theorem passRound_exact {c u st : Int} {p : Bool} (hc : c ≠ 0) :
    passRound (.exact c u false p st) = (Fmt.f32.encode .rne false false (.fin (decide (c < 0)) c.natAbs u)).1 := by
  rw [passRound, if_neg hc]
  rfl

theorem passRound_num {l : List FVal} {qs : List Rat} (hl : l.map FVal.num = qs.map some) {r : Nat} (hr : r < 2 ^ 32)
    (hq : Fmt.num .f32 r = some qs.sum) (h0 : qs.sum ≠ 0) : passRound (sumOf false l) = r := by
  obtain ⟨c, u, p, st, hs, hsum⟩ := sumOf_exact hl h0
  have hc : c ≠ 0 := by
    rintro rfl
    exact h0 (by rw [← hsum, Int.cast_zero, zero_mul])
  have hnum : (FVal.fin (decide (c < 0)) c.natAbs u).num = some qs.sum := by rw [num_fin, signRat_natAbs, hsum]
  rw [hs, passRound_exact hc, encode_num (by decide) hr hq h0 hnum]

end Sys2Proof.Machine

section
open Sys2Proof Sys2Proof.Machine

/-- Settles O36: a word is performed by `perform`, a grant is the choice of `nextGrant`, and a pass adds its rounded sums
(`get_applyPass`), which are exact where FP32 has the exact dot product (`passRound_num`). -/
theorem matrixTurns : Obligations.MatrixTurns := by
  unfold Obligations.MatrixTurns
  refine ⟨⟨?turn, ?grant⟩, ?pass, ?sum⟩
  case turn =>
    intro s cl w r hq hready hsnoop s1
    have hexec := exec_matrixWordPerform_ready hq hready hsnoop
    refine ⟨fun hmore => hexec.trans (if_pos hmore), fun hlast => hexec.trans (if_neg (Nat.not_lt.mpr hlast)), fun t hkind => ?_⟩
    rw [perform_mzero hkind, engine_onEngine]
    exact ⟨fun l j hl hj => get_zeroTile _ t hl hj, contains_setDel _ t, readDone_keeps State.mem (fun _ _ => rfl) s _⟩
  case grant =>
    intro s cl obj r h
    obtain ⟨hmem, hobj, hcan, hbest⟩ := nextGrant_some h
    refine ⟨_, exec_reservationGrant_grants h, hmem, hobj, not_granted_of_grantable hcan, hbest, ?_⟩
    rw [engine_onEngine]
  case pass =>
    intro s cl t a b ta tb w i e f A B hok hinj l j hl hj
    rw [mmaPass_sound rfl hok, get_applyPass s cl t _ hinj hl hj, getD_gridSums _ _ _ hl hj]
    rfl
  case sum => exact fun a b xs ys r ha hb hr hq h0 => passRound_num (zipWith_product_num ha hb) hr hq h0

end
